-- ==== Sys2Proof/Word.lean ====
section
/-! DEFINITION. The word types of the module and the plain records that commands carry. -/

namespace Sys2Proof

/-- One byte. -/
abbrev Byte := BitVec 8
/-- A register (00 R5: every register is 32 bits wide). -/
abbrev Word := BitVec 32
/-- A 64-bit quantity: a peg, a count, a register pair (00 R5). -/
abbrev DWord := BitVec 64
/-- A descriptor slot of a command ring: 64 bytes, byte 0 lowest (01 R34). -/
abbrev Slot := BitVec 512
/-- A SHAKE256 digest of 512 bits (13 R423). -/
abbrev Digest := BitVec 512

/-- The reset kinds of 00 R7 above a partition reset, in the table's order. -/
inductive ResetKind where
  | cold | warm | command
  deriving DecidableEq, Repr

/-- The causes of an input shutdown (15 R465), with their FAULT bits of 15 R482. -/
inductive InputFault where
  | undervoltage | overvoltage | overcurrent | rail
  deriving DecidableEq, Repr

/-- A generational table of 06 R195 and 09 R311: the pattern table of a partition, the envelope tree or the
recall set of a layer and KV head of a region, an index. -/
inductive GenTable where
  | pattern (p : Fin 8)
  | tree (p : Fin 8) (obj layer head : Nat)
  | recall (p : Fin 8) (obj layer head : Nat)
  | index (p : Fin 8) (obj : Nat)
  deriving DecidableEq, Repr

/-- A link frame (12 R383), less its CRC: the fields of its header and its payload. -/
structure Frame where
  vc : Fin 4
  typ : Fin 16
  linkSeq : BitVec 16
  dest : BitVec 12
  src : BitVec 12
  window : Byte
  offset : BitVec 44
  pairSeq : BitVec 16
  key : DWord
  soil : DWord
  /-- For a read request, the bytes asked for; the frame itself then carries no payload. -/
  want : Nat
  /-- The number of the remote operation that the frame belongs to at its source (the spec leaves the encoding open). -/
  op : Nat
  payload : List Byte
  deriving DecidableEq, Repr

/-- What one member sends of its source for a collective (07 R223, R246): the bytes and the soil of each 64 of them. -/
structure Contribution where
  data : List Byte
  soil : List Bool
  deriving DecidableEq, Repr

/-- What every frame of a group's operation carries of the group (07 R211, R229): its id and epoch, and the indices of the members that
send and receive it (the spec leaves the encoding open). -/
structure CeHead where
  gid : BitVec 16
  epoch : Word
  sender : Nat
  target : Nat
  deriving DecidableEq, Repr

/-- Bytes of a Spin or a collective on their way to a member (07 R212, R218, R219, R228). `dir`: 0 the forward ring, 1 the backward
ring, 2 chunk `index` of a collective's destination with its final bytes, 3 a log-depth round. `env`: envelopes (07 R219). `phase`: of
a SUM, 0 block exponents, 1 integers or values. `step`: the step or the round; `index`: the chunk or the segment. -/
structure Chunk where
  dir : Fin 4
  env : Bool
  phase : Fin 2
  step : Nat
  index : Nat
  data : List Byte
  soil : List Bool
  deriving DecidableEq, Repr

/-- What a frame of the collective engine carries beside its header (07 R208, R212, R220, R229). -/
inductive CeBody where
  /-- A join frame with the partition that it comes from and the list hash. -/
  | join (part : Fin 8) (gid : BitVec 16) (epoch : Word) (hash : BitVec 128)
  /-- The first frame of the operation with a collective index, with its signature. -/
  | first (h : CeHead) (index : Nat) (sig : Word)
  /-- A chunk. -/
  | chunk (h : CeHead) (ch : Chunk)
  /-- The grant of a Spin's slot for a step of a direction. -/
  | grant (h : CeHead) (dir : Fin 2) (step : Nat)
  deriving DecidableEq, Repr

/-- The two ends of a slot grant (07 R220): the member in this module's group slot g gives it; it arrives on a port. -/
inductive GrantEnd where
  | give (g : Fin 64)
  | take (pt : Fin 16) (fr : Frame) (h : CeHead)
  deriving DecidableEq, Repr

/-- What names a group (07 R208): its id and its epoch. -/
structure GroupName where
  gid : BitVec 16
  epoch : Word
  deriving DecidableEq, Repr

/-- A chunk's frame and the port that it arrives on (07 R212). -/
structure ChunkFrame where
  pt : Fin 16
  fr : Frame
  head : CeHead
  chunk : Chunk
  deriving DecidableEq, Repr

/-- What a page's read from Deep shows (08 R282): the tiles that LDPC and parity could not recover, and how many of its flash pages were
rebuilt from their stripes. -/
structure PageRead where
  lost : List Nat
  rebuilt : Nat
  deriving DecidableEq, Repr

/-- Uncorrectable errors that the SRAM scrub meets beside core buffers (08 R280): slots (core, array, column, row), units of the shared
pool; errors in function tables and programs (04 R130): core, function (128 + k: program slot k), uncorrectable or not. -/
structure ScrubErrors where
  slots : List (Fin 64 × Fin 4 × Nat × Nat)
  pool : List Nat
  tables : List (Fin 64 × Fin 256 × Bool)
  deriving DecidableEq, Repr

/-- What a flash page's read shows (09 R317, 08 R282): LDPC and parity failed; it was rebuilt from its stripe; the contexts of its channel,
by descriptor and query, whose memory is uncorrectable. -/
structure FlashRead where
  lost : Bool
  rebuilt : Bool
  ue : List (Nat × Nat)
  deriving DecidableEq, Repr

/-- The carrier that firmware brings up (09 R321, 14 R457): its spare blocks in tenths of a percent; a new one since the boot before. -/
structure Carrier where
  spare : BitVec 10
  fresh : Bool
  deriving DecidableEq, Repr

/-- How HBM training ends (13 R420, 08 R293): bit s set: stack Hs failed; the spare rows of each stack. -/
structure Training where
  failed : BitVec 12
  spares : List (BitVec 8)
  deriving DecidableEq, Repr

/-- What a garbage collection leaves (09 R296): the spare blocks in tenths of a percent, the pages that it rebuilt and relocated, and by
channel the flash pages read beside those of Sort units, and the pages written, since the collection before. -/
structure Collected where
  spare : BitVec 10
  rebuilt : Nat
  flash : List (Fin 32 × Nat × Nat)
  deriving DecidableEq, Repr

/-- A notice of 07 R230, R232 or R234: group id, epoch, collective index, the module that it names, its time (14 R454). -/
structure Notice where
  gid : BitVec 16
  epoch : Word
  index : Nat
  module : BitVec 12
  ta : DWord
  deriving DecidableEq, Repr

/-- What a sync frame pair yields and carries (14 R435): four stamps in 1/64 ns, the partner's advertisement. -/
structure Sync where
  t1 : Int
  t2 : Int
  t3 : Int
  t4 : Int
  asym : Int
  root : BitVec 12
  hops : Nat
  bound : Nat
  locked : Bool
  running : Bool
  deriving DecidableEq, Repr

/-- One sample of the power firmware (15 R468, R473, R474): input in 10 mV, 10 mA and W, the temperatures of TC_TEMP and
of the HBM stacks in degrees, the rates of the ten rails in M steps/s; `window`: the sample ends a 1 ms window, whose
average input power `watts` is. Since the sample before: what counters 1,488 to 1,500 measure in whole mJ, and the handshakes of each
die's delay monitor (14 R440). -/
structure PowerSample where
  vin : BitVec 16
  iin : BitVec 16
  watts : Nat
  window : Bool
  temps : List Int
  stackTemps : List Int
  rates : List Nat
  energies : List Nat
  monitors : List Nat
  deriving DecidableEq, Repr

/-- What Fray measures of a unit (14 R448): the loss of a compute die's handshake rate or the rise of a port's laser bias in millionths of
the fresh value; of a stack the spare rows used, of the `all` that it has. -/
structure FrayMeasure where
  unit : Fin 36
  loss : Nat
  all : Nat
  deriving DecidableEq, Repr

end Sys2Proof
end

