-- ==== Sys2Proof/Syntax.lean ====
section
/-! DEFINITION. The commands of the block: one constructor per row of spec/opcode_table.json, in the table's order.
Operand conventions: `p` a partition, `f` a function (0 the PF, k the VFk), `n` a module-wide ring, `id` the number of a
descriptor in flight, `c` a core, `a` an array of a core, `d` a die, `st` a stack, `pt` a port, `g` a group slot, `v` a written
register value. A row of a descriptor acts for the descriptor `id`; further operands say what the outside answered. -/

namespace Sys2Proof

/-- The commands (95: each row whole and indivisible). -/
inductive Instr where
  /-- R6: function f writes v at BAR0 offset off. -/
  | registerWrite (f : Fin 9) (off : Word) (v : Word)
  /-- R19: the PF writes v to HP_PART_CFG(p). -/
  | partCfgWrite (p : Fin 8) (v : Word)
  /-- R20: a write of v, with SUSPEND = 1, to HP_PART_CTRL(p). -/
  | partSuspend (p : Fin 8) (v : Word)
  /-- R20: a write of v, with SUSPEND = 0, to HP_PART_CTRL(p). -/
  | partResume (p : Fin 8) (v : Word)
  /-- R20: a write to HP_PART_CTRL(p) that sets FLUSH and leaves the other fields. -/
  | partFlush (p : Fin 8)
  /-- R20: the flush held for partition p is performed. -/
  | partHeldFlush (p : Fin 8)
  /-- R26: f writes v, with ENABLE = 1, to HP_RING_CTRL(n). -/
  | ringEnable (f : Fin 9) (n : Fin 512) (v : Word)
  /-- R27: f writes v, with ENABLE = 0, to HP_RING_CTRL(n). -/
  | ringDisable (f : Fin 9) (n : Fin 512) (v : Word)
  /-- R28: f writes v to the command-tail doorbell of page `page` of its BAR2. -/
  | hpDbCmdTail (f : Fin 9) (page : Fin 512) (v : Word)
  /-- R28: f writes v to the completion-head doorbell of page `page` of its BAR2. -/
  | hpDbCplHead (f : Fin 9) (page : Fin 512) (v : Word)
  /-- R40: f writes v to ADD of peg i of partition p. -/
  | pegWindowAdd (f : Fin 9) (p : Fin 8) (i : Fin 4096) (v : Word)
  /-- R45: f clears the mask of its MSI-X vector vec. -/
  | msixUnmask (f : Fin 9) (vec : Fin 512)
  /-- R30: the fetch unit reads the next slot, and the host answers `slot`. -/
  | descriptorFetch (slot : Slot)
  /-- R33: the read of the next slot fails. -/
  | descriptorFetchFail
  /-- R31: the next descriptor of ring n is checked and begun. -/
  | descriptorBegin (n : Fin 512)
  /-- R43: descriptor id completes. -/
  | descriptorComplete (id : Nat)
  /-- R44: the oldest held completion of ring n is written. -/
  | heldCompletionWrite (n : Fin 512)
  /-- R45: the coalescing time of ring n has passed. -/
  | coalTimeExpire (n : Fin 512)
  /-- R41 -/
  | nop (id : Nat)
  /-- R41 -/
  | pegAdd (id : Nat)
  /-- R41 -/
  | pegSet (id : Nat)
  /-- R41 -/
  | hostWrite (id : Nat)
  /-- R366 -/
  | tpLoad (id : Nat)
  /-- R367 -/
  | tpUnload (id : Nat)
  /-- R368 -/
  | tpRun (id : Nat)
  /-- R375 -/
  | ticketRead (id : Nat)
  /-- R375 -/
  | ticketReset (id : Nat)
  /-- R371: core c draws from ticket counter k of partition p. -/
  | ticketDraw (p : Fin 8) (k : Fin 256) (c : Fin 64)
  /-- R373: core c's completion of ticket t, drawn with generation gen, reaches counter k of partition p. -/
  | ticketComplete (p : Fin 8) (k : Fin 256) (c : Fin 64) (t : Nat) (gen : BitVec 16)
  /-- R403 -/
  | windowOpen (id : Nat)
  /-- R403 -/
  | windowClose (id : Nat)
  /-- R404 -/
  | remoteWrite (id : Nat)
  /-- R404 -/
  | remoteRead (id : Nat)
  /-- R428: `plan`: what the host read returned, none if it failed. -/
  | planLoad (id : Nat) (plan : Option (List Byte))
  /-- R424 -/
  | attest (id : Nat)
  /-- R85 -/
  | hold (id : Nat)
  /-- R83 -/
  | product (id : Nat)
  /-- R90: array a of core c issues its next product. -/
  | productIssue (c : Fin 64) (a : Fin 4)
  /-- R90: the oldest product in flight on array a of core c lands. -/
  | productLanding (c : Fin 64) (a : Fin 4)
  /-- R100 -/
  | drain (id : Nat)
  /-- R94 -/
  | drySpin (id : Nat)
  /-- R93: array a of core c takes its next step of a dry-spin ramp. -/
  | dryspinRampStep (c : Fin 64) (a : Fin 4)
  /-- R95 -/
  | needle (id : Nat)
  /-- R109 -/
  | apply (id : Nat)
  /-- R115 -/
  | gate (id : Nat)
  /-- R116 -/
  | stats (id : Nat)
  /-- R117 -/
  | norm (id : Nat)
  /-- R118 -/
  | softmax (id : Nat)
  /-- R123 -/
  | loadProgram (id : Nat)
  /-- R125 -/
  | unloadProgram (id : Nat)
  /-- R141 -/
  | press (id : Nat)
  /-- R153 -/
  | decodeBatch (id : Nat)
  /-- R154 -/
  | pressBackward (id : Nat)
  /-- R144 -/
  | finish (id : Nat)
  /-- R157 -/
  | pleat (id : Nat)
  /-- R140 -/
  | bound (id : Nat)
  /-- R156 -/
  | pressGradDrain (id : Nat)
  /-- R170 -/
  | kvCreate (id : Nat)
  /-- R175 -/
  | kvAppend (id : Nat)
  /-- R175: the running append id completes. -/
  | kvAppendComplete (id : Nat)
  /-- R180 -/
  | kvTruncate (id : Nat)
  /-- R489 -/
  | kvFree (id : Nat)
  /-- R183 -/
  | kvAttach (id : Nat)
  /-- R184 -/
  | kvPublish (id : Nat)
  /-- R191 -/
  | recallBound (id : Nat)
  /-- R192 -/
  | recallSelect (id : Nat)
  /-- R193 -/
  | recallClose (id : Nat)
  /-- R195 -/
  | patternRebuild (id : Nat)
  /-- R195: the shadow of the table becomes current. -/
  | generationSwitch (t : GenTable)
  /-- R195: the draining generation of the table is freed. -/
  | generationDrained (t : GenTable)
  /-- R253 -/
  | objCreate (id : Nat)
  /-- R489 -/
  | objFree (id : Nat)
  /-- R254 -/
  | objPolicy (id : Nat)
  /-- R272 -/
  | prefetch (id : Nat)
  /-- R272 -/
  | release (id : Nat)
  /-- R272 -/
  | writeBack (id : Nat)
  /-- R272 -/
  | evict (id : Nat)
  /-- R275 -/
  | checkpoint (id : Nat)
  /-- R278 -/
  | restore (id : Nat)
  /-- R279 -/
  | checkpointDrop (id : Nat)
  /-- R279 -/
  | catalog (id : Nat)
  /-- R284 -/
  | keyLoad (id : Nat)
  /-- R286 -/
  | query (id : Nat)
  /-- R273: TM resolves the tier fault on the page of address va of partition p, or finds that it cannot. -/
  | tierFaultResolved (p : Fin 8) (va : Nat)
  /-- R262: TM evicts the next page, of partition p where its quota binds, of any partition under module-wide spill. -/
  | spillEvict (p : Option (Fin 8))
  /-- R265: the page of address va arrives in Tier 1. -/
  | pageFetchDone (p : Fin 8) (va : Nat) (x : PageRead)
  /-- R270: the frame of the tile at address va and its tile map are written. -/
  | frameWriteDone (p : Fin 8) (va : Nat)
  /-- R280: a patrol scrub pass of stack s finds `ce` corrected sectors and uncorrectable sectors at the physical addresses `ue`;
  `late`: the pass overran its period. -/
  | hbmPatrolScrub (st : Fin 12) (ce : Nat) (ue : List DWord) (late : Bool)
  /-- R280: the hourly scrub of die d's SRAM finds `ce` corrected sectors, some of them in the accumulator memories of the cores
  `cores`, uncorrectable 64-byte units of core buffers (core, unit), and other errors. -/
  | sramScrub (d : Fin 8) (ce : Nat) (cores : List (Fin 64)) (units : List (Fin 64 × Nat)) (x : ScrubErrors)
  /-- R258: the PF writes v to SC_POOL_CFG(d). -/
  | scPoolCfgWrite (d : Fin 8) (v : Word)
  /-- R258: the new split of die d's pool applies. -/
  | poolSplitDone (d : Fin 8)
  /-- R208 -/
  | groupCreate (id : Nat)
  /-- R210 -/
  | groupDestroy (id : Nat)
  /-- R217 -/
  | spin (id : Nat)
  /-- R223: `srcs`: what each member supplies, in index order (the own entry is read from memory). -/
  | allReduce (id : Nat) (srcs : List Contribution)
  /-- R223 -/
  | reduce (id : Nat) (srcs : List Contribution)
  /-- R223 -/
  | reduceScatter (id : Nat) (srcs : List Contribution)
  /-- R223 -/
  | allGather (id : Nat) (srcs : List Contribution)
  /-- R223 -/
  | broadcast (id : Nat) (srcs : List Contribution)
  /-- R226 -/
  | seqReduce (id : Nat) (srcs : List Contribution)
  /-- R223 -/
  | barrier (id : Nat)
  /-- R213 -/
  | remotePegAdd (id : Nat)
  /-- R208: a join frame of the member in partition q of the source module, of the group gid, epoch, arrives on port pt. -/
  | joinFrameReceive (pt : Fin 16) (fr : Frame) (q : Fin 8) (g : GroupName) (hash : BitVec 128)
  /-- R230: the first frame of collective `index` from a member arrives on port pt with its signature. -/
  | collFirstFrame (pt : Fin 16) (fr : Frame) (h : CeHead) (index : Nat) (sig : Word)
  /-- R212: a chunk arrives whole on a port. -/
  | chunkArrival (x : ChunkFrame)
  /-- R220: this module grants its slot for a step of a direction upstream, or is granted one. -/
  | spinSlotGrant (x : GrantEnd) (dir : Fin 2) (step : Nat)
  /-- R230: broadcast `num` of module `origin`, a mismatch notice. -/
  | mismatchNotice (pt : Fin 16) (origin : BitVec 12) (num : Word) (x : Notice)
  /-- R232: broadcast `num` of module `origin`, a timeout notice. -/
  | timeoutNotice (pt : Fin 16) (origin : BitVec 12) (num : Word) (x : Notice)
  /-- R234: broadcast `num` of module `origin`, a lost notice. -/
  | lostNotice (pt : Fin 16) (origin : BitVec 12) (num : Word) (x : Notice)
  /-- R232 -/
  | groupWatchdogExpire (g : Fin 64)
  /-- R231: lag window w (the w-th of Stitch time) ends. -/
  | lagWindowEnd (w : Nat)
  /-- R297 -/
  | idxCreate (id : Nat)
  /-- R489 -/
  | idxFree (id : Nat)
  /-- R303 -/
  | insert (id : Nat)
  /-- R304 -/
  | delete (id : Nat)
  /-- R306 -/
  | search (id : Nat)
  /-- R311 -/
  | merge (id : Nat)
  /-- R295: the next requested page of channel ch arrives; `x`: what its read shows. -/
  | sortPageArrival (ch : Fin 32) (x : FlashRead)
  /-- R321: firmware brings the carrier up with these controllers ready. -/
  | carrierReady (controllers : BitVec 4) (x : Carrier)
  /-- R318: the carrier (`removed`) or its link fails. -/
  | carrierLinkFail (removed : Bool)
  /-- R325 -/
  | arm (id : Nat)
  /-- R335 -/
  | swap (id : Nat)
  /-- R336 -/
  | halfReset (id : Nat)
  /-- R328: engine e (0-63 core, 64-71 die, 72 hub) issues its next transfer. -/
  | transferIssue (e : Fin 73)
  /-- R326: transfer number k of queue q's issued transfers lands; `host`: the bytes a host read returned, `poison`: poisoned. -/
  | transferLanded (q : Fin 1344) (k : Nat) (host : List Byte) (poison : Bool)
  /-- R330: the transfer that queue q holds for a merge is issued alone. -/
  | mergeHoldExpire (q : Fin 1344)
  /-- R443 -/
  | snapshot (id : Nat)
  /-- R443: snapshot slot k latches. -/
  | snapshotLatch (k : Fin 4)
  /-- R443 -/
  | snapshotRead (id : Nat)
  /-- R442 -/
  | tagDrain (id : Nat)
  /-- R454 -/
  | jobAbort (id : Nat)
  /-- R471 -/
  | powerCap (id : Nat)
  /-- R451 -/
  | retireCore (id : Nat)
  /-- R451 -/
  | retireThimble (id : Nat)
  /-- R451: `spares`: the spare rows that the stack has left; `took`: the repair took; `pages`: the pages (partition, address) that
  lay on the row. -/
  | hbmRow (id : Nat) (spares : Nat) (took : Bool) (pages : List (Fin 8 × Nat))
  /-- R451: `spares`: the redundant rows that the die has left; `took`: the repair took. -/
  | sramRemap (id : Nat) (spares : Nat) (took : Bool)
  /-- R451: `took`: the repair took. -/
  | flashBlock (id : Nat) (took : Bool)
  /-- R451 -/
  | retireLane (id : Nat)
  /-- R441: the PF writes v to OB_TAG_CFG. -/
  | obTagCfgWrite (v : Word)
  /-- R447: the PF writes CLEAR to OB_STAIN_LOG_CTRL. -/
  | stainLogClear
  /-- R448: the hourly evaluation, with what was measured. -/
  | frayEvaluate (ms : List FrayMeasure)
  /-- R450 -/
  | frayHistoryWrite
  /-- R390: DISABLE of port pt is set. -/
  | portDisable (pt : Fin 16)
  /-- R393: DISABLE of port pt is cleared. -/
  | portEnable (pt : Fin 16)
  /-- R399: QUARANTINE of port pt is written 1. -/
  | portQuarantine (pt : Fin 16)
  /-- R400: RELEASE of port pt is written 1. -/
  | portRelease (pt : Fin 16)
  /-- R381: light reaches port pt. -/
  | lightReceived (pt : Fin 16)
  /-- R381: training of port pt ends with these good lanes received and sent. -/
  | trainingComplete (pt : Fin 16) (rx tx : BitVec 18)
  /-- R381 -/
  | trainingRetry (pt : Fin 16)
  /-- R395: the partner's hello arrives at port pt. -/
  | hello (pt : Fin 16) (m : BitVec 12) (port : Fin 16) (nonce : BitVec 256) (key : BitVec 512)
  /-- R395: the partner's transcript signature arrives. -/
  | authSignature (pt : Fin 16) (sig : List Byte)
  /-- R389: receive lane ln of port pt loses light. -/
  | lossOfLight (pt : Fin 16) (ln : Fin 18)
  /-- R389: receive lane ln of port pt exceeds the error rate. -/
  | laneBerFail (pt : Fin 16) (ln : Fin 18)
  /-- R389: port pt runs on its new lane set. -/
  | laneChangeDone (pt : Fin 16)
  /-- R390 -/
  | portSilenceTimeout (pt : Fin 16)
  /-- R390 -/
  | idleFrameTimer (pt : Fin 16)
  /-- R388 -/
  | linkAckTimer (pt : Fin 16)
  /-- R387 -/
  | creditReturnTimer (pt : Fin 16)
  /-- R388: a cumulative acknowledgement up to and including seq. -/
  | linkAck (pt : Fin 16) (seq : BitVec 16)
  /-- R388: a negative acknowledgement naming seq as expected. -/
  | linkNak (pt : Fin 16) (seq : BitVec 16)
  /-- R387: k credits of VC vc return. -/
  | creditReturn (pt : Fin 16) (vc : Fin 4) (k : Nat)
  /-- R388: a received frame fails its CRC; the decoder found `corrected` and `bad` codewords. -/
  | frameCrcFail (pt : Fin 16) (corrected bad : Nat)
  /-- R397 -/
  | frameWrite (pt : Fin 16) (fr : Frame)
  /-- R397 -/
  | frameReadRequest (pt : Fin 16) (fr : Frame)
  /-- R404 -/
  | frameReadResponse (pt : Fin 16) (fr : Frame)
  /-- R404: a refusal with the code of R397. -/
  | frameRefusal (pt : Fin 16) (fr : Frame) (code : Byte)
  /-- R404 -/
  | frameAcknowledgement (pt : Fin 16) (fr : Frame)
  /-- R213: a peg addition of `v` for the group gid, epoch arrives. -/
  | remotePegAddFrame (pt : Fin 16) (fr : Frame) (gid : BitVec 16) (epoch : Word) (v : DWord)
  /-- R455 -/
  | jobListReceive (pt : Fin 16) (jobs : List Word)
  /-- R456: broadcast `num` of module `origin`, an abort of job j at ta. -/
  | jobAbortReceive (pt : Fin 16) (origin : BitVec 12) (num : Word) (j : Word) (ta : DWord) (cause : Fin 16)
  /-- R444: broadcast `num` of module `origin`, a snapshot trigger. -/
  | snapshotTrigger (pt : Fin 16) (origin : BitVec 12) (num : Word) (t : DWord) (sid : BitVec 16)
  /-- R470: broadcast `num` of module `origin`, a cap. -/
  | powerCapBroadcast (pt : Fin 16) (origin : BitVec 12) (num : Word) (cap : Nat) (t : DWord)
  /-- R435 -/
  | syncPairTimer (pt : Fin 16)
  /-- R436 -/
  | syncFrame (pt : Fin 16) (y : Sync)
  /-- R436: the advertisement of port pt is 3 ms old. -/
  | advertExpire (pt : Fin 16)
  /-- R431: the module locks to the machine's time, `t` now. -/
  | stitchLock (t : DWord)
  /-- R431 -/
  | joinTimeout
  /-- R7: 54 V is applied or PWR_EN asserted; `railFail`: a rail fails to come up (15 R466). -/
  | coldReset (railFail : Bool)
  /-- R7 -/
  | perstAssert
  /-- R7: the PF writes v to TC_MODULE_RESET. -/
  | moduleResetCommand (v : Word)
  /-- R46: function-level reset of f. -/
  | partitionReset (f : Fin 9)
  /-- R48 -/
  | partitionResetDone (p : Fin 8)
  /-- R488 -/
  | pcieHotReset
  /-- R488: VF Enable is set with NumVFs = v (v = 0: cleared). -/
  | vfEnable (v : Fin 9)
  /-- R46 -/
  | pcieLinkDown
  /-- R46: the link trains at `speed` (4, 5, 6), `width` lanes, FLIT mode or not. -/
  | pcieLinkUp (speed : Fin 16) (width : Fin 32) (flit : Bool)
  /-- R46 -/
  | hostGraceExpire
  /-- R46 -/
  | hostStallBegin
  /-- R46: fetching is retried; `works`: DMA succeeds again. -/
  | hostStallRetry (works : Bool)
  /-- R46: Bus Master Enable of f is set. -/
  | busMasterEnable (f : Fin 9)
  /-- R467 -/
  | pwrEnDeassert
  /-- R465 -/
  | inputFaultShutdown (k : InputFault)
  /-- R465 -/
  | vinLow
  /-- R475 -/
  | thermtrip
  /-- R476 -/
  | leakDetect
  /-- R468 -/
  | powerSample (x : PowerSample)
  /-- R462: firmware moves rail r one step toward its target. -/
  | railStep (r : Fin 10)
  /-- R469 -/
  | sysLimitPoll
  /-- R470: the PF writes v to TC_PWR_CAP. -/
  | tcPwrCapWrite (v : Word)
  /-- R470 -/
  | scheduledCapDue
  /-- R482: an I2C write of v to SYS_LIMIT. -/
  | sysLimitWrite (v : BitVec 16)
  /-- R482: an I2C write of v to FAULT. -/
  | faultClear (v : BitVec 16)
  /-- R481: a write of bytes at addr of the EEPROM, by the system over I2C or by firmware. -/
  | i2cEepromWrite (firmware : Bool) (addr : BitVec 16) (bs : List Byte)
  /-- R412 -/
  | bootStart
  /-- R413: the strap pins as sampled: [4:0] slot, [11:5] rack, [12] parity. -/
  | strapsDone (raw : BitVec 13)
  /-- R415: the PF writes v, with GO = 1, to TC_BOOT_CTRL. -/
  | go (v : Word)
  /-- R417: what the host returned for image, record and plan; none: that read failed. -/
  | bootInputsFetched (image record plan : Option (List Byte))
  /-- R419 -/
  | bootLoadDone
  /-- R486 -/
  | bringupDone
  /-- R412: HBM training ends. -/
  | hbmTrainingDone (x : Training)
  /-- R429 -/
  | discoveryWindowClose
  /-- R5: f reads the _LO register at BAR0 offset off. -/
  | pairLoRead (f : Fin 9) (off : Word)
  /-- R23: f reads len bytes at offset off of its BAR4. -/
  | bar4Read (f : Fin 9) (off len : Nat)
  /-- R23: f writes bytes at offset off of its BAR4, poisoned or not. -/
  | bar4Write (f : Fin 9) (off : Nat) (bs : List Byte) (poison : Bool)
  /-- R389: light returns on failed receive lane ln of port pt; `good`: it trains good. -/
  | laneLightReturn (pt : Fin 16) (ln : Fin 18) (good : Bool)
  /-- R389: the partner of port pt gives notice that transmit lane ln failed. -/
  | laneChangeNotice (pt : Fin 16) (ln : Fin 18)
  /-- R420: the self-test ends; some unit beyond repair: (0 die, 1 Thimble) and its number. -/
  | selftestDone (failure : Option (Bool × Fin 16))
  /-- R482 -/
  | standbyPowerLoss
  /-- R482 -/
  | standbyPowerReturn
  /-- R467 -/
  | inputPowerLoss
  /-- R296: flash management collects garbage and retires `retired` blocks. -/
  | garbageCollection (retired : Nat) (x : Collected)
  /-- R321 -/
  | carrierLinkRetrain
  deriving DecidableEq, Repr

end Sys2Proof
end

