-- ==== Sys2Proof/Machine/Tab.lean ====
section
/-! DEFINITION. Sparse tables in one canonical form: how State holds memory, registers, counters and every other numbered
collection. A table lists (key, value) pairs with strictly rising keys and lists no value equal to what an unlisted key reads
as; that default is a function `d` of the key, given at each use. -/

namespace Sys2Proof.Machine

/-- A sparse table. `Host.Cell` lists are the case of bytes. -/
abbrev Tab (α : Type) := List (Nat × α)

/-- What key `k` holds. -/
def tget {α : Type} (d : Nat → α) : Tab α → Nat → α
  | [], k => d k
  | (a, v) :: t, k => if a = k then v else tget d t k

/-- Put a pair in its place, replacing the key's pair. -/
def tput {α : Type} : Tab α → Nat → α → Tab α
  | [], k, v => [(k, v)]
  | (a, w) :: t, k, v =>
    if k < a then (k, v) :: (a, w) :: t
    else if k = a then (k, v) :: t
    else (a, w) :: tput t k v

/-- Drop a key's pair. -/
def tdel {α : Type} (t : Tab α) (k : Nat) : Tab α := t.filter (fun e => !(e.1 == k))

/-- Make key `k` hold `v`; a value equal to the default drops the entry. -/
def tset {α : Type} [DecidableEq α] (d : Nat → α) (t : Tab α) (k : Nat) (v : α) : Tab α :=
  if v = d k then tdel t k else tput (tdel t k) k v

/-- Drop every key that `f` picks, so that it reads as the default again. -/
def tdrop {α : Type} (t : Tab α) (f : Nat → Bool) : Tab α := t.filter (fun e => !(f e.1))

/-- Make keys `k`, `k + 1`, … hold the listed values. -/
def tsetMany {α : Type} [DecidableEq α] (d : Nat → α) (t : Tab α) (k : Nat) (vs : List α) : Tab α :=
  t.filter (fun e => decide (e.1 < k)) ++ ((vs.zipIdx k).map (fun e => (e.2, e.1))).filter (fun e => decide (e.2 ≠ d e.1)) ++
  t.filter (fun e => decide (k + vs.length ≤ e.1))

/-- What keys `k` to `k + n - 1` hold, in order. -/
def tgetMany {α : Type} (d : Nat → α) (t : Tab α) (k n : Nat) : List α :=
  (List.range n).map (fun i => tget d t (k + i))

/-- The canonical form: keys strictly rising, no entry equal to its default. -/
abbrev Tab.wf {α : Type} (d : Nat → α) (t : Tab α) : Prop :=
  t.Pairwise (fun a b => a.1 < b.1) ∧ ∀ e ∈ t, e.2 ≠ d e.1

/-- Apply `f` to what key `k` holds. -/
def tmod {α : Type} [DecidableEq α] (d : Nat → α) (t : Tab α) (k : Nat) (f : α → α) : Tab α :=
  tset d t k (f (tget d t k))

/-- Little-endian bytes of a number (01 R34, 02 R51). -/
def leBytes : Nat → Nat → List Byte
  | 0, _ => []
  | n + 1, v => BitVec.ofNat 8 v :: leBytes n (v / 256)

/-- The number that bytes spell, little-endian. -/
def ofLe : List Byte → Nat
  | [] => 0
  | b :: bs => b.toNat + 256 * ofLe bs

/-- Bits [lo + len - 1 : lo] of a number. -/
def bitsOf (v lo len : Nat) : Nat := v / 2 ^ lo % 2 ^ len

/-- Bit i of a number. -/
def bitOf (v i : Nat) : Bool := bitsOf v i 1 == 1

/-- ⌈a / b⌉. -/
def cdiv (a b : Nat) : Nat := (a + b - 1) / b

/-- a rounded up to a multiple of b. -/
def roundUp (a b : Nat) : Nat := cdiv a b * b

/-- Replace bits [lo + len - 1 : lo] of a word by v. -/
def putBits (w : Word) (lo len v : Nat) : Word :=
  BitVec.ofNat 32 (w.toNat - bitsOf w.toNat lo len * 2 ^ lo + (v % 2 ^ len) * 2 ^ lo)

/-- The signed value of the n-bit two's complement code v. -/
def sgn (n v : Nat) : Int := if v % 2 ^ n < 2 ^ (n - 1) then (v % 2 ^ n : Nat) else ((v % 2 ^ n : Nat) : Int) - (2 ^ n : Nat)

/-- The n-bit two's complement code of i. -/
def unsgn (n : Nat) (i : Int) : Nat := (i % (2 ^ n : Nat)).toNat

/-- Replace element i of a list by f of it. -/
def modAt {α : Type} (l : List α) (i : Nat) (f : α → α) : List α := l.modify i f

/-- Element i of a list, or `z`. -/
def at0 {α : Type} (z : α) (l : List α) (i : Nat) : α := l.getD i z

/-- A byte count saturating at m. -/
def sat (m v : Nat) : Nat := if v ≤ m then v else m

end Sys2Proof.Machine
end

