-- ==== Sys2Proof/Machine/Digest.lean ====
section
/-! DEFINITION. SHAKE256 (FIPS 202, which 06 R181, 08 R277 and 13 R414, R423 name), the CRC-32 of IEEE 802.3 (08 R267) and the
lossless tile codec (08 R267, R268). -/

namespace Sys2Proof.Machine

/-- Lanes in the order in which rho and pi walk them: from (1, 0), each (x, y) is followed by (y, 2x + 3y); lane (x, y) has the number
x + 5y. -/
def lanePath : Nat → Nat → List Nat
  | 0, _ => []
  | n + 1, i => i :: lanePath n (i / 5 + 5 * ((2 * (i % 5) + 3 * (i / 5)) % 5))

/-- rho and pi as one move: every lane but the first takes the lane before it on the path, turned by the k-th triangular number, k its
place on the path. -/
def turnLanes (a : List DWord) : List DWord :=
  let path := lanePath 25 1
  (List.range 25).map (fun i =>
    if i = 0 then a.headD 0
    else
      let k := if i = 1 then 24 else path.idxOf i
      (a.getD (path.getD (k - 1) 0) 0).rotateLeft (k * (k + 1) / 2 % 64))

/-- theta: every lane takes the parity of the column before it and that of the column after it, turned by one. -/
def mixColumns5 (a : List DWord) : List DWord :=
  let par (x : Nat) : DWord := (List.range 5).foldl (fun w y => w ^^^ a.getD (x % 5 + 5 * y) 0) 0
  let pars := (List.range 5).map par
  (a.zipIdx).map (fun e => e.1 ^^^ pars.getD ((e.2 + 4) % 5) 0 ^^^ (pars.getD ((e.2 + 1) % 5) 0).rotateLeft 1)

/-- chi, within each row of five lanes. -/
def bendRows (a : List DWord) : List DWord :=
  (a.zipIdx).map (fun e =>
    let row (k : Nat) : DWord := a.getD (e.2 / 5 * 5 + (e.2 + k) % 5) 0
    e.1 ^^^ (row 2 &&& ~~~ (row 1)))

/-- A step of the register that gives iota's bits, of the polynomial x^8 + x^6 + x^5 + x^4 + 1. -/
def iotaStep (x : Nat) : Nat := if 128 ≤ x then (2 * x) ^^^ 0x171 else 2 * x

/-- The constant of a round and the register after it: bit j of the seven that the register gives stands at place 2^j - 1. -/
def iotaRound (x : Nat) : Nat × Nat :=
  (List.range 7).foldl (fun e j => (e.1 + (if e.2 % 2 = 1 then 2 ^ (2 ^ j - 1) else 0), iotaStep e.2)) (0, x)

/-- The Keccak permutation of 25 lanes: 24 rounds, the register starting at 1. -/
def keccakF (a : List DWord) : List DWord :=
  ((List.range 24).foldl (fun (e : List DWord × Nat) _ =>
    let rc := iotaRound e.2
    let b := bendRows (turnLanes (mixColumns5 e.1))
    ((b.headD 0 ^^^ BitVec.ofNat 64 rc.1) :: b.drop 1, rc.2)) (a, 1)).1

/-- A block of 136 bytes as 25 lanes. -/
def lanesOf (bs : List Byte) : List DWord :=
  (List.range 25).map (fun i => BitVec.ofNat 64 (ofLe ((bs.drop (8 * i)).take 8)))

/-- Absorb a padded message of whole blocks; `n` blocks. -/
def absorb : Nat → List DWord → List Byte → List DWord
  | 0, a, _ => a
  | n + 1, a, bs => absorb n (keccakF ((a.zip (lanesOf (bs.take 136))).map (fun e => e.1 ^^^ e.2))) (bs.drop 136)

/-- Squeeze `n` blocks. -/
def squeeze : Nat → List DWord → List Byte
  | 0, _ => []
  | n + 1, a => ((a.take 17).map (fun w => leBytes 8 w.toNat)).flatten ++ squeeze n (keccakF a)

/-- The first `n` bytes of SHAKE256 over a message. -/
def shake256 (n : Nat) (m : List Byte) : List Byte :=
  let q := 136 - m.length % 136
  let pad : List Byte := if q = 1 then [0x9F] else 0x1F :: (List.replicate (q - 2) 0 ++ [0x80])
  let p := m ++ pad
  (squeeze (cdiv n 136) (absorb (p.length / 136) (List.replicate 25 0) p)).take n

/-- One byte into a CRC-32. -/
def crcByte (c : Word) (b : Byte) : Word :=
  (List.range 8).foldl (fun x _ => if x.getLsbD 0 then (x >>> 1) ^^^ 0xEDB88320 else x >>> 1) (c ^^^ b.setWidth 32)

/-- CRC-32 with the IEEE 802.3 polynomial. -/
def crc32 (bs : List Byte) : Word := (bs.foldl crcByte 0xFFFFFFFF) ^^^ 0xFFFFFFFF

/-- The number of equal bytes at the head of a list, capped. -/
def runLen (cap : Nat) : List Byte → Nat
  | [] => 0
  | b :: bs => min cap ((bs.takeWhile (· == b)).length + 1)

/-- Length of the literal at the head of a list: up to the next run of three, or 128 (08 R268). -/
def litLen : Nat → List Byte → Nat
  | 0, _ => 0
  | _, [] => 0
  | n + 1, b :: bs => if 3 ≤ runLen 3 (b :: bs) then 0 else 1 + litLen n bs

/-- Code one plane (08 R268); `n` bounds the control bytes. -/
def codePlane : Nat → List Byte → List Byte
  | 0, _ => []
  | _, [] => []
  | n + 1, b :: bs =>
    let l := b :: bs
    let r := runLen 130 l
    if 3 ≤ r then BitVec.ofNat 8 (r + 125) :: b :: codePlane n (l.drop r)
    else
      let k := litLen 128 l
      BitVec.ofNat 8 (k - 1) :: (l.take k ++ codePlane n (l.drop k))

/-- Plane k of a tile: byte k of each of its words (08 R268). -/
def plane (tile : List Byte) (k : Nat) : List Byte := (List.range (tile.length / 4)).map (fun i => tile.getD (4 * i + k) 0)

/-- The method-1 payload of a tile. -/
def planeRuns (tile : List Byte) : List Byte := ((List.range 4).map (fun k => codePlane 1024 (plane tile k))).flatten

/-- The frame of a tile (08 R267, R269): object, tile number, soil mask. -/
def frameOf (tile : List Byte) (oid tileNo : Nat) (soil : Nat) : List Byte :=
  let m1 := planeRuns tile
  let useRuns := decide (m1.length < 4096) && soil == 0
  let pay := if useRuns then m1 else tile
  let body := leBytes 2 pay.length ++ [if useRuns then 1 else 0, 0] ++ leBytes 4 (crc32 tile).toNat ++
    leBytes 8 (oid + tileNo * 2 ^ 20) ++ leBytes 8 soil ++ leBytes 8 0 ++ pay
  body ++ List.replicate (roundUp body.length 16 - body.length) 0

/-- Decode plane runs until `need` bytes have come (08 R268): those bytes, and what is left of the payload; `n` bounds the control bytes. -/
def decodePlane : Nat → Nat → List Byte → List Byte × List Byte
  | 0, _, l => ([], l)
  | _, _, [] => ([], [])
  | n + 1, need, c :: l =>
    if need = 0 then ([], c :: l)
    else if c.toNat < 128 then
      let k := c.toNat + 1
      let r := decodePlane n (need - k) (l.drop k)
      (l.take k ++ r.1, r.2)
    else
      let k := c.toNat - 125
      let r := decodePlane n (need - k) (l.drop 1)
      (List.replicate k (l.headD 0) ++ r.1, r.2)

/-- The tile whose planes a method-1 payload codes (08 R268). -/
def decodeRuns (pay : List Byte) : List Byte :=
  let ps := ((List.range 4).foldl (fun (acc : List (List Byte) × List Byte) _ =>
    let r := decodePlane 1024 1024 acc.2
    (acc.1 ++ [r.1], r.2)) ([], pay)).1
  (List.range 4096).map (fun i => (ps.getD (i % 4) []).getD (i / 4) 0)

/-- A frame as decoded (08 R267, R269): the tile, the object and tile number that its header gives, its soil mask, whether its CRC
agrees. -/
structure FrameRead where
  tile : List Byte
  oid : Nat
  tileNo : Nat
  soil : Nat
  crcOk : Bool
  deriving DecidableEq, Repr

/-- Decode a frame (08 R267-R269). -/
def readFrame (f : List Byte) : FrameRead :=
  let n (o k : Nat) : Nat := ofLe ((f.drop o).take k)
  let pay := (f.drop 32).take (n 0 2)
  let tile := (if n 2 1 = 1 then decodeRuns pay else pay)
  ⟨tile, n 8 8 % 2 ^ 20, n 8 8 / 2 ^ 20, n 16 8, decide (crc32 tile = BitVec.ofNat 32 (n 4 4)) && decide (tile.length = 4096)⟩

end Sys2Proof.Machine
end

