-- ==== Sys2Proof/Config.lean ====
section
/-! DEFINITION. What one part fixes and the spec leaves open: fused values, the signature scheme that the spec takes from
FIPS 205, fitted functions whose coefficients it does not give, and the free values. None of these constants has a body. -/

namespace Sys2Proof.Config

/-- Free value number n: what an undefined byte holds (08 R273, 11 R374; notes/assumptions/1.md). -/
opaque freeByte : Nat → Byte
/-- Free value number n, 64 bits wide (notes/assumptions/1.md). -/
opaque freeWord : Nat → DWord

/-- Physical address of a copy of a page-table node (08 R252): partition, level, number, copy. -/
opaque nodeFrame : Nat → Nat → Nat → Nat → DWord

/-- The coefficients of the fitted cubics (04 R113), which the spec does not give: function code, sign of the input (for SQRT and RSQRT:
exponent odd), binade e and number k of the segment, power of the distance from its seam (notes/assumptions/25.md). -/
opaque coef : Nat → Bool → Int → Nat → Nat → Rat
/-- What the V4 gives for EXP (code 1) and LOG (code 3) of a PLEAT weight (05 R157): its arithmetic has no stated result. -/
opaque v4 : Nat → Rat → Rat

/-- The fused 32-byte identity seed (13 R414). -/
opaque identitySeed : List Byte
/-- The fused digest of the firmware key with the index k (13 R417). -/
opaque keyDigest : Fin 4 → Digest
/-- The bytes of the boot ROM, over which M0 is the digest (13 R423). -/
opaque bootRom : List Byte
/-- The manufacture areas of the FRU EEPROM, below 0x9000 (15 R480). -/
opaque eepromFactory : Nat → Byte

/-- Whether the hop of module `m` in a direction is down at a Stitch time (07 R234): other modules decide it (notes/assumptions/49.md). -/
opaque hopDown : Nat → Nat → Nat → Bool

/-- SLH-DSA-SHAKE-256s verification (13 R417): public key, message, context, signature. -/
opaque slhVerify256s : List Byte → List Byte → List Byte → List Byte → Bool
/-- SLH-DSA-SHAKE-256f verification (12 R395). -/
opaque slhVerify256f : List Byte → List Byte → List Byte → List Byte → Bool
/-- SLH-DSA-SHAKE-256f key generation: the 64-byte public key of SK.seed, SK.prf and PK.seed (13 R414). -/
opaque slhPublic256f : List Byte → List Byte
/-- SLH-DSA-SHAKE-256f signing: the three seeds, message, context (13 R424). -/
opaque slhSign256f : List Byte → List Byte → List Byte → List Byte

end Sys2Proof.Config
end

