-- ==== Sys2Proof/Machine/Num.lean ====
section
/-! DEFINITION. Number formats and exact sums (spec 02): exact values as rationals, the formats' codings, roundings,
conversions, scales, aligned blocks, accumulators and the two-phase sum. -/

namespace Sys2Proof.Machine

/-- Rounding modes (R60). -/
inductive Rnd where
  | rne | rtz | rup | rdn
  deriving DecidableEq, Repr

/-- The mode that a 2-bit field names (R60). -/
def Rnd.ofCode (c : Nat) : Rnd := if c = 1 then .rtz else if c = 2 then .rup else if c = 3 then .rdn else .rne

/-- 2 to the power e. -/
def pow2 (e : Int) : Rat := if 0 ≤ e then ((2 ^ e.toNat : Nat) : Rat) else 1 / ((2 ^ (-e).toNat : Nat) : Rat)

/-- ⌊log2 q⌋ for q > 0: the unbiased exponent of a magnitude, a subnormal's being its actual one (R64, R70). -/
def ilog2 (q : Rat) : Int :=
  let e : Int := (Nat.log2 q.num.natAbs : Int) - (Nat.log2 q.den : Int)
  if pow2 e ≤ q then e else e - 1

/-- Round a rational to an integer (R60). -/
def roundInt (m : Rnd) (q : Rat) : Int :=
  let f := q.floor
  let r := q - (f : Rat)
  match m with
  | .rdn => f
  | .rup => if r = 0 then f else f + 1
  | .rtz => if r = 0 then f else if q < 0 then f + 1 else f
  | .rne => if r < 1 / 2 then f else if 1 / 2 < r then f + 1 else if f % 2 = 0 then f else f + 1

/-- An exact value: NaN, an infinity, or a finite value given by its sign (a zero keeps its own, R52) and magnitude. -/
inductive Val where
  | nan
  | inf (neg : Bool)
  | fin (neg : Bool) (mag : Rat)
  deriving DecidableEq, Repr

namespace Val

/-- The finite value of a rational; zero is +0. -/
def ofRat (q : Rat) : Val := if q < 0 then .fin true (-q) else .fin false q

/-- The rational that a finite value is; 0 for others. -/
def rat : Val → Rat
  | .fin n m => if n then -m else m
  | _ => 0

/-- Whether the value is finite. -/
def isFin : Val → Bool
  | .fin _ _ => true
  | _ => false

/-- Whether the value is NaN. -/
def isNan : Val → Bool
  | .nan => true
  | _ => false

/-- Whether the value is a zero of either sign. -/
def isZero : Val → Bool
  | .fin _ m => m == 0
  | _ => false

/-- Whether the value is below zero, −∞ included. -/
def isNeg : Val → Bool
  | .fin n m => n && m != 0
  | .inf n => n
  | .nan => false

/-- The sign bit. -/
def sign : Val → Bool
  | .fin n _ => n
  | .inf n => n
  | .nan => false

/-- Negation. -/
def neg : Val → Val
  | .fin n m => .fin (!n) m
  | .inf n => .inf (!n)
  | .nan => .nan

/-- Absolute value. -/
def abs : Val → Val
  | .fin _ m => .fin false m
  | .inf _ => .inf false
  | .nan => .nan

/-- Exact sum under R66; a sum of opposite finite values is +0. -/
def add : Val → Val → Val
  | .nan, _ => .nan
  | _, .nan => .nan
  | .inf a, .inf b => if a = b then .inf a else .nan
  | .inf a, _ => .inf a
  | _, .inf b => .inf b
  | .fin a x, .fin b y =>
    if x = 0 ∧ y = 0 then .fin (a && b) 0
    else Val.ofRat ((if a then -x else x) + (if b then -y else y))

/-- Exact product under R66: an infinity times a zero is NaN. -/
def mul : Val → Val → Val
  | .nan, _ => .nan
  | _, .nan => .nan
  | .inf a, .inf b => .inf (a != b)
  | .inf a, .fin b y => if y = 0 then .nan else .inf (a != b)
  | .fin a x, .inf b => if x = 0 then .nan else .inf (a != b)
  | .fin a x, .fin b y => .fin (a != b) (x * y)

/-- Numeric order of two values that are not NaN; the zeros are equal. -/
def lt : Val → Val → Bool
  | .nan, _ => false
  | _, .nan => false
  | .inf a, .inf b => a && !b
  | .inf a, .fin _ _ => a
  | .fin _ _, .inf b => !b
  | .fin a x, .fin b y => decide ((if a then -x else x) < (if b then -y else y))

/-- The larger of two values; a NaN on either side is NaN. -/
def max (x y : Val) : Val := if x.isNan || y.isNan then .nan else if lt x y then y else x

/-- The smaller of two values; a NaN on either side is NaN. -/
def min (x y : Val) : Val := if x.isNan || y.isNan then .nan else if lt y x then y else x

end Val

/-- A floating-point format (R51). -/
structure FFmt where
  ebits : Nat
  mbits : Nat
  bias : Int
  hasInf : Bool
  deriving DecidableEq, Repr

/-- BF16 (R51). -/
def bf16 : FFmt := ⟨8, 7, 127, true⟩
/-- E4M3 (R51). -/
def e4m3 : FFmt := ⟨4, 3, 7, false⟩
/-- E5M2 (R51). -/
def e5m2 : FFmt := ⟨5, 2, 15, true⟩
/-- FP32 (R51). -/
def fp32 : FFmt := ⟨8, 23, 127, true⟩

/-- The floating-point format of a format code (R49). -/
def fmtOf (code : Nat) : Option FFmt :=
  if code = 2 then some bf16 else if code = 3 then some e4m3 else if code = 4 then some e5m2
  else if code = 5 then some fp32 else none

/-- Element bytes of a plain format code (R51): I8 and the 8-bit floats 1, BF16 2, FP32 4. -/
def elemSize (code : Nat) : Nat := if code = 2 then 2 else if code = 5 then 4 else 1

namespace FFmt

/-- The largest finite magnitude (R51). -/
def maxFin (f : FFmt) : Rat :=
  if f.hasInf then ((2 ^ (f.mbits + 1) - 1 : Nat) : Rat) * pow2 ((2 ^ f.ebits : Nat) - 2 - f.bias - f.mbits)
  else ((2 ^ (f.mbits + 1) - 2 : Nat) : Rat) * pow2 ((2 ^ f.ebits : Nat) - 1 - f.bias - f.mbits)

/-- The canonical NaN (R52). -/
def canonNan (f : FFmt) : Nat :=
  if f.hasInf then (2 ^ f.ebits - 1) * 2 ^ f.mbits + 2 ^ (f.mbits - 1) else 2 ^ (f.ebits + f.mbits) - 1

/-- Decode a bit pattern (R51, R52). -/
def decode (f : FFmt) (v : Nat) : Val :=
  let s := bitOf v (f.ebits + f.mbits)
  let e := bitsOf v f.mbits f.ebits
  let m := bitsOf v 0 f.mbits
  if f.hasInf ∧ e = 2 ^ f.ebits - 1 then (if m = 0 then .inf s else .nan)
  else if ¬ f.hasInf ∧ e = 2 ^ f.ebits - 1 ∧ m = 2 ^ f.mbits - 1 then .nan
  else if e = 0 then .fin s (m * pow2 (1 - f.bias - f.mbits))
  else .fin s ((2 ^ f.mbits + m : Nat) * pow2 (e - f.bias - f.mbits))

/-- A magnitude rounded in the mode to the format's precision as if its exponents had no upper limit (R61): the integer
significand and the exponent of its unit. -/
def unbounded (f : FFmt) (m : Rnd) (neg : Bool) (mag : Rat) : Nat × Int :=
  let u := (if mag = 0 then 1 - f.bias else max (ilog2 mag) (1 - f.bias)) - f.mbits
  let x := mag / pow2 u
  let r : Int := match m with
    | .rup => if neg then x.floor else x.ceil
    | .rdn => if neg then x.ceil else x.floor
    | .rtz => x.floor
    | .rne => roundInt .rne x
  (r.toNat, u)

/-- Encode a value (R61): the bit pattern, and whether the conversion saturated (R63). -/
def encode (f : FFmt) (m : Rnd) (x : Val) : Nat × Bool :=
  let top := 2 ^ (f.ebits + f.mbits)
  let infBits := (2 ^ f.ebits - 1) * 2 ^ f.mbits
  let maxBits := if f.hasInf then infBits - 1 else top - 2
  let sb (n : Bool) : Nat := if n then top else 0
  match x with
  | .nan => (f.canonNan, false)
  | .inf n => if f.hasInf then (sb n + infBits, false) else (sb n + maxBits, true)
  | .fin n mag =>
    let (r, u) := f.unbounded m n mag
    if f.maxFin < r * pow2 u then (sb n + maxBits, true)
    else (sb n + (((u + f.mbits + f.bias - 1).toNat) * 2 ^ f.mbits + r), false)

/-- The value after rounding to the format, and whether that saturated. -/
def round (f : FFmt) (m : Rnd) (x : Val) : Val × Bool :=
  let (b, s) := f.encode m x
  (f.decode b, s)

end FFmt

/-- Decode an element of a plain format: I8 as its integer, a float by R51. -/
def decodeElem (code v : Nat) : Val :=
  match fmtOf code with
  | some f => f.decode v
  | none => Val.ofRat (sgn 8 v)

/-- Encode into a plain format as little-endian bytes (R51), with the saturation of R63; I8 as R62 gives with scale 1. -/
def encodeElem (code : Nat) (m : Rnd) (x : Val) : List Byte × Bool :=
  match fmtOf code with
  | some f => let (b, s) := f.encode m x; (leBytes (elemSize code) b, s)
  | none =>
    match x with
    | .nan => (leBytes 1 0, true)
    | .inf n => (leBytes 1 (if n then 128 else 127), true)
    | .fin _ _ =>
      let r := roundInt m x.rat
      let c := max (-128) (min 127 r)
      (leBytes 1 (unsgn 8 c), decide (c ≠ r))

/-! ## The lane word (04 R108) -/

/-- One rounding to the lane word: 36 fraction bits, RNE, no subnormals; what would round below 2^-1022 is a zero of its
sign; what rounds to 2^1024 or more is an infinity (DEDUCED from R108, notes/assumptions/60.md). -/
def lane : Val → Val
  | .fin n mag =>
    if mag = 0 then .fin n 0
    else
      let u := ilog2 mag - 36
      let r : Rat := (roundInt .rne (mag / pow2 u) : Rat) * pow2 u
      if r < pow2 (-1022) then .fin n 0 else if pow2 1024 ≤ r then .inf n else .fin n r
  | x => x

/-- One basic step of addition. -/
def ladd (x y : Val) : Val := lane (Val.add x y)
/-- One basic step of multiplication. -/
def lmul (x y : Val) : Val := lane (Val.mul x y)

/-! ## Scales (R53) -/

/-- SE8: 2^(e - 127); none: invalid. -/
def se8 (b : Nat) : Option Rat := if b = 255 then none else some (pow2 ((b : Int) - 127))

/-- SF8: the E4M3 value, positive only; none: invalid. -/
def sf8 (b : Nat) : Option Rat := if b ≥ 127 then none else some (e4m3.decode b).rat

/-- A row scale: a finite FP32 not below zero; none: invalid. −0 counts as zero (DESIGN CHOICE, notes/assumptions/16.md). -/
def rowScale (b : Nat) : Option Rat :=
  match fp32.decode b with
  | .fin n m => if n ∧ m ≠ 0 then none else some m
  | _ => none

/-! ## Quantising (R62, R63) -/

/-- Quantise x against scale s and zero point z into n-bit codes (n = 1: LQ1): the code and whether it saturated. -/
def quantise (n : Nat) (m : Rnd) (s : Rat) (z : Int) (x : Val) : Int × Bool :=
  let lo : Int := -(2 ^ (n - 1) : Nat)
  let hi : Int := (2 ^ (n - 1) : Nat) - 1
  if n = 1 then
    match x with
    | .nan => (1, true)
    | _ => (if x.isNeg then -1 else 1, false)
  else match x with
    | .nan => (z, true)
    | .inf true => (lo, true)
    | .inf false => (hi, true)
    | .fin _ _ =>
      let r := roundInt m (x.rat / s) + z
      let c := max lo (min hi r)
      (c, decide (c ≠ r))

/-! ## Classes (R66) -/

/-- The class beside an accumulator. -/
inductive Cls where
  | fin | pinf | ninf | nan
  deriving DecidableEq, Repr

/-- The 2-bit code of a class. -/
def Cls.code : Cls → Nat
  | .fin => 0 | .pinf => 1 | .ninf => 2 | .nan => 3

/-- The class that a 2-bit code names. -/
def Cls.ofCode (c : Nat) : Cls := if c = 0 then .fin else if c = 1 then .pinf else if c = 2 then .ninf else .nan

/-- The class of a sum. -/
def Cls.add : Cls → Cls → Cls
  | .nan, _ => .nan
  | _, .nan => .nan
  | .fin, c => c
  | c, .fin => c
  | .pinf, .pinf => .pinf
  | .ninf, .ninf => .ninf
  | _, _ => .nan

/-- The class of a value. -/
def Cls.of : Val → Cls
  | .nan => .nan
  | .inf n => if n then .ninf else .pinf
  | .fin _ _ => .fin

/-- A class with its exact finite value, as a value. -/
def Cls.val (c : Cls) (q : Rat) : Val :=
  match c with
  | .fin => Val.ofRat q
  | .pinf => .inf false
  | .ninf => .inf true
  | .nan => .nan

/-! ## Aligned blocks (R64, 05 R135) -/

/-- The largest unbiased exponent among the finite non-zero values. -/
def eMax (xs : List Val) : Option Int :=
  xs.foldl (fun o x => match x with
    | .fin _ m => if m = 0 then o else some (match o with | none => ilog2 m | some e => max e (ilog2 m))
    | _ => o) none

/-- Align values at exponent e to `bits` bits: m = round_RNE(x * 2^(bits - e)); a non-finite value gives 0. -/
def alignAt (bits : Int) (e : Int) (xs : List Val) : List Int :=
  xs.map (fun x => match x with
    | .fin _ _ => roundInt .rne (x.rat * pow2 (bits - e))
    | _ => 0)

/-- Align a block (R64 with bits = 14; the Q8 form of R135 with bits = 6 and the limit 127): the scale's exponent and the
integers. A block with no finite non-zero element has scale 2^0 and zeros. -/
def alignBlock (bits : Int) (xs : List Val) : Int × List Int :=
  match eMax xs with
  | none => (0, xs.map (fun _ => 0))
  | some e =>
    let ms := alignAt bits e xs
    (e - bits, if bits = 6 then ms.map (fun m => max (-127) (min 127 m)) else ms)

/-! ## Row accumulators (R67, R68) -/

/-- An addend on the 2^-88 grid, rounded once RNE. -/
def grid88 (q : Rat) : Int := roundInt .rne (q * pow2 88)

/-- An addend rounded up to the 2^-88 grid (05 R142). -/
def grid88Up (q : Rat) : Int := roundInt .rup (q * pow2 88)

/-- The 160-bit word of an accumulator: sums wrap modulo 2^160 (R68). -/
def wrap160 (i : Int) : Int := sgn 160 (unsgn 160 i)

/-- The value that an accumulator denotes. -/
def acc88 (i : Int) : Rat := (i : Rat) * pow2 (-88)

/-! ## Row statistics (R69) -/

/-- The aligned sums of a row: the exponent of the grid, the element count, Σx and Σx². -/
structure RowSums where
  grid : Int
  n : Nat
  sum : Int
  sq : Int
  cls : Cls
  deriving DecidableEq, Repr

/-- The sums of a row (R69), with the class that its elements' sum has by R66. -/
def rowSums (xs : List Val) : RowSums :=
  let e := (eMax xs).getD 0
  let is := alignAt 61 e xs
  ⟨e - 61, xs.length, is.foldl (· + ·) 0, is.foldl (fun s i => s + i * i) 0, xs.foldl (fun c x => c.add (Cls.of x)) .fin⟩

/-- The class of the sum of squares: an infinity of either sign squares to +∞. -/
def RowSums.sqCls (r : RowSums) (xs : List Val) : Cls :=
  if xs.any Val.isNan then .nan else if r.cls = .fin ∧ xs.all Val.isFin then .fin else .pinf

/-- The mean (R69). -/
def RowSums.mean (r : RowSums) : Rat := (r.sum : Rat) / (r.n : Rat) * pow2 r.grid
/-- The variance (R69). -/
def RowSums.variance (r : RowSums) : Rat :=
  ((r.n : Int) * r.sq - r.sum * r.sum : Int) / ((r.n : Rat) * (r.n : Rat)) * pow2 (2 * r.grid)
/-- The mean square (R69). -/
def RowSums.meanSq (r : RowSums) : Rat := (r.sq : Rat) / (r.n : Rat) * pow2 (2 * r.grid)

/-! ## Exact sums on the wire (R70-R73) -/

/-- A member's exponent byte for a block (R70). -/
def wsByte (xs : List Val) : Nat :=
  if xs.any (fun x => !x.isFin) then 255
  else match eMax xs with
    | none => 0
    | some k => ((max (k + 1) (-126)) + 126).toNat

/-- F of a wire format (R71): WS32 0xC1, WS64 0xC2. -/
def wsF (wire : Nat) : Int := if wire = 0xC1 then 18 else 50

/-- A member's integer for an element of a block with agreed byte b (R71, R72). -/
def wsInt (wire b : Nat) (x : Val) : Int :=
  if b = 255 then 0 else roundInt .rne (x.rat * pow2 (wsF wire - ((b : Int) - 126)))

/-- The exact sum of the members' elements at one position of a block with agreed byte b (R71-R73). -/
def wsSum (wire b : Nat) (xs : List Val) : Val :=
  if b = 255 then .nan
  else Val.ofRat (((xs.foldl (fun s x => s + wsInt wire b x) 0 : Int) : Rat) * pow2 (((b : Int) - 126) - wsF wire))

/-! ## Format codes (R49, R50) -/

/-- Whether a code names a streamed format; LQ1 takes no zero point. -/
def isStreamed (c : Nat) : Bool := decide (0x40 ≤ c ∧ c ≤ 0x7F) && !(bitsOf c 0 4 == 0 && bitOf c 4)
/-- The width n of a streamed code. -/
def lqWidth (c : Nat) : Nat := bitsOf c 0 4 + 1
/-- Whether a streamed code carries a zero point. -/
def lqZero (c : Nat) : Bool := bitOf c 4
/-- Whether a streamed code's scales are SF8. -/
def lqSf8 (c : Nat) : Bool := bitOf c 5
/-- The scale of a streamed format's scale byte (R53). -/
def lqScale (c b : Nat) : Option Rat := if lqSf8 c then sf8 b else se8 b

/-- Code j of a block of streamed codes, read as one little-endian bit string (R55, R56). -/
def lqCode (c : Nat) (block j : Nat) : Int :=
  let n := lqWidth c
  let v := bitsOf block (n * j) n
  if n = 1 then (if v = 1 then 1 else -1) else sgn n v

end Sys2Proof.Machine
end

