-- ==== Sys2Proof/Machine/StCompute.lean ====
section
/-! DEFINITION. State of the matrix arrays (03), the function units (04) and the tile programs with their tickets (11). -/

namespace Sys2Proof.Machine

/-- A block of 32 held elements of one row along K (03 R75, 02 R64): its scale's exponent, and per element whether it is finite and
not zero, the integer, the class and the soil. -/
structure HBlock where
  hx : Int
  nz : List Bool
  ints : List Int
  cls : List Cls
  soil : List Bool
  deriving DecidableEq, Repr

/-- Whether a block holds a finite non-zero element (03 R79). -/
def HBlock.live (b : HBlock) : Bool := b.nz.any id

/-- A held tile (03 R85, R86, R88): format code, log2 of the fold, square alignment, rows R, K extent E, blocks by row. -/
structure Tile where
  fmt : Nat
  fold : Nat
  square : Bool
  rows : Nat
  ext : Nat
  blocks : List (List HBlock)
  deriving DecidableEq, Repr

/-- Whether a tile is of a 16-bit held format (02 R64). -/
def Tile.wide (t : Tile) : Bool := t.fmt != 1

/-- An accumulator slot (03 R79, R81). -/
structure Acc where
  a : Int
  cls : Cls
  gs : Int
  soil : Bool
  empty : Bool
  deriving DecidableEq, Repr

/-- A slot of a column just opened. -/
def acc0 : Acc := ⟨0, .fin, 0, false, true⟩

/-- An open slot column with its header (03 R81). -/
structure Col where
  w : Nat
  total : Nat
  count : Nat
  pair : Bool
  i8 : Bool
  slots : Tab Acc
  deriving DecidableEq, Repr

/-- What a product adds to one slot: the terms S × g with their exponents y, the class, the soil (03 R78, R79, R105). -/
structure Land where
  col : Nat
  row : Nat
  terms : List (Int × Int)
  cls : Cls
  soil : Bool
  deriving DecidableEq, Repr

/-- A product queued or in flight (03 R90): its descriptor, its steps b·r, mode, GUARD, the registers it reads (`act`: the
active ones), the slot columns it writes and what it adds; `ready`: its streamed codes have come. -/
structure Prod where
  job : Nat
  ready : Bool
  steps : Nat
  chain : Bool
  guard : Nat
  wide : Bool
  act : Bool
  cols : List Nat
  lands : List Land
  deriving DecidableEq, Repr

/-- A matrix array (03). `level`: its activity in eighths while no product is in flight; `rising`: a product waits for 8. -/
structure Arr where
  held : Option Tile
  shadow : Option Tile
  queue : List Prod
  flight : List Prod
  chain : Bool
  issued : Bool
  level : Nat
  rising : Bool
  cols : Tab (Option Col)
  deriving DecidableEq, Repr

/-- An array after reset (03 R106). -/
def arr0 : Arr := ⟨none, none, [], [], false, false, 0, false, []⟩

/-- A loaded micro-program (04 R120-R122): input format, segment grid, steps, table. -/
structure FnProg where
  fmt : Nat
  elo : Int
  binades : Nat
  steps : List Word
  table : List Byte
  /-- How many descriptors had begun as an uncorrectable error made its slot invalid (04 R130). -/
  lostAt : Option Nat
  deriving DecidableEq, Repr

/-- A loop of a tile program (11 R353, R365): level, dimension (0 M, 1 N, 2 K, 3 E), split, extent. -/
structure TpLoop where
  level : Nat
  dim : Nat
  split : Bool
  ext : Nat
  deriving DecidableEq, Repr

/-- A tile program (11 R365); a size of 0 is given by each run. -/
structure TpProg where
  needle : Bool
  fold : Nat
  chain : Bool
  double : Bool
  square : Bool
  rnd : Nat
  held : Nat
  stream : Nat
  out : Nat
  mask : Nat
  guard : Nat
  base : Nat
  m : Nat
  n : Nat
  k : Nat
  loops : List TpLoop
  deriving DecidableEq, Repr

/-- A ticket counter (11 R371-R373): who uses it; tickets counted by DONE; drawn and not counted as (core, ticket, generation);
queued for re-issue; completions that will be stale; cores that found it exhausted; of a DECODE_BATCH, the pair that each ticket
stands for and the key end of each entry (05 R153, R166). -/
structure Ticket where
  job : Option Nat
  next : Nat
  limit : Nat
  gen : BitVec 16
  done : List Nat
  out : List (Nat × Nat × BitVec 16)
  redo : List (Nat × BitVec 16)
  late : List (Nat × Nat × BitVec 16)
  spent : List Nat
  order : List Nat
  lens : List Nat
  deriving DecidableEq, Repr

/-- A counter after reset. -/
def ticket0 : Ticket := ⟨none, 0, 0, 0, [], [], [], [], [], [], []⟩

/-- A layer-pipeline run under way (11 R369): its stage, and the split iterations that each core has still to run, in its order. -/
structure TpShare where
  job : Nat
  p : Nat
  stage : List Nat
  work : List (Nat × List Nat)
  deriving DecidableEq, Repr

/-- Tile programs and tickets: slot k of partition p at p * 64 + k, counter k of partition p at p * 256 + k. -/
structure Tp where
  slots : Tab (Option TpProg)
  tickets : Tab Ticket
  /-- The layer-pipeline runs, in the order in which they began. -/
  shares : List TpShare
  deriving DecidableEq, Repr

end Sys2Proof.Machine
end

