-- ==== Sys2Proof/Machine/Regs.lean ====
section
/-! DEFINITION. The register map (01 R22 and the register tables of every chapter): offsets from the PF's BAR0, reset values,
the fields that software writes, and which registers are Stain registers. -/

namespace Sys2Proof.Machine

/-! ## Offsets -/

def rLink : Nat := 0x0
def rGrace : Nat := 0x4
def rHpStain : Nat := 0x8
def rPartCfg (p : Nat) : Nat := 0x100 + p * 0x10
def rPartCtrl (p : Nat) : Nat := 0x104 + p * 0x10
def rPartStatus (p : Nat) : Nat := 0x108 + p * 0x10
def rRing (n : Nat) : Nat := 0x10000 + n * 0x40
def rPeg (p i : Nat) : Nat := 0x80000 + p * 0x10000 + i * 0x10

def rBootStatus : Nat := 0x100000
def rBootCtrl : Nat := 0x100004
def rImgAddr : Nat := 0x100008
def rImgLen : Nat := 0x100010
def rRecAddr : Nat := 0x100018
def rPlanAddr : Nat := 0x100020
def rPlanLen : Nat := 0x100028
def rStraps : Nat := 0x100030
def rFuseSvn : Nat := 0x100034
def rThimble : Nat := 0x100038
def rDiscCfg : Nat := 0x10003C
def rModuleReset : Nat := 0x100040
def rTcStain : Nat := 0x100044
def rDiscPort (p : Nat) : Nat := 0x100080 + p * 4
def rMeas (m : Nat) : Nat := 0x100200 + m * 0x40
def rPwrCap : Nat := 0x102000
def rPwrStatus : Nat := 0x102004
def rPwrInput : Nat := 0x102008
def rPwrStain : Nat := 0x10200C
def rRail (r : Nat) : Nat := 0x102010 + r * 4
def rTemp (i : Nat) : Nat := 0x102040 + i * 4
def rTpValid (p : Nat) : Nat := 0x104000 + p * 0x10
def rTpLoad (p : Nat) : Nat := 0x104008 + p * 0x10
def rTpStatus (p : Nat) : Nat := 0x10400C + p * 0x10

def rCore (c : Nat) : Nat := 0x200000 + c * 0x2000
def rMxStain (c : Nat) : Nat := 0x200104 + c * 0x2000
def rDrySpin : Nat := 0x280000
def rFnStatus (c : Nat) : Nat := 0x300000 + c * 0x10
def rFnStain (c : Nat) : Nat := 0x300004 + c * 0x10
def rFnValid (p : Nat) : Nat := 0x301000 + p * 0x10
def rFnLoad (p : Nat) : Nat := 0x301004 + p * 0x10
def rPrStatus (c : Nat) : Nat := 0x400000 + c * 0x10
def rPrStain (c : Nat) : Nat := 0x400004 + c * 0x10
def rPrPriority : Nat := 0x401000
def rRepress : Nat := 0x401010
def rSkip : Nat := 0x401018
def rUnbounded : Nat := 0x401020
def rPoolCfg (d : Nat) : Nat := 0x500000 + d * 0x10
def rPoolStatus (d : Nat) : Nat := 0x500004 + d * 0x10
def rScStain (d : Nat) : Nat := 0x500008 + d * 0x10
def rTicketStatus (p : Nat) : Nat := 0x501000 + p * 0x10
def rTicketStale : Nat := 0x501100
def rTicketReissued : Nat := 0x501108
def rHm (s : Nat) : Nat := 0x600000 + s * 0x10000
def rHmStain (s : Nat) : Nat := 0x600018 + s * 0x10000
def rDtStatus : Nat := 0x700000
def rDtStain : Nat := 0x700010
def rPagesRead : Nat := 0x700020
def rRebuilt : Nat := 0x700028
def rRetired : Nat := 0x700030
def rSearches : Nat := 0x700038
def rDtChan (f : Nat) : Nat := 0x700100 + f * 4
def rTmPart (p : Nat) : Nat := 0x800000 + p * 0x40
def rSpillCfg : Nat := 0x801000
def rTmStatus : Nat := 0x801004
def rTmStain : Nat := 0x801008
def rTmFaults : Nat := 0x801010
def rTmSpilled : Nat := 0x801018
def rCodecIn : Nat := 0x801020
def rCodecOut : Nat := 0x801028
def rPattern (p : Nat) : Nat := 0x808000 + p * 0x20
def rPatternHits (p : Nat) : Nat := 0x808010 + p * 0x20
def rKvRecall : Nat := 0x808100
def rKvStain : Nat := 0x808108
def rSeCore (c q : Nat) : Nat := 0x900000 + c * 0x400 + q * 0x40
def rSeDie (d q : Nat) : Nat := 0x910000 + d * 0x800 + q * 0x40
def rSeHub (q : Nat) : Nat := 0x918000 + q * 0x40
def rSeStain : Nat := 0x920000
def rSeMerged : Nat := 0x920008
def rSeBytes : Nat := 0x920010
def rPort (p : Nat) : Nat := 0xA00000 + p * 0x10000
def rOlStain (p : Nat) : Nat := 0xA00014 + p * 0x10000
def rVcWeights : Nat := 0xA0F000
def rWinOpen (i : Nat) : Nat := 0xA0F010 + i * 4
def rGroup (g : Nat) : Nat := 0xB00000 + g * 0x10
def rLagCfg : Nat := 0xB01000
def rLaggard : Nat := 0xB01004
def rLaggardWait : Nat := 0xB01008
def rCeStain : Nat := 0xB01010
def rCeSpecial : Nat := 0xB01018
def rCeReject : Nat := 0xB01020
def rStitch : Nat := 0xC00000
def rStitchStatus : Nat := 0xC00008
def rStitchOffset : Nat := 0xC0000C
def rTagCfg : Nat := 0xC00010
def rTagStatus : Nat := 0xC00014
def rSummary : Nat := 0xC00020
def rAlertMask : Nat := 0xC00024
def rObStain : Nat := 0xC00028
def rLogCtrl : Nat := 0xC0002C
def rAbortJob : Nat := 0xC00030
def rAbortInfo : Nat := 0xC00034
def rSnap (k : Nat) : Nat := 0xC00040 + k * 0x10
def rFray (k : Nat) : Nat := 0xC00100 + k * 8
def rStainLog (i : Nat) : Nat := 0xC00400 + i * 0x10
def rCounter (i : Nat) : Nat := 0xC10000 + i * 8

/-- Which instance of a strided register `off` is, among n with the base and the stride. -/
def inst (base stride n off : Nat) : Option Nat :=
  if base ≤ off ∧ off < base + n * stride ∧ (off - base) % stride = 0 then some ((off - base) / stride) else none

/-! ## Stain registers (14 R446): offset, kind, instance and the defined bits -/

/-- The Stain register at `off`: its kind and instance (14 R446, R447), and how many bits it defines. -/
def stainAt (off : Nat) : Option (Nat × Nat × Nat) :=
  if off = rHpStain then some (0, 0, 9)
  else if off = rDtStain then some (6, 0, 8)
  else if off = rTmStain then some (7, 0, 6)
  else if off = rKvStain then some (8, 0, 3)
  else if off = rSeStain then some (9, 0, 5)
  else if off = rCeStain then some (11, 0, 6)
  else if off = rTcStain then some (12, 0, 4)
  else if off = rPwrStain then some (12, 0, 7)
  else if off = rObStain then some (13, 0, 7)
  else match inst (rMxStain 0) 0x2000 64 off with
  | some c => some (1, c, 5)
  | none => match inst (rFnStain 0) 0x10 64 off with
    | some c => some (2, c, 5)
    | none => match inst (rPrStain 0) 0x10 64 off with
      | some c => some (3, c, 5)
      | none => match inst (rScStain 0) 0x10 8 off with
        | some d => some (4, d, 2)
        | none => match inst (rHmStain 0) 0x10000 12 off with
          | some s => some (5, s, 3)
          | none => match inst (rOlStain 0) 0x10000 16 off with
            | some p => some (10, p, 9)
            | none => none

/-- Every Stain register's offset. -/
def stainRegs : List Nat :=
  [rHpStain, rDtStain, rTmStain, rKvStain, rSeStain, rCeStain, rTcStain, rPwrStain, rObStain] ++
  (List.range 64).map rMxStain ++ (List.range 64).map rFnStain ++ (List.range 64).map rPrStain ++
  (List.range 8).map rScStain ++ (List.range 12).map rHmStain ++ (List.range 16).map rOlStain

/-! ## Reset values, from the Reset column of every register table -/

/-- The reset value of the register at `off`; 0 where the tables give 0 or nothing lies there. -/
def regReset (off : Nat) : Word :=
  if off = rGrace then 100
  else if off = rPartCfg 0 then 0xFF
  else if off = rDiscCfg then 2000
  else if off = rPwrCap then 0x9048
  else if off = rDrySpin then 0x10100
  else if off = rSpillCfg then 0x0804
  else if off = rVcWeights then 0x431
  else if off = rLagCfg then 1000
  else if off = rTagCfg then 0x10000
  else if off = rAlertMask then 0x3FFF
  else if (inst 0x600004 0x10000 12 off).isSome then 0x10018
  else if (inst 0xA00008 0x10000 16 off).isSome then 0x04000010
  else if (inst 0xC00104 8 37 off).isSome then 0xFFFF
  else 0

/-! ## Fields that software writes -/

/-- The RW bits of a register without effects of its own (00 R6). -/
def regRw (off : Nat) : Word :=
  if off = rGrace ∨ off = rLagCfg ∨ off = rDiscCfg ∨ off = rSpillCfg then 0xFFFF
  else if off = rImgAddr ∨ off = rRecAddr then 0xFFFFF000
  else if off = rPlanAddr then 0xFFFFFFC0
  else if off = rImgAddr + 4 ∨ off = rRecAddr + 4 ∨ off = rPlanAddr + 4 then 0xFFFFFFFF
  else if off = rImgLen then 0x07FFFFFF
  else if off = rPlanLen then 0x3FFFF
  else if off = rBootCtrl then 2
  else if off = rDrySpin then 0x10FFF
  else if off = rVcWeights then 0xFFF
  else if off = rAlertMask then 0x3FFF
  else if (inst 0x600004 0x10000 12 off).isSome then 0x100FF
  else if (inst 0xA00008 0x10000 16 off).isSome then 0xFFFF001F
  else if (inst (rTmPart 0) 0x40 8 off).isSome ∨ (inst (rTmPart 0 + 8) 0x40 8 off).isSome then 0xFFFF
  else if (inst (rTmPart 0 + 0x10) 0x40 8 off).isSome then 0xC0000000
  else if (inst (rTmPart 0 + 0x14) 0x40 8 off).isSome then 0xFFFFF
  else if (inst (rPattern 0) 0x20 8 off).isSome then 1
  else 0

/-- The RW bits that keep their value because the written value is one that the module ignores (00 R6). -/
def regIgnored (off : Nat) (w : Word) : Word :=
  let f (lo len : Nat) : Nat := bitsOf w.toNat lo len
  if off = rGrace ∨ off = rLagCfg then (if 1 ≤ f 0 16 ∧ f 0 16 ≤ 60000 then 0 else 0xFFFF)
  else if off = rDiscCfg then (if 10 ≤ f 0 16 ∧ f 0 16 ≤ 60000 then 0 else 0xFFFF)
  else if off = rSpillCfg then (if f 0 8 < f 8 8 ∧ f 8 8 ≤ 50 then 0 else 0xFFFF)
  else if off = rVcWeights then (if f 0 4 = 0 ∨ f 4 4 = 0 ∨ f 8 4 = 0 then 0xFFF else 0)
  else if off = rDrySpin then (if 8 ≤ f 0 12 ∧ f 0 12 ≤ 2048 ∧ f 0 12 % 8 = 0 then 0 else 0xFFF)
  else if (inst 0x600004 0x10000 12 off).isSome then (if 1 ≤ f 0 8 ∧ f 0 8 ≤ 168 then 0 else 0xFF)
  else if (inst 0xA00008 0x10000 16 off).isSome then (if 1 ≤ f 0 5 ∧ f 0 5 ≤ 16 then 0 else 0x1F)
  else 0

/-- The W1C bits of a register. -/
def regW1c (off : Nat) : Word :=
  match stainAt off with
  | some (_, _, n) => BitVec.ofNat 32 (2 ^ n - 1)
  | none => 0

/-- The value of a register after a write of w by the field rules of 00 R6 alone. -/
def regWritten (off : Nat) (cur w : Word) : Word :=
  let rw := regRw off &&& ~~~ regIgnored off w
  ((cur &&& ~~~ rw) ||| (w &&& rw)) &&& ~~~ (w &&& regW1c off)

/-- Whether `off` is the _LO register of a 64-bit pair of the PF's BAR0 (00 R5). -/
def isPairLo (off : Nat) : Bool :=
  [rImgAddr, rRecAddr, rPlanAddr, rRepress, rSkip, rUnbounded, rTicketStale, rTicketReissued, rPagesRead, rRebuilt,
    rRetired, rSearches, rTmFaults, rTmSpilled, rCodecIn, rCodecOut, rKvRecall, rSeMerged, rSeBytes, rLaggardWait,
    rCeSpecial, rCeReject, rStitch].contains off ||
  (inst (rRing 0) 0x40 512 off).isSome || (inst (rRing 0 + 8) 0x40 512 off).isSome ||
  (inst (rPeg 0 0) 0x10 32768 off).isSome || (inst (rTpValid 0) 0x10 8 off).isSome ||
  (inst (rTmPart 0 + 0x10) 0x40 8 off).isSome || (inst (rTmPart 0 + 0x20) 0x40 8 off).isSome ||
  (inst (rPatternHits 0) 0x20 8 off).isSome || (inst 0x600010 0x10000 12 off).isSome ||
  (inst 0x900008 0x40 1024 off).isSome || (inst 0x910008 0x40 256 off).isSome || (inst 0x918008 0x40 64 off).isSome ||
  (inst 0xA00020 0x10000 16 off).isSome || (inst 0xA00028 0x10000 16 off).isSome ||
  (inst 0xA00030 0x10000 16 off).isSome || (inst 0xA00038 0x10000 16 off).isSome ||
  (inst 0xC00044 0x10 4 off).isSome || (inst 0xC00400 0x10 64 off).isSome || (inst 0xC10000 8 1536 off).isSome

/-- Whether a pair is held as one 64-bit count under its _LO offset (the others are two registers, or are computed). -/
def isCount (off : Nat) : Bool :=
  [rRepress, rSkip, rUnbounded, rTicketStale, rTicketReissued, rPagesRead, rRebuilt, rRetired, rSearches, rTmFaults,
    rTmSpilled, rCodecIn, rCodecOut, rKvRecall, rSeMerged, rSeBytes, rLaggardWait, rCeSpecial, rCeReject].contains off ||
  (inst (rPatternHits 0) 0x20 8 off).isSome || (inst 0x600010 0x10000 12 off).isSome ||
  (inst 0x900008 0x40 1024 off).isSome || (inst 0x910008 0x40 256 off).isSome || (inst 0x918008 0x40 64 off).isSome ||
  (inst 0xA00020 0x10000 16 off).isSome || (inst 0xA00028 0x10000 16 off).isSome ||
  (inst 0xA00030 0x10000 16 off).isSome || (inst 0xA00038 0x10000 16 off).isSome || (inst 0xC10000 8 1536 off).isSome

end Sys2Proof.Machine
end

