-- ==== Sys2Proof/Machine/StHost.lean ====
section
/-! DEFINITION. State of the host port (01), the boot (13), observation (14) and power (15), and what leaves the module. -/

namespace Sys2Proof.Machine

/-- Where a descriptor stands: its slot read, checked and begun, its work going on, its status decided (01 R30-R43). -/
inductive Phase where
  | fetched | checked | running | decided
  deriving DecidableEq, Repr

/-- A descriptor fetched and not completed. -/
structure Job where
  /-- The model's own number of the descriptor. -/
  id : Nat
  /-- Module-wide ring. -/
  ring : Nat
  raw : Slot
  /-- The extension slot once fetched (01 R36). -/
  ext : Option Slot
  /-- The chain flag is set and the extension is not yet fetched. -/
  needExt : Bool
  /-- Host address of the extension slot, which KEY_LOAD clears (08 R284). -/
  extAddr : Nat
  phase : Phase
  /-- Its row has run and found that it must wait, so that later descriptors of its ring begin (01 R31). -/
  waits : Bool
  /-- Its place in the order in which descriptors began (01 R31); 0: not begun. -/
  order : Nat
  /-- What it took as it began: the visible lengths of its partition's regions, by region (06 R179). -/
  seen : List (Nat × Tab Nat)
  /-- It is a priority stream that began while four ran (05 R152). -/
  demoted : Bool
  status : Nat
  detail : Word
  /-- Stitch time at which the status was decided (01 R42). -/
  decidedAt : DWord
  tagged : Bool
  /-- Decided by a sequence halt: completes only after those before it (01 R32). -/
  ordered : Bool
  fetchAt : DWord
  beginAt : DWord
  /-- An arming that waits only for a free half (10 R349). -/
  parked : Bool
  /-- What ran it, as the tag record numbers it (14 R442). -/
  engine : Nat
  /-- Steps of the engine and bytes moved, for the tag record (14 R442). -/
  steps : Nat
  moved : Nat
  /-- How long its engine stalled on it, in ns by cause (10 R343). -/
  stalls : Tab Nat
  deriving DecidableEq, Repr

/-- A completion entry (01 R42) less its phase bit, with the descriptor's interrupt flag. -/
structure Entry where
  seq : Word
  status : Nat
  tagged : Bool
  stitch : DWord
  detail : Word
  intr : Bool
  /-- It is held because host memory could not be reached (01 R46). -/
  shut : Bool
  deriving DecidableEq, Repr

/-- A ring's registers and pointers (01 R25-R28, R44, R45). -/
structure Ring where
  cmdBase : DWord
  cplBase : DWord
  cfg : Word
  ctrl : Word
  job : Word
  nextSeq : Word
  cmdHead : Nat
  cmdTail : Nat
  cplTail : Nat
  cplHead : Nat
  phase : Bool
  halted : Bool
  err : Word
  /-- Decided completions not yet written, oldest first (01 R44). -/
  held : List Entry
  /-- Entries written since the last interrupt, and the time of the first (01 R45). -/
  since : Nat
  firstAt : DWord
  /-- When the job or the enable was last written (14 R456). -/
  jobAt : DWord
  deriving DecidableEq, Repr

/-- A ring after reset (01 R25). -/
def ring0 : Ring := ⟨0, 0, 0, 0, 0, 0, 0, 0, 0, 0, true, false, 0, [], 0, 0, 0⟩

/-- An MSI-X vector: its table entry and its PBA bit (01 R22, R45). -/
structure Msix where
  addr : DWord
  data : Word
  mask : Bool
  pend : Bool
  deriving DecidableEq, Repr

/-- A vector after reset (notes/assumptions/6.md). -/
def msix0 : Msix := ⟨0, 0, true, false⟩

/-- The host port. -/
structure Hp where
  /-- Ring n; unlisted: `ring0`. -/
  rings : Tab Ring
  /-- Descriptors in flight, oldest first. -/
  jobs : List Job
  /-- Peg i of partition p at p * 4096 + i. -/
  pegs : Tab DWord
  /-- High halves latched by reads of _LO: function * 2^32 + offset (00 R5). -/
  latches : Tab (Option Word)
  msix : Tab Msix
  /-- Vectors with a message owed while host memory is out of reach (01 R46). -/
  owed : List Nat
  numVfs : Nat
  vfOn : Bool
  /-- The NumVFs whose ownership (01 R16) is in force (01 R488). -/
  own : Nat
  /-- Bus Master Enable: bit f of function f. -/
  bme : BitVec 9
  stall : Bool
  linkUp : Bool
  /-- When the link went down without PERST_N, while GRACE_MS runs. -/
  downAt : Option DWord
  /-- Die set of partition p that waits for its reset to end (01 R19). -/
  newDies : Tab (Option Nat)
  /-- The ring fetched last (round robin, 01 R30). -/
  lastRing : Nat
  /-- Descriptors begun so far. -/
  begun : Nat
  /-- log2 of function f's BAR4 size (01 R23); unlisted: 36. -/
  bar4 : Tab Nat
  deriving DecidableEq, Repr

/-- A wiring plan as loaded (13 R425). -/
structure Plan where
  bytes : List Byte
  deriving DecidableEq, Repr

/-- A section in a core's memory (13 R416, R419): Thimble core n at n, carrier controller DCn at 16 + n; its load address. -/
structure Loaded where
  core : Nat
  addr : Nat
  bytes : List Byte
  deriving DecidableEq, Repr

/-- Boot state beside the registers (13). -/
structure Boot where
  plan : Option Plan
  /-- The image that VERIFY accepted, until LOAD has placed its sections (13 R419). -/
  image : List Byte
  /-- The sections in the memories of Thimble cores and carrier controllers, in the order placed. -/
  loaded : List Loaded
  imageSvn : Nat
  imageFloor : Nat
  buildId : DWord
  record : List Byte
  /-- The Stitch counter is locked, or the module has found itself alone (13 R431). -/
  joined : Bool
  hbmDone : Bool
  discClosed : Bool
  /-- When the transmitters turned on (13 R429). -/
  litAt : Option DWord
  /-- When JOIN began. -/
  joinAt : DWord
  /-- TC_FUSE_SVN, which reflects the fuses (13 R433). -/
  fuseSvn : Word
  /-- Retired compute cores (13 R418, 14 R451); those retired in service and keeping their number (14 R453). -/
  retired : BitVec 64
  keepNum : BitVec 64
  /-- Stacks that failed training (13 R486). -/
  hbmFail : BitVec 12
  deriving DecidableEq, Repr

/-- The advertisement of a port's partner (14 R436). -/
structure Advert where
  root : Nat
  hops : Nat
  bound : Nat
  locked : Bool
  running : Bool
  at' : DWord
  /-- θ toward the partner, and the path delay δ (14 R435), in 1/64 ns. -/
  theta : Int
  delta : Int
  deriving DecidableEq, Repr

/-- A tag record (14 R442). -/
structure TagRec where
  /-- The descriptor whose record it is; `done`: completed. -/
  id : Nat
  done : Bool
  bytes : List Byte
  deriving DecidableEq, Repr

/-- A snapshot slot (14 R443): state 0 empty, 1 PENDING, 2 VALID, 3 LATE. -/
structure Snap where
  state : Nat
  sid : Nat
  t : DWord
  /-- The descriptors that wait for it. -/
  jobs : List Nat
  /-- The counters and the header have been caught at T (R438). -/
  caught : Bool
  header : List Byte
  counters : Tab DWord
  deriving DecidableEq, Repr

/-- An empty snapshot slot. -/
def snap0 : Snap := ⟨0, 0, 0, [], false, [], []⟩

/-- An entry of the Stain log (14 R447). -/
structure LogEntry where
  time : DWord
  kind : Nat
  inst : Nat
  bit : Nat
  deriving DecidableEq, Repr

/-- Observation (14). -/
structure Ob where
  counting : Bool
  /-- The advertisement of each port (14 R436). -/
  adverts : Tab (Option Advert)
  /-- The tag sequence (14 R441). -/
  lfsr : Word
  tags : List TagRec
  snaps : Tab Snap
  log : List LogEntry
  overflow : Bool
  /-- Aborts acted on: job and T_a (14 R456). -/
  aborts : List (Word × DWord)
  /-- Job list last received on a port (14 R455). -/
  jobLists : Tab (List Word)
  /-- The job list last sent. -/
  sentJobs : List Word
  /-- Hours evaluated since the Fray histories were last written (14 R450). -/
  hours : Nat
  /-- The wear last measured of Fray unit k, in millionths of its allowance (14 R448). -/
  wear : Tab Nat
  /-- The history that the carrier keeps of Fray unit 36: its age in hours, daily samples of its wear, oldest first. -/
  carrierHours : Nat
  carrierFray : List Nat
  deriving DecidableEq, Repr

/-- A scheduled cap (15 R470), with the descriptor that waits for it. -/
structure SchedCap where
  t : DWord
  steps : Nat
  job : Option Nat
  deriving DecidableEq, Repr

/-- Power, pins, the telemetry device and the EEPROM (15). -/
structure Pw where
  caps : List SchedCap
  /-- When the cap was last lowered (15 R468). -/
  loweredAt : DWord
  pwrEn : Bool
  pwrGood : Bool
  /-- PERST_N asserted. -/
  perst : Bool
  thermtrip : Bool
  leak : Bool
  stby : Bool
  vin : BitVec 16
  iin : BitVec 16
  pin : BitVec 16
  sysLimit : Nat
  fault : BitVec 16
  eeprom : Tab Byte
  /-- The last sample asked for lower rails (15 R468, R474). -/
  lower : Bool
  deriving DecidableEq, Repr

/-- A broadcast on VCT (12 R394). -/
inductive Cast where
  /-- 14 R454: job, T_a, cause. -/
  | abort (j : Word) (ta : DWord) (cause : Nat)
  /-- 14 R444: T and snapshot id. -/
  | snapshot (t : DWord) (sid : Nat)
  /-- 15 R471: steps and T. -/
  | cap (steps : Nat) (t : DWord)
  /-- 07 R230, R232, R234: mismatch (0), timeout (1), lost (2). -/
  | notice (kind : Nat) (x : Notice)
  deriving DecidableEq, Repr

/-- What leaves the module on a port, or to a module over the fabric (07, 12, 14). -/
inductive Msg where
  /-- A broadcast of `origin` with its number, on a port (12 R394). -/
  | cast (pt : Nat) (origin : BitVec 12) (num : Word) (c : Cast)
  /-- A job list (14 R455). -/
  | jobList (pt : Nat) (jobs : List Word)
  /-- A sync pair (14 R435). -/
  | sync (pt : Nat) (root : Nat) (hops bound : Nat) (locked running : Bool)
  /-- A hello with module, port and public key, and a signature (12 R395). -/
  | hello (pt : Nat) (m : BitVec 12) (nonce : BitVec 256) (key : List Byte)
  | signature (pt : Nat) (sig : List Byte)
  /-- An idle frame (12 R390). -/
  | idle (pt : Nat)
  /-- A cumulative acknowledgement, a negative one, and credits returned (12 R387, R388). -/
  | ack (pt : Nat) (seq : Nat)
  | nak (pt : Nat) (seq : Nat)
  | credits (pt vc k : Nat)
  /-- A lane change notice (12 R389). -/
  | laneNotice (pt lane : Nat)
  /-- A frame sent on a port with its link sequence (12 R383). -/
  | frame (pt : Nat) (fr : Frame)
  /-- A refusal frame with its code, a read response or an acknowledgement goes as a frame (12 R397, R404). -/
  | refusal (pt : Nat) (fr : Frame) (code : Nat)
  /-- A frame of the collective engine sent on a port (07 R208, R212, R220, R229). -/
  | ce (pt : Nat) (fr : Frame) (b : CeBody)
  /-- A peg addition to a member (07 R213). -/
  | pegAdd (dest : BitVec 12) (gid : BitVec 16) (epoch : Word) (fr : Frame) (v : DWord)
  deriving DecidableEq, Repr

/-- What leaves the module, in order. -/
inductive Output where
  /-- A write to host memory by function f; `poison`: sent poisoned. -/
  | hostWrite (f : Nat) (addr : Nat) (bytes : List Byte) (poison : Bool)
  /-- An MSI-X message through module vector g. -/
  | msix (f g : Nat) (addr : DWord) (data : Word)
  /-- The answer to a BAR4 read; Completer Abort (01 R23). -/
  | barData (f : Nat) (bytes : List Byte) (poison : Bool)
  | barAbort (f : Nat)
  /-- The answer to a register read. -/
  | regData (f : Nat) (off : Nat) (v : Word)
  /-- An I2C NACK (15 R481, R482). -/
  | nack
  | net (m : Msg)
  deriving DecidableEq, Repr

end Sys2Proof.Machine
end

