-- ==== Sys2Proof/Machine/StLinks.lean ====
section
/-! DEFINITION. State of the optical ports and remote memory (12) and of the collective engine (07). -/

namespace Sys2Proof.Machine

/-! ## Ports and remote memory (12) -/

/-- A frame sent and not acknowledged (12 R388): its link sequence, VC, how often it was resent. -/
structure Sent where
  seq : BitVec 16
  vc : Nat
  times : Nat
  msg : Msg
  deriving DecidableEq, Repr

/-- A frame that arrived (12 R385): on which port, its kind as the arrival rows tell them apart, what came beside the header. -/
structure Early where
  pt : Nat
  fr : Frame
  kind : Nat
  code : Nat
  gid : BitVec 16
  epoch : Word
  v : DWord
  body : Option CeBody
  deriving DecidableEq, Repr

/-- A message that waits on a port: its VC; `fresh`: it has not been sent, and takes its pair sequence when it is (12 R385). -/
structure Waiting where
  vc : Nat
  msg : Msg
  fresh : Bool
  deriving DecidableEq, Repr

/-- A port beside its registers. -/
structure Port where
  /-- Lanes by direction: active, spare, failed. -/
  rxAct : BitVec 18
  rxSpare : BitVec 18
  rxFail : BitVec 18
  txAct : BitVec 18
  txSpare : BitVec 18
  txFail : BitVec 18
  /-- The lane change under way and those that wait (12 R389): whether of the receive direction, and the lane. -/
  changes : List (Bool × Nat)
  /-- What the partner said of itself (12 R395): module, port, nonce, key; the module's own nonce; the signature verified. -/
  hello : Option (BitVec 12 × Nat × BitVec 256 × BitVec 512)
  nonce : BitVec 256
  auth : Bool
  /-- Sending: next link sequence, replay buffer, frames that wait for credit or a lane change, credits by VC. -/
  seq : BitVec 16
  sent : List Sent
  wait : List Waiting
  credits : List Nat
  /-- Receiving: the link sequence expected, credits owed by VC. -/
  expect : BitVec 16
  owed : List Nat
  /-- The VC whose turn it is and the bytes that each VC may still send (12 R386); by VC, whether a forwarded frame went last. -/
  turn : Nat
  deficit : List Nat
  lastFwd : List Bool
  /-- Until when the VCG payload accepted uses up VCG_LIMIT (12 R398). -/
  vcgUntil : Nat
  /-- Of the hop, held by the even port: how far its share of frames is ahead, in lanes (12 R385). -/
  share : Int
  /-- Of the hop, held by the even port: next pair sequence sent and expected by VC, frames ahead of theirs. -/
  pairOut : List (BitVec 16)
  pairIn : List (BitVec 16)
  early : List Early
  /-- Frames that stay in their buffers because the partition that they are for is suspended (07 R233). -/
  stalled : List Early
  /-- When something last arrived, and was last sent; when the port last became DOWN. -/
  lastRx : DWord
  lastTx : DWord
  downAt : DWord
  /-- The port has been UP in this boot. -/
  wasUp : Bool
  /-- The Stitch millisecond in which frames were last rejected, and how many. -/
  rejMs : Nat
  rejN : Nat
  deriving DecidableEq, Repr

/-- A port after reset. -/
def port0 : Port :=
  ⟨0, 0, 0, 0, 0, 0, [], none, 0, false, 0, [], [], [32, 256, 256, 128], 0, [0, 0, 0, 0], 1, [0, 0, 0, 0], [false, false, false, false], 0, 0,
    [0, 0, 0, 0], [0, 0, 0, 0], [], [], 0, 0, 0, false, 0, 0⟩

/-- A software window (12 R403). -/
structure Win where
  id : Nat
  p : Nat
  base : Nat
  size : Nat
  key : DWord
  writes : Bool
  reads : Bool
  only : Option (BitVec 12)
  deriving DecidableEq, Repr

/-- A remote operation (12 R404) or a remote peg addition (07 R213): its descriptor and number, its target, whether it reads, the
remote offsets of the frames not yet answered with their bytes, the local address that goes with remote offset `ro`, whether it
moved soil; stopped by a job abort. -/
structure RemOp where
  job : Nat
  op : Nat
  dest : BitVec 12
  read : Bool
  left : List (Nat × Nat)
  la : Nat
  ro : Nat
  soiled : Bool
  stop : Bool
  deriving DecidableEq, Repr

/-- The ports, windows and remote operations; broadcasts seen by origin (12 R394): the highest number and the 64 below it; the
module's own broadcasts that wait for the 64 in flight, its next broadcast number and next remote operation. -/
structure Ol where
  ports : Tab Port
  wins : List Win
  ops : List RemOp
  seen : Tab (Option (Nat × BitVec 64))
  casts : List Cast
  cast : Word
  nextOp : Nat
  deriving DecidableEq, Repr

/-- Links after reset. -/
def olReset : Ol := ⟨[], [], [], [], [], 0, 0⟩

/-! ## The collective engine (07) -/

/-- The geometry of one KV head's blocks. -/
structure KvGeo where
  d : Nat
  g : Nat
  hkv : Nat
  k4 : Bool
  v4 : Bool
  deriving DecidableEq, Repr

/-- A Spin window as its header gives it. -/
structure Window where
  base : Nat
  geo : KvGeo
  kTag : Nat
  vTag : Nat
  members : Nat
  nh : Nat
  c : Nat
  layer : Nat
  deriving DecidableEq, Repr

/-- A Spin that runs (07 R217-R222): its window, the chunks of its own shard, its pegs with their values at begin, by direction (0
forward, 1 backward): chunks arrived as (step, index), those signalled, steps whose slots this member has granted, the last step whose
slot it may fill, chunks sent; shards whose envelopes are complete; the pages held. -/
structure SpinRun where
  p : Nat
  win : Window
  own : List Contribution
  arrPeg : List Nat
  relPeg : List Nat
  envPeg : Nat
  arr0 : List DWord
  rel0 : List DWord
  got : List (List (Nat × Nat))
  signalled : List Nat
  granted : List Nat
  allowed : List Nat
  sent : List Nat
  envs : List Nat
  soiled : Bool
  pages : List Nat
  deriving DecidableEq, Repr

/-- The running operation of a group (07 R209): its descriptor, collective index and signature, the indices of the partners whose first
frames came, what the member itself contributes, the destination that it writes (its length 0 where it writes none) in chunks of
2^chunk bytes, the chunks that have arrived and how many are signalled (R227); of a BARRIER, the rounds begun and the frames that came,
by member index and round (R228). -/
structure CollRun where
  job : Nat
  index : Nat
  sig : Word
  heard : List Nat
  mine : Contribution
  dst : Nat
  len : Nat
  chunk : Nat
  chunks : List Nat
  signalled : Nat
  stage : Nat
  rounds : List (Nat × Nat)
  spin : Option SpinRun
  deriving DecidableEq, Repr

/-- A group slot (07 R205-R211). -/
structure Grp where
  p : Nat
  gid : BitVec 16
  epoch : Word
  key : DWord
  /-- Entries of the member list, and the member's own index. -/
  members : List Nat
  index : Nat
  /-- ms. -/
  watchdog : Nat
  threshold : Nat
  force : Nat
  hash : BitVec 128
  /-- The GROUP_CREATE that waits for partners, and the entries that have joined. -/
  joining : Option Nat
  joined : List Nat
  /-- The module named when the group broke. -/
  broken : Option Nat
  /-- The GROUP_DESTROY that waits. -/
  leaving : Option Nat
  next : Nat
  run : Option CollRun
  /-- First frames that came before their operation began: member index, collective index, signature. -/
  firsts : List (Nat × Nat × Word)
  /-- When the watchdog last started. -/
  watch : DWord
  deriving DecidableEq, Repr

/-- The collective engine: group slots; join frames that came before their group (group id, epoch, entry, hash); groups destroyed here
(R210); the ns that each partner module held a step up, by lag window and module, and the first lag window not yet latched (R231). -/
structure Ce where
  groups : Tab (Option Grp)
  joins : List (BitVec 16 × Word × Nat × BitVec 128)
  gone : List (BitVec 16 × Word)
  lag : List (Nat × Nat × Nat)
  window : Nat
  deriving DecidableEq, Repr

/-- The collective engine after reset. -/
def ceReset : Ce := ⟨[], [], [], [], 0⟩

end Sys2Proof.Machine
end

