-- ==== Sys2Proof/Machine/StStore.lean ====
section
/-! DEFINITION. State of the unified range and its tiers (08), the key-value cache (06), and the Deep carrier with its indexes
and searches (09). Addresses of memory are numbered by place: place p (0-7) is the unified range of partition p, place 8 + c the
buffer of core c; address a of place k has the number k * 2^52 + a. -/

namespace Sys2Proof.Machine

/-- A locator (08 R271): the Deep logical address of a frame in units of 16 bytes, and the frame's length in the same units; length 0: a
zero tile, which has no frame. -/
structure Loc where
  addr : Nat
  len : Nat
  deriving DecidableEq, Repr

/-- The locator of a zero tile. -/
def loc0 : Loc := ⟨0, 0⟩

/-- A translation page that has been backed (08 R250, R251, R270). -/
structure Page where
  /-- The object's id, and the page's size in bytes. -/
  oid : Nat
  size : Nat
  /-- The number within that object of the page's first tile (08 R267). -/
  tile0 : Nat
  /-- 0 Tier 0, 1 Tier 1, 2 Tier 2 only. -/
  tier : Nat
  /-- 0 at rest, 1 entering Tier 1, 2 leaving it (08 R265). -/
  moving : Nat
  /-- Bit t: tile t is dirty (08 R270). -/
  dirty : Nat
  /-- What was dirty when the eviction under way began (08 R265). -/
  was : Nat
  /-- The last access, in units of 2^20 ns (08 R264). -/
  age : Nat
  /-- Physical address of the page in Tier 1: a free value where the spec gives none (notes/assumptions/1.md). -/
  frame : DWord
  /-- The stacks that its tiles interleave over in Tier 1 (08 R257): 0 all twelve, 1 H0-H5, 2 H6-H11. -/
  spread : Nat
  /-- Die and offset in its scratch part, in Tier 0 (08 R259). -/
  die : Nat
  off : Nat
  /-- The page has a tile map in Tier 2 (08 R271): locators by tile; unlisted: a zero tile. -/
  t2 : Bool
  locs : Tab Loc
  /-- The locators before the eviction under way, which a write restores (08 R265). -/
  back : Tab Loc
  deriving DecidableEq, Repr

/-- An object (08 R253). `kind`: 0 plain, 1 KV region, 2 index. -/
structure Obj where
  p : Nat
  id : Nat
  base : Nat
  size : Nat
  /-- SIZE: pages of 2^(12 + sz) bytes. -/
  sz : Nat
  policy : Nat
  die : Nat
  kind : Nat
  /-- Of a KV region: bytes before its data plane, which have 4 KiB pages (06 R170). -/
  head : Nat
  deriving DecidableEq, Repr

/-- An access that waits on a page (08 R273). `st`: 0 for its fetch, 1 for room, 2 served, 3 failed with `cause`. -/
structure TierWait where
  p : Nat
  page : Nat
  oid : Nat
  job : Nat
  st : Nat
  cause : Nat
  deriving DecidableEq, Repr

/-- A Deep key (08 R284). -/
structure DeepKey where
  id : DWord
  k1 : BitVec 256
  k2 : BitVec 256
  deriving DecidableEq, Repr

/-- An append that has begun (06 R175). `st`: 0 running, 1 completed well, 2 completed otherwise. -/
structure Append where
  layer : Nat
  start : Nat
  len : Nat
  job : Nat
  st : Nat
  deriving DecidableEq, Repr

/-- A recall set of a layer and KV head (06 R192): τ as the descriptor gave it, which of the two bitmaps holds it, the spans it
covers, the pages it holds. -/
structure RecallSet where
  layer : Nat
  head : Nat
  tau : Word
  slot : Nat
  spans : Nat
  held : List Nat
  deriving DecidableEq, Repr

/-- What a layer and KV head's recall set was before its last change, for the descriptors still bound to it (06 R195). -/
structure RecallOld where
  layer : Nat
  head : Nat
  set : Option RecallSet
  jobs : List Nat
  deriving DecidableEq, Repr

/-- A tree change of a layer and KV head that awaits its switch: the shadow's covered count, whose change it is (06 R187). -/
structure TreeShadow where
  layer : Nat
  head : Nat
  covered : Nat
  job : Nat
  deriving DecidableEq, Repr

/-- A KV region (06 R170); header, planes and trees lie in memory. -/
structure Region where
  p : Nat
  id : Nat
  base : Nat
  lmax : Nat
  layers : Nat
  hkv : Nat
  g : Nat
  d : Nat
  k4 : Bool
  v4 : Bool
  segs : Bool
  share : Bool
  spill : Bool
  logP : Nat
  ns : DWord
  /-- Visible length and reserved end per layer; unlisted: 0. -/
  vis : Tab Nat
  res : Tab Nat
  appends : List Append
  /-- Pattern key of the shared node that node j is mapped from (06 R183). -/
  shared : Tab (Option Nat)
  /-- Tree switches made (06 R172). -/
  switches : Word
  shadows : List TreeShadow
  /-- Layers and heads whose old tree generation drains, with the descriptors bound to it. -/
  drains : List (Nat × Nat × List Nat)
  recalls : List RecallSet
  recallNew : List (Nat × RecallSet)
  recallOld : List RecallOld
  /-- The truncate whose releases wait (06 R180): its descriptor and the new length. -/
  cutting : Option (Nat × Nat)
  deriving DecidableEq, Repr

/-- An entry of a pattern table (06 R182) with the node's bytes in its envelope and data pages, by offset, their size, and its pages by
offset, those of the data before those of the envelopes (06 R184, R185). -/
structure PatEntry where
  key : BitVec 128
  refs : Nat
  dataAddr : DWord
  envAddr : DWord
  time : DWord
  geom : Word
  size : Nat
  pages : Tab (Option Page)
  env : Tab Byte
  data : Tab Byte
  envSoil : Tab Bool
  dataSoil : Tab Bool
  deriving DecidableEq, Repr

/-- A generation of a pattern table: its address, capacity log2, number, entries by slot. -/
structure PatTable where
  addr : Nat
  cap : Nat
  gen : Word
  entries : List (Nat × PatEntry)
  deriving DecidableEq, Repr

/-- The pattern tables of a partition (06 R195): the shadow carries its rebuild's descriptor and switch time, the draining one
the descriptors bound to it. -/
structure Patterns where
  cur : Option PatTable
  shadow : Option (PatTable × Nat × DWord)
  drain : Option (PatTable × List Nat)
  deriving DecidableEq, Repr

/-- No pattern table. -/
def pat0 : Patterns := ⟨none, none, none⟩

/-- A record of an index (09 R300). -/
structure Rec where
  item : Nat
  num : Nat
  label : DWord
  codes : List Byte
  scales : List Byte
  soil : Bool
  deriving DecidableEq, Repr

/-- A tombstone: item and number (09 R304). -/
structure Tomb where
  item : Nat
  num : Nat
  deriving DecidableEq, Repr

/-- A merge in progress (09 R311): its descriptor, merge point N, switch time, the shadow's lists, lists rewritten. -/
structure MergeShadow where
  job : Nat
  n : Nat
  t : DWord
  lists : Tab (List Rec)
  /-- Where its list pages lie in the Deep tier, as `Index.places`. -/
  places : Tab Nat
  rewritten : Nat
  deriving DecidableEq, Repr

/-- An index (09 R297); its header and centroids lie in memory. -/
structure Index where
  p : Nat
  id : Nat
  base : Nat
  dim : Nat
  w : Nat
  dist : Nat
  c : Nat
  /-- Records of list l, in order; unlisted: none. -/
  lists : Tab (List Rec)
  side : List Rec
  /-- The Deep address, in units of 16 bytes, of page j of list l at l * 2^32 + j; the side list has the number 0xFFFF (09 R300). -/
  places : Tab Nat
  tombs : List Tomb
  gen : Word
  next : Nat
  visible : Nat
  mergePt : Nat
  /-- Numbers taken and still open: first, count, descriptor. -/
  opened : List (Nat × Nat × Nat)
  /-- Numbers that belong to voided descriptors. -/
  voids : List (Nat × Nat)
  shadow : Option MergeShadow
  /-- Searches bound to the draining generation, and the Deep addresses of its list pages. -/
  drain : Option (List Nat × List Nat)
  deriving DecidableEq, Repr

/-- A candidate of a query: distance bits, record, list number. -/
structure Cand where
  dist : Nat
  item : Nat
  num : Nat
  list : Nat
  deriving DecidableEq, Repr

/-- A query of a running search (09 R306). -/
structure Query where
  /-- Its vector's bytes, its filter (09 R307), whether what it was made from was soiled, whether it is non-finite. -/
  vec : List Byte
  all : DWord
  any : DWord
  none : DWord
  soil : Bool
  nf : Bool
  /-- Pages still to come: channel, list, page number. -/
  pages : List (Nat × Nat × Nat)
  /-- Channels on which it holds a context. -/
  ctxs : List Nat
  /-- The best records of each channel's context so far (09 R306). -/
  best : Tab (List Cand)
  seen : Nat
  soiled : Nat
  deriving DecidableEq, Repr

/-- A running search: what it bound at begin (09 R304, R312). -/
structure Search where
  job : Nat
  p : Nat
  obj : Nat
  gen : Word
  snap : Nat
  lists : Tab (List Rec)
  side : List Rec
  places : Tab Nat
  tombs : List Tomb
  voids : List (Nat × Nat)
  queries : List Query
  deriving DecidableEq, Repr

/-- The leaves in the Deep tier that a RECALL_BOUND or RECALL_SELECT evaluates (06 R191, 09 R294): its descriptor and region, the leaf
groups still to come (channel, layer, head, level-1 span), the channels on which it holds a context. -/
structure LeafWork where
  job : Nat
  p : Nat
  obj : Nat
  groups : List (Nat × Nat × Nat × Nat)
  ctxs : List Nat
  deriving DecidableEq, Repr

/-- An object as a checkpoint captured it (08 R275, R277): contents by offset from its base. -/
structure CkObj where
  obj : Obj
  region : Option Region
  index : Option Index
  /-- Offsets of the pages that had been written. -/
  pages : List Nat
  bytes : Tab Byte
  soil : Tab Bool
  /-- The tile maps, by page offset (08 R271). -/
  maps : List (Nat × Tab Loc)
  /-- The Deep address, in units of 16 bytes, of its page list (08 R277). -/
  list : Nat
  deriving DecidableEq, Repr

/-- A committed checkpoint on the carrier (08 R276, R277). -/
structure Ckpt where
  key : DeepKey
  cid : DWord
  job : Word
  module : Nat
  part : Nat
  t : DWord
  frameBytes : Nat
  objs : List CkObj
  /-- The Deep address of its manifest, in units of 16 bytes (08 R276). -/
  place : Nat
  deriving DecidableEq, Repr

/-- What a CHECKPOINT that has begun captures (08 R275): its descriptor, T, and its partition as it stood at T. -/
structure Shot where
  job : Nat
  p : Nat
  t : DWord
  objs : List Obj
  regions : List Region
  indexes : List Index
  pages : List (Nat × Page)
  mem : Tab Byte
  soil : Tab Bool
  /-- Tiles written since T, a bit set by the first byte of their page. -/
  wrote : Tab Nat
  deriving DecidableEq, Repr

/-- A line of a die's cache part (08 R260): its line number, age, dirty. -/
structure Line where
  tag : Nat
  age : Nat
  dirty : Bool
  deriving DecidableEq, Repr

/-- The tier manager, the pools, memory and what they keep. -/
structure Tm where
  /-- Every byte that is not 0. -/
  mem : Tab Byte
  /-- Every soiled 64-byte unit, by address number / 64 (08 R281). -/
  soil : Tab Bool
  /-- Gradient accumulators whose class is NaN (05 R155, 02 R66), by address number of their first byte. -/
  nans : Tab Bool
  /-- Backed pages, by address number of their first byte. -/
  pages : Tab (Option Page)
  /-- Holders of the page whose first byte has the address number (08 R263). -/
  holds : Tab Nat
  objs : List Obj
  regions : List Region
  waits : List TierWait
  /-- The Deep key of partition p. -/
  keys : Tab (Option DeepKey)
  pats : Tab Patterns
  ckpts : List Ckpt
  /-- What the CHECKPOINT descriptors that have begun captured (08 R275). -/
  shots : List Shot
  /-- What the Deep tier holds for partitions, encrypted (08 R283): the 16-byte block at Deep logical address 16 k; the next address
  that has never been used, in units of 16 bytes (notes/assumptions/41.md). -/
  deep : Tab (BitVec 128)
  deepNext : Nat
  /-- Copies of page-table nodes found uncorrectable (08 R252): partition, level, node, copy. -/
  badNodes : List (Nat × Nat × Nat × Nat)
  /-- Lines of the dies' cache parts (08 R260). -/
  cache : Tab (Option Line)
  /-- Scratch steps in force of die d (08 R258). -/
  split : Tab Nat
  indexes : List Index
  searches : List Search
  leaves : List LeafWork
  /-- The descriptors that ask for Sort unit contexts, in the order in which they asked (09 R309). -/
  asks : List Nat
  /-- The index that each SEARCH and MERGE found as it began, by descriptor (09 R304, R311, R312). -/
  bound : List (Nat × Index)
  /-- A carrier has been ready in this boot (09 R318). -/
  wasReady : Bool
  /-- Retired flash blocks (14 R451): channel, block; fused HBM rows: stack, channel, bank, row. -/
  blocks : List (Nat × Nat)
  rows : List (Nat × Nat × Nat × Nat)
  /-- Remapped SRAM rows: die, unit. -/
  remaps : List (Nat × Nat)
  deriving DecidableEq, Repr

/-- Memory and tiers after reset (08 R290). -/
def tmReset : Tm :=
  ⟨[], [], [], [], [], [], [], [], [], [], [], [], [], 1024, [], [], [], [], [], [], [], [], false, [], [], []⟩

end Sys2Proof.Machine
end

