-- ==== Sys2Proof/Machine/StStream.lean ====
section
/-! DEFINITION. State of the stream engines (10) and of tile programs and tickets (11). Queues are numbered across the module: queue
q of core c is c * 16 + q, queue q of die d is 1024 + 32 d + q, hub queue q is 1280 + q; engines: core c is c, die d is 64 + d, the
hub is 72. -/

namespace Sys2Proof.Machine

/-- An arming (10 R325, R345, R346) and how far it has come. -/
structure Arming where
  job : Nat
  p : Nat
  src : Nat
  dst : Nat
  rowBytes : Nat
  rows : Nat
  sstride : Nat
  dstride : Nat
  limit : Nat
  prio : Nat
  merge : Bool
  weight : Bool
  index : Bool
  two : Bool
  conv : Bool
  sspace : Nat
  dspace : Nat
  mask : Nat
  idxAddr : Nat
  idxLimit : Nat
  pad : Nat
  h : Nat
  halfPeg : Nat
  sfmt : Nat
  dfmt : Nat
  rnd : Nat
  padSize : Nat
  scatter : Bool
  /-- The next row to issue, and the source bytes of it issued. -/
  row : Nat
  off : Nat
  /-- No further transfer is issued; what then ends it instead of its own end. -/
  stop : Bool
  ending : Option (Nat × Nat)
  /-- Detail bits of 10 R348, and whether soil was moved. -/
  detail : Nat
  soiled : Bool
  /-- The segment number of its first byte (10 R334, R336), and the bytes landed of each segment. -/
  seg0 : Nat
  segDone : Tab Nat
  deriving DecidableEq, Repr

/-- A transfer (10 R326): its queue and arming, its row, its bytes on both sides, where its destination
bytes begin in the row, whether it is padding, whether the
index that led to it was soiled, the two-half segment it belongs to. -/
structure Piece where
  q : Nat
  job : Nat
  row : Nat
  src : Nat
  dst : Nat
  len : Nat
  dlen : Nat
  doff : Nat
  pad : Bool
  isoil : Bool
  seg : Nat
  deriving DecidableEq, Repr

/-- Transfers merged into one (10 R330): held for a merge since `ready`, or issued. -/
structure Group where
  id : Nat
  pieces : List Piece
  ready : DWord
  issued : Bool
  deriving DecidableEq, Repr

/-- A queue: its running and pending armings and its half state (10 R334-R336, R340). -/
structure Queue where
  run : Option Arming
  pend : Option Arming
  /-- The two-half buffer and h, while a half is full or being written. -/
  buf : Nat
  h : Nat
  /-- Segments being written, and segments whose half is full. -/
  writing : List Nat
  full : List Nat
  /-- The next segment's number. -/
  next : Nat
  deriving DecidableEq, Repr

/-- A queue after reset. -/
def queue0 : Queue := ⟨none, none, 0, 0, [], [], 0⟩

/-- The stream engines. -/
structure Se where
  queues : Tab Queue
  /-- Transfers held or issued, in the order in which they were taken. -/
  groups : List Group
  /-- The model's own number of the next group. -/
  nextGroup : Nat
  /-- The queue that each engine served last (10 R328). -/
  last : Tab Nat
  /-- What each SWAP under way found as it began: descriptor, queue, the full half's segment (10 R335). -/
  found : List (Nat × Nat × Option Nat)
  deriving DecidableEq, Repr

/-- The stream engines after reset. -/
def seReset : Se := ⟨[], [], 0, [], []⟩

end Sys2Proof.Machine
end

