-- ==== Sys2Proof/Machine/State.lean ====
section
/-! DEFINITION. The state of the module, its state right after a cold reset, and the outcomes that are no next state. -/

namespace Sys2Proof.Machine

/-- The block has no fault: the spec stops no command (00 R10 gives every failure a completion status). Nothing raises it. -/
inductive Fault where
  /-- Raised by nothing; safe. -/
  | none
  deriving DecidableEq, Repr

/-- Refusals. -/
inductive Refusal where
  /-- Raised by an arm of `exec` whose command has no meaning yet; safe. -/
  | notModelled (mnemonic : String)
  deriving DecidableEq, Repr

/-- The module. -/
structure State where
  /-- Commands that wait, oldest first. -/
  pending : List Instr
  /-- The model's own counter of free values drawn (notes/assumptions/1.md). -/
  free : Nat
  /-- The model's own number for the next descriptor fetched (notes/assumptions/4.md). -/
  nextId : Nat
  /-- The Stitch counter (14 R434). -/
  now : DWord
  /-- What has left the module, oldest first. -/
  out : List Output
  /-- Registers that hold what was written or set, by offset in the PF's BAR0; unlisted: `regReset`. -/
  regs : Tab Word
  /-- 64-bit counts and the 1,536 counters (14 R439) under the offset of their _LO register; unlisted: 0. -/
  counts : Tab DWord
  hp : Hp
  boot : Boot
  ob : Ob
  pw : Pw
  tm : Tm
  /-- Array a of core c at c * 4 + a; unlisted: `arr0`. -/
  mx : Tab Arr
  /-- Program slot k of partition p at p * 32 + k (04 R120). -/
  fn : Tab (Option FnProg)
  /-- Built-in function f's table in core c is uncorrectable, at c * 256 + f (04 R130). -/
  fnBad : Tab Bool
  tp : Tp
  se : Se
  ol : Ol
  ce : Ce
  deriving DecidableEq, Repr

/-- The host port after reset (01 R24-R26). -/
def hpReset : Hp := ⟨[], [], [], [], [], [], 0, false, 0, 0, false, false, none, [], 511, 0, []⟩

/-- The boot state after reset (13 R410). -/
def bootReset : Boot := ⟨none, [], [], 0, 0, 0, [], false, false, false, none, 0, 0, 0, 0, 0⟩

/-- Observation after reset (14 R460). -/
def obReset : Ob := ⟨false, [], 1, [], [], [], false, [], [], [], 0, [], 0, []⟩

/-- Power right after a cold reset (15 R466): PWR_EN and PWR_GOOD high, PERST_N held (notes/assumptions/9.md). -/
def pwReset : Pw := ⟨[], 0, true, true, true, false, false, true, 0, 0, 0, 72, 0, [], false⟩

/-- The module right after a cold reset: nothing booted, STATE reads STRAPS (13 R486). -/
def State.reset : State :=
  { pending := [], free := 0, nextId := 0, now := 0, out := [], regs := [], counts := [], hp := hpReset, boot := bootReset,
    ob := obReset, pw := pwReset, tm := tmReset, mx := [], fn := [], fnBad := [], tp := ⟨[], [], []⟩, se := seReset, ol := olReset, ce := ceReset }

end Sys2Proof.Machine
end

