-- ==== Sys2Proof/Machine/Ops.lean ====
section
/-! DEFINITION. The named operations over registers, counts, Stain bits, functions, rings, descriptors and messages that every
meaning is built from. The block has no exception entry, so none is here. -/

namespace Sys2Proof.Machine

/-- What a meaning answers: always a next state. -/
abbrev Out := Host.Outcome State Fault Refusal

/-! ## Registers and counts -/

/-- The stored value of the register at `off`. -/
def rreg (s : State) (off : Nat) : Word := tget regReset s.regs off

/-- Store a register. -/
def wreg (s : State) (off : Nat) (w : Word) : State := { s with regs := tset regReset s.regs off w }

/-- Bits [lo + len - 1 : lo] of a stored register. -/
def rfield (s : State) (off lo len : Nat) : Nat := bitsOf (rreg s off).toNat lo len

/-- Store bits [lo + len - 1 : lo] of a register. -/
def wfield (s : State) (off lo len v : Nat) : State := wreg s off (putBits (rreg s off) lo len v)

/-- The default of a count. -/
def dw0 (_ : Nat) : DWord := 0

/-- A 64-bit count. -/
def cnt (s : State) (off : Nat) : DWord := tget dw0 s.counts off

/-- Store a count. -/
def wcnt (s : State) (off : Nat) (v : DWord) : State := { s with counts := tset dw0 s.counts off v }

/-- Add to a count; it wraps modulo 2^64. -/
def addCnt (s : State) (off k : Nat) : State := wcnt s off (cnt s off + BitVec.ofNat 64 k)

/-- Add to counter i, which counts from the end of LOAD (14 R439). -/
def count (s : State) (i k : Nat) : State := if s.ob.counting then addCnt s (rCounter i) k else s

/-- Set a Stain bit; a change from 0 to 1 adds an entry to the Stain log (14 R446, R447). -/
def setStain (s : State) (off bit : Nat) : State :=
  if bitOf (rreg s off).toNat bit then s
  else
    let s1 := wreg s off (rreg s off ||| BitVec.ofNat 32 (2 ^ bit))
    match stainAt off with
    | none => s1
    | some (k, i, _) =>
      if s.ob.log.length < 64 then { s1 with ob := { s.ob with log := s.ob.log ++ [⟨s.now, k, i, bit⟩] } }
      else { s1 with ob := { s.ob with overflow := true } }

/-- Set a Stain bit where a condition holds. -/
def stainIf (b : Bool) (s : State) (off bit : Nat) : State := if b then setStain s off bit else s

/-- Something leaves the module. -/
def emit (s : State) (o : Output) : State := { s with out := s.out ++ [o] }

/-- Something leaves the module over a link. -/
def send (s : State) (m : Msg) : State := emit s (.net m)

/-- The next free byte (notes/assumptions/1.md). -/
def drawByte (s : State) : Byte × State := (Config.freeByte s.free, { s with free := s.free + 1 })

/-- The next free 64-bit value. -/
def drawWord (s : State) : DWord × State := (Config.freeWord s.free, { s with free := s.free + 1 })

/-! ## Boot state and module number -/

/-- TC_BOOT_STATUS.STATE (13 R412). -/
def bootState (s : State) : Nat := rfield s rBootStatus 28 4

/-- Whether the module accepts configuration and work (13 R411). -/
def ready (s : State) : Bool := bootState s == 7

/-- The module number of this boot (00 R12). -/
def moduleNo (s : State) : Nat := rfield s rStraps 16 12

/-! ## Functions, partitions and rings (01 R16) -/

/-- The function that owns ring n while NumVFs = v is in force. -/
def ringOwner (v n : Nat) : Option Nat :=
  if v = 0 ∨ n < 64 then some 0
  else if (n - 64) / 56 + 1 ≤ min v 8 then some ((n - 64) / 56 + 1) else none

/-- The partition of function f. -/
def partOf (v f : Nat) : Option Nat :=
  if v = 0 then (if f = 0 then some 0 else none) else if 1 ≤ f ∧ f ≤ min v 8 then some (f - 1) else none

/-- The function that owns partition p. -/
def partOwner (v p : Nat) : Option Nat := if v = 0 then (if p = 0 then some 0 else none) else if p < min v 8 then some (p + 1) else none

/-- The first vector and the vector count of function f, in the module's 512. -/
def vecBase (v f : Nat) : Nat := if f = 0 then 0 else if v = 0 then 0 else 64 + 56 * (f - 1)
/-- Entries of the table that the PF's MSI-X capability reports, at all times (01 R22). -/
def pfMsixTable : Nat := 512
/-- How many vectors function f holds (01 R16). -/
def vecCount (v f : Nat) : Nat := if f = 0 then (if v = 0 then pfMsixTable else 64) else 56

/-- A BAR as configuration space shows it (01 R21): log2 of its size; all are 64-bit. -/
structure Bar where
  log : Nat
  prefetchable : Bool
  deriving DecidableEq, Repr

/-- log2 of function f's BAR4 size: 30 to 40, and 36 after reset (01 R23). -/
def bar4Log (s : State) (f : Nat) : Nat := tget (fun _ => 36) s.hp.bar4 f

/-- BAR b of function f (01 R21). -/
def barOf (s : State) (f b : Nat) : Option Bar :=
  if b = 0 then some ⟨if f = 0 then 26 else 17, false⟩
  else if b = 2 then some ⟨if f = 0 then 21 else 18, false⟩
  else if b = 4 then some ⟨bar4Log s f, true⟩ else none

/-- Whether offset x lies within BAR b of function f. -/
def inBar (s : State) (f b x : Nat) : Bool := (barOf s f b).any (fun r => decide (x < 2 ^ r.log))

/-- The first ring of function f. -/
def ringBase (f : Nat) : Nat := if f = 0 then 0 else 64 + 56 * (f - 1)

/-- Whether function f answers on the bus (01 R14, R488). -/
def present (s : State) (f : Nat) : Bool := f == 0 || (s.hp.vfOn && decide (f ≤ s.hp.numVfs))

/-- Whether function f can reach host memory (01 R44, R46). -/
def hostOpen (s : State) (f : Nat) : Bool := s.hp.linkUp && !s.hp.stall && present s f && s.hp.bme.getLsbD f

/-- Ring n. -/
def ringOf (s : State) (n : Nat) : Ring := tget (fun _ => ring0) s.hp.rings n

/-- Store ring n. -/
def setRing (s : State) (n : Nat) (r : Ring) : State :=
  { s with hp := { s.hp with rings := tset (fun _ => ring0) s.hp.rings n r } }

/-- ENABLE of a ring. -/
def Ring.enabled (r : Ring) : Bool := r.ctrl.getLsbD 0
/-- Slots of the command ring. -/
def Ring.cmdSize (r : Ring) : Nat := 2 ^ bitsOf r.cfg.toNat 0 5
/-- Entries of the completion ring. -/
def Ring.cplSize (r : Ring) : Nat := 2 ^ bitsOf r.cfg.toNat 8 5
/-- VECTOR. -/
def Ring.vector (r : Ring) : Nat := bitsOf r.cfg.toNat 16 9

/-- Descriptors in flight of ring n: those uncompleted and those held (01 R25). -/
def inFlight (s : State) (n : Nat) : Nat := (s.hp.jobs.filter (fun j => j.ring == n)).length + (ringOf s n).held.length

/-- IDLE: disabled, nothing in flight and nothing held. -/
def ringIdle (s : State) (n : Nat) : Bool := !(ringOf s n).enabled && inFlight s n == 0

/-- The function whose ring n is, or the PF. -/
def fnOfRing (s : State) (n : Nat) : Nat := (ringOwner s.hp.own n).getD 0

/-- The partition in which a descriptor of ring n acts; none: module-wide (01 R17). -/
def partOfRing (s : State) (n : Nat) : Option Nat := (ringOwner s.hp.own n).bind (partOf s.hp.own)

/-- HP_PART_CFG(p).DIES. -/
def diesOf (s : State) (p : Nat) : Nat := rfield s (rPartCfg p) 0 8

/-! ## Descriptors -/

/-- The descriptor with the number id. -/
def job? (s : State) (id : Nat) : Option Job := s.hp.jobs.find? (fun j => j.id == id)

/-- Change the descriptor with the number id. -/
def modJob (s : State) (id : Nat) (f : Job → Job) : State :=
  { s with hp := { s.hp with jobs := s.hp.jobs.map (fun j => if j.id = id then f j else j) } }

/-- A descriptor's opcode (01 R34). -/
def Job.opcode (j : Job) : Nat := bitsOf j.raw.toNat 0 16
/-- Bytes off to off + n - 1 of a descriptor, as a number. -/
def Job.fld (j : Job) (off n : Nat) : Nat := bitsOf j.raw.toNat (8 * off) (8 * n)
/-- Bits [lo + len - 1 : lo] of byte off. -/
def Job.bits (j : Job) (off lo len : Nat) : Nat := bitsOf j.raw.toNat (8 * off + lo) len
/-- Bytes off to off + n - 1 of the extension, as a number; 0 without one. -/
def Job.xfld (j : Job) (off n : Nat) : Nat := match j.ext with
  | some x => bitsOf x.toNat (8 * off) (8 * n)
  | none => 0
/-- Bits of byte off of the extension. -/
def Job.xbits (j : Job) (off lo len : Nat) : Nat := match j.ext with
  | some x => bitsOf x.toNat (8 * off + lo) len
  | none => 0
/-- The sequence number. -/
def Job.seq (j : Job) : Nat := j.fld 4 4
/-- The object id (01 R34). -/
def Job.obj (j : Job) : Nat := bitsOf j.raw.toNat 96 20
/-- The chain flag. -/
def Job.chain (j : Job) : Bool := j.bits 2 3 1 == 1

/-- The partition of descriptor j; partition 0 stands where there is none, which no descriptor that reaches an operation of a
partition has (01 R17). -/
def part (s : State) (j : Job) : Nat := (partOfRing s j.ring).getD 0

/-- A partition virtual address: bits [51:0] of 8 bytes at off. -/
def Job.va (j : Job) (off : Nat) : Nat := j.fld off 8 % 2 ^ 52
/-- The format in bits [59:52] of an address field. -/
def Job.fmt (j : Job) (off : Nat) : Nat := bitsOf (j.fld off 8) 52 8
/-- As `va`, in the extension. -/
def Job.xva (j : Job) (off : Nat) : Nat := j.xfld off 8 % 2 ^ 52

/-- The cores that partition p counts, in order (03 R97, 14 R453): those in service, and those retired that keep their number. -/
def coresOf (s : State) (p : Nat) : List Nat :=
  (List.range 64).filter (fun c => bitOf (diesOf s p) (c / 8) && (!s.boot.retired.getLsbD c || s.boot.keepNum.getLsbD c))

/-- The core that partition p knows under the number k; none where there is none in service. -/
def coreAt (s : State) (p k : Nat) : Option Nat :=
  match (coresOf s p)[k]? with
  | some c => if s.boot.retired.getLsbD c then none else some c
  | none => none

/-- The number of the core that descriptor j names, where its operation names one (03 R97). -/
def Job.coreNo (j : Job) : Option Nat :=
  let op := j.opcode
  if op = 0x0502 then some (j.fmt 48)
  else if op = 0x0200 then some (j.fld 39 1)
  else if op = 0x0202 then some (j.fld 41 1)
  else if op = 0x0203 then some (j.fld 22 1)
  else if op = 0x0300 ∨ op = 0x0904 then some (j.fld 47 1)
  else if 0x0400 ≤ op ∧ op ≤ 0x0404 then some (j.fld 43 1)
  else if op = 0x0507 then some (j.fld 46 1)
  else if [0x0201, 0x0500, 0x0503, 0x0504, 0x0505, 0x0601, 0x0606, 0x0607].contains op then some (j.fld 55 1)
  else none

/-- The core that descriptor j names. -/
def coreOf (s : State) (j : Job) : Option Nat := j.coreNo.bind (coreAt s (part s j))

/-- The die whose engines serve descriptor id; none: the hub. -/
def dieOfJob (s : State) (id : Nat) : Option Nat := ((job? s id).bind (coreOf s)).map (fun c => c / 8)

/-! ## Stream queues (10 R322, R323) -/

/-- Queue q. -/
def queueOf (s : State) (q : Nat) : Queue := tget (fun _ => queue0) s.se.queues q

/-- The dies of partition p, ascending: their partition-local numbers (R323). -/
def partDies (s : State) (p : Nat) : List Nat := (List.range 8).filter (bitOf (diesOf s p))

/-- The queue that bytes 48-50 of j name; none: there is none (R323, R347). -/
def queueNamed (s : State) (j : Job) : Option Nat :=
  let p := part s j
  let q := j.fld 49 1
  let u := j.fld 50 1
  match j.fld 48 1 with
  | 0 => if q < 16 then (coreAt s p u).map (fun c => c * 16 + q) else none
  | 1 => if q < 32 then ((partDies s p)[u]?).map (fun d => 1024 + 32 * d + q) else none
  | 2 => if q < 8 ∧ u = 0 then some (1280 + 8 * p + q) else none
  | _ => none

/-- The ARMs for queue q that have begun and not yet reached it. -/
def armsBegun (s : State) (q : Nat) : List Job :=
  s.hp.jobs.filter (fun j => j.opcode == 0x0100 && j.phase == .checked && queueNamed s j == some q)

/-- An ARM does not begin while its queue has a pending arming, or has one on its way behind the running one (10 R340). -/
def armHolds (s : State) (j : Job) : Bool :=
  j.opcode == 0x0100 && (match queueNamed s j with
  | none => false
  | some q =>
    let x := queueOf s q
    decide (2 ≤ (if x.run.isSome then 1 else 0) + (if x.pend.isSome then 1 else 0) + (armsBegun s q).length))

/-- A DECODE_BATCH does not begin while no ticket counter is left for it (11 R371). -/
def batchHolds (s : State) (j : Job) : Bool :=
  let p := part s j
  j.opcode == 0x0501 && decide (16 ≤ (s.tp.tickets.filter (fun e => e.1 / 256 == p && decide (240 ≤ e.1 % 256) && e.2.job.isSome)).length +
    (s.hp.jobs.filter (fun k => k.opcode == 0x0501 && k.phase == .checked && part s k == p)).length)

/-- What a SWAP finds of queue q as it begins: the full half with the lower-numbered segment that no SWAP before it found (10 R335). -/
def swapFinds (s : State) (q : Nat) : Option Nat :=
  ((queueOf s q).full.filter (fun n => s.se.found.all (fun e => e.2.1 != q || e.2.2 != some n))).min?

/-- The descriptors of partition p that began before the one whose place in the order is n, and have not completed (08 R489). -/
def begunBefore (s : State) (p n : Nat) : List Job :=
  s.hp.jobs.filter (fun k => partOfRing s k.ring == some p && k.order != 0 && decide (k.order < n))

/-- The statuses of 00 R10. -/
def stDone : Nat := 0x0000
def stDoneSoiled : Nat := 0x0001
def stBad : Nat := 0x0100
def stShape : Nat := 0x0101
def stFormat : Nat := 0x0102
def stAccess : Nat := 0x0103
def stTier : Nat := 0x0200
def stMismatch : Nat := 0x0300
def stMemberLost : Nat := 0x0301
def stTimeout : Nat := 0x0302
def stLink : Nat := 0x0400
def stAborted : Nat := 0x0500
def stSuspended : Nat := 0x0600
def stFirmware : Nat := 0x0700

/-- A status with its detail: how a descriptor ends. -/
abbrev Ending := Nat × Nat

/-- Decide how descriptor id ends, now (01 R42). -/
def finish (s : State) (id : Nat) (e : Ending) : State :=
  modJob s id (fun j => { j with phase := .decided, status := e.1, detail := BitVec.ofNat 32 e.2, decidedAt := s.now })

/-- Descriptor id has begun and waits: later descriptors of its ring may begin (01 R31). -/
def markWaits (s : State) (id : Nat) : State := modJob s id (fun j => { j with waits := true })

/-- Descriptor id goes on running. -/
def keepRunning (s : State) (id : Nat) : State := modJob s id (fun j => { j with phase := .running })

/-- DONE, or DONE_SOILED where some output is soiled. -/
def doneOf (soiled : Bool) (detail : Nat) : Ending := (if soiled then stDoneSoiled else stDone, detail)

/-- BAD_DESCRIPTOR with reason FIELD at an offset (01 R37). -/
def fieldErr (off : Nat) : Ending := (stBad, 0x09 + 256 * off)

/-- BAD_DESCRIPTOR with a reason at an offset (01 R37). -/
def badErr (reason off : Nat) : Ending := (stBad, reason + 256 * off)

/-- The descriptor id, where it has been begun and not yet acted on and carries the opcode. -/
def opJob (s : State) (id opcode : Nat) : Option Job :=
  match job? s id with
  | some j => if j.phase = .checked ∧ j.opcode = opcode then some j else none
  | none => none

/-- An operation's row: what `k` makes of the state where descriptor id stands ready for it; else the row is not taken
(notes/assumptions/10.md). -/
def runOp (s : State) (id opcode : Nat) (k : Job → State) : Out :=
  match opJob s id opcode with
  | some j => .next (k j)
  | none => .next s

/-- A row without a descriptor: taken where its condition holds, else nothing happens (notes/assumptions/10.md). -/
def runIf (s : State) (b : Bool) (t : State) : Out := .next (if b then t else s)

/-- The first ending among checks in order. -/
def firstErr (cs : List (Option Ending)) : Option Ending := cs.findSome? id

/-- A check with an ending of its own. -/
def chk (b : Bool) (e : Ending) : Option Ending := if b then some e else none

/-- A field check: the offset of the field's first byte where the condition holds. -/
def bad (b : Bool) (off : Nat) : Option Nat := if b then some off else none

/-- The first non-zero byte of bytes a to b - 1 of a descriptor (0-63) or its extension (64-127), which are reserved (01 R37). -/
def rsvd (j : Job) (a b : Nat) : Option Nat :=
  ((List.range b).drop a).find? (fun o => (if o < 64 then j.fld o 1 else j.xfld (o - 64) 1) != 0)

/-- Check 9 of 01 R37: the lowest offending byte (notes/assumptions/11.md). -/
def fields (cs : List (Option Nat)) : Option Ending := (cs.filterMap id).min?.map fieldErr

/-- A host address out of 01 R25's pairs or a field, aligned as asked. -/
def aligned (a n : Nat) : Bool := a % n == 0

/-! ## Snapshot slots (14 R443-R445) -/

/-- Snapshot slot k. -/
def snapOf (s : State) (k : Nat) : Snap := tget (fun _ => snap0) s.ob.snaps k

/-- Store snapshot slot k. -/
def setSnap (s : State) (k : Nat) (x : Snap) : State := { s with ob := { s.ob with snaps := tset (fun _ => snap0) s.ob.snaps k x } }

/-- Whether slot x refuses a trigger of snapshot sid at t (14 R445). -/
def snapClash (x : Snap) (sid : Nat) (t : DWord) : Bool := x.state == 1 && !(x.sid == sid && x.t == t)

/-- Snapshot sid at t awaits its latch, with the descriptors that wait for it. -/
def addTrigger (s : State) (sid : Nat) (t : DWord) (jobs : List Nat) : State :=
  let x := snapOf s (sid % 4)
  setSnap s (sid % 4) (if x.state = 1 then { x with jobs := x.jobs ++ jobs } else ⟨1, sid, t, jobs, false, [], []⟩)

/-- Check 9 of SNAPSHOT j, which begins at `now` (14 R444, R459). -/
def snapshotErr (j : Job) (now : DWord) : Option Ending :=
  fields [bad (decide (j.fld 16 8 ≤ now.toNat)) 16, bad (j.bits 26 1 7 != 0) 26, rsvd j 27 56]

/-! ## Pegs (01 R38-R40) -/

/-- Peg i of partition p. -/
def pegOf (s : State) (p i : Nat) : DWord := tget dw0 s.hp.pegs (p * 4096 + i)

/-- Set peg i of partition p. -/
def setPeg (s : State) (p i : Nat) (v : DWord) : State :=
  { s with hp := { s.hp with pegs := tset dw0 s.hp.pegs (p * 4096 + i) v } }

/-- Add to peg i of partition p, modulo 2^64. -/
def addPeg (s : State) (p i : Nat) (v : DWord) : State := setPeg s p i (pegOf s p i + v)

/-! ## Interrupts (01 R45, R46) -/

/-- Vector g of the module's 512. -/
def msixOf (s : State) (g : Nat) : Msix := tget (fun _ => msix0) s.hp.msix g

/-- Store vector g. -/
def setMsix (s : State) (g : Nat) (m : Msix) : State :=
  { s with hp := { s.hp with msix := tset (fun _ => msix0) s.hp.msix g m } }

/-- The function that vector g serves. -/
def vecOwner (v g : Nat) : Nat := if v = 0 ∨ g < 64 then 0 else (g - 64) / 56 + 1

/-- Owe the message of vector g until what is held for it has been written (01 R46). -/
def owe (s : State) (g : Nat) : State :=
  if s.hp.owed.contains g then s else { s with hp := { s.hp with owed := s.hp.owed ++ [g] } }

/-- Raise vector g: a message, a pending bit where masked, or a message owed where the host is out of reach. -/
def raise (s : State) (g : Nat) : State :=
  let m := msixOf s g
  let f := vecOwner s.hp.own g
  if m.mask then setMsix s g { m with pend := true }
  else if hostOpen s f then emit s (.msix f g m.addr m.data)
  else owe s g

/-- Whether ring n's completion ring is full (01 R44). -/
def cplFull (r : Ring) : Bool := (r.cplTail + 1) % r.cplSize == r.cplHead

/-- Whether a ring that raises vector g still has completions to write that were held while host memory was out of reach. -/
def vecWaits (s : State) (g : Nat) : Bool :=
  s.hp.rings.any (fun e => vecBase s.hp.own (fnOfRing s e.1) + e.2.vector == g && e.2.held.any (·.shut) && !cplFull e.2)

/-- Send the messages owed of the functions that host memory is open to again, one per vector, once the held completions of the
vector have been written (01 R46). -/
def sendOwed (s : State) : State :=
  let ok := s.hp.owed.filter (fun g => hostOpen s (vecOwner s.hp.own g) && !vecWaits s g)
  ok.foldl raise { s with hp := { s.hp with owed := s.hp.owed.filter (fun g => !ok.contains g) } }

/-- A write to host memory by function f (01 R43, R46). -/
def hostPut (s : State) (f addr : Nat) (bs : List Byte) (poison : Bool) : State :=
  count (emit s (.hostWrite f addr bs poison)) 1478 bs.length

end Sys2Proof.Machine
end

