-- ==== Sys2Proof/Machine/Mem.lean ====
section
/-! DEFINITION. Memory, soil, objects, pages and tier faults (spec 08): the one way in which every meaning reads and writes the
unified range and the core buffers, and how accesses pass the dies' cache parts on their way to HBM. -/

namespace Sys2Proof.Machine

/-! ## Bytes and soil -/

/-- Address a of place k (`StStore`). -/
def akey (k a : Nat) : Nat := k * 2 ^ 52 + a

/-- The place of core c's buffer. -/
def bufPlace (c : Nat) : Nat := 8 + c

/-- The default of a byte of memory: 0 (08 R256; notes/assumptions/3.md). -/
def byte0 (_ : Nat) : Byte := 0
/-- The default of a soil mark: clean. -/
def clean (_ : Nat) : Bool := false

/-- The byte at address a of place k. -/
def byteAt (s : State) (k a : Nat) : Byte := tget byte0 s.tm.mem (akey k a)

/-- n bytes from address a of place k. -/
def bytesAt (s : State) (k a n : Nat) : List Byte := tgetMany byte0 s.tm.mem (akey k a) n

/-- The little-endian number of n bytes at address a of place k. -/
def numAt (s : State) (k a n : Nat) : Nat := ofLe (bytesAt s k a n)

/-- Whether the 64-byte unit of address a of place k is soiled (08 R281). -/
def unitSoil (s : State) (k a : Nat) : Bool := tget clean s.tm.soil (akey k a / 64)

/-- Whether any of n bytes from address a of place k lies in a soiled unit. -/
def soiledAt (s : State) (k a n : Nat) : Bool :=
  n != 0 && (List.range ((akey k a + n - 1) / 64 + 1 - akey k a / 64)).any (fun i => tget clean s.tm.soil (akey k a / 64 + i))

/-- The soil of unit u after a write of bytes [x, y) whose soil is `soil` by byte offset from x (08 R281). -/
def unitAfter (old : Bool) (u x y : Nat) (soil : Nat → Bool) : Bool :=
  let lo := max x (64 * u)
  let hi := min y (64 * u + 64)
  if (List.range (hi - lo)).any (fun i => soil (lo - x + i)) then true
  else if lo = 64 * u ∧ hi = 64 * u + 64 then false else old

/-- Write bytes at address a of place k with the soil of each (08 R281). -/
def writeAt (s : State) (k a : Nat) (bs : List Byte) (soil : Nat → Bool) : State :=
  if bs.isEmpty then s else
  let x := akey k a
  let y := x + bs.length
  let units := (List.range ((y - 1) / 64 + 1 - x / 64)).map (fun i => x / 64 + i)
  { s with tm := { s.tm with
    mem := tsetMany byte0 s.tm.mem x bs
    nans := tdrop s.tm.nans (fun q => decide (x < q + 20) && decide (q < y))
    soil := units.foldl (fun t u => tset clean t u (unitAfter (tget clean t u) u x y soil)) s.tm.soil } }

/-- No byte is soiled. -/
def noSoil (_ : Nat) : Bool := false
/-- Every byte is soiled. -/
def allSoil (_ : Nat) : Bool := true

/-- Drop n bytes from address a of place k: they read 0 and clean (08 R256). -/
def eraseAt (s : State) (k a n : Nat) : State :=
  let x := akey k a
  { s with tm := { s.tm with
    mem := tdrop s.tm.mem (fun q => decide (x ≤ q) && decide (q < x + n))
    nans := tdrop s.tm.nans (fun q => decide (x < q + 20) && decide (q < x + n))
    soil := tdrop s.tm.soil (fun u => decide (x ≤ 64 * u) && decide (64 * u < x + n)) } }

/-! ## Objects and pages -/

/-- The object of partition p that covers address va. -/
def objAt (s : State) (p va : Nat) : Option Obj :=
  s.tm.objs.find? (fun o => o.p == p && decide (o.base ≤ va) && decide (va < o.base + o.size))

/-- The opcode that frees an object of the kind (08 R489). -/
def freeOp (kind : Nat) : Nat := if kind = 1 then 0x0603 else if kind = 2 then 0x0901 else 0x0701

/-- The place in the order of begins of the first free of object o that has begun (08 R489). -/
def freeAt (s : State) (o : Obj) : Option Nat :=
  ((s.hp.jobs.filter (fun j => j.opcode == freeOp o.kind && j.obj == o.id && (j.phase == .checked || j.phase == .running) &&
    partOfRing s j.ring == some o.p && (rsvd j 16 56).isNone)).map (fun j => j.order)).min?

/-- Whether descriptor job may name object o and reach its span (08 R489): no free of it began before the descriptor did. -/
def mayReach (s : State) (o : Obj) (job : Nat) : Bool :=
  match freeAt s o with
  | none => true
  | some n => (job? s job).any (fun j => decide (j.order ≤ n))

/-- The object of partition p with the id, as descriptor `job` names it: not one whose free began before (08 R489). -/
def objNamed (s : State) (p id job : Nat) : Option Obj :=
  s.tm.objs.find? (fun o => o.p == p && o.id == id && mayReach s o job)

/-- The region of partition p with the id. -/
def regionOf (s : State) (p id : Nat) : Option Region := s.tm.regions.find? (fun r => r.p == p && r.id == id)

/-- Change the region of partition p with the id. -/
def modRegion (s : State) (p id : Nat) (f : Region → Region) : State :=
  { s with tm := { s.tm with regions := s.tm.regions.map (fun r => if r.p = p ∧ r.id = id then f r else r) } }

/-- Change the object of partition p with the id. -/
def modObj (s : State) (p id : Nat) (f : Obj → Obj) : State :=
  { s with tm := { s.tm with objs := s.tm.objs.map (fun o => if o.p = p ∧ o.id = id then f o else o) } }

/-- Bytes of the page of object o that holds address va (06 R170, 08 R250). -/
def pageSize (o : Obj) (va : Nat) : Nat := if va < o.base + o.head then 4096 else 2 ^ (12 + o.sz)

/-- The first byte of the page of object o that holds va. -/
def pageBase (o : Obj) (va : Nat) : Nat := va - va % pageSize o va

/-! Planes of a KV region (06 R173). -/

/-- n = L_max / 64. -/
def Region.nodes (r : Region) : Nat := r.lmax / 64
/-- E. -/
def Region.envBytes (r : Region) : Nat := roundUp (r.layers * r.hkv * 2 * r.d) 4096
/-- The segment plane's offset. -/
def Region.segOff (r : Region) : Nat := 4096 + r.nodes * r.envBytes
/-- The tree plane's offset. -/
def Region.treeOff (r : Region) : Nat := r.segOff + (if r.segs then roundUp (r.nodes * 256) 4096 else 0)
/-- n_1. -/
def Region.n1 (r : Region) : Nat := r.lmax / 4096
/-- n_2. -/
def Region.n2 (r : Region) : Nat := cdiv r.lmax 262144
/-- S. -/
def Region.treeBytes (r : Region) : Nat := roundUp (2 * r.d * (r.n1 + r.n2 + 2) + 32 + 16 * r.n1) 4096
/-- The data plane's offset. -/
def Region.dataOff (r : Region) : Nat := roundUp (r.treeOff + r.layers * r.hkv * r.treeBytes) (2 ^ r.logP)
/-- Key and value bits. -/
def Region.kbits (r : Region) : Nat := if r.k4 then 4 else 8
/-- Value bits per code. -/
def Region.vbits (r : Region) : Nat := if r.v4 then 4 else 8
/-- BB (06 Layout). -/
def Region.blockBytes (r : Region) : Nat := 8 * r.d * (r.kbits + r.vbits) + 4 * r.d
/-- D. -/
def Region.nodeBytes (r : Region) : Nat := roundUp (r.layers * r.hkv * r.blockBytes) (2 ^ r.logP)
/-- The region's span. -/
def Region.span (r : Region) : Nat := r.dataOff + r.nodes * r.nodeBytes

/-! ## Nodes that regions share (06 R181-R186) -/

/-- The node of region r, and the offset in the node's pages, that address va shows: its data pages come before its envelope pages. -/
def Region.nodeAt (r : Region) (va : Nat) : Option (Nat × Nat) :=
  let x := va - r.base
  if va < r.base then none
  else if 4096 ≤ x ∧ x < r.segOff then some ((x - 4096) / r.envBytes, r.nodeBytes + (x - 4096) % r.envBytes)
  else if r.dataOff ≤ x ∧ x < r.span then some ((x - r.dataOff) / r.nodeBytes, (x - r.dataOff) % r.nodeBytes)
  else none

/-- The address of offset off of node j of region r. -/
def Region.spot (r : Region) (j off : Nat) : Nat :=
  if off < r.nodeBytes then r.base + r.dataOff + j * r.nodeBytes + off else r.base + 4096 + j * r.envBytes + (off - r.nodeBytes)

/-- The pattern key of the shared node that address va of partition p shows, and the offset in its pages (06 R183). -/
def aliasOf (s : State) (p va : Nat) : Option (Nat × Nat) :=
  s.tm.regions.findSome? (fun r =>
    if r.p = p ∧ !r.shared.isEmpty then
      (r.nodeAt va).bind (fun e => (tget (fun _ => none) r.shared e.1).map (fun k => (k, e.2)))
    else none)

/-- The regions of partition p that map the node with the key, with the nodes. -/
def mapsOf (s : State) (p key : Nat) : List (Region × Nat) :=
  (s.tm.regions.filter (fun r => r.p == p)).flatMap (fun r => (r.shared.filter (fun e => e.2 == some key)).map (fun e => (r, e.1)))

/-- The addresses that show the same byte as address va of partition p. -/
def spotsOf (s : State) (p va : Nat) : List Nat :=
  match aliasOf s p va with
  | some (k, off) => (mapsOf s p k).map (fun e => e.1.spot e.2 off)
  | none => [va]

/-- The pattern tables of partition p. -/
def patsOf (s : State) (p : Nat) : Patterns := tget (fun _ => pat0) s.tm.pats p

/-- The entries of tables, each key once. -/
def entriesOf (ts : List PatTable) : List PatEntry :=
  ts.foldl (fun acc t => acc ++ (t.entries.map (fun e => e.2)).filter (fun e => acc.all (fun x => x.key != e.key))) []

/-- The entries whose nodes the pattern store of partition p holds (06 R184, R195): those of its current generation, and those that only
a shadow or a draining one has. -/
def storeEntries (s : State) (p : Nat) : List PatEntry :=
  let x := patsOf s p
  entriesOf (x.cur.toList ++ x.shadow.toList.map (fun e => e.1) ++ x.drain.toList.map (fun e => e.1))

/-- The entry with the key in the pattern store of partition p. -/
def storeEntry (s : State) (p key : Nat) : Option PatEntry := (storeEntries s p).find? (fun e => e.key.toNat == key)

/-- Change the node of a key in the pattern store of partition p. -/
def modStore (s : State) (p key : Nat) (f : PatEntry → PatEntry) : State :=
  let g (t : PatTable) : PatTable := { t with entries := t.entries.map (fun e => if e.2.key.toNat = key then (e.1, f e.2) else e) }
  let x := patsOf s p
  { s with tm := { s.tm with pats := tset (fun _ => pat0) s.tm.pats p ⟨x.cur.map g, x.shadow.map (fun e => (g e.1, e.2)),
    x.drain.map (fun e => (g e.1, e.2))⟩ } }

/-! ## Pages -/

/-- The policy that the page at va of object o follows (08 R254, R255): of a shared node, SPILL where every region that maps it is
spillable (06 R185). -/
def policyAt (s : State) (o : Obj) (va : Nat) : Nat :=
  if o.kind = 1 then
    match regionOf s o.p o.id with
    | some r =>
      let x := va - o.base
      let mine := r.spill && ((decide (4096 ≤ x) && decide (x < r.segOff)) || decide (r.dataOff ≤ x))
      let all := match aliasOf s o.p va with
        | some (k, _) => (mapsOf s o.p k).all (fun e => e.1.spill)
        | none => true
      if mine && all then 1 else 0
    | none => 0
  else o.policy

/-- The page of its own that partition p's address va has, the first of the page. -/
def ownPage (s : State) (p va : Nat) : Option Page := tget (fun _ => none) s.tm.pages (akey p va)

/-- Store such a page. -/
def setOwn (s : State) (p va : Nat) (g : Option Page) : State :=
  { s with tm := { s.tm with pages := tset (fun _ => none) s.tm.pages (akey p va) g } }

/-- The backed page whose first byte is va: of a shared node, the pattern store's (06 R183). -/
def pageOf (s : State) (p va : Nat) : Option Page :=
  match aliasOf s p va with
  | some (k, off) => (storeEntry s p k).bind (fun e => tget (fun _ => none) e.pages off)
  | none => ownPage s p va

/-- Store a page. -/
def setPage (s : State) (p va : Nat) (g : Option Page) : State :=
  match aliasOf s p va with
  | some (k, off) => modStore s p k (fun e => { e with pages := tset (fun _ => none) e.pages off g })
  | none => setOwn s p va g

/-- Holders of the page whose first byte is va. -/
def holdsOf (s : State) (p va : Nat) : Nat := tget (fun _ => 0) s.tm.holds (akey p va)

/-- Store the holders of a page. -/
def setHolds (s : State) (p va n : Nat) : State :=
  { s with tm := { s.tm with holds := tset (fun _ => 0) s.tm.holds (akey p va) n } }

/-- HOLD of the page whose first byte is va (08 R263): some holder remains, through whichever region it came. -/
def heldAt (s : State) (p va : Nat) : Bool := (spotsOf s p va).any (fun a => holdsOf s p a != 0)

/-- The pages that [va, e) of partition p overlaps: object (none: no object there), first byte, size; `fuel` bounds them. -/
def pagesIn (s : State) (p : Nat) : Nat → Nat → Nat → List (Option Obj × Nat × Nat)
  | 0, _, _ => []
  | fuel + 1, va, e =>
    if e ≤ va then [] else
    match objAt s p va with
    | none => [(none, va, 4096)]
    | some o =>
      let b := pageBase o va
      let n := pageSize o va
      (some o, b, n) :: pagesIn s p fuel (b + n) e

/-- Tier 1 in bytes (00 R1). -/
def tier1Bytes : Nat := 768000000000

/-- The pages of their own of all partitions: partition, first byte, page. -/
def ownPages (s : State) : List (Nat × Nat × Page) :=
  s.tm.pages.filterMap (fun e => e.2.map (fun g => (e.1 / 2 ^ 52, e.1 % 2 ^ 52, g)))

/-- The pages of the pattern stores: partition, key, offset, page. -/
def storePages (s : State) : List (Nat × Nat × Nat × Page) :=
  s.tm.pats.flatMap (fun x => (storeEntries s x.1).flatMap (fun e =>
    e.pages.filterMap (fun y => y.2.map (fun g => (x.1, e.key.toNat, y.1, g)))))

/-- Change every backed page. -/
def mapPages (s : State) (f : Page → Page) : State :=
  let g (t : PatTable) : PatTable := { t with entries := t.entries.map (fun e =>
    (e.1, { e.2 with pages := e.2.pages.map (fun y => (y.1, y.2.map f)) })) }
  { s with tm := { s.tm with
    pages := s.tm.pages.map (fun e => (e.1, e.2.map f))
    pats := s.tm.pats.map (fun e => (e.1, ⟨e.2.cur.map g, e.2.shadow.map (fun x => (g x.1, x.2)), e.2.drain.map (fun x => (g x.1, x.2))⟩)) } }

/-- The backed pages with their partition and first byte; of a shared node, where the first region that maps it shows it. -/
def allPages (s : State) : List (Nat × Nat × Page) :=
  ownPages s ++ (storePages s).filterMap (fun x => ((mapsOf s x.1 x.2.1).head?).map (fun m => (x.1, m.1.spot m.2 x.2.2.1, x.2.2.2)))

/-- Whether a page takes Tier 1 (08 R291): from its allocation by first write or by fetch. -/
def Page.inT1 (g : Page) : Bool := g.tier == 1 || g.moving == 1

/-- What partition p's tables map: first byte and size. -/
def mappings (s : State) (p : Nat) : List (Nat × Nat) :=
  ((ownPages s).filter (fun e => e.1 == p)).map (fun e => (e.2.1, e.2.2.size)) ++
  ((storePages s).filter (fun x => x.1 == p)).flatMap (fun x => (mapsOf s p x.2.1).map (fun m => (m.1.spot m.2 x.2.2.1, x.2.2.2.size)))

/-- Page-table nodes of partition p (08 R250): the root and one per span that a mapped page lies in. -/
def tableNodes (s : State) (p : Nat) : Nat :=
  let ps := mappings s p
  let l2 := (ps.map (fun e => e.1 / 2 ^ 42)).dedup
  let l1 := (ps.map (fun e => e.1 / 2 ^ 32)).dedup
  let l0 := ((ps.filter (fun e => e.2 < 2 ^ 22)).map (fun e => e.1 / 2 ^ 22)).dedup
  if ps.isEmpty then 0 else 1 + l2.length + l1.length + l0.length

/-- Tier 1 bytes of pages (08 R291): each whole, with 8 bytes a tile for the cached tile map of one that has a Tier 2 copy
(notes/assumptions/42.md). -/
def t1Bytes (gs : List Page) : Nat :=
  ((gs.filter Page.inT1).map (fun g => g.size + (if g.t2 then g.size / 512 else 0))).sum

/-- TM_T1_USED in bytes (08 R291). -/
def t1Used (s : State) (p : Nat) : Nat :=
  t1Bytes (((ownPages s).filter (fun e => e.1 == p)).map (fun e => e.2.2)) +
  t1Bytes (((storePages s).filter (fun e => e.1 == p)).map (fun e => e.2.2.2)) + tableNodes s p * 16384

/-- Tier 1 in use by every partition. -/
def t1Total (s : State) : Nat := ((List.range 8).map (t1Used s)).sum

/-- Whether partition p stands at its non-zero quota where it needs n more bytes of Tier 1 (08 R261). -/
def atQuota (s : State) (p n : Nat) : Bool :=
  let q := rfield s (rTmPart p) 0 16
  q != 0 && decide (q * 2 ^ 30 < t1Used s p + n)

/-- Whether n more bytes of Tier 1 fit partition p's quota and the tier (08 R261). -/
def roomFor (s : State) (p n : Nat) : Bool := !atQuota s p n && decide (t1Total s + n ≤ tier1Bytes)

/-- Whether the carrier takes traffic (08 R490). -/
def deepReady (s : State) : Bool := rfield s rDtStatus 30 1 == 1

/-- The key of partition p. -/
def keyOf (s : State) (p : Nat) : Option DeepKey := tget (fun _ => none) s.tm.keys p

/-- Whether TM may evict the page at va of partition p at all (08 R263): DEEP or SPILL, not held, its partition's key loaded. -/
def mayLeave (s : State) (p va : Nat) : Bool :=
  (keyOf s p).isSome && !heldAt s p va &&
  (match objAt s p va with
   | some o => policyAt s o va == 1 || policyAt s o va == 3
   | none => false)

/-- Whether a page may be evicted now (08 R262, R263): it is in Tier 1 at rest; a dirty one needs the carrier. -/
def evictable (s : State) (p va : Nat) (g : Page) : Bool :=
  g.tier == 1 && g.moving == 0 && (g.dirty == 0 || deepReady s) && mayLeave s p va

/-- Whether a demand of partition p may take a page of partition q (08 R261): a partition at or below a non-zero quota loses
none to another's. -/
def mayTake (s : State) (p q : Nat) : Bool :=
  let quota := rfield s (rTmPart q) 0 16
  q == p || quota == 0 || decide (quota * 2 ^ 30 < t1Used s q)

/-- The oldest of pattern entries that no region maps (06 R185). -/
def oldestFree (es : List (Nat × PatEntry)) : Option (Nat × PatEntry) :=
  (es.filter (fun e => e.2.refs == 0)).foldl (fun o e => match o with
    | none => some e
    | some x => if e.2.time.toNat < x.2.time.toNat then some e else o) none

/-- The oldest pattern cache entry with no reference among the partitions that `ok` picks and that have a key (08 R262, R263):
partition and key. -/
def oldEntry (s : State) (ok : Nat → Bool) : Option (Nat × Nat) :=
  (oldestFree (((List.range 8).filter (fun p => ok p && (keyOf s p).isSome)).flatMap (fun p => match (patsOf s p).cur with
    | some t => t.entries.map (fun e => (p, e.2))
    | none => []))).map (fun e => (e.1, e.2.key.toNat))

/-- Whether some page is on its way out, can be evicted or be released for partition p, which needs n bytes: at its quota, one of its own
(08 R261, R262). -/
def canEvict (s : State) (p n : Nat) : Bool :=
  let ok (q : Nat) : Bool := if atQuota s p n then q == p else mayTake s p q
  (allPages s).any (fun e => ok e.1 && (e.2.2.moving == 2 || evictable s e.1 e.2.1 e.2.2)) || (oldEntry s ok).isSome

/-- The causes of TIER_FAULT (08 R274). -/
def cUnmapped : Nat := 1
def cNoRoom : Nat := 2
def cDeepAbsent : Nat := 3
def cKeyAbsent : Nat := 4
def cDeepFull : Nat := 5
def cTableSoil : Nat := 6
def cDigest : Nat := 7

/-- Why Tier 2 cannot be reached for partition p. -/
def deepErr (s : State) (p : Nat) : Option Nat :=
  if !deepReady s then some cDeepAbsent else if (keyOf s p).isNone then some cKeyAbsent else none

/-- A TIER_FAULT ending (08 R273). -/
def tierErr (cause oid : Nat) : Ending := (stTier, cause + 256 * (oid % 2 ^ 20))

/-- NO_ROOM and DEEP_FULL set their Stain bits (08 R291). -/
def stainCause (s : State) (cause : Nat) : State :=
  if cause = cNoRoom then setStain s rTmStain 0
  else if cause = cDeepFull then setStain s rTmStain 1
  else if cause = cTableSoil then setStain s rTmStain 3 else s

/-! ## Page tables (08 R250-R252) -/

/-- The nodes that a walk to the page of `size` bytes at va reads: level and number among the nodes of the level. -/
def walkNodes (va size : Nat) : List (Nat × Nat) :=
  [(3, 0), (2, va / 2 ^ 42), (1, va / 2 ^ 32)] ++ (if size < 2 ^ 22 then [(0, va / 2 ^ 22)] else [])

/-- Whether copy c of a node of partition p is uncorrectable. -/
def badCopy (s : State) (p : Nat) (n : Nat × Nat) (c : Nat) : Bool := s.tm.badNodes.contains (p, n.1, n.2, c)

/-- Whether a walk finds both copies of some node uncorrectable (08 R274). -/
def deadWalk (s : State) (p va size : Nat) : Bool :=
  !s.tm.badNodes.isEmpty && (walkNodes va size).any (fun n => badCopy s p n 0 && badCopy s p n 1)

/-- A walk uses the good copy of a node and rewrites the bad one (08 R252, R291). -/
def walk (s : State) (p va size : Nat) : State :=
  if s.tm.badNodes.isEmpty then s else
  (walkNodes va size).foldl (fun t n =>
    if badCopy t p n 0 != badCopy t p n 1 then
      setStain { t with tm := { t.tm with badNodes := t.tm.badNodes.filter (fun e => !(e.1 == p && e.2.1 == n.1 && e.2.2.1 == n.2)) } }
        rTmStain 3
    else t) s

/-! ## HBM and the dies' cache parts (00 R4, 08 R257, R260; 14 R440) -/

/-- Over which stacks the pages of partition p interleave as they are placed (08 R257): with LOCALITY, those of the base die next to its
dies where all lie on one side (notes/assumptions/43.md). -/
def spreadOf (s : State) (p : Nat) : Nat :=
  let d := diesOf s p
  if rfield s (rPartCtrl p) 2 1 = 0 then 0 else if d < 16 then 1 else if d % 16 = 0 then 2 else 0

/-- The stacks of an interleave. -/
def stacksOf (spread : Nat) : List Nat :=
  if spread = 1 then List.range 6 else if spread = 2 then (List.range 6).map (· + 6) else List.range 12

/-- The stack that holds tile t of a page in Tier 1: 4 KiB of physical address after 4 KiB (00 R4). -/
def Page.stack (g : Page) (t : Nat) : Nat :=
  let l := stacksOf g.spread
  l.getD ((g.frame.toNat / 4096 + t) % l.length) 0

/-- n bytes at offset off of a page, within a tile, are read from its stack or written to it (14 R440). -/
def hbmMove (s : State) (g : Page) (off n : Nat) (write : Bool) : State :=
  count s (1344 + 4 * g.stack (off / 4096) + (if write then 1 else 0)) n

/-- Bytes [x, y) of a page are read from HBM or written to it, tile by tile. -/
def hbmSpan (s : State) (g : Page) (x y : Nat) (write : Bool) : State :=
  ((List.range ((y + 4095) / 4096 - x / 4096)).map (fun i => x / 4096 + i)).foldl (fun t k =>
    let lo := max x (4096 * k)
    let hi := min y (4096 * k + 4096)
    hbmMove t g lo (hi - lo) write) s

/-- The page of Tier 1 that line number t lies in, and the line's offset in it. -/
def pageOfLine (s : State) (t : Nat) : Option (Page × Nat) :=
  let p := t * 512 / 2 ^ 52
  let a := t * 512 % 2 ^ 52
  (objAt s p a).bind (fun o => (pageOf s p (pageBase o a)).map (fun g => (g, a - pageBase o a)))

/-- A dirty line of die d goes to Tier 1 (08 R260). -/
def writeBackLine (s : State) (d : Nat) (l : Line) : State :=
  let s1 := count s (1024 + 16 * d + 11) 1
  match pageOfLine s l.tag with
  | some (g, off) => hbmMove s1 g off 512 true
  | none => s1

/-- Sets of die d's cache part: the pool less what is scratch, 16 ways of 512 bytes (08 R258, R260). -/
def cacheSets (s : State) (d : Nat) : Nat := (8 - tget (fun _ => 0) s.tm.split d) * 2 ^ 27 / 8192

/-- Way w of the set that line number t falls into, in die d (notes/assumptions/36.md). -/
def lineKey (s : State) (d t w : Nat) : Nat := d * 2 ^ 32 + t % cacheSets s d * 16 + w

/-- An access of die d's engines to line t, at offset off of page g of Tier 1 (08 R260). -/
def cacheLine (s : State) (d t : Nat) (g : Page) (off : Nat) (write : Bool) : State :=
  let way (w : Nat) : Option Line := tget (fun _ => none) s.tm.cache (lineKey s d t w)
  let ws := List.range 16
  let put (u : State) (w : Nat) (l : Line) : State :=
    { u with tm := { u.tm with cache := tset (fun _ => none) u.tm.cache (lineKey u d t w) (some l) } }
  match ws.find? (fun w => (way w).any (fun l => l.tag == t)) with
  | some w => count (put s w ⟨t, 0, write || (way w).any (fun l => l.dirty)⟩) (1024 + 16 * d + 9) 1
  | none =>
    let victim := match ws.find? (fun w => (way w).isNone) with
      | some w => w
      | none => ws.foldl (fun b w => if ((way b).map (fun l => l.age)).getD 0 < ((way w).map (fun l => l.age)).getD 0 then w else b) 0
    let s1 := match way victim with
      | some l => if l.dirty then writeBackLine s d l else s
      | none => s
    let s2 := ws.foldl (fun u w => match way w with
      | some l => if w ≠ victim ∧ l.age < 7 then put u w { l with age := l.age + 1 } else u
      | none => u) s1
    hbmMove (count (put s2 victim ⟨t, 0, write⟩) (1024 + 16 * d + 10) 1) g off 512 false

/-- Invalidate the lines that `f` picks by die and line number, writing back the dirty ones (08 R258, R260). -/
def dropLines (s : State) (f : Nat → Nat → Bool) : State :=
  let hit (e : Nat × Option Line) : Bool := e.2.any (fun l => f (e.1 / 2 ^ 32) l.tag)
  let s1 := (s.tm.cache.filter hit).foldl (fun t e => match e.2 with
    | some l => if l.dirty then writeBackLine t (e.1 / 2 ^ 32) l else t
    | none => t) s
  { s1 with tm := { s1.tm with cache := s1.tm.cache.filter (fun e => !hit e) } }

/-- Bytes [x, y) of page g at va of partition p are read or written by the engines of die d (none: by the hub): through the die's cache
part, a write after the copies in other pools are gone; straight to Tier 1 where there is no cache part (08 R260). -/
def poolAccess (s : State) (who : Option Nat) (p va : Nat) (g : Page) (x y : Nat) (write : Bool) : State :=
  let line (i : Nat) : Nat := akey p (va + i) / 512
  let s1 := if write ∧ !s.tm.cache.isEmpty then
      dropLines s (fun d t => who != some d && decide (line x ≤ t) && decide (t ≤ line (y - 1)))
    else s
  match who with
  | some d =>
    if cacheSets s d = 0 then hbmSpan s1 g x y write
    else ((List.range (line (y - 1) + 1 - line x)).map (fun i => line x + i)).foldl (fun t l =>
      cacheLine t d l g (l * 512 - akey p va) write) s1
  | none => hbmSpan s1 g x y write

/-! ## Accesses and tier faults (08 R256, R265, R270, R273) -/

/-- A span that an operation reads or writes: place, address, bytes. -/
structure Span where
  place : Nat
  addr : Nat
  len : Nat
  write : Bool
  deriving DecidableEq, Repr

/-- A span read. -/
def rd (k a n : Nat) : Span := ⟨k, a, n, false⟩
/-- A span written. -/
def wr (k a n : Nat) : Span := ⟨k, a, n, true⟩

/-- What the tiers say to an operation's accesses. -/
inductive TierSays where
  | go
  | wait (ws : List TierWait)
  | fault (cause oid : Nat)
  deriving DecidableEq, Repr

/-- What one page says to an access of descriptor job: a fetch that was made serves a read, and a write only while the page stays. -/
def pageSays (s : State) (job : Nat) (write : Bool) (p va : Nat) (oid : Nat) : TierSays :=
  match pageOf s p va with
  | none => .go
  | some g =>
    if deadWalk s p va g.size then .fault cTableSoil oid
    else if g.tier ≠ 2 ∧ g.moving ≠ 1 then .go
    else match s.tm.waits.find? (fun w => w.job == job && w.p == p && w.page == va) with
      | some w =>
        if w.st = 3 then .fault w.cause oid
        else if w.st = 2 then (if write then .wait [⟨p, va, oid, job, 0, 0⟩] else .go) else .wait []
      | none => .wait [⟨p, va, oid, job, 0, 0⟩]

/-- Whether a write to the page at va must first back it: nothing is there, or a shared node's page, which the writer copies (08 R256, 06
R186). -/
def needsPage (s : State) (p va : Nat) : Bool := (ownPage s p va).isNone

/-- What the tiers say to one span of descriptor job, and the pages that it would back: partition, first byte, size, object. -/
def spanSays (s : State) (job : Nat) (x : Span) : TierSays × List (Nat × Nat × Nat × Nat) :=
  if 8 ≤ x.place then (.go, []) else
  (pagesIn s x.place (x.len / 4096 + 2) x.addr (x.addr + x.len)).foldl (fun acc pg =>
    match acc.1, pg.1 with
    | .fault c o, _ => (.fault c o, acc.2)
    | _, none => (.fault cUnmapped 0, acc.2)
    | a, some o =>
      if !mayReach s o job then (.fault cUnmapped o.id, acc.2) else
      let new := if x.write && needsPage s x.place pg.2.1 then [(x.place, pg.2.1, pg.2.2, o.id)] else []
      match pageSays s job x.write x.place pg.2.1 o.id, a with
      | .fault c i, _ => (.fault c i, acc.2)
      | .wait ws, .wait vs => (.wait (vs ++ ws), acc.2 ++ new)
      | .wait ws, _ => (.wait ws, acc.2 ++ new)
      | .go, a => (a, acc.2 ++ new)) (.go, [])

/-- What the tiers say to all of an operation's spans, and the pages that it would back. -/
def tierSays (s : State) (job : Nat) (xs : List Span) : TierSays × List (Nat × Nat × Nat × Nat) :=
  let r := xs.foldl (fun acc x =>
    let y := spanSays s job x
    let t := match acc.1, y.1 with
      | .fault c o, _ => TierSays.fault c o
      | _, .fault c o => .fault c o
      | .wait vs, .wait ws => .wait (vs ++ ws)
      | .wait vs, .go => .wait vs
      | .go, t => t
    (t, acc.2 ++ y.2)) (TierSays.go, [])
  let new := r.2.dedup
  match r.1 with
  | .go =>
    let need := (new.map (fun e => e.2.2.1)).sum
    match new with
    | [] => (.go, [])
    | e :: _ =>
      if roomFor s e.1 need then (.go, new)
      else match s.tm.waits.find? (fun w => w.job == job && (w.st == 3 || w.st == 1)) with
        | some w => if w.st = 3 then (.fault w.cause w.oid, new) else (.wait [], new)
        | none =>
          if canEvict s e.1 need then (.wait [⟨e.1, e.2.1, e.2.2.2, job, 1, 0⟩], new) else (.fault cNoRoom e.2.2.2, new)
  | t => (t, new)

/-- The present age (08 R264). -/
def ageNow (s : State) : Nat := s.now.toNat / 2 ^ 20

/-- The number within its object of the tile at va (08 R267). -/
def tileNo (s : State) (p va : Nat) : Nat := (objAt s p va).elim 0 (fun o => (va - o.base) / 4096)

/-- Back a page with zeros in Tier 1 (08 R256). -/
def backPage (s : State) (e : Nat × Nat × Nat × Nat) : State :=
  let d := drawWord s
  setOwn d.2 e.1 e.2.1 (some ⟨e.2.2.2, e.2.2.1, tileNo s e.1 e.2.1, 1, 0, 0, 0, ageNow s, d.1, spreadOf s e.1, 0, 0, false, [], []⟩)

/-- The tiles of the page [b, b + n) that [a, e) overlaps, as a bit set. -/
def tileBits (b n a e : Nat) : Nat :=
  let lo := (max a b - b) / 4096
  let hi := (min e (b + n) - b + 4095) / 4096
  if lo < hi then 2 ^ hi - 2 ^ lo else 0

/-- Tiles `bits` of the page at va are written: its dirty bits; an eviction under way is cancelled and the frames written for it are
discarded (08 R265, R270). -/
def Page.written (g : Page) (bits : Nat) : Page :=
  if g.moving = 2 then { g with dirty := g.dirty ||| g.was ||| bits, moving := 0, locs := g.back, back := [] }
  else { g with dirty := g.dirty ||| bits }

/-- The checkpoints that run note the tiles that are written after their T (08 R275). -/
def noteShots (s : State) (p va bits : Nat) : State :=
  if s.tm.shots.isEmpty then s else
  { s with tm := { s.tm with shots := s.tm.shots.map (fun x =>
    if x.p = p then { x with wrote := tset (fun _ => 0) x.wrote va (tget (fun _ => 0) x.wrote va ||| bits) } else x) } }

/-- An access by the engines of die `who` (none: the hub) reaches its pages: the walk, the age, dirty tiles, the pools (08 R252, R260, R264,
R265, R270). A write to a shared node reaches the page of its own that was backed for it. -/
def touchBy (s : State) (who : Option Nat) (x : Span) : State :=
  if 8 ≤ x.place then s else
  (pagesIn s x.place (x.len / 4096 + 2) x.addr (x.addr + x.len)).foldl (fun t pg =>
    let p := x.place
    let b := pg.2.1
    let own := x.write && (ownPage t p b).isSome
    match (if own then ownPage t p b else pageOf t p b) with
    | none => t
    | some g =>
      let bits := tileBits b pg.2.2 x.addr (x.addr + x.len)
      let g1 := { g with age := ageNow s }
      let g2 := if x.write then g1.written bits else g1
      let t1 := if own then setOwn t p b (some g2) else setPage t p b (some g2)
      let t2 := walk (if x.write then noteShots t1 p b bits else t1) p b pg.2.2
      if g.tier = 1 then
        poolAccess t2 who p b g2 (max x.addr b - b) (min (x.addr + x.len) (b + pg.2.2) - b) x.write
      else t2) s

/-- An access by the hub. -/
def touchSpan (s : State) (x : Span) : State := touchBy s none x

/-- Module-wide spill starts below LOW percent of free Tier 1 and runs until HIGH percent (08 R261). -/
def noteSpill (s : State) : State :=
  let free := tier1Bytes - t1Total s
  if free * 100 < rfield s rSpillCfg 0 8 * tier1Bytes then wfield s rTmStatus 31 1 1
  else if rfield s rSpillCfg 8 8 * tier1Bytes ≤ free * 100 then wfield s rTmStatus 31 1 0 else s

/-- Count tier faults (08 R291, 14 R440). -/
def countFaults (s : State) (n : Nat) : State := if n = 0 then s else count (addCnt s rTmFaults n) 1474 n

/-- Forget what descriptor job waited for. -/
def dropWaits (s : State) (job : Nat) : State := { s with tm := { s.tm with waits := s.tm.waits.filter (fun w => w.job != job) } }

/-- Note what descriptors wait for, each page of a descriptor once, and count the faults (08 R273, R291). -/
def addWaits (s : State) (ws : List TierWait) : State :=
  let new := ws.dedup
  countFaults { s with tm := { s.tm with
    waits := s.tm.waits.filter (fun w => !new.any (fun x => x.job == w.job && x.p == w.p && x.page == w.page)) ++ new } } new.length

/-- Fill n bytes from address a of place k with free values where they are backed (08 R273; notes/assumptions/1.md). -/
def freeFill (s : State) (x : Span) : State :=
  let put (t : State) (a n : Nat) : State :=
    { writeAt t x.place a ((List.range n).map (fun i => Config.freeByte (t.free + i))) noSoil with free := t.free + n }
  if 8 ≤ x.place then put s x.addr x.len else
  (pagesIn s x.place (x.len / 4096 + 2) x.addr (x.addr + x.len)).foldl (fun t pg =>
    match ownPage t x.place pg.2.1 with
    | none => t
    | some _ =>
      let lo := max x.addr pg.2.1
      let hi := min (x.addr + x.len) (pg.2.1 + pg.2.2)
      put t lo (hi - lo)) s

/-- A descriptor ends with TIER_FAULT: what it may have written is undefined. -/
def tierFail (s : State) (job : Nat) (xs : List Span) (cause oid : Nat) : State :=
  finish (countFaults (stainCause ((xs.filter (fun x => x.write)).foldl freeFill (dropWaits s job)) cause) 1) job (tierErr cause oid)

/-- The state in which an operation of descriptor job, performed by the engines of die `who` (none: the hub), whose every page is there
or is backed now (`new`), reads and writes. -/
def accessed (s : State) (job : Nat) (who : Option Nat) (xs : List Span) (new : List (Nat × Nat × Nat × Nat)) : State :=
  noteSpill (countFaults (xs.foldl (fun t x => touchBy t who x) (new.foldl backPage (dropWaits s job))) new.length)

/-- Perform an operation of descriptor job that reads and writes the spans through the engines of die `who`: at once where every page is
there, after its tier faults are resolved where one is not, and never where one cannot be (08 R273); `fault`: what then becomes of
it, by cause and object. -/
def withMemBy (s : State) (job : Nat) (who : Option Nat) (xs : List Span) (fault : Nat → Nat → State) (perform : State → State) : State :=
  match tierSays s job xs with
  | (.fault c o, _) => fault c o
  | (.wait ws, _) => markWaits (addWaits s ws) job
  | (.go, new) => perform (accessed s job who xs new)

/-- As `withMemBy`, through the core that the descriptor names, or the hub. -/
def withMemOr (s : State) (job : Nat) (xs : List Span) (fault : Nat → Nat → State) (perform : State → State) : State :=
  withMemBy s job (dieOfJob s job) xs fault perform

/-- As `withMemOr`, a fault ending the descriptor as `tierFail` gives. -/
def withMem (s : State) (job : Nat) (xs : List Span) (perform : State → State) : State :=
  withMemOr s job xs (tierFail s job xs) perform

/-- As `withMem`, for a descriptor that makes a new object: `t` is `s` with the object, which stays only where it can be written. -/
def withMemNew (s t : State) (job : Nat) (xs : List Span) (perform : State → State) : State :=
  match (tierSays t job xs).1 with
  | .fault c o => tierFail s job [] c o
  | .wait ws => markWaits (addWaits s ws) job
  | .go => withMem t job xs perform

/-! ## What a checkpoint captures (08 R275) -/

/-- The pages of object o, by first byte; those of shared nodes where the region shows them. -/
def objPages (s : State) (o : Obj) : List (Nat × Page) :=
  ((ownPages s).filter (fun e => e.1 == o.p && decide (o.base ≤ e.2.1) && decide (e.2.1 < o.base + o.size))).map (fun e => e.2) ++
  (match regionOf s o.p o.id with
   | some r => r.shared.flatMap (fun e => match e.2 with
     | some k => ((storeEntry s o.p k).elim [] (fun x => x.pages)).filterMap (fun y => y.2.map (fun g => (r.spot e.1 y.1, g)))
     | none => [])
   | none => [])

/-- What CHECKPOINT `id` of partition p captures as it begins (08 R275). -/
def takeShot (s : State) (p id : Nat) : Shot :=
  let os := s.tm.objs.filter (fun o => o.p == p)
  ⟨id, p, s.now, os, s.tm.regions.filter (fun r => r.p == p), s.tm.indexes.filter (fun x => x.p == p), os.flatMap (objPages s),
    s.tm.mem.filter (fun e => e.1 / 2 ^ 52 == p), s.tm.soil.filter (fun e => e.1 / 2 ^ 46 == p), []⟩

/-! ## KV regions are written by class 0x06 alone -/

/-- Whether the spans overlap a KV region, which only class 0x06 writes (06 R171). -/
def inRegion (s : State) (p a n : Nat) : Bool :=
  s.tm.objs.any (fun o => o.p == p && o.kind == 1 && decide (a < o.base + o.size) && decide (o.base < a + n))

/-- ACCESS_DENIED where a destination overlaps a KV region (06 R171). -/
def regionErr (s : State) (xs : List Span) : Option Ending :=
  chk (xs.any (fun x => x.write && decide (x.place < 8) && inRegion s x.place x.addr x.len)) (stAccess, 0)

end Sys2Proof.Machine
end

