-- ==== Sys2Proof/Machine/PortsCore.lean ====
section
/-! DEFINITION. Routes over the torus, the wiring plan's expectations, sending and receiving on a port, broadcasts (spec 12, 13
R425-R427): what the links and the collective engine are built from. -/

namespace Sys2Proof.Machine

/-! ## Ports -/

/-- STATE of port pt (12 R409). -/
def portState (s : State) (pt : Nat) : Nat := rfield s (rPort pt) 29 3

/-- The ports that are UP. -/
def upPorts (s : State) : List Nat := (List.range 16).filter (fun pt => portState s pt == 3)

/-- Port pt. -/
def portOf (s : State) (pt : Nat) : Port := tget (fun _ => port0) s.ol.ports pt

/-- Store port pt. -/
def setPort (s : State) (pt : Nat) (x : Port) : State :=
  { s with ol := { s.ol with ports := tset (fun _ => port0) s.ol.ports pt x } }

/-- Change port pt. -/
def modPort (s : State) (pt : Nat) (f : Port → Port) : State := setPort s pt (f (portOf s pt))

/-- Counter k of port pt (14 R440). -/
def portCount (s : State) (pt k n : Nat) : State := count s (1152 + 12 * pt + k) n

/-- The other port of pt's pair. -/
def pairOf (pt : Nat) : Nat := pt / 2 * 2 + (1 - pt % 2)

/-- Lanes in a set. -/
def laneCount (x : BitVec 18) : Nat := ((List.range 18).filter (x.getLsbD ·)).length

/-! ## The torus and the plan (12 R406, R407, 13 R425, R427) -/

/-- The bytes of the plan in force. -/
def planBytes (s : State) : List Byte := (s.boot.plan.map (fun p => p.bytes)).getD []

/-- Sizes of the dimensions X, Y, U, V. -/
def dims (s : State) : List Nat :=
  [4, 8, max 1 ((planBytes s).getD 6 1).toNat, max 1 ((planBytes s).getD 7 1).toNat]

/-- Coordinates of a module (R406). -/
def coords (s : State) (m : Nat) : List Nat :=
  let nu := (dims s).getD 2 1
  [m % 32 % 4, m % 32 / 4, m / 32 % nu, m / 32 / nu]

/-- The module at coordinates. -/
def moduleAt (s : State) (c : List Nat) : Nat :=
  (c.getD 2 0 + (dims s).getD 2 1 * c.getD 3 0) * 32 + c.getD 0 0 + 4 * c.getD 1 0

/-- The module beyond module a's pair in direction d (0 X+, 1 X−, 2 Y+, …, 7 V−) (R407). -/
def neighbour (s : State) (a d : Nat) : Nat :=
  let n := (dims s).getD (d / 2) 1
  moduleAt s (modAt (coords s a) (d / 2) (fun x => if d % 2 = 0 then (x + 1) % n else (x + n - 1) % n))

/-- The module beyond this module's pair in direction d. -/
def beyond (s : State) (d : Nat) : Nat := neighbour s (moduleNo s) d

/-- The direction in which a route to module m leaves module a (07 R207); none: they are one. -/
def dirFrom (s : State) (a m : Nat) : Option Nat :=
  let x := coords s a
  let y := coords s m
  ((List.range 4).find? (fun i => x.getD i 0 != y.getD i 0)).map (fun i =>
    let n := (dims s).getD i 1
    let up := (y.getD i 0 + n - x.getD i 0) % n
    if 2 * up ≤ n then 2 * i else 2 * i + 1)

/-- The direction that a route to module m leaves by; none: m is this module. -/
def routeDir (s : State) (m : Nat) : Option Nat := dirFrom s (moduleNo s) m

/-- The hops of the route from module a to module m: module and direction; `fuel` bounds them. -/
def hopsFrom (s : State) : Nat → Nat → Nat → List (Nat × Nat)
  | 0, _, _ => []
  | fuel + 1, a, m => match dirFrom s a m with
    | none => []
    | some d => (a, d) :: hopsFrom s fuel (neighbour s a d) m

/-- The plan's entry of module m: fingerprint, present, cabled ports. -/
def planEntry (s : State) (m : Nat) : List Byte × Bool × Nat :=
  let e := ((planBytes s).drop (64 + 32 * m)).take 32
  (e.take 16, bitOf (e.getD 16 0).toNat 0, ofLe ((e.drop 20).take 2))

/-- Whether port pt lies in a dimension of size 2 or more. -/
def portReal (s : State) (pt : Nat) : Bool := decide (2 ≤ (dims s).getD (pt / 4) 1)

/-- The matching port of the neighbour's opposite pair (R407). -/
def matching (pt : Nat) : Nat := 2 * (pt / 2 / 2 * 2 + (1 - pt / 2 % 2)) + pt % 2

/-- The expected partner of port pt (R427): module and port. -/
def expected (s : State) (pt : Nat) : Option (Nat × Nat) := if portReal s pt then some (beyond s (pt / 2), matching pt) else none

/-- Whether port pt is planned (R427). -/
def planned (s : State) (pt : Nat) : Bool :=
  let m := beyond s (pt / 2)
  s.boot.plan.isSome && portReal s pt && bitOf (planEntry s (moduleNo s)).2.2 pt && (planEntry s m).2.1 &&
  bitOf (planEntry s m).2.2 (matching pt)

/-! ## Frames on the fibre (12 R380, R383) -/

/-- The wavelength of lane n in nm (R380). -/
def laneNm (n : Nat) : Nat := 1271 + 20 * n

/-- The 32 bytes of a frame's header. -/
def frameHeader (fr : Frame) : List Byte :=
  leBytes 1 (fr.vc.val + 4 * fr.typ.val) ++ leBytes 1 (cdiv fr.payload.length 64) ++ leBytes 2 fr.linkSeq.toNat ++
  leBytes 3 (fr.dest.toNat + 4096 * fr.src.toNat) ++ [fr.window] ++ leBytes 6 fr.offset.toNat ++ leBytes 2 fr.pairSeq.toNat ++
  leBytes 8 fr.key.toNat ++ leBytes 8 fr.soil.toNat

/-- A frame on the fibre: its header, its payload in units of 64 bytes, the CRC-32 of both. -/
def frameWire (fr : Frame) : List Byte :=
  let b := frameHeader fr ++ fr.payload ++ List.replicate (roundUp fr.payload.length 64 - fr.payload.length) 0
  b ++ leBytes 4 (crc32 b).toNat

/-! ## Sending (12 R385-R388) -/

/-- Whether port pt is UP. -/
def isUp (s : State) (pt : Nat) : Bool := portState s pt == 3

/-- Whether the hop in direction d has a port UP (12 R391). -/
def hopUp (s : State) (d : Nat) : Bool := isUp s (2 * d) || isUp s (2 * d + 1)

/-- The payload bytes of a frame of the collective engine. -/
def ceBytes (b : CeBody) : Nat := match b with
  | .chunk _ ch => ch.data.length
  | _ => 0

/-- A message with its frame's header changed. -/
def Msg.mapFrame (m : Msg) (f : Frame → Frame) : Msg :=
  match m with
  | .frame pt fr => .frame pt (f fr)
  | .refusal pt fr c => .refusal pt (f fr) c
  | .pegAdd d g e fr v => .pegAdd d g e (f fr) v
  | .ce pt fr b => .ce pt (f fr) b
  | m => m

/-- A message as port pt carries it. -/
def Msg.onPort (m : Msg) (pt : Nat) : Msg :=
  match m with
  | .frame _ fr => .frame pt fr
  | .refusal _ fr c => .refusal pt fr c
  | .ce _ fr b => .ce pt fr b
  | m => m

/-- The frame that a message goes as, where it carries a pair sequence. -/
def Msg.header (m : Msg) : Option Frame :=
  match m with
  | .frame _ fr | .refusal _ fr _ | .pegAdd _ _ _ fr _ | .ce _ fr _ => some fr
  | _ => none

/-- The payload bytes of a message. -/
def Msg.bytes (m : Msg) : Nat :=
  match m with
  | .frame _ fr => fr.payload.length
  | .ce _ _ b => ceBytes b
  | _ => 0

/-- Whether a message is module m's own: not forwarded. -/
def Msg.own (x : Msg) (m : Nat) : Bool :=
  match x with
  | .cast _ o _ _ => o.toNat == m
  | x => x.header.all (fun fr => fr.src.toNat == m)

/-- Port pt sends a message: it takes a credit, a link sequence, a place in the replay buffer, and its pair sequence where it is
fresh (R385, R387, R388). -/
def putOut (s : State) (pt : Nat) (w : Waiting) : State :=
  let h := portOf s (pt / 2 * 2)
  let num := w.fresh && w.msg.header.isSome
  let q := h.pairOut.getD w.vc 0
  let s0 := if num then setPort s (pt / 2 * 2) { h with pairOut := modAt h.pairOut w.vc (· + 1) } else s
  let x := portOf s0 pt
  let y := (w.msg.mapFrame (fun fr => { fr with linkSeq := x.seq, pairSeq := if num then q else fr.pairSeq })).onPort pt
  let s1 := setPort s0 pt { x with
    seq := x.seq + 1
    sent := x.sent ++ [⟨x.seq, w.vc, 0, y⟩]
    credits := modAt x.credits w.vc (· - 1)
    lastFwd := modAt x.lastFwd w.vc (fun _ => !w.msg.own (moduleNo s))
    lastTx := s.now }
  send (portCount s1 pt w.vc y.bytes) y

/-- What goes next of VC vc on a port that has credit for it: forwarded and local frames take turns (R386). -/
def vcHead (x : Port) (me vc : Nat) : Option Waiting :=
  if x.credits.getD vc 0 = 0 then none else
  let l := x.wait.filter (fun w => w.vc == vc)
  match l.find? (fun w => !w.msg.own me), l.find? (fun w => w.msg.own me) with
  | some f, some o => some (if x.lastFwd.getD vc false then o else f)
  | f, o => f <|> o

/-- Deficit round robin over payload bytes between VCS, VCC and VCG (R386): a VC with nothing ready gives up its turn; a turn brings a
full frame's bytes for each unit of the VC's weight (notes/assumptions/27.md). `fuel`: turns that may pass. -/
def drr (weight : Nat → Nat) (ready : Nat → Option Waiting) : Nat → Nat → List Nat → Option (Waiting × Nat × List Nat)
  | 0, _, _ => none
  | fuel + 1, turn, deficit =>
    let next := turn % 3 + 1
    let pass (d : List Nat) := drr weight ready fuel next (modAt d next (· + 4096 * weight next))
    match ready turn with
    | none => pass (modAt deficit turn (fun _ => 0))
    | some w => if w.msg.bytes ≤ deficit.getD turn 0 then some (w, turn, modAt deficit turn (· - w.msg.bytes)) else pass deficit

/-- What port pt sends next of what waits there, with the turn and the deficits then: VCT first (R386). -/
def nextOut (s : State) (pt : Nat) : Option (Waiting × Nat × List Nat) :=
  let x := portOf s pt
  let me := moduleNo s
  if !x.changes.isEmpty ∨ 256 ≤ x.sent.length then none
  else match vcHead x me 0 with
    | some w => some (w, x.turn, x.deficit)
    | none => drr (fun vc => rfield s rVcWeights (12 - 4 * vc) 4) (vcHead x me) 8 x.turn x.deficit

/-- Port pt sends what it can of what waits there (R386, R387); `fuel` bounds it. -/
def pump : Nat → State → Nat → State
  | 0, s, _ => s
  | fuel + 1, s, pt => match nextOut s pt with
    | none => s
    | some (w, turn, deficit) =>
      pump fuel (putOut (modPort s pt (fun x => { x with wait := x.wait.erase w, turn := turn, deficit := deficit })) pt w) pt

/-- Send what port pt holds and can send now. -/
def flushWait (s : State) (pt : Nat) : State := pump (portOf s pt).wait.length s pt

/-- A message joins those that wait on port pt, which sends what it can. -/
def enqueue (s : State) (pt : Nat) (w : Waiting) : State := flushWait (modPort s pt (fun x => { x with wait := x.wait ++ [w] })) pt

/-- Send a new message of a VC on port pt. -/
def push (s : State) (pt vc : Nat) (m : Msg) : State := enqueue s pt ⟨vc, m, true⟩

/-- The port of direction d's pair that takes the next frame, and how far its even port is then ahead: in proportion to their active
lanes (R385). -/
def choosePort (s : State) (d : Nat) : Option (Nat × Int) :=
  let a := 2 * d
  let b := 2 * d + 1
  let k := (portOf s a).share
  let free (pt : Nat) : Bool := isUp s pt && (portOf s pt).changes.isEmpty
  let lanes (pt : Nat) : Int := laneCount (portOf s pt).txAct
  if free a && free b then some (if 0 ≤ k then (a, k - lanes b) else (b, k + lanes a))
  else if free a then some (a, k) else if free b then some (b, k) else if isUp s a then some (a, k) else if isUp s b then some (b, k) else none

/-- Send a frame along its route (R385); one for this module itself leaves on no port. -/
def sendFrame (s : State) (fr : Frame) (wrap : Frame → Msg) : State :=
  match routeDir s fr.dest.toNat with
  | none => send s (wrap fr)
  | some d =>
    match choosePort s d with
    | none => s
    | some (pt, k) => push (modPort s (2 * d) (fun h => { h with share := k })) pt fr.vc.val (wrap fr)

/-- Send a frame as it is. -/
def sendPlain (s : State) (fr : Frame) : State := sendFrame s fr (Msg.frame 0)

/-- Whether a hop is down: the module's own by its ports, another's where the plan has no such pair, or as it is elsewhere
(R391, 07 R208; notes/assumptions/49.md). -/
def hopDark (s : State) (h : Nat × Nat) : Bool :=
  if h.1 = moduleNo s then !hopUp s h.2 else
  let cabled (m pt : Nat) : Bool := (planEntry s m).2.1 && bitOf (planEntry s m).2.2 pt
  (s.boot.plan.isSome && !(cabled h.1 (2 * h.2) || cabled h.1 (2 * h.2 + 1))) || Config.hopDown h.1 h.2 s.now.toNat

/-- The first hop of the route to module m that is down. -/
def routeBreak (s : State) (m : Nat) : Option (Nat × Nat) := (hopsFrom s 32 (moduleNo s) m).find? (hopDark s)

/-- Whether every hop of the route to module m is up. -/
def reachable (s : State) (m : Nat) : Bool := (routeBreak s m).isNone

/-- A frame of the collective engine (12 R383): the VC, the type, the destination module and the key. -/
def ceFrame (s : State) (vc : Fin 4) (typ : Fin 16) (m : Nat) (key : DWord) : Frame :=
  ⟨vc, typ, 0, BitVec.ofNat 12 m, BitVec.ofNat 12 (moduleNo s), 0, 0, 0, key, 0, 0, 0, []⟩

/-- A frame of the collective engine leaves for module m along its route, through the links' replay (07 R207, R212); its payload
counts (14 R440). It is lost where the first hop is down (R391). -/
def sendCe (s : State) (vc : Fin 4) (typ : Fin 16) (m : Nat) (key : DWord) (b : CeBody) : State :=
  if (routeDir s m).any (fun d => !hopUp s d) then s
  else count (sendFrame s (ceFrame s vc typ m key) (fun f => .ce 0 f b)) 1481 (ceBytes b)

/-! ## Receiving -/

/-- Capacity of the frame buffers by VC (R387). -/
def vcBuffers : List Nat := [32, 256, 256, 128]

/-- A frame of a VC has arrived on port pt and its buffer is free again. -/
def tookFrame (s : State) (pt vc : Nat) : State :=
  modPort s pt (fun x => { x with expect := x.expect + 1, owed := modAt x.owed vc (· + 1), lastRx := s.now })

/-- Count a frame discarded on port pt (R397, R399). -/
def countReject (s : State) (pt : Nat) : State := portCount (addCnt s (rPort pt + 0x30) 1) pt 10 1

/-- A VCT message that arrives on port pt: `k` of it where the port is UP and a credit is outstanding for it (R387); a quarantined port
discards it (R399). -/
def arriveVct (s : State) (pt : Nat) (k : State → State) : State :=
  let x := portOf s pt
  if isUp s pt then
    (if vcBuffers.getD 0 0 ≤ x.owed.getD 0 0 then countReject (setPort s pt { x with expect := x.expect + 1, lastRx := s.now }) pt
     else k (tookFrame s pt 0))
  else if portState s pt = 4 then countReject s pt else s

/-! ## Broadcasts (12 R394) -/

/-- Send a broadcast on every UP port but one. -/
def flood (s : State) (but : Option Nat) (origin : BitVec 12) (num : Word) (c : Cast) : State :=
  ((upPorts s).filter (fun pt => some pt != but)).foldl (fun t pt => push t pt 0 (.cast pt origin num c)) s

/-- The module's own broadcasts in flight: those that a port still holds or keeps for replay (R394). -/
def castsOut (s : State) : List Word :=
  let num (m : Msg) : Option Word := match m with
    | .cast _ o n _ => if o.toNat = moduleNo s then some n else none
    | _ => none
  ((List.range 16).flatMap (fun pt => (portOf s pt).wait.filterMap (fun w => num w.msg) ++ (portOf s pt).sent.filterMap (fun e => num e.msg))).dedup

/-- Send the broadcasts that wait while fewer than 64 are in flight (R394); `fuel` bounds them. -/
def pumpCasts : Nat → State → State
  | 0, s => s
  | fuel + 1, s => match s.ol.casts with
    | [] => s
    | c :: cs =>
      if 64 ≤ (castsOut s).length then s
      else
        let t := flood s none (BitVec.ofNat 12 (moduleNo s)) s.ol.cast c
        pumpCasts fuel (count { t with ol := { t.ol with cast := t.ol.cast + 1, casts := cs } } 1484 1)

/-- Send what can be sent of the broadcasts that wait. -/
def flushCasts (s : State) : State := pumpCasts s.ol.casts.length s

/-- Originate a broadcast. -/
def originate (s : State) (c : Cast) : State := flushCasts { s with ol := { s.ol with casts := s.ol.casts ++ [c] } }

/-- Note broadcast `num` of a module; none: it is not new. -/
def noteCast (s : State) (origin : BitVec 12) (num : Word) : Option State :=
  let n := num.toNat
  let put (x : Nat × BitVec 64) : State :=
    { s with ol := { s.ol with seen := tset (fun _ => none) s.ol.seen origin.toNat (some x) } }
  if origin.toNat = moduleNo s then none else
  match tget (fun _ => none) s.ol.seen origin.toNat with
  | none => some (put (n, 0))
  | some (h, m) =>
    if h < n then some (put (n, if n - h ≤ 64 then (m <<< (n - h)) ||| (1 <<< (n - h - 1)) else 0))
    else if h = n ∨ 64 < h - n ∨ m.getLsbD (h - n - 1) then none
    else some (put (h, m ||| (1 <<< (h - n - 1))))

/-- A broadcast arrives on port pt: a new one is forwarded and acted on, another discarded. -/
def takeCast (s : State) (pt : Nat) (origin : BitVec 12) (num : Word) (c : Cast) (act : State → State) : State :=
  arriveVct s pt (fun s => match noteCast s origin num with
    | none => s
    | some t => act (count (flood t (some pt) origin num c) 1485 1))

end Sys2Proof.Machine
end

