-- ==== Sys2Proof/Machine/Rings.lean ====
section
/-! DEFINITION. Rings, descriptors, completions, pegs and the class 0x0A operations of spec 01: what fetches, checks, begins
and completes every descriptor. -/

namespace Sys2Proof.Machine

/-! ## Job lists (14 R455) -/

/-- The jobs that enabled rings name, ascending. -/
def jobSet (s : State) : List Word :=
  ((s.hp.rings.filter (fun e => e.2.enabled && e.2.job != 0)).map (fun e => e.2.job)).foldl
    (fun l j => if l.contains j then l else j :: l) []

/-- Send the job list to every UP neighbour where the set of jobs has changed. -/
def noteJobs (s : State) : State :=
  if jobSet s = s.ob.sentJobs then s
  else (upPorts s).foldl (fun t pt => push t pt 0 (.jobList pt (jobSet s))) { s with ob := { s.ob with sentJobs := jobSet s } }

/-! ## Ring registers (01 R25-R28) -/

/-- Which function may write ring n's registers and doorbells. -/
def mayRing (s : State) (f n : Nat) : Bool := f == 0 || (present s f && ringOwner s.hp.own n == some f)

/-- Whether a ring may be enabled as configured (01 R26). -/
def ringCfgOk (s : State) (n : Nat) (r : Ring) : Bool :=
  let ok (k : Nat) : Bool := decide (6 ≤ k ∧ k ≤ 16)
  ok (bitsOf r.cfg.toNat 0 5) && ok (bitsOf r.cfg.toNat 8 5) && decide (r.vector < vecCount s.hp.own (fnOfRing s n))

/-- A write to HP_RING_CTRL(n) (01 R26, R27). -/
def ringCtrl (s : State) (n : Nat) (w : Word) : State :=
  let r := ringOf s n
  let coal := w &&& 0xFFFFFF00
  if w.getLsbD 0 then
    if r.enabled then setRing s n { r with ctrl := coal ||| 1 }
    else if ringCfgOk s n r && ringIdle s n then
      noteJobs (setRing s n { r with
        ctrl := coal ||| 1, cmdHead := 0, cmdTail := 0, cplTail := 0, cplHead := 0, phase := true, halted := false, jobAt := s.now })
    else setRing s n { r with ctrl := coal, err := r.err ||| 8 }
  else noteJobs (setRing s n { r with ctrl := coal })

/-- Cores that keep their number after a retirement lose it once no ring of their partition names a job (14 R453). -/
def settleCores (s : State) : State :=
  let stays (c : Nat) : Bool := (List.range 8).any (fun p => bitOf (diesOf s p) (c / 8) &&
    s.hp.rings.any (fun e => partOfRing s e.1 == some p && e.2.job != 0))
  let k := ((List.range 64).map (fun c => if s.boot.keepNum.getLsbD c && stays c then 2 ^ c else 0)).sum
  { s with boot := { s.boot with keepNum := BitVec.ofNat 64 k } }

/-- A write to another register of ring n, at offset o of the ring (01 R25, R26). -/
def ringReg (s : State) (n o : Nat) (w : Word) : State :=
  let r := ringOf s n
  let lo (b : DWord) (m : Word) : DWord := BitVec.ofNat 64 (b.toNat / 2 ^ 32 * 2 ^ 32 + (w &&& m).toNat)
  let hi (b : DWord) : DWord := BitVec.ofNat 64 (w.toNat * 2 ^ 32 + b.toNat % 2 ^ 32)
  if o = 0x28 then setRing s n { r with err := r.err &&& ~~~ w }
  else if r.enabled || !ringIdle s n then s
  else if o = 0x00 then setRing s n { r with cmdBase := lo r.cmdBase 0xFFFFF000 }
  else if o = 0x04 then setRing s n { r with cmdBase := hi r.cmdBase }
  else if o = 0x08 then setRing s n { r with cplBase := lo r.cplBase 0xFFFFF000 }
  else if o = 0x0C then setRing s n { r with cplBase := hi r.cplBase }
  else if o = 0x10 then setRing s n { r with cfg := w &&& 0x01FF1F1F }
  else if o = 0x18 then settleCores (setRing s n { r with job := w, jobAt := s.now })
  else if o = 0x1C then setRing s n { r with nextSeq := w }
  else s

/-- RING_ENABLE (01 R26). -/
def execRingEnable (f : Fin 9) (n : Fin 512) (v : Word) (s : State) : Out :=
  runIf s (ready s && mayRing s f.val n.val) (ringCtrl s n.val (v ||| 1))

/-- RING_DISABLE (01 R27). -/
def execRingDisable (f : Fin 9) (n : Fin 512) (v : Word) (s : State) : Out :=
  runIf s (ready s && mayRing s f.val n.val) (ringCtrl s n.val (v &&& 0xFFFFFFFE))

/-- A doorbell index at or above the ring size (01 R28). -/
def doorbellRange (s : State) (n : Nat) : State :=
  setStain (setRing s n { ringOf s n with err := (ringOf s n).err ||| 2 }) rHpStain 4

/-- The ring that page `page` of function f's BAR2 reaches (01 R21): of the PF, ring `page` whoever owns it; of a VF, its local ring,
pages 56-63 being inert. -/
def bar2Ring (s : State) (f page : Nat) : Option Nat :=
  if !inBar s f 2 (page * 4096) then none
  else if f = 0 then some page else if present s f && decide (page < 56) then some (ringBase f + page) else none

/-- A write by function f to a doorbell of its BAR2 page: `put` takes the ring's registers and the index where the write counts, an
index at or above `size` being out of range (01 R28). -/
def doorbell (s : State) (f page : Nat) (v : Word) (size : Ring → Nat) (put : Ring → Nat → Ring) : State :=
  match bar2Ring s f page with
  | none => s
  | some n =>
    let r := ringOf s n
    let k := bitsOf v.toNat 0 16
    if ready s && mayRing s f n && r.enabled then (if size r ≤ k then doorbellRange s n else setRing s n (put r k)) else s

/-- HP_DB_CMD_TAIL (01 R28). -/
def execHpDbCmdTail (f : Fin 9) (page : Fin 512) (v : Word) (s : State) : Out :=
  .next (doorbell s f.val page.val v Ring.cmdSize (fun r k => { r with cmdTail := k }))

/-- HP_DB_CPL_HEAD (01 R28). -/
def execHpDbCplHead (f : Fin 9) (page : Fin 512) (v : Word) (s : State) : Out :=
  .next (doorbell s f.val page.val v Ring.cplSize (fun r k => { r with cplHead := k }))

/-! ## Fetch (01 R30, R33, R36; tags 14 R441) -/

/-- The descriptor of ring n that waits for its extension. -/
def wantsExt (s : State) (n : Nat) : Option Job := s.hp.jobs.find? (fun j => j.ring == n && j.needExt)

/-- Whether the fetch unit may read ring n's next slot. -/
def fetchable (s : State) (n : Nat) : Bool :=
  let r := ringOf s n
  ready s && r.enabled && !r.halted && r.cmdHead != r.cmdTail &&
  (match ringOwner s.hp.own n with
   | some f => hostOpen s f
   | none => false) &&
  ((wantsExt s n).isSome || decide (inFlight s n < 256))

/-- The ring whose turn it is (01 R30). -/
def nextRing (s : State) : Option Nat := ((List.range 512).map (fun i => (s.hp.lastRing + 1 + i) % 512)).find? (fetchable s)

/-- One step of the tag sequence (14 R441). -/
def lfsrStep (x : Word) : Word := if x.getLsbD 0 then (x >>> 1) ^^^ 0x80200003 else x >>> 1

/-- Whether the descriptor would be tagged, the next value of the sequence being x. -/
def tagWanted (s : State) (force : Bool) (x : Word) : Bool := force || decide (x.toNat < rfield s rTagCfg 0 16 * 2 ^ 16)

/-- Advance past a slot of ring n. -/
def passSlot (s : State) (n : Nat) : State :=
  let r := ringOf s n
  let t := setRing s n { r with cmdHead := (r.cmdHead + 1) % r.cmdSize }
  { t with hp := { t.hp with lastRing := n } }

/-- The extension of descriptor j arrives. -/
def takeExt (s : State) (n : Nat) (j : Job) (slot : Slot) : State :=
  let r := ringOf s n
  passSlot (count (modJob s j.id (fun k => { k with ext := some slot, needExt := false, extAddr := r.cmdBase.toNat + 64 * r.cmdHead })) 1477 64) n

/-- A descriptor's own slot arrives. -/
def takeSlot (s : State) (n : Nat) (slot : Slot) : State :=
  let x := lfsrStep s.ob.lfsr
  let want := tagWanted s (slot.getLsbD 18) x
  let tag := want && decide (s.ob.tags.length < 1024)
  let j : Job := ⟨s.nextId, n, slot, none, slot.getLsbD 19, 0, .fetched, false, 0, [], false, 0, 0, 0, tag, false, s.now, 0, false, 0xFF, 0, 0, []⟩
  let s1 := passSlot s n
  let s2 := { s1 with
    nextId := s1.nextId + 1
    hp := { s1.hp with jobs := s1.hp.jobs ++ [j] }
    ob := { s1.ob with lfsr := x, tags := if tag then s1.ob.tags ++ [⟨j.id, false, []⟩] else s1.ob.tags } }
  let s3 := count (count s2 1479 1) 1477 64
  if tag then count s3 1486 1 else if want then count s3 1487 1 else s3

/-- DESCRIPTOR_FETCH (01 R30). -/
def execDescriptorFetch (slot : Slot) (s : State) : Out :=
  .next (match nextRing s with
    | none => s
    | some n => match wantsExt s n with
      | some j => takeExt s n j slot
      | none => takeSlot s n slot)

/-- DESCRIPTOR_FETCH_FAIL (01 R33). -/
def execDescriptorFetchFail (s : State) : Out :=
  .next (match nextRing s with
    | none => s
    | some n =>
      let r := ringOf s n
      let s1 := setStain (setRing s n { r with halted := true, err := r.err ||| 4 }) rHpStain 5
      match wantsExt s n with
      | some j => { s1 with
          hp := { s1.hp with jobs := s1.hp.jobs.filter (fun k => k.id != j.id), lastRing := n }
          ob := { s1.ob with tags := s1.ob.tags.filter (fun t => t.id != j.id) } }
      | none => { s1 with hp := { s1.hp with lastRing := n } })

/-! ## Checks and begin (01 R31, R32, R37) -/

/-- The operations of the class tables: opcode, extension (0 none, 1 required, 2 under a condition), whether the object id
names something. -/
def opTable : List (Nat × Nat × Bool) :=
  [(0x0100, 2, false), (0x0101, 0, false), (0x0102, 0, false),
   (0x0200, 0, false), (0x0201, 0, false), (0x0202, 0, false), (0x0203, 0, false), (0x0300, 0, false),
   (0x0400, 0, false), (0x0401, 0, false), (0x0402, 0, false), (0x0403, 0, false), (0x0404, 0, false),
   (0x0405, 0, false), (0x0406, 0, false),
   (0x0500, 1, true), (0x0501, 1, false), (0x0502, 1, true), (0x0503, 0, false), (0x0504, 1, true), (0x0505, 1, true),
   (0x0507, 2, false),
   (0x0600, 0, true), (0x0601, 2, true), (0x0602, 0, true), (0x0603, 0, true), (0x0604, 0, true), (0x0605, 0, true),
   (0x0606, 1, true), (0x0607, 1, true), (0x0608, 0, true), (0x0609, 0, false),
   (0x0700, 0, true), (0x0701, 0, true), (0x0702, 0, true), (0x0703, 0, true), (0x0704, 0, true), (0x0705, 0, true),
   (0x0706, 0, true), (0x0707, 0, false), (0x0708, 0, false), (0x0709, 0, false), (0x070A, 0, false), (0x070B, 1, false),
   (0x070C, 0, false),
   (0x0800, 0, false), (0x0801, 0, false), (0x0802, 0, true), (0x0803, 0, false), (0x0804, 0, false), (0x0805, 0, false),
   (0x0806, 0, false), (0x0807, 0, false), (0x0808, 0, false), (0x0809, 0, false), (0x080A, 0, false),
   (0x0900, 0, true), (0x0901, 0, true), (0x0902, 0, true), (0x0903, 0, true), (0x0904, 0, true), (0x0905, 0, true),
   (0x0A00, 0, false), (0x0A01, 0, false), (0x0A02, 0, false), (0x0A03, 0, false),
   (0x0A10, 0, false), (0x0A11, 0, false), (0x0A12, 1, false), (0x0A18, 0, false), (0x0A19, 0, false),
   (0x0A20, 0, false), (0x0A21, 0, false), (0x0A22, 0, false), (0x0A23, 0, false), (0x0A30, 0, false), (0x0A31, 0, false),
   (0x0B00, 0, false), (0x0B01, 0, false), (0x0B02, 0, false), (0x0B03, 0, false), (0x0B04, 0, false),
   (0x0B10, 0, false), (0x0B11, 0, false), (0x0B12, 0, false), (0x0B13, 0, false), (0x0B14, 0, false), (0x0B15, 0, false)]

/-- Whether the condition holds under which ARM (10 R344), KV_APPEND (06 R197) and PRESS_GRAD_DRAIN (05 R158) need an
extension. -/
def extNeeded (j : Job) : Bool :=
  if j.opcode = 0x0100 then j.bits 52 5 3 != 0
  else if j.opcode = 0x0601 then j.bits 52 0 1 == 1
  else j.bits 37 3 1 == 1

/-- Whether the chain flag is misused or missing (01 R36). -/
def chainBad (j : Job) (k : Nat) : Bool :=
  if k = 0 then j.chain else if k = 1 then !j.chain else extNeeded j && !j.chain

/-- Whether some operation of a class names an object (01 R34). -/
def namesObjects (cls : Nat) : Bool := opTable.any (fun e => e.1 / 256 == cls && e.2.2)

/-- Checks 2 to 8 of 01 R37. A non-zero threshold offends at its first byte, 56, whichever of its bytes is not 0 (DESIGN CHOICE,
notes/assumptions/11.md). -/
def headerErr (j : Job) : Option Ending :=
  let cls := j.fld 1 1
  match opTable.find? (fun e => e.1 == j.opcode) with
  | none => some (if 1 ≤ cls ∧ cls ≤ 0x0B then badErr 0x02 0 else badErr 0x01 1)
  | some (_, k, _) => firstErr [
      chk (j.bits 2 5 3 != 0 || (j.bits 2 4 1 == 1 && cls != 5) || chainBad j k) (badErr 0x03 2),
      chk (decide (3 < j.fld 3 1)) (badErr 0x04 3),
      chk (j.bits 9 4 3 != 0) (badErr 0x05 9),
      chk (j.bits 11 4 3 != 0) (badErr 0x05 11),
      chk (j.bits 9 7 1 == 0 && j.fld 56 8 != 0) (badErr 0x06 56),
      chk (!namesObjects cls && j.fld 12 4 != 0) (badErr 0x07 ((rsvd j 12 16).getD 12)),
      chk (bitsOf (j.fld 12 4) 20 12 != 0) (badErr 0x07 (if j.bits 14 4 4 != 0 then 14 else 15))]

/-- The opcodes that act on the issuing function's partition although of class 0x0A (11 R375, 12 R401). -/
def partOps : List Nat := [0x0A10, 0x0A11, 0x0A12, 0x0A18, 0x0A19, 0x0A20, 0x0A21, 0x0A22, 0x0A23]

/-- The opcodes that only the PF may issue (13 R432, 14 R451, R458, 15 R471). -/
def pfOps : List Nat := [0x0A30, 0x0B00, 0x0B01, 0x0B02, 0x0B04, 0x0B10, 0x0B11, 0x0B12, 0x0B13, 0x0B14, 0x0B15]

/-- The rules that refuse a descriptor because of the function that issued it (01 R17, R37). -/
def accessErr (s : State) (j : Job) : Option Ending :=
  let cls := j.fld 1 1
  let f := fnOfRing s j.ring
  let wide := f == 0 && s.hp.own != 0
  let dieless := match partOfRing s j.ring with
    | some p => diesOf s p == 0
    | none => false
  chk ((wide && (cls != 0x0A && cls != 0x0B)) || (wide && (j.bits 9 7 1 == 1 || j.bits 11 7 1 == 1)) ||
    (dieless && cls != 0x0A) || (partOps.contains j.opcode && (wide || dieless)) || (pfOps.contains j.opcode && f != 0) ||
    (j.opcode == 0x0B03 && !(s.hp.rings.any (fun e => e.2.enabled && ringOwner s.hp.own e.1 == some f && e.2.job != 0 &&
      e.2.job.toNat == j.fld 16 4)))) (stAccess, 0)

/-- The next descriptor of ring n to be checked. -/
def nextJob (s : State) (n : Nat) : Option Job := s.hp.jobs.find? (fun j => j.ring == n && j.phase == .fetched)

/-- Whether a descriptor of the opcodes that names j's region has begun and not ended. -/
def regionRuns (s : State) (j : Job) (ops : List Nat) : Bool :=
  s.hp.jobs.any (fun k => k.id != j.id && ops.contains k.opcode && (k.phase == .checked || k.phase == .running) &&
    partOfRing s k.ring == partOfRing s j.ring && k.obj == j.obj)

/-- Whether descriptor j of class 0x06 must wait to begin (06 R180, R203): truncates, attaches, publishes and frees for the appends of
their region, appends for its truncates; attaches, publishes and truncates for its truncates too (notes/assumptions/33.md). -/
def regionHolds (s : State) (j : Job) : Bool :=
  let op := j.opcode
  (decide (0x0602 ≤ op ∧ op ≤ 0x0605) && regionRuns s j [0x0601]) ||
  ([0x0601, 0x0602, 0x0604, 0x0605].contains op && regionRuns s j [0x0602])

/-- Whether every condition holds that lets j begin (01 R31, R36, R38). One whose own row has not yet run holds those after it, so
that their effects keep ring order (notes/assumptions/13.md). -/
def mayBegin (s : State) (j : Job) : Bool :=
  let p := partOfRing s j.ring
  !j.needExt && (ringOwner s.hp.own j.ring).isSome && !regionHolds s j && !armHolds s j && !batchHolds s j &&
  !(s.hp.jobs.any (fun k => k.ring == j.ring && k.phase == .checked && !k.waits)) &&
  (match p with
   | some q => rfield s (rPartCtrl q) 0 1 == 0 && (j.bits 9 7 1 == 0 || decide (j.fld 56 8 ≤ (pegOf s q (j.bits 8 0 12)).toNat))
   | none => true) &&
  (j.bits 2 1 1 == 0 || s.hp.jobs.all (fun k => k.ring != j.ring || decide (j.id ≤ k.id)))

/-- The sequence halt of ring n at descriptor j (01 R32). -/
def seqHalt (s : State) (n : Nat) (j : Job) : State :=
  let r := ringOf s n
  let s1 := setStain (setRing s n { r with halted := true, err := r.err ||| 1 }) rHpStain 6
  { s1 with hp := { s1.hp with jobs := s1.hp.jobs.map (fun k =>
      if k.ring = n ∧ j.id ≤ k.id ∧ k.phase = .fetched then
        { k with phase := .decided, status := stBad, detail := 0x0408, decidedAt := s.now, ordered := true } else k) } }

/-- The visible lengths of the regions of ring n's partition, by region. -/
def seenNow (s : State) (n : Nat) : List (Nat × Tab Nat) :=
  (s.tm.regions.filter (fun r => some r.p == partOfRing s n)).map (fun r => (r.id, r.vis))

/-- The priority streams that run: begun, not decided, not demoted (05 R152). -/
def prioStreams (s : State) : List Job :=
  s.hp.jobs.filter (fun j => (j.phase == .checked || j.phase == .running) && j.opcode == 0x0500 && j.bits 2 4 1 == 1 && !j.demoted)

/-- Whether descriptor j, as it begins, is a priority stream beyond the four that may run (05 R152). -/
def demotes (s : State) (j : Job) : Bool := j.opcode == 0x0500 && j.bits 2 4 1 == 1 && decide (4 ≤ (prioStreams s).length)

/-- A SNAPSHOT triggers its module's slot as it begins, and with the machine flag the machine's, unless the slot refuses it (14 R444,
R445). -/
def triggerAt (s : State) (j : Job) : State :=
  let sid := j.fld 24 2
  let t := BitVec.ofNat 64 (j.fld 16 8)
  if (snapshotErr j s.now).isSome then s
  else if snapClash (snapOf s (sid % 4)) sid t then setStain s rObStain 3
  else
    let u := addTrigger s sid t [j.id]
    if j.bits 26 0 1 = 1 then originate u (.snapshot t sid) else u

/-- A CHECKPOINT captures its partition as it begins (08 R275), a SEARCH or a MERGE its index (09 R304, R311), a
SWAP the half that it frees (10 R335). -/
def captureAt (s : State) (n : Nat) (j : Job) : State :=
  match partOfRing s n with
  | some p =>
    if j.opcode = 0x0707 then { s with tm := { s.tm with shots := s.tm.shots ++ [takeShot s p j.id] } }
    else if j.opcode = 0x0904 ∨ j.opcode = 0x0905 then
      (match s.tm.indexes.find? (fun x => x.p == p && x.id == j.obj) with
       | some x => { s with tm := { s.tm with bound := s.tm.bound ++ [(j.id, x)] } }
       | none => s)
    else if j.opcode = 0x0101 then
      (match queueNamed s j with
       | some q => { s with se := { s.se with found := s.se.found ++ [(j.id, q, swapFinds s q)] } }
       | none => s)
    else s
  | none => s

/-- What descriptor j of ring n does as it begins. -/
def takeAt (s : State) (n : Nat) (j : Job) : State := if j.opcode = 0x0B00 then triggerAt s j else captureAt s n j

/-- Check and begin descriptor j of ring n. -/
def beginJob (s : State) (n : Nat) (j : Job) : State :=
  let r := ringOf s n
  if j.seq ≠ r.nextSeq.toNat then seqHalt s n j
  else
    let s0 := setRing s n { r with nextSeq := r.nextSeq + 1 }
    let s1 := modJob { s0 with hp := { s0.hp with begun := s0.hp.begun + 1 } } j.id
      (fun k => { k with beginAt := s.now, order := s.hp.begun + 1, seen := seenNow s n, demoted := demotes s j })
    match headerErr j <|> accessErr s j with
    | some e => finish s1 j.id e
    | none => modJob (takeAt s1 n j) j.id (fun k => { k with phase := .checked })

/-- DESCRIPTOR_BEGIN (01 R31). -/
def execDescriptorBegin (n : Fin 512) (s : State) : Out :=
  .next (match nextJob s n.val with
    | none => s
    | some j => if mayBegin s j then beginJob s n.val j else s)

/-! ## Completion (01 R42-R45) -/

/-- The 16 bytes of a completion entry with its phase bit (01 R42). -/
def entryBytes (e : Entry) (phase : Bool) : List Byte :=
  leBytes 4 e.seq.toNat ++ leBytes 2 e.status ++ leBytes 1 ((if phase then 1 else 0) + (if e.tagged then 2 else 0)) ++ [0] ++
  leBytes 4 e.stitch.toNat ++ leBytes 4 e.detail.toNat

/-- Raise ring n's vector and start its coalescing anew; `late`: owe its message, since what was held is being written (01 R46). -/
def ringInterrupt (s : State) (n : Nat) (late : Bool) : State :=
  let r := ringOf s n
  (if late then owe else raise) (setRing s n { r with since := 0, firstAt := 0 }) (vecBase s.hp.own (fnOfRing s n) + r.vector)

/-- Write an entry into ring n's completion ring, then raise its vector where 01 R45 says so. -/
def writeEntry (s : State) (n : Nat) (e : Entry) : State :=
  let r := ringOf s n
  let s1 := hostPut s (fnOfRing s n) (r.cplBase.toNat + 16 * r.cplTail) (entryBytes e r.phase) false
  let wrap := r.cplTail + 1 == r.cplSize
  let r1 := { r with
    cplTail := if wrap then 0 else r.cplTail + 1
    phase := if wrap then !r.phase else r.phase
    since := r.since + 1
    firstAt := if r.since = 0 then s.now else r.firstAt }
  let s2 := count (setRing s1 n r1) 1480 1
  let cc := bitsOf r.ctrl.toNat 8 8
  if e.intr || (e.status != stDone && e.status != stDoneSoiled) || (cc != 0 && decide (cc ≤ r1.since)) then
    ringInterrupt s2 n e.shut
  else s2

/-- The entry of a decided descriptor. -/
def entryOf (j : Job) : Entry :=
  ⟨BitVec.ofNat 32 j.seq, j.status, j.tagged, j.decidedAt, j.detail, j.bits 2 0 1 == 1, false⟩

/-- The 96 bytes of a tag record (14 R442). -/
def tagBytes (s : State) (j : Job) : List Byte :=
  leBytes 2 j.ring ++ leBytes 2 j.opcode ++ leBytes 4 j.seq ++ leBytes 2 j.status ++
  leBytes 1 ((partOfRing s j.ring).getD 0xFF) ++ leBytes 1 j.engine ++ leBytes 4 0 ++
  leBytes 8 j.fetchAt.toNat ++ leBytes 8 j.beginAt.toNat ++ leBytes 8 s.now.toNat ++
  (List.range 9).flatMap (fun k => leBytes 4 (sat (2 ^ 32 - 1) (tget (fun _ => 0) j.stalls k))) ++
  leBytes 4 (sat (2 ^ 32 - 1) j.steps) ++ leBytes 8 j.moved ++ leBytes 8 0

/-- Complete the tag record of j, moving it behind those completed before. -/
def finishTag (s : State) (j : Job) : State :=
  if j.tagged then { s with ob := { s.ob with tags := s.ob.tags.filter (fun t => t.id != j.id) ++ [⟨j.id, true, tagBytes s j⟩] } }
  else s

/-- Descriptor j completes: its signal peg, its entry written or held, its interrupt (01 R38, R43). -/
def completeJob (s : State) (j : Job) : State :=
  let ok := j.status == stDone || j.status == stDoneSoiled
  let s1 := match partOfRing s j.ring with
    | some p => if ok && j.bits 11 7 1 == 1 then addPeg s p (j.bits 10 0 12) 1 else s
    | none => s
  let s2 := finishTag { s1 with
    hp := { s1.hp with jobs := s1.hp.jobs.filter (fun k => k.id != j.id) }
    tm := { s1.tm with
      leaves := s1.tm.leaves.filter (fun w => w.job != j.id)
      shots := s1.tm.shots.filter (fun x => x.job != j.id)
      bound := s1.tm.bound.filter (fun e => e.1 != j.id) }
    se := { s1.se with found := s1.se.found.filter (fun e => e.1 != j.id) } } j
  let s3 := if j.engine < 64 then count s2 (16 * j.engine + 14) 1 else s2
  let f := fnOfRing s j.ring
  let s4 := if j.opcode = 0x070B ∧ j.extAddr ≠ 0 then hostPut s3 f j.extAddr (List.replicate 64 0) false else s3
  let r := ringOf s4 j.ring
  if hostOpen s4 f && r.held.isEmpty && !cplFull r then writeEntry s4 j.ring (entryOf j)
  else setRing s4 j.ring { r with held := r.held ++ [{ entryOf j with shut := !hostOpen s4 f }] }

/-- Whether a decided descriptor may complete: its extension has been fetched (or never will be), those decided before it by
the same sequence halt are gone, and a KEY_LOAD can clear its extension slot (08 R284). -/
def mayComplete (s : State) (j : Job) : Bool :=
  let r := ringOf s j.ring
  (j.phase == .decided) && (!j.needExt || r.halted || !r.enabled) &&
  (!j.ordered || s.hp.jobs.all (fun k => k.ring != j.ring || !k.ordered || decide (j.id ≤ k.id))) &&
  (j.opcode != 0x070B || hostOpen s (fnOfRing s j.ring))

/-- HELD_COMPLETION_WRITE (01 R44). -/
def execHeldCompletionWrite (n : Fin 512) (s : State) : Out :=
  let r := ringOf s n.val
  .next (match r.held with
    | [] => s
    | e :: es => if hostOpen s (fnOfRing s n.val) && !cplFull r then
        sendOwed (writeEntry (setRing s n.val { r with held := es }) n.val e) else s)

/-- COAL_TIME_EXPIRE (01 R45). -/
def execCoalTimeExpire (n : Fin 512) (s : State) : Out :=
  let r := ringOf s n.val
  let t := bitsOf r.ctrl.toNat 16 16
  runIf s (t != 0 && r.since != 0 && decide (r.firstAt.toNat + 1000 * t ≤ s.now.toNat)) (ringInterrupt s n.val false)

/-- Clear the mask of vector g, sending the message that waited (01 R45). -/
def unmask (s : State) (g : Nat) : State :=
  let m := msixOf s g
  let s1 := setMsix s g { m with mask := false, pend := false }
  if m.pend then raise s1 g else s1

/-- The module vector behind vector v of function f's own table, where the function has it. -/
def vecOf (s : State) (f v : Nat) : Option Nat :=
  if v < vecCount s.hp.own f && present s f then some (vecBase s.hp.own f + v) else none

/-- MSIX_UNMASK (01 R45). -/
def execMsixUnmask (f : Fin 9) (vec : Fin 512) (s : State) : Out :=
  .next (match vecOf s f.val vec.val with
    | some g => unmask s g
    | none => s)

/-! ## Pegs and class 0x0A (01 R40, R41) -/

/-- PEG_WINDOW_ADD (01 R40). -/
def execPegWindowAdd (f : Fin 9) (p : Fin 8) (i : Fin 4096) (v : Word) (s : State) : Out :=
  runIf s (ready s && (f.val == 0 || (present s f.val && partOf s.hp.own f.val == some p.val)))
    (addPeg s p.val i.val (v.setWidth 64))

/-- NOP (01 R41). -/
def execNop (id : Nat) (s : State) : Out :=
  runOp s id 0x0A00 (fun j => finish s id ((fields [rsvd j 16 56]).getD (stDone, 0)))

/-- The partition whose pegs PEG_ADD and PEG_SET of j reach, and whether byte 18 names it validly (01 R41). -/
def pegPart (s : State) (j : Job) : Nat × Bool :=
  match partOfRing s j.ring with
  | some p => (p, j.fld 18 1 == 0)
  | none => (j.fld 18 1, decide (j.fld 18 1 < 8))

/-- Check 9 of PEG_ADD and PEG_SET. -/
def pegFields (s : State) (j : Job) : Option Ending :=
  fields [bad (j.bits 17 4 4 != 0) 17, bad (!(pegPart s j).2) 18, rsvd j 19 24, rsvd j 32 56]

/-- PEG_ADD (01 R41). -/
def execPegAdd (id : Nat) (s : State) : Out :=
  runOp s id 0x0A01 (fun j => match pegFields s j with
    | some e => finish s id e
    | none => finish (addPeg s (pegPart s j).1 (j.bits 16 0 12) (BitVec.ofNat 64 (j.fld 24 8))) id (stDone, 0))

/-- PEG_SET (01 R41). -/
def execPegSet (id : Nat) (s : State) : Out :=
  runOp s id 0x0A02 (fun j => match pegFields s j with
    | some e => finish s id e
    | none => finish (setPeg s (pegPart s j).1 (j.bits 16 0 12) (BitVec.ofNat 64 (j.fld 24 8))) id (stDone, 0))

/-- HOST_WRITE (01 R41); it waits while host memory is out of reach (01 R46). -/
def execHostWrite (id : Nat) (s : State) : Out :=
  runOp s id 0x0A03 (fun j => match fields [rsvd j 16 24, bad (!aligned (j.fld 24 8) 8) 24, rsvd j 40 56] with
    | some e => finish s id e
    | none =>
      let f := fnOfRing s j.ring
      if hostOpen s f then finish (hostPut s f (j.fld 24 8) (leBytes 8 (j.fld 32 8)) false) id (stDone, 0) else markWaits s id)

/-! ## Suspension (01 R20) -/

/-- Whether j stops rather than completes while its partition is suspended: collectives and Spins, and an arming that waits
only for a free half (07 R233, 10 R349). -/
def stopsSuspended (j : Job) : Bool := j.parked || (decide (0x0802 ≤ j.opcode) && decide (j.opcode ≤ 0x0809))

/-- Whether a descriptor of partition p is running. -/
def partRunning (s : State) (p : Nat) : Bool :=
  s.hp.jobs.any (fun j => partOfRing s j.ring == some p && (j.phase == .checked || j.phase == .running) && !stopsSuspended j)

/-- SUSPEND of partition p. -/
def suspended (s : State) (p : Nat) : Bool := rfield s (rPartCtrl p) 0 1 == 1

/-- SUSPENDED of partition p: suspended and nothing running. -/
def quiet (s : State) (p : Nat) : Bool := suspended s p && !partRunning s p

/-- Complete every fetched descriptor of partition p that has not begun with SUSPENDED. -/
def flush (s : State) (p : Nat) : State :=
  let s1 := { s with hp := { s.hp with jobs := s.hp.jobs.map (fun j =>
    if partOfRing s j.ring = some p ∧ j.phase = .fetched then
      { j with phase := .decided, status := stSuspended, detail := 0, decidedAt := s.now } else j) } }
  wfield s1 (rPartStatus p) 4 1 0

/-- The watchdogs of the partition's groups start anew as it resumes (07 R233). -/
def restartWatches (s : State) (p : Nat) : State :=
  { s with ce := { s.ce with groups := s.ce.groups.map (fun e => (e.1, e.2.map (fun g => if g.p = p then { g with watch := s.now } else g))) } }

/-- A write of w to HP_PART_CTRL(p) (01 R20): SUSPEND first, then FLUSH. -/
def partCtrl (s : State) (p : Nat) (w : Word) : State :=
  let s1 := wreg s (rPartCtrl p) (w &&& 0x35)
  if !w.getLsbD 0 then wfield (if suspended s p then restartWatches s1 p else s1) (rPartStatus p) 4 1 0
  else if w.getLsbD 1 then (if quiet s1 p then flush s1 p else wfield s1 (rPartStatus p) 4 1 1)
  else s1

/-- PART_FLUSH (01 R20). -/
def execPartFlush (p : Fin 8) (s : State) : Out := runIf s (ready s) (partCtrl s p.val (rreg s (rPartCtrl p.val) ||| 2))

/-- PART_HELD_FLUSH (01 R20). -/
def execPartHeldFlush (p : Fin 8) (s : State) : Out :=
  runIf s (rfield s (rPartStatus p.val) 4 1 == 1 && quiet s p.val) (flush s p.val)

end Sys2Proof.Machine
end

