-- ==== Sys2Proof/Machine/Operands.lean ====
section
/-! DEFINITION. Operand forms that many descriptors share: partition addresses, addresses with a format, core numbers, the
partition of a descriptor, and lists of elements in memory. -/

namespace Sys2Proof.Machine

/-- Bits [63:52] of an address field are reserved. -/
def a52 (j : Job) (off : Nat) : Option Nat :=
  if j.fld off 8 < 2 ^ 52 then none else some (if j.bits (off + 6) 4 4 != 0 then off + 6 else off + 7)

/-- As `a52`, in the extension. -/
def xa52 (j : Job) (off : Nat) : Option Nat :=
  if j.xfld off 8 < 2 ^ 52 then none else some (64 + (if j.xbits (off + 6) 4 4 != 0 then off + 6 else off + 7))

/-- An address field with a format in [59:52], one of `ok`; [63:60] are reserved. -/
def aFmt (j : Job) (off : Nat) (ok : Nat → Bool) : Option Nat :=
  if !ok (j.fmt off) then some (off + 6) else if j.bits (off + 7) 4 4 != 0 then some (off + 7) else none

/-- The plain floating-point formats and I8 (02 R49). -/
def isPlain (c : Nat) : Bool := decide (1 ≤ c) && decide (c ≤ 5)
/-- The plain floating-point formats. -/
def isFloat (c : Nat) : Bool := decide (2 ≤ c) && decide (c ≤ 5)

/-- Descriptor j runs on core c, spending steps and moving bytes, for its tag record and core counters. -/
def ranOn (s : State) (id engine steps moved : Nat) : State :=
  modJob s id (fun j => { j with engine := engine, steps := steps, moved := moved })

/-- Elements of a plain format in a list of bytes, as values. -/
def elemsOf (code : Nat) (bs : List Byte) : List Val :=
  (List.range (bs.length / elemSize code)).map (fun i =>
    decodeElem code (ofLe ((bs.drop (i * elemSize code)).take (elemSize code))))

/-- n elements of a plain format at address a of place k. -/
def elemsAt (s : State) (k a n code : Nat) : List Val := elemsOf code (bytesAt s k a (n * elemSize code))

/-- The soil of each of n elements of `size` bytes at address a of place k. -/
def soilsAt (s : State) (k a n size : Nat) : List Bool := (List.range n).map (fun i => soiledAt s k (a + i * size) size)

/-- The values of a list encoded in a plain format: bytes, and whether any conversion saturated. -/
def encodeAll (code : Nat) (m : Rnd) (xs : List Val) : List Byte × Bool :=
  let es := xs.map (encodeElem code m)
  ((es.map (fun e => e.1)).flatten, es.any (fun e => e.2))

/-- The soil by byte of elements whose soil is a list, each `size` bytes wide. -/
def byteSoil (size : Nat) (soil : List Bool) (i : Nat) : Bool := soil.getD (i / size) false

/-- Whether two spans of one place overlap. -/
def overlap (a n b m : Nat) : Bool := decide (a < b + m) && decide (b < a + n)

/-- A SHAPE_REJECTED ending (11 R363). -/
def shapeErr (code value : Nat) : Ending := (stShape, code + 65536 * sat 65535 value)

end Sys2Proof.Machine
end

