-- ==== Sys2Proof/Machine/Arrays.lean ====
section
/-! DEFINITION. The matrix arrays and the Needle path (spec 03). -/

namespace Sys2Proof.Machine

/-! ## Arrays -/

/-- Array a of core c. -/
def arrOf (s : State) (c a : Nat) : Arr := tget (fun _ => arr0) s.mx (c * 4 + a)

/-- Store array a of core c. -/
def setArr (s : State) (c a : Nat) (x : Arr) : State := { s with mx := tset (fun _ => arr0) s.mx (c * 4 + a) x }

/-- The arrays that a mask names, in order (03 R83). -/
def maskArrs (m : Nat) : List Nat := (List.range 4).filter (bitOf m)

/-- Change the arrays of a mask. -/
def modArrs (s : State) (c m : Nat) (f : Arr → Arr) : State := (maskArrs m).foldl (fun t a => setArr t c a (f (arrOf t c a))) s

/-- Counter k of core c (14 R440). -/
def coreCount (s : State) (c k n : Nat) : State := count s (16 * c + k) n

/-- Slot column i of an array. -/
def Arr.col (x : Arr) (i : Nat) : Option Col := tget (fun _ => none) x.cols i

/-- Store slot column i of an array. -/
def Arr.setCol (x : Arr) (i : Nat) (c : Option Col) : Arr := { x with cols := tset (fun _ => none) x.cols i c }

/-- Slot i of a column. -/
def Col.acc (c : Col) (i : Nat) : Acc := tget (fun _ => acc0) c.slots i

/-- Store slot i of a column. -/
def Col.setAcc (c : Col) (i : Nat) (a : Acc) : Col := { c with slots := tset (fun _ => acc0) c.slots i a }

/-- 112 MiB: a core buffer's operand range (03 R98, R103). -/
def bufBytes : Nat := 112 * 2 ^ 20

/-- The core field check: none in service under the number. -/
def badCore (s : State) (j : Job) (off : Nat) : Option Nat := bad ((coreAt s (part s j) (j.fld off 1)).isNone) off

/-! ## HOLD (03 R85-R87) -/

/-- A held row of ext elements at offset a of core c's buffer: values, and the soil of each. -/
def heldVals (s : State) (c a ext fmt : Nat) : List Val × List Bool :=
  (elemsAt s (bufPlace c) a ext fmt, soilsAt s (bufPlace c) a ext (elemSize fmt))

/-- The block of 32 elements with the shared exponent e_max (none: no finite non-zero element) (02 R64, 03 R86). -/
def heldBlock (fmt : Nat) (e : Option Int) (xs : List Val) (soil : List Bool) : HBlock :=
  let live := xs.map (fun x => x.isFin && !x.isZero)
  if fmt = 1 then ⟨0, live, xs.map (fun x => x.rat.floor), xs.map Cls.of, soil⟩
  else match e with
    | none => ⟨0, live, xs.map (fun _ => 0), xs.map Cls.of, soil⟩
    | some e => ⟨e - 14, live, alignAt 14 e xs, xs.map Cls.of, soil⟩

/-- Block k of a row. -/
def chunk32 {α : Type} (k : Nat) (l : List α) : List α := (l.drop (32 * k)).take 32

/-- A tile of R rows and extent E read from core c's buffer. -/
def loadTile (s : State) (c src stride rows ext fmt fold : Nat) (square : Bool) : Tile :=
  let rs := (List.range rows).map (fun i => heldVals s c (src + i * stride) ext fmt)
  let eOf (i b : Nat) : Option Int :=
    eMax (if square then ((rs.drop (32 * (i / 32))).take 32).flatMap (fun r => chunk32 b r.1)
          else chunk32 b ((rs.map (fun r => r.1)).getD i []))
  ⟨fmt, fold, square, rows, ext,
    (rs.zipIdx).map (fun r => (List.range (ext / 32)).map (fun b =>
      heldBlock fmt (eOf r.2 b) (chunk32 b r.1.1) (chunk32 b r.1.2)))⟩

/-- Whether a HOLD must wait for products that read the registers it loads (03 R87). -/
def holdWaits (wide : Bool) (x : Arr) : Bool := if wide then !x.queue.isEmpty else x.queue.any (fun p => p.wide || !p.act)

/-- A loaded tile takes its registers (03 R75). -/
def Arr.take (x : Arr) (t : Tile) : Arr :=
  if t.wide then { x with held := some t, shadow := none }
  else { x with held := (if x.held.any Tile.wide then none else x.held), shadow := some t }

/-- Check 9 of HOLD (03 R98). -/
def holdErr (s : State) (j : Job) : Option Ending :=
  let src := j.fld 16 4
  let stride := j.fld 20 4
  let ast := j.fld 24 4
  let rows := j.fld 32 2
  let ext := j.fld 34 2
  let fmt := j.fld 36 1
  let split := j.bits 37 0 1 == 1
  let fold := j.bits 37 2 2
  let m := j.fld 38 1 % 16
  let srcOf (a : Nat) : Nat := if split then src + a * ast else src
  let beyond := (maskArrs m).any (fun a => decide (bufBytes < srcOf a + (rows - 1) * stride + ext * elemSize fmt))
  fields [bad (decide (2 ^ 27 ≤ src)) 19, bad (!split && ast != 0) 24, rsvd j 28 32,
      bad (rows == 0 || decide (256 < rows)) 32, bad (ext == 0 || ext % 32 != 0 || decide (256 / 2 ^ fold < ext)) 34,
      bad (fmt == 0 || decide (4 < fmt)) 36, bad (j.bits 37 4 4 != 0) 37, bad (j.bits 38 4 4 != 0 || m == 0) 38,
      badCore s j 39, rsvd j 40 56]
    <|> fields [bad beyond 16]

/-- HOLD (03 R85, R98). A tile held as 16 bits counts e = 2 although its source has 8 (DESIGN CHOICE, notes/assumptions/17.md). -/
def execHold (id : Nat) (s : State) : Out :=
  runOp s id 0x0200 (fun j =>
    let src := j.fld 16 4
    let stride := j.fld 20 4
    let ast := j.fld 24 4
    let rows := j.fld 32 2
    let ext := j.fld 34 2
    let fmt := j.fld 36 1
    let split := j.bits 37 0 1 == 1
    let fold := j.bits 37 2 2
    let m := j.fld 38 1 % 16
    let srcOf (a : Nat) : Nat := if split then src + a * ast else src
    match holdErr s j with
    | some e => finish s id e
    | none =>
      let c := (coreAt s (part s j) (j.fld 39 1)).getD 0
      let e := if fmt = 1 then 1 else 2
      let cost := cdiv (rows * ext * e) 256 * (if split then (maskArrs m).length else 1)
      if (maskArrs m).any (fun a => holdWaits (fmt != 1) (arrOf s c a)) then s
      else
        let t := (maskArrs m).foldl (fun t a =>
          setArr t c a ((arrOf t c a).take (loadTile s c (srcOf a) stride rows ext fmt fold (j.bits 37 1 1 == 1)))) s
        finish (ranOn t id c cost (rows * ext * e)) id (stDone, 0))

/-! ## Terms of a product (03 R76-R79) -/

/-- The significand and exponent of a scale byte (03 R78); none: invalid. -/
def scaleOf (sf : Bool) (b : Nat) : Option (Int × Int) :=
  if sf then
    if 127 ≤ b then none
    else if b / 8 = 0 then some ((b : Int), -9) else some (8 + (b % 8 : Nat), ((b / 8 : Nat) : Int) - 10)
  else if b = 255 then none else some (1, (b : Int) - 127)

/-- A streamed column over blocks of 32: format code, and per block the codes, the scale byte and the zero point. -/
structure Stream where
  fmt : Nat
  blocks : List (List Int × Nat × Int)
  soil : Bool
  deriving DecidableEq, Repr

/-- Σ h·q − z·H over a block: the block sum S (03 R77, 02 R57). -/
def blockSum (hs qs : List Int) (z : Int) : Int := ((hs.zip qs).map (fun p => p.1 * p.2)).sum - z * hs.sum

/-- What a block adds to a slot's class (02 R66). -/
def blockCls (h : HBlock) (qs : List Int) (z : Int) : Option (Int × Int) → Cls
  | none => .nan
  | some (g, _) => (h.cls.zip qs).foldl (fun c p => c.add (match p.1 with
      | .fin => .fin
      | .nan => .nan
      | k => if p.2 - z = 0 ∨ g = 0 then .nan else if (k = .pinf) = (0 < p.2 - z) then .pinf else .ninf)) .fin

/-- The terms and the class that a row of held blocks meets in a stream; `part` maps an aligned integer to what the pass holds. -/
def rowTerms (hs : List HBlock) (x : Stream) (pass : Int → Int) : List (Int × Int) × Cls :=
  (hs.zip x.blocks).foldl (fun acc p =>
    let sc := scaleOf (lqSf8 x.fmt) p.2.2.1
    let c := acc.2.add (blockCls p.1 p.2.1 p.2.2.2 sc)
    match sc with
    | none => (acc.1, c)
    | some (g, sx) =>
      if g ≠ 0 ∧ p.1.live then (acc.1 ++ [(blockSum (p.1.ints.map pass) p.2.1 p.2.2.2 * g, p.1.hx + sx)], c) else (acc.1, c)) ([], .fin)

/-- The largest exponent of the terms: T (03 R79). -/
def termTop (ts : List (Int × Int)) : Option Int :=
  ts.foldl (fun o t => some (match o with
    | none => t.2
    | some y => max y t.2)) none

/-- The sum of terms on the grid 2^gs, each rounded once (03 R79). -/
def termSum (gs : Int) (ts : List (Int × Int)) : Int := (ts.map (fun t => roundInt .rne ((t.1 : Rat) * pow2 (t.2 - gs)))).sum

/-- An accumulator wraps in 48 bits (02 R65). -/
def wrap48 (i : Int) : Int := sgn 48 (unsgn 48 i)

/-- A product's contribution is added to a slot (03 R79): the slot, and whether a shift occurred. -/
def Acc.land (x : Acc) (guard : Nat) (l : Land) : Acc × Bool :=
  let y := { x with cls := x.cls.add l.cls, soil := x.soil || l.soil }
  match termTop l.terms with
  | none => (y, false)
  | some t =>
    let g := t - guard
    if y.empty then ({ y with gs := g, a := wrap48 (termSum g l.terms), empty := false }, false)
    else if y.gs < g then
      ({ y with gs := g, a := wrap48 (roundInt .rne ((y.a : Rat) * pow2 (y.gs - g)) + termSum g l.terms) }, true)
    else ({ y with a := wrap48 (y.a + termSum y.gs l.terms) }, false)

/-- A product's contributions land in an array's slots; a column closed meanwhile takes nothing, and one opened again since takes them
(DESIGN CHOICE, notes/assumptions/18.md). -/
def Arr.landAll (x : Arr) (p : Prod) : Arr × Bool :=
  p.lands.foldl (fun acc l => match acc.1.col l.col with
    | none => acc
    | some c =>
      let r := (c.acc l.row).land p.guard l
      (acc.1.setCol l.col (some (c.setAcc l.row r.1)), acc.2 || r.2)) (x, false)

/-! ## PRODUCT (03 R76-R91) -/

/-- The effective width w of a streamed format (03 R80). -/
def effWidth (fmt guard : Nat) : Nat :=
  (if lqZero fmt then max (lqWidth fmt) 8 + 1 else lqWidth fmt) + (if lqSf8 fmt then 4 else 0) + guard

/-- A tile read along the other axis (03 R89): its held columns as rows, its extent the rows rounded up to 32 (DESIGN CHOICE,
notes/assumptions/19.md). -/
def Tile.turn (t : Tile) : Tile :=
  let nb := cdiv t.rows 32
  let blank : HBlock := ⟨0, [], List.replicate 32 0, List.replicate 32 .fin, List.replicate 32 false⟩
  let cell (i c : Nat) : Int × Cls × Bool × Int × Bool :=
    let b := ((t.blocks.getD i []).getD (c / 32) blank)
    if i < t.rows then (b.ints.getD (c % 32) 0, b.cls.getD (c % 32) .fin, b.soil.getD (c % 32) false, b.hx,
      b.nz.getD (c % 32) false) else (0, .fin, false, 0, false)
  { t with
    rows := t.ext
    ext := nb * 32
    blocks := (List.range t.ext).map (fun c => (List.range nb).map (fun k =>
      let es := (List.range 32).map (fun i => cell (32 * k + i) c)
      ⟨(cell (32 * k) c).2.2.2.1, es.map (fun e => e.2.2.2.2), es.map (fun e => e.1), es.map (fun e => e.2.1),
        es.map (fun e => e.2.2.1)⟩)) }

/-- The stream of one column: codes at a, scales at b, zero points at z, over ext elements. -/
def readStream (s : State) (k fmt a b z ext : Nat) : Stream :=
  let n := lqWidth fmt
  ⟨fmt,
    (List.range (ext / 32)).map (fun i =>
      let v := numAt s k (a + 4 * n * i) (4 * n)
      ((List.range 32).map (lqCode fmt v), (byteAt s k (b + i)).toNat, if lqZero fmt then (byteAt s k (z + i)).toInt else 0)),
    soiledAt s k a (ext * n / 8) || soiledAt s k b (ext / 32) || (lqZero fmt && soiledAt s k z (ext / 32))⟩

/-- The spans of one column's codes, scales and zero points. -/
def streamSpans (k fmt a b z ext : Nat) : List Span :=
  [rd k a (ext * lqWidth fmt / 8), rd k b (ext / 32)] ++ (if lqZero fmt then [rd k z (ext / 32)] else [])

/-- The passes of a tile: high and low bytes of a 16-bit format, the byte itself of an 8-bit one (02 R64). -/
def passes (wide : Bool) : List (Int → Int) := if wide then [fun m => m / 256, fun m => m % 256] else [fun m => m]

/-- What one output column of a product adds in slot column i: rows of the tile, and every further row that a soiled or invalid
stream reaches (03 R78, R105). -/
def landsOf (t : Tile) (x : Stream) (i : Nat) (pass : Int → Int) : List Land :=
  let inv := x.blocks.any (fun b => (scaleOf (lqSf8 x.fmt) b.2.1).isNone)
  ((t.blocks.zipIdx).map (fun r =>
    let u := rowTerms r.1 x pass
    (⟨i, r.2, u.1, u.2, x.soil || r.1.any (fun b => b.soil.any (fun q => q))⟩ : Land))) ++
  (if x.soil || inv then ((List.range 256).drop t.rows).map (fun r => ⟨i, r, [], if inv then .nan else .fin, x.soil⟩) else [])

/-- The tile that a PRODUCT meets on an array, its swap counted. -/
def Arr.meets (x : Arr) (swap : Bool) : Option Tile := if swap then x.shadow else x.held

/-- The checks of a PRODUCT against what its arrays hold (03 R75, R89, R103), G = 2^fold. -/
def tileErr (xs : List Arr) (swap turn : Bool) (fold : Nat) : Option Ending :=
  firstErr [
    chk (swap && xs.any (fun x => x.held.any Tile.wide)) (fieldErr 51),
    chk (xs.any (fun x => (x.meets swap).isNone)) (fieldErr 54),
    chk (xs.any (fun x => (x.meets swap).any (fun t => t.fold != fold))) (fieldErr 51),
    chk (turn && xs.any (fun x => (x.meets swap).any (fun t => !t.wide || !t.square || t.fold != 0))) (fieldErr 51),
    chk (decide (1 < ((xs.filterMap (fun x => (x.meets swap).map (fun t => t.fmt))).dedup).length)) (fieldErr 54)]

/-- The slot columns of product number j (03 R83): array's place in the mask, and column by group and pass. -/
def colAt (base c G r j g p : Nat) : Nat := base + (j / c) * G * r + g * r + p

/-- Swap active and shadow (03 R75): products queued read what is now the other register. -/
def Arr.swap (x : Arr) : Arr :=
  { x with held := x.shadow, shadow := x.held, queue := x.queue.map (fun p => { p with act := !p.act }) }

/-- The mode in which a PRODUCT's columns are opened or joined: the first thing wrong with a column (03 R84). -/
def columnErr (x : Arr) (i ext w total : Nat) (acc pair i8 : Bool) : Option Ending :=
  if acc then match x.col i with
    | none => some (fieldErr 51)
    | some c =>
      if c.w ≠ w ∨ c.pair ≠ pair ∨ c.i8 ≠ i8 then some (fieldErr 51)
      else chk (decide (c.total < c.count + ext)) (shapeErr 1 w)
  else chk (decide (total < ext)) (shapeErr 1 w)

/-- The fields of PRODUCT (03 R99). -/
def productFields (s : State) (j : Job) : Option Ending :=
  let fmt := j.fld 50 1
  let zoff := j.fld 40 4
  let total := j.fld 44 4
  let N := j.fld 48 2
  let accu := j.bits 51 2 1 == 1
  let base := j.fld 52 2
  let m := j.bits 54 0 4
  let guard := j.bits 54 4 4
  let w := effWidth fmt guard
  fields [a52 j 16, a52 j 24, bad (isStreamed fmt && (zoff != 0) != lqZero fmt) 40, bad (accu == (total != 0)) 44,
      bad (N == 0) 48, bad (!isStreamed fmt) 50, bad (j.bits 51 6 2 != 0) 51, bad (decide (2048 ≤ base)) 53, bad (m == 0) 54,
      bad (isStreamed fmt && decide (39 < w)) 54, badCore s j 55]

/-- What PRODUCT finds wrong with the tiles that its arrays hold (03 R75, R89). -/
def productTiles (s : State) (j : Job) : Option Ending :=
  let p := part s j
  let turn := j.bits 51 1 1 == 1
  let swap := j.bits 51 3 1 == 1
  let fold := j.bits 51 4 2
  let m := j.bits 54 0 4
  let c := (coreAt s p (j.fld 55 1)).getD 0
  let as := maskArrs m
  let xs := as.map (arrOf s c)
  tileErr xs swap turn fold

/-- What PRODUCT finds wrong with its slot columns (03 R81-R84). -/
def productShape (s : State) (j : Job) : Option Ending :=
  let p := part s j
  let fmt := j.fld 50 1
  let total := j.fld 44 4
  let N := j.fld 48 2
  let turn := j.bits 51 1 1 == 1
  let accu := j.bits 51 2 1 == 1
  let swap := j.bits 51 3 1 == 1
  let fold := j.bits 51 4 2
  let G := 2 ^ fold
  let base := j.fld 52 2
  let m := j.bits 54 0 4
  let guard := j.bits 54 4 4
  let w := effWidth fmt guard
  let c := (coreAt s p (j.fld 55 1)).getD 0
  let as := maskArrs m
  let xs := as.map (arrOf s c)
  let tiles := xs.filterMap (fun x => (x.meets swap).map (fun t => if turn then t.turn else t))
  let wide := tiles.any Tile.wide
  let r := if wide then 2 else 1
  let n := as.length
  let nprod := cdiv N G
  let U := cdiv nprod n * G * r
  let tileAt (q : Nat) : Tile := tiles.getD (q % n) ⟨1, 0, false, 0, 0, []⟩
  let arrAt (q : Nat) : Nat := as.getD (q % n) 0
  let ids := (List.range nprod).flatMap (fun q => (List.range G).flatMap (fun g => (List.range r).map (fun h => (q, colAt base n G r q g h))))
  let colErr := ids.findSome? (fun e => columnErr (arrOf s c (arrAt e.1)) e.2 (tileAt e.1).ext w total accu wide (!wide))
  firstErr [chk (!accu && decide (2 ^ (40 - w) < total)) (shapeErr 1 w), chk (decide (2048 < base + U)) (shapeErr 2 (base + U)),
      colErr]

/-- The tile that array x reads for a product that is not yet issued. -/
def Arr.tileOf (x : Arr) (p : Prod) : Option Tile := if p.act then x.held else x.shadow

/-- The arrays of PRODUCT, its core first. -/
def productArrs (s : State) (j : Job) : Nat × List Nat := ((coreAt s (part s j) (j.fld 55 1)).getD 0, maskArrs (j.bits 54 0 4))

/-- The tiles that PRODUCT reads on its arrays, in order (03 R83): as it begins, what its swap leaves active; then what its products
wait to read. -/
def productHeld (s : State) (j : Job) : List Tile :=
  (productArrs s j).2.filterMap (fun a =>
    let x := arrOf s (productArrs s j).1 a
    let t := match x.queue.find? (fun p => p.job == j.id) with
      | some p => x.tileOf p
      | none => x.meets (j.bits 51 3 1 == 1)
    t.map (fun t => if j.bits 51 1 1 == 1 then t.turn else t))

/-- Whether PRODUCT has begun: its products wait on an array. -/
def productBegun (s : State) (j : Job) : Bool :=
  (productArrs s j).2.any (fun a => (arrOf s (productArrs s j).1 a).queue.any (fun p => p.job == j.id))

/-- The tile that product number q of PRODUCT meets, of those that its arrays hold. -/
def tileFor (ts : List Tile) (n q : Nat) : Tile := ts.getD (q % n) ⟨1, 0, false, 0, 0, []⟩

/-- Where column k of PRODUCT's stream lies: codes, scales, zero points (03 R99). -/
def streamAt (j : Job) (k : Nat) : Nat × Nat × Nat :=
  (j.va 16 + k * j.fld 32 4, j.va 24 + k * j.fld 36 4, j.va 24 + k * j.fld 36 4 + j.fld 40 4)

/-- What PRODUCT reads: codes, scales and zero points of every column (03 R99). -/
def productSpans (s : State) (j : Job) : List Span :=
  let ts := productHeld s j
  let G := 2 ^ j.bits 51 4 2
  (List.range (j.fld 48 2)).flatMap (fun k =>
    let at' := streamAt j k
    streamSpans (part s j) (j.fld 50 1) at'.1 at'.2.1 at'.2.2 (tileFor ts (productArrs s j).2.length (k / G)).ext)

/-- The slot columns of PRODUCT: the product's number and the column (03 R83). -/
def productCols (j : Job) (n r : Nat) : List (Nat × Nat) :=
  let G := 2 ^ j.bits 51 4 2
  (List.range (cdiv (j.fld 48 2) G)).flatMap (fun q =>
    (List.range G).flatMap (fun g => (List.range r).map (fun h => (q, colAt (j.fld 52 2) n G r q g h))))

/-- PRODUCT begins (03 R75, R84, R103): its swap, its slot columns opened or counted on, its products queued without their codes. One
that opens a column already open opens it anew (DESIGN CHOICE, notes/assumptions/20.md). -/
def beginProduct (s : State) (j : Job) : State :=
  let c := (productArrs s j).1
  let as := (productArrs s j).2
  let fmt := j.fld 50 1
  let guard := j.bits 54 4 4
  let ts := productHeld s j
  let wide := ts.any Tile.wide
  let r := if wide then 2 else 1
  let n := as.length
  let ids := productCols j n r
  let arrAt (q : Nat) : Nat := as.getD (q % n) 0
  let s1 := if j.bits 51 3 1 == 1 then modArrs s c (j.bits 54 0 4) Arr.swap else s
  let s2 := ids.foldl (fun u e =>
    let x := arrOf u c (arrAt e.1)
    let ext := (tileFor ts n e.1).ext
    let new := match (if j.bits 51 2 1 == 1 then x.col e.2 else none) with
      | some q => { q with count := q.count + ext }
      | none => ⟨effWidth fmt guard, j.fld 44 4, ext, wide, !wide, []⟩
    setArr u c (arrAt e.1) (x.setCol e.2 (some new))) s1
  (List.range (cdiv (j.fld 48 2) (2 ^ j.bits 51 4 2))).foldl (fun u q =>
    let x := arrOf u c (arrAt q)
    let p : Prod := ⟨j.id, false, lqWidth fmt * r, j.bits 51 0 1 == 1, guard, wide, true,
      (ids.filter (fun e => e.1 == q)).map (fun e => e.2), []⟩
    setArr u c (arrAt q) { x with queue := x.queue ++ [p] }) s2

/-- PRODUCT's codes have come: every product of it is ready to issue. -/
def fillProduct (s : State) (j : Job) : State :=
  let c := (productArrs s j).1
  let as := (productArrs s j).2
  let n := as.length
  let G := 2 ^ j.bits 51 4 2
  let N := j.fld 48 2
  let fmt := j.fld 50 1
  let ts := productHeld s j
  let wide := ts.any Tile.wide
  let r := if wide then 2 else 1
  let streams := (List.range N).map (fun k =>
    let at' := streamAt j k
    readStream s (part s j) fmt at'.1 at'.2.1 at'.2.2 (tileFor ts n (k / G)).ext)
  let landsAt (q : Nat) : List Land := ((List.range G).filter (fun g => decide (q * G + g < N))).flatMap (fun g =>
    ((passes wide).zipIdx).flatMap (fun h =>
      landsOf (tileFor ts n q) (streams.getD (q * G + g) ⟨fmt, [], false⟩) (colAt (j.fld 52 2) n G r q g h.2) h.1))
  (as.zipIdx).foldl (fun u a =>
    let x := arrOf u c a.1
    setArr u c a.1 { x with queue := (x.queue.foldl (fun (acc : List Prod × Nat) p =>
      if p.job = j.id then (acc.1 ++ [{ p with ready := true, lands := landsAt acc.2 }], acc.2 + n) else (acc.1 ++ [p], acc.2)) ([], a.2)).1 }) s

/-- PRODUCT's translation failed: its products go, and its slot columns are closed (03 R103). -/
def closeProduct (s : State) (j : Job) : State :=
  let c := (productArrs s j).1
  let as := (productArrs s j).2
  let cols (x : Arr) : List Nat := (x.queue.filter (fun p => p.job == j.id)).flatMap (fun p => p.cols)
  as.foldl (fun u a =>
    let x := arrOf u c a
    setArr u c a { (cols x).foldl (fun y i => y.setCol i none) x with queue := x.queue.filter (fun p => p.job != j.id) }) s

/-- What PRODUCT finds wrong as it begins (03 R103). -/
def productErr (s : State) (j : Job) : Option Ending := productFields s j <|> productTiles s j <|> productShape s j

/-- A PRODUCT that has begun takes its codes, waiting for them where a page is not there. -/
def streamProduct (s : State) (j : Job) : State :=
  let spans := productSpans s j
  let steps := ((productArrs s j).2.map (fun a => (((arrOf s (productArrs s j).1 a).queue.filter (fun p => p.job == j.id)).map (·.steps)).sum)).sum
  withMemOr s j.id spans (fun cause oid => tierFail (closeProduct s j) j.id spans cause oid) (fun t =>
    keepRunning (modJob (ranOn (fillProduct t j) j.id (productArrs s j).1 steps ((spans.map (fun x => x.len)).sum)) j.id
      (fun k => { k with status := stDone, detail := 0 })) j.id)

/-- PRODUCT (03 R83, R99). -/
def execProduct (id : Nat) (s : State) : Out :=
  runOp s id 0x0201 (fun j =>
    if productBegun s j then streamProduct s j
    else match productErr s j with
      | some e => finish s id e
      | none => streamProduct (beginProduct s j) j)

/-- ENABLE of MX_DRYSPIN_CFG. -/
def drySpinOn (s : State) : Bool := rfield s rDrySpin 16 1 == 1

/-- Whether a DRAIN of array a of core c that began before descriptor id has not yet read its slots (03 R91). -/
def drainAhead (s : State) (c a id : Nat) : Bool :=
  let o := ((job? s id).map (·.order)).getD 0
  s.hp.jobs.any (fun k => k.opcode == 0x0202 && k.phase == .checked && k.waits && decide (k.order < o) &&
    coreAt s (part s k) (k.fld 41 1) == some c && bitOf (k.fld 40 1) a)

/-- PRODUCT_ISSUE (03 R90, R93). -/
def execProductIssue (c : Fin 64) (a : Fin 4) (s : State) : Out :=
  let x := arrOf s c.val a.val
  .next (match x.queue with
    | [] => s
    | p :: ps =>
      let go := !drySpinOn s || !x.flight.isEmpty || (decide (4 ≤ x.level) && !x.rising)
      if go && p.ready && !drainAhead s c.val a.val p.job && (!p.chain || x.flight.isEmpty) && decide (x.flight.length < 301) then
        coreCount (setArr s c.val a.val { x with
          queue := ps, flight := x.flight ++ [p], chain := p.chain, issued := true, level := 8, rising := false }) c.val 9 p.steps
      else s)

/-- Note on descriptor id that bits of its detail came up, and that it met soil. -/
def noteJob (s : State) (id bits : Nat) (soil : Bool) : State :=
  modJob s id (fun j => { j with detail := j.detail ||| BitVec.ofNat 32 bits, status := if soil then stDoneSoiled else j.status })

/-- Whether some product of descriptor id of core c has not landed. -/
def productsLeft (s : State) (c id : Nat) : Bool :=
  (List.range 4).any (fun a => (arrOf s c a).queue.any (fun p => p.job == id) || (arrOf s c a).flight.any (fun p => p.job == id))

/-- PRODUCT_LANDING (03 R79, R90, R91): after its last one a PRODUCT is decided. -/
def execProductLanding (c : Fin 64) (a : Fin 4) (s : State) : Out :=
  let x := arrOf s c.val a.val
  .next (match x.flight with
    | [] => s
    | p :: ps =>
      let r := x.landAll p
      let idle := ps.isEmpty && x.queue.isEmpty
      let s1 := setArr s c.val a.val { r.1 with
        flight := ps, level := if idle then (if drySpinOn s then 7 else 0) else if ps.isEmpty && !drySpinOn s then 0 else x.level }
      let soil := p.lands.any (fun l => l.soil)
      let s2 := stainIf soil (noteJob s1 p.job (if r.2 then 2 else 0) soil) (rMxStain c.val) 2
      match job? s2 p.job with
      | some j => if j.phase = .running ∧ !productsLeft s2 c.val p.job then finish s2 p.job (j.status, j.detail.toNat) else s2
      | none => s2)

/-! ## DRAIN (03 R91, R100) -/

/-- The value of a slot or a pair with the row scale (03 R82, R100): exact, with its class. -/
def drainVal (accs : List Acc) (scale : Option Val) : Val :=
  let cls := accs.foldl (fun (c : Cls) a => c.add a.cls) Cls.fin
  let sum : Int := match accs with
    | [h, l] => 256 * h.a + l.a
    | [h] => h.a
    | _ => 0
  let gs := (accs.head?.map (fun a => a.gs)).getD 0
  let v := cls.val ((sum : Rat) * pow2 gs)
  match scale with
  | none => v
  | some x => Val.mul v x

/-- A row scale as a factor: an invalid one is NaN (02 R53). -/
def rowFactor (b : Nat) : Val := match rowScale b with
  | some q => .fin false q
  | none => .nan

/-- The fields of DRAIN (03 R100). -/
def drainFields (s : State) (j : Job) : Option Ending :=
  let N := j.fld 32 2
  let rows := j.fld 34 2
  let fmt := j.fld 36 1
  let base := j.fld 38 2
  let m := j.fld 40 1 % 16
  fields [a52 j 16, bad (N == 0) 32, bad (rows == 0 || decide (256 < rows)) 34, bad (!isFloat fmt) 36, bad (j.bits 37 5 3 != 0) 37,
      bad (decide (2048 ≤ base)) 39, bad (j.bits 40 4 4 != 0 || m == 0) 40, badCore s j 41, rsvd j 42 56]

/-- What DRAIN writes: one row of elements per row (03 R100). -/
def drainSpans (s : State) (j : Job) : List Span :=
  let p := part s j
  let N := j.fld 32 2
  let rows := j.fld 34 2
  let fmt := j.fld 36 1
  let es := elemSize fmt
  let rowAt (i : Nat) : Nat := j.va 16 + i * j.fld 24 4
  (List.range rows).map (fun i => wr p (rowAt i) (N * es))

/-- The first slot column that DRAIN names, on the first array of its mask; a column that is not open stands for none. -/
def drainFirst (s : State) (j : Job) : Option Col :=
  let c := (coreAt s (part s j) (j.fld 41 1)).getD 0
  ((maskArrs (j.fld 40 1 % 16)).head?).bind (fun a => (arrOf s c a).col (j.fld 38 2))

/-- Whether the columns that DRAIN reads are pairs: of two slot columns each (03 R82). -/
def drainPair (s : State) (j : Job) : Bool := (drainFirst s j).any (·.pair)

/-- The array and the slot columns of output column k of DRAIN (03 R83). -/
def drainPlace (s : State) (j : Job) (k : Nat) : Nat × List Nat :=
  let as := maskArrs (j.fld 40 1 % 16)
  let G := 2 ^ j.bits 37 3 2
  let r := if drainPair s j then 2 else 1
  (as.getD (k / G % as.length) 0, (List.range r).map (fun h => colAt (j.fld 38 2) as.length G r (k / G) (k % G) h))

/-- The slot columns of output column k of DRAIN. -/
def drainCols (s : State) (j : Job) (k : Nat) : List (Option Col) :=
  let c := (coreAt s (part s j) (j.fld 41 1)).getD 0
  (drainPlace s j k).2.map (fun i => (arrOf s c (drainPlace s j k).1).col i)

/-- The output columns of DRAIN with those that fill its last product's groups, which it reads and closes with them (DEDUCED from 03
R83; notes/assumptions/21.md). -/
def drainWidth (j : Job) : Nat := roundUp (j.fld 32 2) (2 ^ j.bits 37 3 2)

/-- What DRAIN finds wrong with the arrays and columns that it reads and the memory that it writes (03 R82, R91, R100). Columns that mix
pairs with single ones are refused at the slot base (DESIGN CHOICE, notes/assumptions/22.md). -/
def drainErr (s : State) (j : Job) : Option Ending :=
  let c := (coreAt s (part s j) (j.fld 41 1)).getD 0
  let as := maskArrs (j.fld 40 1 % 16)
  let fold := j.bits 37 3 2
  let rsc := j.fld 28 4
  match drainFirst s j with
  | none => some (if as.any (fun a => (arrOf s c a).held.any (fun t => t.fold != fold)) then fieldErr 37 else fieldErr 38)
  | some first => firstErr [
      chk (as.any (fun a => (arrOf s c a).held.any (fun t => t.fold != fold))) (fieldErr 37),
      chk ((List.range (drainWidth j)).any (fun k => (drainCols s j k).any (fun q => match q with
        | none => true
        | some q => q.pair != first.pair || q.i8 != first.i8))) (fieldErr 38),
      chk (first.i8 != (rsc != 0xFFFFFFFF) || (first.i8 && decide (bufBytes < rsc + 4 * j.fld 34 2))) (fieldErr 28),
      regionErr s (drainSpans s j)]

/-- Whether DRAIN waits: for products queued on its arrays, or in flight where the last one issued was a chain or none was (03 R91). -/
def drainWaits (s : State) (j : Job) : Bool :=
  let c := (coreAt s (part s j) (j.fld 41 1)).getD 0
  (maskArrs (j.fld 40 1 % 16)).any (fun a =>
    let x := arrOf s c a
    !x.queue.isEmpty || ((x.chain || !x.issued) && !x.flight.isEmpty))

/-- The accumulators of output column k in row i. -/
def drainAccs (s : State) (j : Job) (k i : Nat) : List Acc := (drainCols s j k).map (fun q => match q with
  | some q => q.acc i
  | none => acc0)

/-- Row i of DRAIN: its bytes, whether an element saturated (03 R100). -/
def drainRow (s : State) (j : Job) (i : Nat) : List Byte × Bool :=
  let c := (coreAt s (part s j) (j.fld 41 1)).getD 0
  let scale : Option Val :=
    if (drainFirst s j).any (·.i8) then some (rowFactor (numAt s (bufPlace c) (j.fld 28 4 + 4 * i) 4)) else none
  encodeAll (j.fld 36 1) (Rnd.ofCode (j.bits 37 0 2)) ((List.range (j.fld 32 2)).map (fun k => drainVal (drainAccs s j k i) scale))

/-- DRAIN (03 R91, R100). -/
def execDrain (id : Nat) (s : State) : Out :=
  runOp s id 0x0202 (fun j =>
    let p := part s j
    let N := j.fld 32 2
    let rows := j.fld 34 2
    let fmt := j.fld 36 1
    let keep := j.bits 37 2 1 == 1
    let rsc := j.fld 28 4
    match drainFields s j with
    | some e => finish s id e
    | none =>
      if drainWaits s j then s
      else match drainErr s j with
      | some e => finish s id e
      | none =>
        let c := (coreAt s p (j.fld 41 1)).getD 0
        let i8 := (drainFirst s j).any (·.i8)
        let place (k : Nat) : Nat × List Nat := drainPlace s j k
        let es := elemSize fmt
        let rowAt (i : Nat) : Nat := j.va 16 + i * j.fld 24 4
        withMem s id (drainSpans s j) (fun s =>
          let late := (List.range (drainWidth j)).any (fun k => (arrOf s c (place k).1).flight.any (fun f => (place k).2.any (f.cols.contains ·)))
          let soil (k i : Nat) : Bool := (drainAccs s j k i).any (fun a => a.soil) || (i8 && soiledAt s (bufPlace c) (rsc + 4 * i) 4)
          let out (i : Nat) : List Byte × Bool := drainRow s j i
          let s1 := (List.range rows).foldl (fun u i =>
            writeAt u p (rowAt i) (out i).1 (byteSoil es ((List.range N).map (fun k => soil k i)))) s
          let satd := (List.range rows).any (fun i => (out i).2)
          let dirty := (List.range rows).any (fun i => (List.range N).any (fun k => soil k i))
          let s2 := if keep then s1 else (List.range (drainWidth j)).foldl (fun u k =>
            setArr u c (place k).1 ((place k).2.foldl (fun x i => x.setCol i none) (arrOf u c (place k).1))) s1
          let s3 := stainIf satd (stainIf late s2 (rMxStain c) 0) (rMxStain c) 1
          let G := 2 ^ j.bits 37 3 2
          let steps := cdiv (cdiv N G) (maskArrs (j.fld 40 1 % 16)).length * G * (if drainPair s j then 2 else 1)
          finish (ranOn s3 id c steps (rows * N * es)) id (doneOf dirty ((if late then 1 else 0) + (if satd then 4 else 0)))))

/-! ## Dry-spin (03 R92-R94) -/

/-- Check 9 of DRY_SPIN (03 R101). -/
def drySpinErr (s : State) (j : Job) : Option Ending :=
  let steps := j.fld 16 4
  let m := j.fld 21 1 % 16
  fields [bad (steps == 0 || decide (2 ^ 24 < steps)) 16, bad (j.fld 20 1 == 0 || decide (8 < j.fld 20 1)) 20,
      bad (j.bits 21 4 4 != 0 || m == 0) 21, badCore s j 22, rsvd j 23 56]

/-- DRY_SPIN (03 R94, R101): it runs once what came before on its arrays has been issued. It leaves its activity behind while ENABLE is
1 and none otherwise, and arrays with products in flight as they are (DESIGN CHOICE, notes/assumptions/23.md). -/
def execDrySpin (id : Nat) (s : State) : Out :=
  runOp s id 0x0203 (fun j =>
    let steps := j.fld 16 4
    let m := j.fld 21 1 % 16
    match drySpinErr s j with
    | some e => finish s id e
    | none =>
      let c := (coreAt s (part s j) (j.fld 22 1)).getD 0
      if (maskArrs m).any (fun a => !(arrOf s c a).queue.isEmpty) then s
      else
        let s1 := modArrs s c m (fun x =>
          if x.flight.isEmpty then { x with level := if drySpinOn s then j.fld 20 1 else 0, rising := false } else x)
        finish (ranOn (coreCount s1 c 10 (steps * (maskArrs m).length)) id c steps 0) id (stDone, 0))

/-- DRYSPIN_RAMP_STEP (03 R93). An ENABLE cleared in mid-ramp leaves the level where it is (DESIGN CHOICE,
notes/assumptions/24.md). -/
def execDryspinRampStep (c : Fin 64) (a : Fin 4) (s : State) : Out :=
  let x := arrOf s c.val a.val
  let put (k : Nat) (up : Bool) : State :=
    coreCount (setArr s c.val a.val { x with level := k, rising := up }) c.val 10
      (if x.level = 0 then 0 else rfield s rDrySpin 0 12 / 8)
  .next (if !drySpinOn s || !x.flight.isEmpty then s
    else if x.queue.isEmpty then (if x.level = 0 then s else put (x.level - 1) false)
    else if x.level < 4 ∨ x.rising then put (min 8 (x.level + 1)) (decide (x.level + 1 < 8)) else s)

/-! ## The Needle path (03 R95, R96, R102) -/

/-- An activation row of the Needle unit as blocks: 16-bit aligned values whole, I8 directly. -/
def needleRow (s : State) (c a K fmt : Nat) : List HBlock :=
  let v := heldVals s c a K fmt
  (List.range (K / 32)).map (fun b => heldBlock fmt (eMax (chunk32 b v.1)) (chunk32 b v.1) (chunk32 b v.2))

/-- One Needle output: the whole reduction is one product with GUARD 8 (03 R95). -/
def needleVal (hs : List HBlock) (x : Stream) (scale : Option Val) : Val :=
  let u := rowTerms hs x (fun m => m)
  let gs := (termTop u.1).getD 8 - 8
  let v := u.2.val ((termSum gs u.1 : Rat) * pow2 gs)
  match scale with
  | none => v
  | some q => Val.mul v q

/-- Check 9 of NEEDLE (03 R102). -/
def needleErr (s : State) (j : Job) : Option Ending :=
  let act := j.fld 32 4
  let K := j.fld 36 4
  let N := j.fld 40 2
  let wf := j.fld 42 1
  let af := j.fld 43 1
  let fmt := j.fld 44 1
  let M := j.fld 45 1
  let e := if af = 2 then 2 else 1
  fields [a52 j 16, a52 j 24, bad (decide (2 ^ 27 ≤ act)) 35, bad (decide (K < 32) || decide (65536 < K) || K % 32 != 0) 36,
      bad (N == 0) 40, bad (!isStreamed wf) 42, bad (af == 0 || decide (4 < af)) 43, bad (!isFloat fmt) 44,
      bad (M == 0 || decide (16 < M)) 45, bad (decide (3 < j.fld 46 1)) 46, badCore s j 47, a52 j 48]
    <|> fields [bad (decide (bufBytes < act + M * K * e + (if af = 1 then 4 * M else 0))) 32]

/-- What NEEDLE reads: codes, scales and zero points of every column (03 R102). -/
def needleReads (s : State) (j : Job) : List Span :=
  let p := part s j
  let K := j.fld 36 4
  let N := j.fld 40 2
  let wf := j.fld 42 1
  let b := lqWidth wf
  let ca (n : Nat) : Nat := j.va 16 + n * K * b / 8
  let sa (n : Nat) : Nat := j.va 24 + n * K / 32
  let za (n : Nat) : Nat := j.va 24 + N * K / 32 + n * K / 32
  (List.range N).flatMap (fun n => streamSpans p wf (ca n) (sa n) (za n) K)

/-- NEEDLE (03 R95, R102). -/
def execNeedle (id : Nat) (s : State) : Out :=
  runOp s id 0x0300 (fun j =>
    let p := part s j
    let act := j.fld 32 4
    let K := j.fld 36 4
    let N := j.fld 40 2
    let wf := j.fld 42 1
    let af := j.fld 43 1
    let fmt := j.fld 44 1
    let M := j.fld 45 1
    let e := if af = 2 then 2 else 1
    match needleErr s j with
    | some er => finish s id er
    | none =>
      let c := (coreAt s p (j.fld 47 1)).getD 0
      let b := lqWidth wf
      let es := elemSize fmt
      let ca (n : Nat) : Nat := j.va 16 + n * K * b / 8
      let sa (n : Nat) : Nat := j.va 24 + n * K / 32
      let za (n : Nat) : Nat := j.va 24 + N * K / 32 + n * K / 32
      let ins := needleReads s j
      let spans := ins ++ [wr p (j.va 48) (M * N * es)]
      match regionErr s spans with
      | some er => finish s id er
      | none => withMem s id spans (fun s =>
        let xs := (List.range N).map (fun n => readStream s p wf (ca n) (sa n) (za n) K)
        let rowsc (r : Nat) : Option Val := if af = 1 then some (rowFactor (numAt s (bufPlace c) (act + M * K + 4 * r) 4)) else none
        let rs := (List.range M).map (fun r => (needleRow s c (act + r * K * e) K af, rowsc r,
          soiledAt s (bufPlace c) (act + r * K * e) (K * e) || (af == 1 && soiledAt s (bufPlace c) (act + M * K + 4 * r) 4)))
        let soil := rs.flatMap (fun r => xs.map (fun x => x.soil || r.2.2))
        let out := encodeAll fmt (Rnd.ofCode (j.fld 46 1)) (rs.flatMap (fun r => xs.map (fun x => needleVal r.1 x r.2.1)))
        let dirty := soil.any (fun q => q)
        let bytes := (ins.map (fun x => x.len)).sum
        let s1 := writeAt s p (j.va 48) out.1 (byteSoil es soil)
        let s2 := stainIf dirty (stainIf out.2 s1 (rMxStain c) 1) (rMxStain c) 2
        finish (ranOn (coreCount s2 c 13 bytes) id c (cdiv bytes 256 + 150) (bytes + M * N * es)) id
          (doneOf dirty (if out.2 then 4 else 0))))

end Sys2Proof.Machine
end

