-- ==== Sys2Proof/Machine/RealFns.lean ====
section
/-! DEFINITION. The functions f(x) of 04 R109, to within 2^-300 of their exact values: what the bounds of R109 and R110 are measured
from. All arithmetic is on integers in units of 2^-600. -/

namespace Sys2Proof.Machine

/-- 1 in units of 2^-600. -/
def unit600 : Int := 2 ^ 600
/-- A rational in units of 2^-600. -/
def fx (q : Rat) : Int := (q * unit600).floor
/-- The rational that a number of units is. -/
def unfx (i : Int) : Rat := (i : Rat) / unit600
/-- The product of two fixed-point numbers. -/
def fmul (a b : Int) : Int := a * b / unit600
/-- Their quotient. -/
def fdiv (a b : Int) : Int := if b = 0 then 0 else a * unit600 / b

/-- 1 + r_k·y·(1 + r_(k+1)·y·(…)) over `fuel` factors: a power series by the ratios of its terms. -/
def series (ratio : Nat → Int → Int) : Nat → Nat → Int
  | 0, _ => unit600
  | fuel + 1, k => unit600 + ratio k (series ratio fuel (k + 1))

/-- e^x for |x| ≤ 2^10: the series of e^(x / 2^12), squared twelve times. -/
def expFx (x : Int) : Int :=
  (List.range 12).foldl (fun v _ => fmul v v) (series (fun k v => fmul (x / 4096) v / ((k : Int) + 1)) 120 0)

/-- artanh of z for |z| ≤ 1/3. -/
def artanhFx (z : Int) : Int :=
  let q := fmul z z
  fmul z (series (fun k v => fmul q v * (2 * k + 1) / (2 * k + 3)) 260 0)

/-- ln 2. -/
def ln2Fx : Int := 2 * artanhFx (unit600 / 3)

/-- ln of a positive rational. -/
def lnFx (q : Rat) : Int :=
  let e := ilog2 q
  let m := q * pow2 (-e)
  2 * artanhFx (fx ((m - 1) / (m + 1))) + e * ln2Fx

/-- arctan of 1 / n. -/
def arctanInv (n : Int) : Int := series (fun k v => -(v * (2 * k + 1) / (2 * k + 3) / (n * n))) 260 0 / n

/-- π, by Machin's formula. -/
def piFx : Int := 16 * arctanInv 5 - 4 * arctanInv 239

/-- x less the nearest multiple of 2π. -/
def reduced (x : Rat) : Rat := x - (roundInt .rne (x / (2 * unfx piFx)) : Rat) * (2 * unfx piFx)

/-- sin and cos of x by their series about 0. -/
def sinFx (x : Rat) : Int :=
  let y := fx (reduced x)
  let q := fmul y y
  fmul y (series (fun k v => -(fmul q v / (((2 * k + 2) * (2 * k + 3) : Nat) : Int))) 120 0)
/-- cos of x. -/
def cosFx (x : Rat) : Int :=
  let y := fx (reduced x)
  let q := fmul y y
  series (fun k v => -(fmul q v / (((2 * k + 1) * (2 * k + 2) : Nat) : Int))) 120 0

/-- The square root of a non-negative fixed-point number. -/
def sqrtFx (x : Int) : Int := (Nat.sqrt (x.toNat * 2 ^ 600) : Int)

/-- erf of |x| < 16: 2/√π · e^(-x²) · Σ 2^n x^(2n+1) / (2n+1)!!. -/
def erfFx (x : Rat) : Int :=
  let y := fx x
  let q := fmul y y
  fmul (fdiv (2 * unit600) (sqrtFx piFx)) (fmul (expFx (-q)) (fmul y (series (fun k v => fmul q v * 2 / (2 * k + 3)) 1200 0)))

/-- tanh. -/
def tanhFx (x : Rat) : Int :=
  let t := expFx (-2 * fx (if x < 0 then -x else x))
  let v := fdiv (unit600 - t) (unit600 + t)
  if x < 0 then -v else v

/-- 1 / (1 + e^-x). -/
def sigmoidFx (x : Int) : Int := fdiv unit600 (unit600 + expFx (-x))

/-- f(x) of function `code` within its fitted range (04 R109). -/
def realFn (code : Nat) (x : Rat) : Rat :=
  unfx (match code with
    | 1 => expFx (fx x)
    | 2 => expFx (fmul (fx x) ln2Fx)
    | 3 => lnFx x
    | 4 => fdiv (lnFx x) ln2Fx
    | 5 => fx (1 / x)
    | 6 => sqrtFx (fx x)
    | 7 => fdiv unit600 (sqrtFx (fx x))
    | 8 => sigmoidFx (fx x)
    | 9 => tanhFx x
    | 0x0A => erfFx x
    | 0x0B => lnFx (1 + unfx (expFx (fx x)))
    | 0x0C => fmul (fx x) (sigmoidFx (fx x))
    | 0x0D => fmul (fx x) (unit600 + erfFx (unfx (fdiv (fx x) (sqrtFx (2 * unit600))))) / 2
    | 0x0E => fmul (fx x) (sigmoidFx (2 * fmul (sqrtFx (fdiv (2 * unit600) piFx)) (fx (x + 44715 / 1000000 * x * x * x))))
    | 0x0F => sinFx x
    | _ => cosFx x)

end Sys2Proof.Machine
end

