-- ==== Sys2Proof/Machine/Lanes.lean ====
section
/-! DEFINITION. The lane word's functions (04 R108-R114) and the rotation (05 R136). -/

namespace Sys2Proof.Machine

/-- ln 2 rounded to the lane word. -/
def laneLn2 : Val := .fin false (95265423098 / 2 ^ 37)
/-- 2/√π rounded to the lane word. -/
def laneErf : Val := .fin false (77541625923 / 2 ^ 36)
/-- 2π to 256 significant bits (05 R136). -/
def twoPi : Rat := 90942894222941581070058735694432465663348344332098107489693037779484723616546 / 2 ^ 253

/-- A finite value of the lane. -/
def lq (q : Rat) : Val := lane (Val.ofRat q)

/-- Basic steps per element (04 R109); none: no built-in function has the code. -/
def fnSteps (code : Nat) : Option Nat := [1, 7, 7, 8, 8, 6, 6, 6, 8, 8, 8, 8, 9, 9, 9, 10, 10, 1][code]?

/-- The functions with a fitted range: lowest exponent, top exponent (04 R109). -/
def fitRange (code : Nat) : Option (Int × Int) :=
  if code = 1 then some (-26, 7) else if code = 2 then some (-26, 8)
  else if code = 8 ∨ code = 0x0B ∨ code = 0x0C then some (-24, 7)
  else if code = 9 then some (-12, 4) else if code = 0x0A then some (-12, 3)
  else if code = 0x0D ∨ code = 0x0E then some (-24, 4)
  else if code = 0x0F ∨ code = 0x10 then some (-12, 16) else none

/-- The small form (04 R109). -/
def smallForm (code : Nat) (x : Val) : Val :=
  let c (q : Rat) : Val := .fin false q
  if code = 1 then ladd (c 1) x
  else if code = 2 then ladd (c 1) (lmul x laneLn2)
  else if code = 8 then ladd (c (1 / 2)) (lmul x (c (1 / 4)))
  else if code = 0x0A then lmul laneErf x
  else if code = 0x0B then ladd laneLn2 (lmul x (c (1 / 2)))
  else if code = 0x0C ∨ code = 0x0D ∨ code = 0x0E then lmul x (c (1 / 2))
  else if code = 0x10 then c 1
  else lane x

/-- The limit at and beyond the top of the fitted range, infinities included (04 R109, R111, R112). -/
def limitOf (code : Nat) (x : Val) : Val :=
  if code = 0x0F ∨ code = 0x10 then .nan
  else if x.isNeg then
    (if code = 9 ∨ code = 0x0A then .fin true 1
     else if code = 0x0C ∨ code = 0x0D ∨ code = 0x0E then .fin true 0 else .fin false 0)
  else if code = 1 ∨ code = 2 then .inf false
  else if code = 8 ∨ code = 9 ∨ code = 0x0A then .fin false 1 else lane x

/-! ### The fitted range (04 R109, R110, R113, R114) -/

/-- Whether the function is marked monotone (04 R109). -/
def monotone (code : Nat) : Bool := decide (code ≤ 0x0B)

/-- The cubic of the segment that holds magnitude m, on the given sign (04 R113): the segment is [2^e·(1 + k/32), 2^e·(1 + (k+1)/32)),
its lower seam its own. -/
def cubic (code : Nat) (neg : Bool) (m : Rat) : Rat :=
  let e := ilog2 m
  let k := ((m * pow2 (-e) - 1) * 32).floor.toNat
  let h := m - pow2 e * (1 + (k : Rat) / 32)
  let c (i : Nat) : Rat := Config.coef code neg e k i
  c 0 + h * (c 1 + h * (c 2 + h * c 3))

/-- One ulp of FP32 at a value. -/
def ulp32 (q : Rat) : Rat :=
  let m := if q < 0 then -q else q
  pow2 (max (if m = 0 then -126 else ilog2 m) (-126) - 23)

/-- How far the lane's result may lie from f(x), in ulps of FP32: the FP32 bound of R109 less the half ulp of the output's rounding, to
which the bounds of every other output format give way. -/
def slack (code : Nat) : Rat :=
  if code = 3 ∨ code = 4 ∨ code = 7 then 1
  else if code = 1 ∨ code = 2 ∨ code = 5 ∨ code = 6 then 1 / 2
  else if code = 0x0C ∨ code = 0x0D ∨ code = 0x0E then 2 else 3 / 2

/-- How far the lane's result for x may lie from t = f(x), with the absolute errors of R110; on a significand LOG and LOG2 keep their
absolute one (DEDUCED, notes/assumptions/152.md). -/
def reach (code : Nat) (t : Rat) : Rat :=
  let u := ulp32 t
  if code = 3 ∨ code = 4 then pow2 (-26)
  else if (code = 0x0F ∨ code = 0x10) ∧ -(1 / 16) < t ∧ t < 1 / 16 then pow2 (-26) - u / 2
  else slack code * u

/-- The value q brought within `d` of t. -/
def near (t d q : Rat) : Rat := max (t - d) (min (t + d) q)

/-- The cubic's value for the input of magnitude m and the given sign, within the bound of the function. -/
def segValue (code : Nat) (neg : Bool) (m : Rat) : Rat :=
  let x := if neg then -m else m
  let t := realFn code x
  near t (reach code t) (cubic code neg m)

/-- What bounds a monotone function's values from one side. -/
def bound1 (up : Bool) (b : Option Rat) (q : Rat) : Rat := match b with
  | none => q
  | some b => if up then max b q else min b q

/-- Values at successive FP32 magnitudes from number b on, made monotone: each no less (`up`) than the one before, the first no less than
`base` (04 R114). -/
def sweep (up : Bool) (base : Option Rat) (f : Rat → Rat) (b : Nat) : Nat → Rat
  | 0 => bound1 up base (f (fp32.decode b).rat)
  | n + 1 => bound1 up (some (sweep up base f b n)) (f (fp32.decode (b + n + 1)).rat)

/-- The number of the largest FP32 magnitude not above m. -/
def fp32Floor (m : Rat) : Nat := (fp32.encode .rtz (.fin false m)).1

/-- The value at magnitude m of a function monotone (`up`: rising with the magnitude) from magnitude `lo` on, between what comes before
(`base`) and after (`cap`): at FP32 magnitudes the sweep, and between two of them no further than they (04 R114). -/
def monoValue (up : Bool) (base cap : Option Rat) (f : Rat → Rat) (lo m : Rat) : Rat :=
  let b := fp32Floor lo
  let n := fp32Floor m - b
  let v := if (fp32.decode (b + n)).rat = m then sweep up base f b n
    else bound1 (!up) (some (sweep up base f b (n + 1))) (bound1 up (some (sweep up base f b n)) (f m))
  bound1 (!up) cap v

/-- The finite value of a lane word. -/
def finOf : Val → Option Rat
  | .fin n m => some (if n then -m else m)
  | _ => none

/-- A function with a fitted range in magnitude, at x of magnitude in [2^lo, 2^hi), in the lane word. -/
def fit (code : Nat) (lo hi : Int) (x : Val) : Val :=
  match x with
  | .fin neg m =>
    if code = 0x0F ∨ code = 0x10 then
      (let r := reduced x.rat
       let a := if r < 0 then -r else r
       let t := realFn code x.rat
       lq (near t (reach code t) (if a = 0 then t else cubic code (decide (r < 0)) a)))
    else if monotone code then
      let edge := (fp32.decode (fp32Floor (pow2 lo) - 1)).rat
      lq (monoValue (!neg) (finOf (smallForm code (.fin neg edge))) (finOf (limitOf code (.fin neg (pow2 hi)))) (segValue code neg) (pow2 lo) m)
    else lq (segValue code neg m)
  | _ => .nan

/-- The polynomial of LOG, LOG2, RCP, SQRT and RSQRT on a significand in [1, 2), the exponent odd or not (04 R109): f(significand), of SQRT
and RSQRT f(2·significand) where it is odd, monotone also from one exponent to the next. -/
def sigPoly (code : Nat) (odd : Bool) (m : Rat) : Rat :=
  let up := decide (code ≠ 5 ∧ code ≠ 7)
  let f (o : Bool) (q : Rat) : Rat :=
    let x := if o then 2 * q else q
    let t := realFn code x
    near t (reach code t) (cubic code o q)
  let first := f false 1
  let last := 2 ^ 23 - 1
  let b := fp32Floor 1
  if code = 3 then monoValue up none (some (first + laneLn2.rat)) (f false) 1 m
  else if code = 4 then monoValue up none (some (first + 1)) (f false) 1 m
  else if code = 5 then monoValue up none (some (first / 2)) (f false) 1 m
  else if !odd then monoValue up none none (f false) 1 m
  else monoValue up (some (sweep up none (f false) b last)) (some (if code = 6 then 2 * first else first / 2)) (f true) 1 m

/-- LOG, LOG2, RCP, SQRT and RSQRT (04 R109, R111): the polynomial on the significand, the exponent combined exactly. -/
def sigFn (code : Nat) (x : Val) : Val :=
  match x with
  | .nan => .nan
  | .inf n =>
    if code = 5 then .fin n 0 else if n then .nan else if code = 7 then .fin false 0 else .inf false
  | .fin n m =>
    if m = 0 then
      (if code = 3 ∨ code = 4 then .inf true else if code = 5 ∨ code = 7 then .inf n else .fin n 0)
    else if n ∧ code ≠ 5 then .nan
    else
      let e := ilog2 m
      let g := m * pow2 (-e)
      let odd := decide (e % 2 = 1)
      let h := (e - e % 2) / 2
      if code = 3 then lq (sigPoly 3 false g + e * laneLn2.rat)
      else if code = 4 then lq (sigPoly 4 false g + e)
      else if code = 5 then lane (.fin n (sigPoly 5 false g * pow2 (-e)))
      else if code = 6 then lq (sigPoly 6 odd g * pow2 h)
      else lq (sigPoly 7 odd g * pow2 (-h))

/-- A built-in function of a lane value (04 R109-R114). -/
def builtin (code : Nat) (x : Val) : Val :=
  match x with
  | .nan => .nan
  | _ =>
    if code = 0 then lane x
    else if code = 0x11 then (if x.sign || x.isZero then .fin false 0 else lane x)
    else match fitRange code with
      | none => sigFn code x
      | some (lo, hi) =>
        match x with
        | .fin _ m => if m < pow2 lo then smallForm code x else if pow2 hi ≤ m then limitOf code x else fit code lo hi x
        | _ => limitOf code x

/-- Whether a function overflows to infinity past the output format's largest finite value (04 R112). -/
def overflows (code : Nat) : Bool := code == 1 || code == 2 || code == 5

/-- A function's result in the output format: bytes, and whether it saturated (04 R112, 00 R11). -/
def fnOut (code fmt : Nat) (m : Rnd) (v : Val) : List Byte × Bool :=
  match v, fmtOf fmt with
  | .fin n q, some f => encodeElem fmt m (if overflows code && decide (f.maxFin < q) then .inf n else v)
  | _, _ => encodeElem fmt m v

/-- ln of a positive rational in the lane word. -/
def laneLn (q : Rat) : Val := builtin 3 (lq q)

/-- EXP in the lane word. -/
def laneExp (x : Val) : Val := builtin 1 x

/-! ## Rotation (05 R136) -/

/-- The angle of position p at the frequency w: the exact product modulo 2π, rounded once. -/
def angle (p : Nat) (w : Val) : Val :=
  match w with
  | .fin _ _ =>
    let a := (p : Rat) * w.rat
    lq (a - ((a / twoPi).floor : Rat) * twoPi)
  | _ => .nan

/-- x·c − y·s, or x·s + y·c, formed exactly and rounded once. -/
def rotSum (x a y b : Val) (minus : Bool) : Val :=
  let q := Val.mul y b
  lane (Val.add (Val.mul x a) (if minus then q.neg else q))

/-- The frequency of pair i: from the table, or from θ. -/
def rotFreq (theta : Val) (table : Option (List Val)) (dr i : Nat) : Val :=
  match table with
  | some t => t.getD i .nan
  | none => (fp32.round .rne (builtin 2 (lmul (lq (-(2 * i : Nat) / (dr : Rat))) (builtin 4 theta)))).1

/-- Rotate the first d_r channels of a row by position p. -/
def rotate (xs : List Val) (p : Nat) (theta : Val) (dr : Nat) (halves : Bool) (table : Option (List Val)) : List Val :=
  (xs.zipIdx).map (fun e =>
    let k := e.2
    if dr ≤ k then e.1 else
      let i := if halves then k % (dr / 2) else k / 2
      let first := if halves then decide (k < dr / 2) else k % 2 == 0
      let o := xs.getD (if halves then (if first then k + dr / 2 else k - dr / 2) else (if first then k + 1 else k - 1)) .nan
      let a := angle p (rotFreq theta table dr i)
      let c := builtin 0x10 a
      let s := builtin 0x0F a
      if first then rotSum e.1 c o s true else rotSum o s e.1 c false)

end Sys2Proof.Machine
end

