-- ==== Sys2Proof/Machine/KvBlocks.lean ====
section
/-! DEFINITION. KV blocks as the Press reads them, from regions (06 R173, R174) and Spin windows (07 R215, R216). -/

namespace Sys2Proof.Machine

/-- Bits per key code. -/
def KvGeo.kb (x : KvGeo) : Nat := if x.k4 then 4 else 8
/-- Bits per value code. -/
def KvGeo.vb (x : KvGeo) : Nat := if x.v4 then 4 else 8
/-- BB. -/
def KvGeo.bb (x : KvGeo) : Nat := 8 * x.d * (x.kb + x.vb) + 4 * x.d

/-- A block as it lies in memory: node, tokens below the key end, its data, its envelope, its segment record (0: none). -/
structure BlkRef where
  j : Nat
  n : Nat
  data : Nat
  env : Nat
  seg : Nat
  deriving DecidableEq, Repr

/-- A block read (06 R174): envelope bytes, codes and scale bytes by token, segments. -/
structure Block where
  at' : BlkRef
  lo : List Nat
  hi : List Nat
  envSoil : Bool
  keys : List (List Int)
  ks : List (List Nat)
  vals : List (List Int)
  vs : List (List Nat)
  soil : Bool
  segs : List Nat
  segLo : Nat
  segHi : Nat
  deriving DecidableEq, Repr

/-- d codes of the given bits packed in a number (02 R58). -/
def kvCodes (bits d v : Nat) : List Int := (List.range d).map (fun i => sgn bits (bitsOf v (bits * i) bits))

/-- Bytes as numbers. -/
def natsAt (s : State) (k a n : Nat) : List Nat := (bytesAt s k a n).map (fun b => b.toNat)

/-- Offsets in a block: key scales, value codes, value scales. -/
def KvGeo.ksOff (x : KvGeo) : Nat := 8 * x.d * x.kb
/-- Where value codes begin. -/
def KvGeo.vOff (x : KvGeo) : Nat := x.ksOff + 2 * x.d
/-- Where value scales begin. -/
def KvGeo.vsOff (x : KvGeo) : Nat := x.vOff + 8 * x.d * x.vb

/-- Read a block of partition p. -/
def readBlock (s : State) (p : Nat) (x : KvGeo) (r : BlkRef) : Block :=
  let tok (off bits : Nat) : List (List Int) :=
    (List.range 64).map (fun t => kvCodes bits x.d (numAt s p (r.data + off + t * (x.d * bits / 8)) (x.d * bits / 8)))
  let sc (off : Nat) : List (List Nat) := (List.range 64).map (fun t => natsAt s p (r.data + off + t * (x.d / 32)) (x.d / 32))
  { at' := r, lo := natsAt s p r.env x.d, hi := natsAt s p (r.env + x.d) x.d, envSoil := soiledAt s p r.env (2 * x.d),
    keys := tok 0 x.kb, ks := sc x.ksOff, vals := tok x.vOff x.vb, vs := sc x.vsOff, soil := soiledAt s p r.data x.bb,
    segs := if r.seg = 0 then List.replicate 64 0 else (List.range 64).map (fun t => numAt s p (r.seg + 2 * t) 2),
    segLo := if r.seg = 0 then 0 else numAt s p (r.seg + 128) 2,
    segHi := if r.seg = 0 then 0 else numAt s p (r.seg + 130) 2 }

/-! ## Regions -/

/-- A region's geometry. -/
def Region.geo (r : Region) : KvGeo := ⟨r.d, r.g, r.hkv, r.k4, r.v4⟩

/-- Address of block (layer, head, node)'s data (06 R174). -/
def Region.dataAt (r : Region) (l h j : Nat) : Nat := r.base + r.dataOff + j * r.nodeBytes + (l * r.hkv + h) * r.blockBytes
/-- Address of its envelope. -/
def Region.envAt (r : Region) (l h j : Nat) : Nat := r.base + 4096 + j * r.envBytes + (l * r.hkv + h) * (2 * r.d)
/-- Address of node j's segment record. -/
def Region.segAt (r : Region) (j : Nat) : Nat := if r.segs then r.base + r.segOff + j * 256 else 0
/-- Visible length of layer l. -/
def Region.len (r : Region) (l : Nat) : Nat := tget (fun _ => 0) r.vis l
/-- Visible length of layer l as descriptor j began (05 R166, 06 R179); a region made since then shows its own. -/
def Job.lenOf (j : Job) (r : Region) (l : Nat) : Nat :=
  match j.seen.find? (fun e => e.1 == r.id) with
  | some e => tget (fun _ => 0) e.2 l
  | none => r.len l
/-- Reserved end of layer l. -/
def Region.end' (r : Region) (l : Nat) : Nat := tget (fun _ => 0) r.res l

/-- Block (l, h, j) with the key end ke. -/
def Region.ref (r : Region) (l h j ke : Nat) : BlkRef := ⟨j, min 64 (ke - 64 * j), r.dataAt l h j, r.envAt l h j, r.segAt j⟩

/-- The blocks of a layer and head below the key end. -/
def Region.refs (r : Region) (l h ke : Nat) : List BlkRef := (List.range (cdiv ke 64)).map (fun j => r.ref l h j ke)

/-- Format tags: K8 or K4, V8 or V4 (02 R49). -/
def kTag (k4 : Bool) : Nat := if k4 then 0x82 else 0x81
/-- The value format's tag. -/
def vTag (v4 : Bool) : Nat := if v4 then 0x84 else 0x83

/-- The current recall set of a layer and head (06 R193). -/
def Region.recall (r : Region) (l h : Nat) : Option RecallSet := r.recalls.find? (fun x => x.layer == l && x.head == h)

/-- The recall set that descriptor job is bound to (06 R195, R196). -/
def Region.recallFor (r : Region) (job l h : Nat) : Option RecallSet :=
  match r.recallOld.find? (fun x => x.layer == l && x.head == h && x.jobs.contains job) with
  | some o => o.set
  | none => r.recall l h

/-- Address of the tree plane of a layer and head (06 R174). -/
def Region.treeAt (r : Region) (l h : Nat) : Nat := r.base + r.treeOff + (l * r.hkv + h) * r.treeBytes
/-- Address of level-2 record i. -/
def Region.l2At (r : Region) (l h i : Nat) : Nat := r.treeAt l h + i * (2 * r.d)
/-- Address of level-1 record i. -/
def Region.l1At (r : Region) (l h i : Nat) : Nat := r.treeAt l h + (r.n2 + i) * (2 * r.d)
/-- Address of edge slot k. -/
def Region.edgeAt (r : Region) (l h k : Nat) : Nat := r.treeAt l h + (r.n2 + r.n1) * (2 * r.d) + k * (16 + 2 * r.d)
/-- Address of span i's bits in recall bitmap k. -/
def Region.mapAt (r : Region) (l h k i : Nat) : Nat := r.edgeAt l h 2 + k * (8 * r.n1) + 8 * i

/-- The edge slot of the current generation (notes/assumptions/32.md). -/
def treeSlot (s : State) (r : Region) (l h : Nat) : Nat := if bitOf (numAt s r.p (r.edgeAt l h 1 + 12) 1) 0 then 1 else 0

/-- The covered count of the current generation. -/
def treeCovered (s : State) (r : Region) (l h : Nat) : Nat := numAt s r.p (r.edgeAt l h (treeSlot s r l h)) 8

/-- The edge slot of the generation that descriptor `job` is bound to: the draining one where it began before the switch (06 R195). -/
def treeSlotFor (s : State) (r : Region) (job l h : Nat) : Nat :=
  if r.drains.any (fun e => e.1 == l && e.2.1 == h && e.2.2.contains job) then 1 - treeSlot s r l h else treeSlot s r l h

/-- The covered count of that generation. -/
def treeCoveredFor (s : State) (r : Region) (job l h : Nat) : Nat := numAt s r.p (r.edgeAt l h (treeSlotFor s r job l h)) 8

/-- Soil the envelope record at address a. -/
def soilNode (s : State) (r : Region) (a : Nat) : State := writeAt s r.p a (bytesAt s r.p a (2 * r.d)) allSoil

/-- Soil the nodes above level-1 record i of a layer and head (06 R188). -/
def soilAboveSpan (s : State) (r : Region) (l h i : Nat) : State :=
  let c := treeCovered s r l h
  if c ≤ i then s
  else soilNode s r (if i / 64 < c / 64 then r.l2At l h (i / 64) else r.edgeAt l h (treeSlot s r l h) + 16)

/-- The leaf of layer l, head h and block j has become soiled: TREE_SOIL is set and every node above it is soiled (06 R188). -/
def leafSoil (s : State) (r : Region) (l h j : Nat) : State :=
  let s1 := setStain s rKvStain 0
  if treeCovered s r l h ≤ j / 64 then s1 else soilAboveSpan (soilNode s1 r (r.l1At l h (j / 64))) r l h (j / 64)

/-- The records of `size` bytes that bytes [x, x + n) of a plane overlap, the plane holding `per` of them at the head of each stride: stride
and record. -/
def recordsIn (x n stride per size : Nat) : List (Nat × Nat) :=
  (List.range ((x + n - 1) / stride + 1 - x / stride)).flatMap (fun k =>
    let b := x / stride + k
    (List.range per).filterMap (fun q =>
      let a := b * stride + q * size
      if a < x + n ∧ x < a + size then some (b, q) else none))

/-- Bytes [va, va + n) of partition p may have become soiled: what that makes of the envelope trees over them (06 R188). -/
def treeSoil (s : State) (p va n : Nat) : State :=
  (s.tm.regions.filter (fun r => r.p == p)).foldl (fun t r =>
    let e0 := r.base + 4096
    let t0 := r.base + r.treeOff
    if e0 ≤ va ∧ va < r.base + r.segOff then
      (recordsIn (va - e0) n r.envBytes (r.layers * r.hkv) (2 * r.d)).foldl (fun u e =>
        let l := e.2 / r.hkv
        let h := e.2 % r.hkv
        if soiledAt u p (r.envAt l h e.1) (2 * r.d) then leafSoil u r l h e.1 else u) t
    else if t0 ≤ va ∧ va < r.base + r.dataOff then
      (recordsIn (va - t0) n r.treeBytes (r.n2 + r.n1) (2 * r.d)).foldl (fun u e =>
        let l := e.1 / r.hkv
        let h := e.1 % r.hkv
        let i := e.2 - r.n2
        if soiledAt u p (r.treeAt l h + e.2 * (2 * r.d)) (2 * r.d) then
          (let v := setStain u rKvStain 0
           if r.n2 ≤ e.2 then soilAboveSpan v r l h i else v)
        else u) t
    else t) s

/-- Whether the envelope of block (l, h, k) lies in Tier 2: the block is spilled (06 R189). -/
def farLeaf (s : State) (r : Region) (l h k : Nat) : Bool :=
  (pagesIn s r.p 4 (r.envAt l h k) (r.envAt l h k + 2 * r.d)).any (fun e => (pageOf s r.p e.2.1).any (fun g => g.tier == 2))

/-- The leaf group in which the Deep tier files the leaf of layer l, head h and block j: the channel that it lies beside, its layer, head
and level-1 span (06 R189); groups go round the channels (notes/assumptions/44.md). -/
def leafGroup (l h j : Nat) : Nat × Nat × Nat × Nat := ((l + h + j / 64) % 32, l, h, j / 64)

/-- Whether block j is in the recall set (06 R192). -/
def inRecall (s : State) (r : Region) (x : RecallSet) (j : Nat) : Bool :=
  decide (j < 64 * x.spans) && bitOf (numAt s r.p (r.mapAt x.layer x.head x.slot (j / 64)) 8) (j % 64)

/-! ## Spin windows (07 R215) -/

/-- Bytes of the envelope section (07 R215). -/
def Window.envBytes (w : Window) : Nat := roundUp (w.members * (2 * w.nh) * w.geo.hkv * (2 * w.geo.d)) 4096
/-- Bytes of a slot. -/
def Window.slotBytes (w : Window) : Nat := roundUp (2 * w.nh * w.geo.hkv * w.geo.bb) 4096
/-- Address of the slot k: 0 F0, 1 F1, 2 B0, 3 B1, 4 L. -/
def Window.slotAt (w : Window) (k : Nat) : Nat := w.base + 4096 + w.envBytes + k * w.slotBytes
/-- Bytes of the window; `loop`: with slot L. -/
def Window.span (w : Window) (loop : Bool) : Nat := 4096 + w.envBytes + (if loop then 5 else 4) * w.slotBytes
/-- Address of the envelope of shard m, node j, head h. -/
def Window.envAt (w : Window) (m j h : Nat) : Nat :=
  w.base + 4096 + ((m * (2 * w.nh) + j) * w.geo.hkv + h) * (2 * w.geo.d)
/-- Address of block (j, h) of slot k. -/
def Window.dataAt (w : Window) (k j h : Nat) : Nat := w.slotAt k + (j * w.geo.hkv + h) * w.geo.bb
/-- Chunks per shard (07 R218). -/
def Window.chunks (w : Window) : Nat := if w.c = 0 then 0 else 2 * w.nh / w.c

/-- The window whose header lies at address a of partition p; none where no header of version 1 lies there. -/
def windowAt (s : State) (p a : Nat) : Option Window :=
  let n (o k : Nat) : Nat := numAt s p (a + o) k
  let g := n 4 4
  if n 0 2 = 1 then
    some ⟨a, ⟨32 * bitsOf g 4 4, bitsOf g 24 4 + 1, bitsOf g 8 8 + 1, bitOf g 0, bitOf g 1⟩, n 2 1, n 3 1, n 8 2, n 12 4, n 16 2, n 18 2⟩
  else none

/-- Slot k of the window: the shard's index and how many of its chunks have arrived (07 R215; two bytes each: DEDUCED,
notes/assumptions/28.md). -/
def slotHead (s : State) (p : Nat) (w : Window) (k : Nat) : Nat × Nat :=
  (numAt s p (w.base + 64 + 4 * k) 2, numAt s p (w.base + 66 + 4 * k) 2)

/-- The nodes that a selection names, and the chunks that it needs; none: the selection is out of range (07 R216). -/
def selNodes (w : Window) (sel : Nat) : Option (List Nat × List Nat) :=
  let n := sel % 2 ^ 14
  if sel / 2 ^ 14 = 0 then
    (if n < w.chunks then some ((List.range w.c).map (fun i => n * w.c + i), [n]) else none)
  else if sel / 2 ^ 14 = 1 then
    (if n < 2 ∧ w.c ≠ 0 then some ((List.range w.nh).map (fun i => n * w.nh + i),
      (List.range (w.nh / w.c)).map (fun i => n * (w.nh / w.c) + i)) else none)
  else if sel / 2 ^ 14 = 2 then (if n = 0 then some (List.range (2 * w.nh), List.range w.chunks) else none)
  else none

/-- The slot that holds shard m. -/
def slotOf (s : State) (p : Nat) (w : Window) (m : Nat) : Option Nat :=
  (List.range 5).find? (fun k => (slotHead s p w k).1 == m && (slotHead s p w k).2 != 0)

/-- The block (j, h) of shard m, its data in slot k. -/
def Window.ref (w : Window) (m k h j : Nat) : BlkRef := ⟨j, 64, w.dataAt k j h, w.envAt m j h, 0⟩

/-! ## What the Press reads -/

/-- The source of a press: geometry, tags, whether it has segments, and the blocks of each KV head, in position order. -/
structure KvSrc where
  geo : KvGeo
  kTag : Nat
  vTag : Nat
  segs : Bool
  heads : List (List Block)
  deriving DecidableEq, Repr

end Sys2Proof.Machine
end

