-- ==== Sys2Proof/Machine/Functions.lean ====
section
/-! DEFINITION. The function units (spec 04): row operations and micro-programs. -/

namespace Sys2Proof.Machine

/-! ## Micro-programs (04 R120-R125) -/

/-- The program in slot k of partition p. -/
def progOf (s : State) (p k : Nat) : Option FnProg := tget (fun _ => none) s.fn (p * 32 + k)

/-- Store slot k of partition p. -/
def setProg (s : State) (p k : Nat) (x : Option FnProg) : State := { s with fn := tset (fun _ => none) s.fn (p * 32 + k) x }

/-- Check 9 of UNLOAD_PROGRAM (04 R125). -/
def unloadProgramErr (j : Job) : Option Ending :=
  fields [rsvd j 16 24, bad (j.bits 24 5 3 != 0) 24, rsvd j 25 56]

/-- The descriptors of an opcode of partition p that have begun, are not decided and satisfy `f`. -/
def begunOf (s : State) (p op : Nat) (f : Job → Bool) : List Job :=
  s.hp.jobs.filter (fun k => k.opcode == op && (k.phase == .checked || k.phase == .running) && partOfRing s k.ring == some p && f k)

/-- The unloads of slot k of partition p that have begun (04 R125). -/
def unloadsOf (s : State) (p k : Nat) : List Job := begunOf s p 0x0406 (fun x => x.bits 24 0 5 == k && (unloadProgramErr x).isNone)

/-- Whether slot k of partition p is valid (04 R125, R130). -/
def progValid (s : State) (p k : Nat) : Bool := (progOf s p k).any (fun x => x.lostAt.isNone)

/-- The program that slot k of partition p holds for descriptor j: none once an unload has begun before it (04 R125), or once an error made
the slot invalid before it began (R130). -/
def progFor (s : State) (p k : Nat) (j : Job) : Option FnProg :=
  if (unloadsOf s p k).any (fun x => decide (x.order < j.order)) then none
  else (progOf s p k).filter (fun x => x.lostAt.all (fun n => decide (j.order ≤ n)))

/-- Whether an uncorrectable error lies in what function f of core c reads for partition p: its table, or its program (04 R130). -/
def fnLost (s : State) (p c f : Nat) : Bool :=
  if f < 0x80 then tget (fun _ => false) s.fnBad (c * 256 + f) else (progOf s p (f - 0x80)).any (fun x => x.lostAt.isSome)

/-- An uncorrectable error in what function f of core c reads: a built-in's table, or the program slots of the partitions whose die it is,
which become invalid (04 R130). -/
def loseTable (s : State) (c f : Nat) : State :=
  if f < 0x80 then { s with fnBad := tset (fun _ => false) s.fnBad (c * 256 + f) true }
  else ((List.range 8).filter (fun p => bitOf (diesOf s p) (c / 8))).foldl (fun t p =>
    match progOf t p ((f - 0x80) % 32) with
    | some x => setProg t p ((f - 0x80) % 32) (some { x with lostAt := some (x.lostAt.getD t.hp.begun) })
    | none => t) s

/-- The APPLYs that began before an unload of their program, and with it complete (04 R125). -/
def programUsers (s : State) (p k : Nat) (j : Job) : List Job :=
  begunOf s p 0x0400 (fun x => x.fld 40 1 == 0x80 + k && decide (x.order < j.order))

/-- The FP32 value at byte o of a program's table, in the lane. -/
def FnProg.coef (x : FnProg) (o : Nat) : Val := fp32.decode (ofLe ((x.table.drop o).take 4))

/-- The segment number of a (04 R113, R122). -/
def FnProg.seg (x : FnProg) (a : Val) : Val :=
  match a with
  | .fin _ m =>
    if m = 0 then .fin true 1
    else
      let e := ilog2 m
      if e < x.elo then .fin true 1
      else if x.elo + x.binades ≤ e then .fin true 2
      else lq (((e - x.elo) * 32 + ((m * pow2 (-e) - 1) * 32).floor : Int) : Rat)
  | _ => .fin true 2

/-- The table entry that a names with an offset: a TLD (04 R122). -/
def FnProg.tld (x : FnProg) (a : Val) (off coef : Nat) : Val :=
  match a with
  | .fin _ _ =>
    let q := a.rat
    if q < 0 ∨ (q.floor : Rat) ≠ q ∨ x.table.length < (q.floor.toNat + off) * 16 + 16 then .nan
    else x.coef ((q.floor.toNat + off) * 16 + 4 * coef)
  | _ => .nan

/-- a × 2^b with b truncated to an integer (04 R122); beyond ±4096 the result is the same as at ±4096. -/
def scalb (a b : Val) : Val :=
  match b with
  | .nan => .nan
  | .inf n => lmul a (if n then .fin false 0 else .inf false)
  | .fin _ _ => lmul a (.fin false (pow2 (max (-4096) (min 4096 (roundInt .rtz b.rat)))))

/-- What a step's op gives for its operands (04 R122). -/
def FnProg.op (x : FnProg) (op imm : Nat) (a b c : Val) : Val :=
  match op with
  | 0x01 => ladd a b
  | 0x02 => ladd a b.neg
  | 0x03 => lmul a b
  | 0x04 => lane (Val.add (Val.mul a b) c)
  | 0x05 => Val.min a b
  | 0x06 => Val.max a b
  | 0x07 => a.abs
  | 0x08 => a.neg
  | 0x09 => if c.isNan || c.isNeg then b else a
  | 0x0A => x.seg a
  | 0x0B => x.tld a (imm / 4) (imm % 4)
  | 0x0C => x.coef (4 * imm)
  | 0x0D => match a with
    | .fin _ m => if m = 0 then .inf true else lq (ilog2 m : Int)
    | _ => .nan
  | 0x0E => scalb a b
  | 0x0F => match a with
    | .fin n _ => if (a.rat.floor : Rat) = 0 then .fin n 0 else lq (a.rat.floor : Int)
    | _ => a
  | _ => builtin (imm % 64) a

/-- One step on the registers T0-T15. -/
def FnProg.step (x : FnProg) (ts : List Val) (w : Word) : List Val :=
  let f (lo len : Nat) : Nat := bitsOf w.toNat lo len
  let t (i : Nat) : Val := ts.getD i (.fin false 0)
  if f 26 6 = 0 then ts else ts.set (f 22 4) (x.op (f 26 6) (f 0 10) (t (f 18 4)) (t (f 14 4)) (t (f 10 4)))

/-- A program's result: T15 after the last step (04 R122). -/
def FnProg.run (x : FnProg) (v : Val) : Val :=
  (x.steps.foldl x.step (v :: List.replicate 15 (.fin false 0))).getD 15 .nan

/-- Basic steps of a program per element (04 R119). -/
def FnProg.cost (x : FnProg) : Nat :=
  (x.steps.map (fun w => if bitsOf w.toNat 26 6 = 0x10 then (fnSteps (bitsOf w.toNat 0 6)).getD 0 else 1)).sum

/-! The loader (04 R123, R124) -/

/-- The BF16 patterns that are not NaN, by value. -/
def bf16Order : List Nat :=
  ((List.range 0x7F81).reverse.map (fun k => 0x8000 + k)) ++ List.range 0x7F81

/-- FP32 magnitudes at which the loader runs a program, ascending: pattern and seam number (none: a listed point). -/
def fp32Points : List (Nat × Option Nat) :=
  [(0, none), (1, none)] ++
  (List.range 254).flatMap (fun e => (List.range 32).flatMap (fun k =>
    let b := (e + 1) * 2 ^ 23 + k * 2 ^ 18
    let m := some (e * 32 + k)
    [(b - 1, m), (b, m), (b + 1, m)])) ++ [(0x7F7FFFFF, none), (0x7F800000, none)]

/-- All the points of an FP32 program, ascending by value. -/
def fp32Order : List (Nat × Option Nat) :=
  (fp32Points.reverse.map (fun e => (e.1 + 2 ^ 31, e.2.map (fun m => m + 2 ^ 15)))) ++ fp32Points

/-- The first point in ascending order whose result falls out of the declared order with the point before it. -/
def orderBreak {α : Type} (mono : Nat) (f : α → Val) : List α → Option α
  | a :: b :: l =>
    if (mono = 1 ∧ Val.lt (f b) (f a)) ∨ (mono = 2 ∧ Val.lt (f a) (f b)) then some b else orderBreak mono f (b :: l)
  | _ => none

/-- What the loader finds in an image: its code and data (none: the spec states no data), and the program (04 R123). `busy`: the
slot is valid. -/
def loadCheck (img : List Byte) (busy : Bool) : Nat × Option Nat × FnProg :=
  let n (o k : Nat) : Nat := ofLe ((img.drop o).take k)
  let steps := n 2 2
  let tb := n 4 2
  let elo := sgn 8 (n 8 1)
  let bin := n 9 1
  let ws := (List.range (min steps 256)).map (fun i => BitVec.ofNat 32 (n (64 + 4 * i) 4))
  let x : FnProg := ⟨n 6 1, elo, bin, ws, (img.drop 1088).take tb, none⟩
  let f (w : Word) (lo len : Nat) : Nat := bitsOf w.toNat lo len
  let hdr := [bad (n 0 2 != 1) 0, bad (n 6 1 != 2 && n 6 1 != 5) 6, bad (decide (2 < n 7 1)) 7] ++
    (((List.range 64).filter (fun o => o == 10 || o == 11 || decide (20 ≤ o))).map (fun o => bad (n o 1 != 0) o))
  let badOp := (ws.zipIdx).find? (fun e => decide (0x10 < f e.1 26 6) ||
    (f e.1 26 6 == 0x10 && (decide (0x11 < f e.1 0 6) || f e.1 6 4 != 0)))
  let badTab := (ws.zipIdx).find? (fun e => (f e.1 26 6 == 0x0C && decide (tb < 4 * f e.1 0 10 + 4)) ||
    (f e.1 26 6 == 0x0B && decide (tb < f e.1 2 8 * 16 + 16)))
  let mono := n 7 1
  let brk : Option (Option Nat) :=
    if mono = 0 then none
    else if n 6 1 = 2 then (orderBreak mono (fun b => x.run (bf16.decode b)) bf16Order).map some
    else (orderBreak mono (fun e => x.run (fp32.decode e.1)) fp32Order).map (fun e => e.2)
  match (hdr.filterMap id).min? with
  | some o => (1, some o, x)
  | none =>
    if steps = 0 ∨ 256 < steps then (2, some 0, x)
    else if 4096 < tb ∨ tb % 16 ≠ 0 then (3, some 0, x)
    else if elo < -126 ∨ 8 < bin ∨ 128 < elo + bin ∨ tb < bin * 512 then (4, some 0, x)
    else match badOp, badTab with
    | some e, _ => (5, some e.2, x)
    | none, some e => (6, some e.2, x)
    | none, none =>
      if ws.all (fun w => f w 26 6 == 0 || f w 22 4 != 15) then (7, some 0, x)
      else if busy then (8, some 0, x)
      else match brk with
      | some d => (9, d, x)
      | none => (0, some 0, x)

/-- Check 9 of LOAD_PROGRAM (04 R123). -/
def loadProgramErr (j : Job) : Option Ending :=
  fields [bad (j.fld 16 8 % 64 != 0) 16, a52 j 16, bad (j.bits 24 5 3 != 0) 24, rsvd j 25 56]

/-- What LOAD_PROGRAM reads (04 R122). -/
def loadProgramSpans (s : State) (j : Job) : List Span :=
  let p := part s j
  let a := j.va 16
  let tb := numAt s p (a + 4) 2
  [rd p a (1088 + (if tb ≤ 4096 then tb else 0))]

/-- FN_LOAD_RESULT(p) as a load of slot k completes (04 R132); what the spec does not state is free (notes/assumptions/26.md). -/
def loadNote (s : State) (p k : Nat) (code data : Option Nat) : State :=
  let x := drawWord s
  let s1 := if code.isSome && data.isSome then s else x.2
  wreg s1 (rFnLoad p) (BitVec.ofNat 32 (code.getD (bitsOf x.1.toNat 0 8) % 256 + 256 * k + 65536 * (data.getD (bitsOf x.1.toNat 16 16) % 2 ^ 16)))

/-- LOAD_PROGRAM (04 R123); of two loads into one slot the one that began first goes first (04 R125). -/
def execLoadProgram (id : Nat) (s : State) : Out :=
  runOp s id 0x0405 (fun j =>
    let p := part s j
    let k := j.bits 24 0 5
    let a := j.va 16
    match loadProgramErr j with
    | some e => finish (loadNote s p k none none) id e
    | none =>
      if (begunOf s p 0x0405 (fun x => x.bits 24 0 5 == k && decide (x.order < j.order) && (loadProgramErr x).isNone)).isEmpty then
        let tb := numAt s p (a + 4) 2
        let spans := loadProgramSpans s j
        withMemOr s id spans (fun cause oid => tierFail (loadNote s p k none none) id spans cause oid) (fun s =>
          let r := loadCheck (bytesAt s p a (1088 + tb)) (progValid s p k || (unloadsOf s p k).any (fun x => decide (x.order < j.order)))
          let s1 := loadNote s p k (some r.1) r.2.1
          if r.1 = 0 then finish (setProg s1 p k (some r.2.2)) id (stDone, 0) else finish s1 id (fieldErr 16))
      else markWaits s id)

/-- Whether the unload j of slot k of partition p may end: what began before it and uses or loads the slot is over (04 R125). -/
def unloadsNow (s : State) (p k : Nat) (j : Job) : Bool :=
  (programUsers s p k j).isEmpty &&
  (begunOf s p 0x0405 (fun x => x.bits 24 0 5 == k && decide (x.order < j.order) && (loadProgramErr x).isNone)).isEmpty

/-- UNLOAD_PROGRAM (04 R125): it runs until the descriptors that use the program have completed. -/
def execUnloadProgram (id : Nat) (s : State) : Out :=
  runOp s id 0x0406 (fun j =>
    match unloadProgramErr j with
    | some e => finish s id e
    | none => if unloadsNow s (part s j) (j.bits 24 0 5) j then finish (setProg s (part s j) (j.bits 24 0 5) none) id (stDone, 0)
      else keepRunning s id)

/-! ## Row operations (04 R108-R119, R127-R130) -/

/-- The fields of a row operation (04 R127). -/
structure RowOp where
  op : Nat
  a : Nat
  b : Nat
  dst : Nat
  aux : Nat
  n : Nat
  rows : Nat
  fi : Nat
  fo : Nat
  fn : Nat
  rnd : Rnd
  split : Bool
  layer : Bool
  lse : Bool
  af : Nat
  param : Val
  ss : Nat
  ds : Nat
  deriving DecidableEq, Repr

/-- The fields of descriptor j. -/
def rowOp (j : Job) : RowOp :=
  let n := j.fld 32 4
  let split := j.bits 41 2 1 == 1
  let ss := j.fld 48 4
  let ds := j.fld 52 4
  let fi := j.fld 38 1
  let fo := j.fld 39 1
  ⟨j.opcode, j.fld 16 4, j.fld 20 4, j.fld 24 4, j.fld 28 4, n, j.fld 36 2, fi, fo, j.fld 40 1, Rnd.ofCode (j.bits 41 0 2), split,
    j.bits 41 3 1 == 1, j.bits 41 4 1 == 1, j.fld 42 1, fp32.decode (j.fld 44 4),
    if ss = 0 then n * elemSize fi * (if split then 2 else 1) else ss, if ds = 0 then n * elemSize fo else ds⟩

/-- Whether source B is used. -/
def RowOp.usesB (r : RowOp) : Bool := (r.op == 0x0401 && !r.split) || (r.op == 0x0403 && r.af != 0)
/-- Whether aux is used. -/
def RowOp.usesAux (r : RowOp) : Bool := r.op == 0x0402 || (r.op == 0x0404 && r.lse) || (r.op == 0x0403 && r.layer && r.af != 0)

/-- The acts of GATE (04 R115). -/
def gateActs : List Nat := [0, 0x11, 8, 0x0C, 0x0D, 0x0E]

/-- Whether the function code of APPLY or GATE is refused (04 R125, R128). -/
def badFn (s : State) (p : Nat) (j : Job) (r : RowOp) : Bool :=
  if r.op = 0x0400 then
    (fnSteps r.fn).isNone && (match (if 0x80 ≤ r.fn ∧ r.fn < 0xA0 then progFor s p (r.fn - 0x80) j else none) with
      | some x => r.fi == 5 && x.fmt != 5
      | none => true)
  else if r.op = 0x0401 then !gateActs.contains r.fn else r.fn != 0

/-- Spans of a row operation in the core buffer: reads and writes, each with its field's offset. -/
def RowOp.spans (r : RowOp) : List (Nat × Nat × Nat) × List (Nat × Nat × Nat) :=
  let ei := elemSize r.fi
  let ea := elemSize r.af
  let row := r.n * ei * (if r.split then 2 else 1)
  let src := (r.rows - 1) * r.ss + row
  (([(16, r.a, src)] ++ (if r.usesB then [(20, r.b, if r.op = 0x0401 then src else r.n * ea)] else []) ++
      (if r.usesAux && r.op == 0x0403 then [(28, r.aux, r.n * ea)] else [])),
   ((if r.op = 0x0402 then [] else [(24, r.dst, (r.rows - 1) * r.ds + r.n * elemSize r.fo)]) ++
      (if r.usesAux && r.op != 0x0403 then [(28, r.aux, r.rows * (if r.op = 0x0402 then 12 else 4))] else [])))

/-- Check 9 of a row operation (04 R127, R128). -/
def rowErr (s : State) (j : Job) (r : RowOp) : Option Ending :=
  let stats := r.op == 0x0402
  let ei := elemSize r.fi
  let own := if r.op = 0x0401 then 1 else if r.op = 0x0403 then 2 else if r.op = 0x0404 then 4 else 0
  let sp := r.spans
  let far (l : List (Nat × Nat × Nat)) : List (Option Nat) := l.map (fun e => bad (decide (bufBytes < e.2.1 + e.2.2)) e.1)
  let clash := sp.2.flatMap (fun o => sp.1.map (fun i => bad (overlap o.2.1 o.2.2 i.2.1 i.2.2 &&
    !(o.1 == 24 && i.1 == 16 && o.2.1 == i.2.1 && ei == elemSize r.fo && r.ss == r.ds)) o.1))
  fields [bad (decide (2 ^ 27 ≤ r.a)) 19, bad (decide (2 ^ 27 ≤ r.b)) 23, bad (decide (2 ^ 27 ≤ r.dst)) 27,
      bad (!r.usesB && r.b != 0) 20, bad (stats && r.dst != 0) 24, bad (!r.usesAux && r.aux != 0xFFFFFFFF) 28,
      bad (r.n == 0 || decide (2 ^ 20 < r.n)) 32, bad (r.rows == 0) 36, bad (!isFloat r.fi) 38,
      bad (if stats then r.fo != 0 else !isFloat r.fo) 39, bad (badFn s (part s j) j r) 40,
      bad (j.bits 41 5 3 != 0 || j.bits 41 2 3 &&& (7 - own) != 0) 41,
      bad (if r.op = 0x0403 then !([0, 2, 5].contains r.af) else r.af != 0) 42, badCore s j 43,
      bad (if stats then j.fld 44 4 != 0 else !r.param.isFin || (r.op == 0x0403 && r.param.isNeg)) 44,
      bad (stats && j.fld 52 4 != 0) 52]
  <|> fields ([bad (decide (r.ss < r.n * ei * (if r.split then 2 else 1))) 48, bad (!stats && decide (r.ds < r.n * elemSize r.fo)) 52] ++
    far sp.1 ++ far sp.2 ++ clash)

/-- What a row gives: output elements with saturation, NaN generated, all −∞, soil by element, and what goes to aux. -/
structure RowOut where
  out : List Byte
  satd : Bool
  nan : Bool
  empty : Bool
  soil : List Bool
  aux : List Byte
  deriving DecidableEq, Repr

/-- Row statistics as values (04 R116, 02 R69): mean, variance, mean square. -/
def rowStats (xs : List Val) : Val × Val × Val :=
  let r := rowSums xs
  let sq := r.sqCls xs
  (r.cls.val r.mean, (if sq = .fin then Val.ofRat r.variance else .nan), sq.val r.meanSq)

/-- A built-in function or a program (04 R109, R120). -/
def evalFn (s : State) (p code : Nat) (x : Val) : Val :=
  if code < 0x80 then builtin code x
  else match progOf s p (code - 0x80) with
    | some y => y.run x
    | none => .nan

/-- Whether a NaN arose among outputs whose inputs were none. -/
def nanNew (ins outs : List Val) : Bool := (ins.zip outs).any (fun e => !e.1.isNan && e.2.isNan)

/-- A row of SOFTMAX (04 R118). -/
def softmaxRow (r : RowOp) (xs : List Val) (soil : List Bool) : RowOut :=
  let ys := xs.map (fun x => lmul x r.param)
  let n := xs.length
  let ss := soil.map (fun _ => soil.any (fun q => q))
  let enc (vs : List Val) : List Byte × Bool := encodeAll r.fo r.rnd vs
  if ys.any (fun y => y.isNan || y == .inf false) then
    let e := enc (List.replicate n .nan)
    ⟨e.1, e.2, !(xs.any Val.isNan), false, ss, leBytes 4 fp32.canonNan⟩
  else if ys.all (fun y => y == .inf true) then
    let e := enc (List.replicate n (.fin false 0))
    ⟨e.1, e.2, false, true, ss, leBytes 4 (fp32.encode r.rnd (.inf true)).1⟩
  else
    let m := ys.foldl Val.max (.inf true)
    let ws := ys.map (fun y => grid88 (laneExp (ladd y m.neg)).rat)
    let tot := ws.sum
    let e := enc (ws.map (fun w => Val.ofRat ((w : Rat) / (tot : Rat))))
    let l := fp32.encode r.rnd (ladd (laneLn (acc88 tot)) m)
    ⟨e.1, e.2 || (r.lse && l.2), false, false, ss, leBytes 4 l.1⟩

/-- A row of NORM (04 R117): gains and biases with their soil. -/
def normRow (r : RowOp) (xs : List Val) (soil : List Bool) (g b : List Val) (gs : List Bool) : RowOut :=
  let st := rowStats xs
  let k := builtin 7 (ladd (if r.layer then st.2.1 else st.2.2) r.param)
  let mu := lane st.1
  let ys := (xs.zip (g.zip b)).map (fun e =>
    let d := if r.layer then ladd e.1 mu.neg else e.1
    let y := Val.mul (lmul d k) e.2.1
    if r.layer then Val.add y e.2.2 else y)
  let o := encodeAll r.fo r.rnd ys
  let clean := !(xs.any Val.isNan)
  ⟨o.1, o.2, clean && nanNew ((g.zip b).map (fun e => if e.1.isNan || e.2.isNan then .nan else .fin false 0)) ys, false,
    gs.map (fun q => q || soil.any (fun q => q)), []⟩

/-- Row i of operation r on core c of partition p. -/
def rowOut (s : State) (p c : Nat) (r : RowOp) (i : Nat) : RowOut :=
  let k := bufPlace c
  let ei := elemSize r.fi
  let ea := elemSize r.af
  let a := r.a + i * r.ss
  let xs := elemsAt s k a r.n r.fi
  let soil := soilsAt s k a r.n ei
  if r.op = 0x0400 then
    let ys := xs.map (fun x => evalFn s p r.fn (lmul x r.param))
    let o := ys.map (fnOut r.fn r.fo r.rnd)
    ⟨(o.map (fun e => e.1)).flatten, o.any (fun e => e.2), nanNew xs ys, false, soil, []⟩
  else if r.op = 0x0401 then
    let b := if r.split then a + r.n * ei else r.b + i * r.ss
    let bs := elemsAt s k b r.n r.fi
    let ys := (xs.zip bs).map (fun e => Val.mul (builtin r.fn (lmul e.1 r.param)) e.2)
    let o := encodeAll r.fo r.rnd ys
    ⟨o.1, o.2, nanNew ((xs.zip bs).map (fun e => if e.1.isNan || e.2.isNan then .nan else .fin false 0)) ys, false,
      (soil.zip (soilsAt s k b r.n ei)).map (fun e => e.1 || e.2), []⟩
  else if r.op = 0x0402 then
    let st := rowStats xs
    let vs := [st.1, st.2.1, st.2.2]
    let o := encodeAll 5 r.rnd vs
    ⟨[], o.2, vs.any Val.isNan && !(xs.any Val.isNan), false, soil, o.1⟩
  else if r.op = 0x0403 then
    let one := List.replicate r.n (Val.fin false 1)
    let zero := List.replicate r.n (Val.fin false 0)
    let g := if r.af = 0 then one else elemsAt s k r.b r.n r.af
    let b := if r.af = 0 ∨ !r.layer then zero else elemsAt s k r.aux r.n r.af
    let no := List.replicate r.n false
    let gs := if r.af = 0 then no else soilsAt s k r.b r.n ea
    let bs := if r.af = 0 ∨ !r.layer then no else soilsAt s k r.aux r.n ea
    normRow r xs soil g b ((gs.zip bs).map (fun e => e.1 || e.2))
  else softmaxRow r xs soil

/-- Steps of a pass over one group of e elements (04 R119), in 512ths of a step. -/
def passCost (c rd wr e : Nat) : Nat := max (512 * c) (max ((rd * e + 1) / 2) (wr * e))

/-- Basic steps of a row operation (04 R119). -/
def rowCost (s : State) (p : Nat) (r : RowOp) : Nat :=
  let ei := elemSize r.fi
  let eo := elemSize r.fo
  let ea := elemSize r.af
  let c := if r.fn < 0x80 then (fnSteps r.fn).getD 1 else ((progOf s p (r.fn - 0x80)).map FnProg.cost).getD 1
  let passes : List (Nat × Nat × Nat) :=
    if r.op = 0x0400 then [(c, ei, eo)]
    else if r.op = 0x0401 then [(c + 1, 2 * ei, eo)]
    else if r.op = 0x0402 then [(2, ei, 0)]
    else if r.op = 0x0403 then
      [(2, ei, 0), (if r.layer then 3 else 2, ei + (if r.af = 0 then 0 else if r.layer then 2 * ea else ea), eo)]
    else [(1, ei, 0), (8, ei, 0), (10, ei, eo)]
  let fixed := if r.op = 0x0402 then 24 else if r.op = 0x0403 then 40 else if r.op = 0x0404 then 60 else 0
  let groups := List.replicate (r.n / 256) 256 ++ (if r.n % 256 = 0 then [] else [r.n % 256])
  cdiv (r.rows * (512 * fixed + (passes.map (fun q => (groups.map (passCost q.1 q.2.1 q.2.2)).sum)).sum)) 512 + 40

/-- A row operation of descriptor j whose checks have passed. -/
def runRows (s : State) (j : Job) (r : RowOp) : State :=
  let p := part s j
  let c := (coreAt s p (j.fld 43 1)).getD 0
  let k := bufPlace c
  let lost := fnLost s p c r.fn
  let raw := (List.range r.rows).map (rowOut s p c r)
  let outs := raw.map (fun o => if lost then { o with soil := o.soil.map (fun _ => true) } else o)
  let eo := elemSize r.fo
  let w := if r.op = 0x0402 then 12 else 4
  let s1 := (outs.zipIdx).foldl (fun t e =>
    let t1 := writeAt t k (r.dst + e.2 * r.ds) e.1.out (byteSoil eo e.1.soil)
    if r.usesAux && r.op != 0x0403 then writeAt t1 k (r.aux + e.2 * w) e.1.aux (if e.1.soil.any (fun q => q) then allSoil else noSoil)
    else t1) s
  let sat := outs.any (fun o => o.satd)
  let nan := outs.any (fun o => o.nan)
  let dirty := outs.any (fun o => o.soil.any (fun q => q))
  let s2 := stainIf nan (stainIf (raw.any (fun o => o.soil.any (fun q => q))) (stainIf sat s1 (rFnStain c) 0) (rFnStain c) 1) (rFnStain c) 2
  let cost := rowCost s p r
  let b (q : Bool) (v : Nat) : Nat := if q then v else 0
  finish (ranOn (coreCount s2 c 12 cost) j.id c cost ((outs.map (fun o => o.out.length + o.aux.length)).sum)) j.id
    (doneOf dirty (b sat 1 + b nan 2 + b (outs.any (fun o => o.empty)) 4 + b dirty 8))

/-- A row operation: check 9, then its rows. -/
def rowExec (s : State) (j : Job) : State :=
  match rowErr s j (rowOp j) with
  | some e => finish s j.id e
  | none => runRows s j (rowOp j)

/-- APPLY (04 R109). -/
def execApply (id : Nat) (s : State) : Out := runOp s id 0x0400 (rowExec s)
/-- GATE (04 R115). -/
def execGate (id : Nat) (s : State) : Out := runOp s id 0x0401 (rowExec s)
/-- STATS (04 R116). -/
def execStats (id : Nat) (s : State) : Out := runOp s id 0x0402 (rowExec s)
/-- NORM (04 R117). -/
def execNorm (id : Nat) (s : State) : Out := runOp s id 0x0403 (rowExec s)
/-- SOFTMAX (04 R118). -/
def execSoftmax (id : Nat) (s : State) : Out := runOp s id 0x0404 (rowExec s)

end Sys2Proof.Machine
end

