-- ==== Sys2Proof/Machine/Aes.lean ====
section
/-! DEFINITION. AES-256-XTS, under which everything that a partition keeps in Tier 2 is encrypted (08 R283; FIPS 197, IEEE 1619).
Blocks and keys are little-endian numbers: byte i of a block is its bits [8i + 7 : 8i]. -/

namespace Sys2Proof.Machine

/-- Twice a byte, modulo x^8 + x^4 + x^3 + x + 1. -/
def gfTwice (a : Nat) : Nat := if 128 ≤ a then ((2 * a) ^^^ 0x11B) else 2 * a

/-- A product of bytes in the field of 256 elements; n bits of b count. -/
def gfMul (a b : Nat) : Nat → Nat
  | 0 => 0
  | n + 1 => (if b % 2 = 1 then a else 0) ^^^ gfMul (gfTwice a) (b / 2) n

/-- The inverse of a byte, 0 of 0: its power 254. -/
def gfInv (a : Nat) : Nat :=
  ((List.range 7).foldl (fun (e : Nat × Nat) _ =>
    let sq := gfMul e.1 e.1 8
    (sq, gfMul e.2 sq 8)) (a, 1)).2

/-- The affine map of SubBytes: a byte and its four left turns, with 0x63. -/
def affine (a : Nat) : Nat :=
  (List.range 4).foldl (fun x k => x ^^^ (a * 2 ^ (k + 1) % 256) ^^^ (a * 2 ^ (k + 1) / 256)) (a ^^^ 0x63)

/-- SubBytes as one number: byte x of it is what x becomes. -/
def subTable : Nat := (List.range 256).foldl (fun t x => t + affine (gfInv x) * 256 ^ x) 0
/-- What a byte becomes under SubBytes. -/
def subByte (x : Nat) : Nat := subTable / 256 ^ x % 256
/-- The inverse of SubBytes, likewise. -/
def unsubTable : Nat := (List.range 256).foldl (fun t x => t + x * 256 ^ subByte x) 0
/-- What a byte becomes under the inverse of SubBytes. -/
def unsubByte (x : Nat) : Nat := unsubTable / 256 ^ x % 256

/-- The n bytes of a number, lowest first. -/
def bytesNat : Nat → Nat → List Nat
  | 0, _ => []
  | n + 1, v => v % 256 :: bytesNat n (v / 256)
/-- The number that bytes spell, lowest first. -/
def natBytes : List Nat → Nat
  | [] => 0
  | b :: bs => b + 256 * natBytes bs

/-- The word after the words `w` of a key schedule, latest first; i of them stand. -/
def nextKeyWord (w : List (List Nat)) (i : Nat) : List Nat :=
  let last := w.headD []
  let x :=
    if i % 8 = 0 then
      match (last.drop 1 ++ last.take 1).map subByte with
      | a :: as => (a ^^^ 2 ^ (i / 8 - 1)) :: as
      | [] => []
    else if i % 8 = 4 then last.map subByte else last
  (x.zip (w.getD 7 [])).map (fun e => e.1 ^^^ e.2)

/-- The 15 round keys of a 256-bit key, each of 16 bytes. -/
def roundKeys (key : Nat) : List (List Nat) :=
  let b := bytesNat 32 key
  let w0 := (List.range 8).map (fun i => (b.drop (4 * i)).take 4)
  let ws := ((List.range 52).foldl (fun w i => nextKeyWord w (i + 8) :: w) w0.reverse).reverse
  (List.range 15).map (fun r => ((ws.drop (4 * r)).take 4).flatten)

/-- Exclusive or of two lists of bytes. -/
def xorBytes (a b : List Nat) : List Nat := (a.zip b).map (fun e => e.1 ^^^ e.2)

/-- Row r of the state turns left by r places; `back`: right. -/
def turnRows (back : Bool) (a : List Nat) : List Nat :=
  (List.range 16).map (fun i =>
    let r := i % 4
    a.getD (r + 4 * ((i / 4 + (if back then 4 - r else r)) % 4)) 0)

/-- A column times the circulant of four coefficients. -/
def mixColumn (k : List Nat) (c : List Nat) : List Nat :=
  (List.range 4).map (fun r => (c.zipIdx).foldl (fun x e => x ^^^ gfMul e.1 (k.getD ((e.2 + 4 - r) % 4) 0) 4) 0)

/-- Every column of the state so. -/
def mixState (k : List Nat) (a : List Nat) : List Nat :=
  ((List.range 4).map (fun c => mixColumn k ((a.drop (4 * c)).take 4))).flatten

/-- AES-256 of a block under the key's round keys. -/
def aesEnc (ks : List (List Nat)) (b : Nat) : Nat :=
  let first := xorBytes (bytesNat 16 b) (ks.headD [])
  let mid := ((ks.drop 1).take 13).foldl (fun a k => xorBytes (mixState [2, 3, 1, 1] (turnRows false (a.map subByte))) k) first
  natBytes (xorBytes (turnRows false (mid.map subByte)) (ks.getD 14 []))

/-- The inverse of `aesEnc`. -/
def aesDec (ks : List (List Nat)) (b : Nat) : Nat :=
  let un (a : List Nat) : List Nat := (turnRows true a).map unsubByte
  let first := un (xorBytes (bytesNat 16 b) (ks.getD 14 []))
  let mid := (((ks.drop 1).take 13).reverse).foldl (fun a k => un (mixState [14, 11, 13, 9] (xorBytes a k))) first
  natBytes (xorBytes mid (ks.headD []))

/-- A tweak times the primitive element of the field of 2^128 elements, j times (IEEE 1619). -/
def tweakUp : Nat → Nat → Nat
  | 0, t => t
  | j + 1, t => tweakUp j (if 2 ^ 127 ≤ t then (2 * t % 2 ^ 128) ^^^ 0x87 else 2 * t)

/-- The tweak of block j of a data unit: the unit's number under K2 (08 R283), raised j times. -/
def unitTweak (ks2 : List (List Nat)) (unit j : Nat) : Nat := tweakUp j (aesEnc ks2 unit)

/-- Block j of data unit `unit`, encrypted under K1 and K2. -/
def xtsEnc (ks1 ks2 : List (List Nat)) (unit j b : Nat) : Nat :=
  let t := unitTweak ks2 unit j
  aesEnc ks1 (b ^^^ t) ^^^ t

/-- Block j of data unit `unit`, decrypted. -/
def xtsDec (ks1 ks2 : List (List Nat)) (unit j b : Nat) : Nat :=
  let t := unitTweak ks2 unit j
  aesDec ks1 (b ^^^ t) ^^^ t

end Sys2Proof.Machine
end

