-- ==== Sys2Proof/Machine/Store.lean ====
section
/-! DEFINITION. The Deep tier's store (08 R267-R271, R282, R283): encrypted blocks at Deep logical addresses, the frames and tile maps of
pages, what Tier 2 holds of each partition. -/

namespace Sys2Proof.Machine

/-! ## Encrypted blocks (R283) -/

/-- Encrypt bytes under a key and put them at Deep logical address 16 a: block by block, each in its 4 KiB data unit. -/
def deepPut (s : State) (k : DeepKey) (a : Nat) (bs : List Byte) : State :=
  let ks1 := roundKeys k.k1.toNat
  let ks2 := roundKeys k.k2.toNat
  let n := cdiv bs.length 16
  { s with tm := { s.tm with deep := tsetMany (fun _ => 0) s.tm.deep a ((List.range n).map (fun i =>
    BitVec.ofNat 128 (xtsEnc ks1 ks2 ((a + i) / 256) ((a + i) % 256) (ofLe ((bs.drop (16 * i)).take 16))))) } }

/-- n bytes from Deep logical address 16 a, decrypted under a key. -/
def deepGet (s : State) (k : DeepKey) (a n : Nat) : List Byte :=
  let ks1 := roundKeys k.k1.toNat
  let ks2 := roundKeys k.k2.toNat
  (((List.range (cdiv n 16)).map (fun i =>
    leBytes 16 (xtsDec ks1 ks2 ((a + i) / 256) ((a + i) % 256) (tget (fun _ => 0) s.tm.deep (a + i)).toNat))).flatten).take n

/-- Put bytes where none have been: their Deep address in units of 16 bytes, and the state (notes/assumptions/41.md). -/
def deepAppend (s : State) (k : DeepKey) (bs : List Byte) : Nat × State :=
  let a := s.tm.deepNext
  let t := deepPut s k a bs
  (a, { t with tm := { t.tm with deepNext := a + cdiv bs.length 16 } })

/-! ## Frames (R267-R271) -/

/-- The 8 bytes of a locator (R271). -/
def Loc.bytes (l : Loc) : List Byte := leBytes 8 (l.addr + l.len * 2 ^ 44 + (if l.len = 0 then 2 ^ 53 else 0))

/-- The bytes of the tile map of a page of `size` bytes (R271). -/
def mapBytes (size : Nat) (m : Tab Loc) : List Byte := ((List.range (size / 4096)).map (fun t => (tget (fun _ => loc0) m t).bytes)).flatten

/-- The soil mask of the tile at address number x (R267). -/
def soilMask (soil : Tab Bool) (x : Nat) : Nat :=
  ((List.range 64).map (fun u => if tget clean soil (x / 64 + u) then 2 ^ u else 0)).sum

/-- The frame of tile t of page g, whose bytes and soil stand at address number x of `mem` and `soil`: none for a tile of all zeros
(R267). -/
def frameAt (mem : Tab Byte) (soil : Tab Bool) (x : Nat) (g : Page) (t : Nat) : Option (List Byte) :=
  let bs := tgetMany byte0 mem x 4096
  let m := soilMask soil x
  if m = 0 ∧ bs.all (· == 0) then none else some (frameOf bs g.oid (g.tile0 + t) m)

/-- The frame of tile t of the page g at va of partition p. -/
def tileFrame (s : State) (p va : Nat) (g : Page) (t : Nat) : Option (List Byte) :=
  frameAt s.tm.mem s.tm.soil (akey p (va + 4096 * t)) g t

/-- Write a frame, encrypted, and count what passes the codec (R291): its locator. -/
def putFrame (s : State) (k : DeepKey) (f : Option (List Byte)) : Loc × State :=
  match f with
  | none => (loc0, s)
  | some bs =>
    let r := deepAppend s k bs
    (⟨r.1, bs.length / 16⟩, addCnt (addCnt r.2 rCodecIn 4096) rCodecOut bs.length)

/-- Tile t of a page is clean, its frame at l (R270, R271). -/
def Page.stored (g : Page) (t : Nat) (l : Loc) : Page :=
  { g with dirty := if bitOf g.dirty t then g.dirty - 2 ^ t else g.dirty, locs := tset (fun _ => loc0) g.locs t l }

/-- Write the frame of tile t of the page at va, making it clean (R270). -/
def storeTile (s : State) (p va t : Nat) : State :=
  match pageOf s p va, keyOf s p with
  | some g, some k =>
    let r := putFrame (hbmSpan s g (4096 * t) (4096 * t + 4096) false) k (tileFrame s p va g t)
    setPage r.2 p va (some (g.stored t r.1))
  | _, _ => s

/-- The dirty tiles of a page. -/
def dirtyTiles (g : Page) : List Nat := (List.range (g.size / 4096)).filter (bitOf g.dirty)

/-- The bytes that the frames of a page's dirty tiles take. -/
def dirtyFrameBytes (s : State) (p va : Nat) (g : Page) : Nat :=
  ((dirtyTiles g).map (fun t => ((tileFrame s p va g t).getD []).length)).sum

/-- Lay bytes of a page and their soil, whole units, down wherever the page at address a of partition p shows, and in the pattern store (06 R183). -/
def layTile (s : State) (p a : Nat) (bs : List Byte) (soil : Nat → Bool) : State :=
  let s1 := (spotsOf s p a).foldl (fun t x => writeAt t p x bs soil) s
  match aliasOf s p a with
  | none => s1
  | some (k, off) => modStore s1 p k (fun e =>
      let put (n : Nat) (m : Tab Byte) (q : Tab Bool) : Tab Byte × Tab Bool :=
        (tsetMany byte0 m n bs, tsetMany clean q (n / 64) ((List.range (cdiv bs.length 64)).map (fun u => soil (64 * u))))
      match regionOf s p ((objAt s p a).elim 0 (fun o => o.id)) with
      | some r =>
        if off < r.nodeBytes then (let x := put off e.data e.dataSoil; { e with data := x.1, dataSoil := x.2 })
        else (let x := put (off - r.nodeBytes) e.env e.envSoil; { e with env := x.1, envSoil := x.2 })
      | none => e)

/-- The 64-byte unit at address a of partition p has become soiled, wherever it shows (R281, 06 R188). -/
def soilUnit (s : State) (p a : Nat) : State :=
  (spotsOf s p a).foldl (fun t x => treeSoil t p x 64) (layTile s p a (bytesAt s p a 64) allSoil)

/-- What reading the frame of tile t of page g gives (R269): the tile and its soil by byte, and whether it passes its checks. A tile
without a frame is zeros. -/
def storedTile (s : State) (k : DeepKey) (g : Page) (t : Nat) : List Byte × (Nat → Bool) × Bool :=
  let l := tget (fun _ => loc0) g.locs t
  if l.len = 0 then (List.replicate 4096 0, noSoil, true)
  else
    let f := readFrame (deepGet s k l.addr (16 * l.len))
    let bs := (f.tile ++ List.replicate 4096 0).take 4096
    if f.crcOk ∧ f.oid = g.oid % 2 ^ 20 ∧ f.tileNo = g.tile0 + t then (bs, fun i => bitOf f.soil (i / 64), true) else (bs, allSoil, false)

/-! ## What Tier 2 holds (R271, R274, R291; 09 R297, R300) -/

/-- Bytes of a record of an index (09 R300). -/
def Index.recBytes (x : Index) : Nat := roundUp (24 + x.dim * x.w / 8 + x.dim / 32) 16
/-- Records of a list page. -/
def Index.perPage (x : Index) : Nat := 16352 / x.recBytes

/-- Deep addresses of an index's list pages, those of a shadow and of a draining generation too; pages that generations share come once
(09 R311). -/
def Index.pagesHeld (x : Index) : List Nat :=
  ((x.places.map (fun e => e.2)) ++ (x.shadow.elim [] (fun m => m.places.map (fun e => e.2))) ++
    (x.drain.elim [] (fun d => d.2))).dedup

/-- The bytes of a record of an index (09 R300). -/
def Index.record (x : Index) (r : Rec) : List Byte :=
  let bs := leBytes 8 (r.item % 2 ^ 48) ++ leBytes 8 r.num ++ leBytes 8 r.label.toNat ++ r.codes ++ r.scales
  bs ++ List.replicate (x.recBytes - bs.length) 0

/-- Page j of list l of a generation, whose records are rs, without the zeros at its end (09 R300). -/
def Index.pageBytes (x : Index) (l : Nat) (gen : Word) (rs : List Rec) (j : Nat) : List Byte :=
  let mine := (rs.drop (j * x.perPage)).take x.perPage
  leBytes 4 l ++ leBytes 4 gen.toNat ++ leBytes 2 mine.length ++ leBytes 22 0 ++ (mine.map x.record).flatten

/-- The key of page j of list l in `Index.places`. -/
def pageKey (l j : Nat) : Nat := l * 2 ^ 32 + j

/-- Whether a checkpoint, committed or running, holds the list page at a Deep address. -/
def pageCaptured (s : State) (a : Nat) : Bool :=
  (s.tm.ckpts.flatMap (fun c => c.objs.filterMap (fun o => o.index)) ++ s.tm.shots.flatMap (fun x => x.indexes)).any (fun i => i.pagesHeld.contains a)

/-- Pages js of list l that need a place of their own: they have none, or a checkpoint holds it. -/
def newPages (s : State) (places : Tab Nat) (l : Nat) (js : List Nat) : List Nat :=
  js.filter (fun j => let a := tget (fun _ => 0) places (pageKey l j); a == 0 || pageCaptured s a)

/-- Write pages js of list l, whose records are rs, encrypted: where they lie then, and the state (09 R300; notes/assumptions/41.md). -/
def putPages (s : State) (k : DeepKey) (x : Index) (gen : Word) (l : Nat) (rs : List Rec) (js : List Nat) (places : Tab Nat) :
    Tab Nat × State :=
  js.foldl (fun acc j =>
    let new := !(newPages acc.2 acc.1 l [j]).isEmpty
    let a := if new then acc.2.tm.deepNext else tget (fun _ => 0) acc.1 (pageKey l j)
    let t := deepPut acc.2 k a (x.pageBytes l gen rs j)
    (tset (fun _ => 0) acc.1 (pageKey l j) a, if new then { t with tm := { t.tm with deepNext := a + 1024 } } else t)) (places, s)

/-- Tier 2 bytes of the list pages of indexes and of those that checkpoints hold, each page once (09 R297, R300). -/
def indexBytes (xs : List Index) (cs : List Ckpt) : Nat :=
  16384 * ((xs ++ cs.flatMap (fun c => c.objs.filterMap (fun o => o.index))).flatMap Index.pagesHeld).dedup.length

/-- The locators that a page keeps: its own, and those that a write would restore (R265). -/
def Page.kept (g : Page) : List Loc := g.locs.map (fun e => e.2) ++ g.back.map (fun e => e.2)

/-- The locators of partition p's pages, of its pattern store and of checkpoints that it is writing. -/
def liveLocs (s : State) (p : Nat) : List Loc :=
  ((ownPages s).filter (fun e => e.1 == p)).flatMap (fun e => e.2.2.kept) ++
  ((storePages s).filter (fun e => e.1 == p)).flatMap (fun e => e.2.2.2.kept) ++
  (s.tm.shots.filter (fun x => x.p == p)).flatMap (fun x => x.pages.flatMap (fun e => e.2.kept))

/-- The locators that checkpoints refer to. -/
def ckptLocs (cs : List Ckpt) : List Loc := cs.flatMap (fun c => c.objs.flatMap (fun o => o.maps.flatMap (fun m => m.2.map (fun e => e.2))))

/-- Bytes of the frames at locators, each frame once: a frame that nothing refers to is free (R271). -/
def locBytes (ls : List Loc) : Nat := (ls.dedup.map (fun l => 16 * l.len)).sum

/-- Checkpoints committed under partition p's key. -/
def ckptsOf (s : State) (p : Nat) : List Ckpt :=
  s.tm.ckpts.filter (fun c => (keyOf s p).any (fun k => k.id == c.key.id))

/-- Tier 2 bytes that partition p holds, checkpoints and indexes included (R291, 09 R297). -/
def t2Used (s : State) (p : Nat) : Nat :=
  indexBytes (s.tm.indexes.filter (fun x => x.p == p)) (ckptsOf s p) + locBytes (liveLocs s p ++ ckptLocs (ckptsOf s p))

/-- Tier 2 bytes in use: of every partition, and of checkpoints whose key no partition holds. -/
def t2Total (s : State) : Nat :=
  indexBytes s.tm.indexes s.tm.ckpts + locBytes ((List.range 8).flatMap (liveLocs s) ++ ckptLocs s.tm.ckpts)

/-- The Deep tier's user capacity (00 R1). -/
def tier2Bytes : Nat := 56000000000000

/-- Whether n more bytes may be written to Tier 2 for partition p (R274, 09 R296). -/
def deepRoom (s : State) (p n : Nat) : Bool :=
  let q := rfield s (rTmPart p + 8) 0 16
  rfield s rDtStatus 28 1 == 0 && (q == 0 || decide (t2Used s p + n ≤ q * 2 ^ 30)) && decide (t2Total s + n ≤ tier2Bytes)

end Sys2Proof.Machine
end

