-- ==== Sys2Proof/Machine/Tiers.lean ====
section
/-! DEFINITION. The tier manager (spec 08): objects, range operations, spill and fetch, checkpoints, keys, pools, BAR4 and HBM
scrub. -/

namespace Sys2Proof.Machine

/-! ## Pages leave Tier 1 -/

/-- Write back and invalidate the pool lines of [a, a + n) of partition p in every die (08 R260). -/
def dropSpan (s : State) (p a n : Nat) : State :=
  if s.tm.cache.isEmpty then s else dropLines s (fun _ l => decide (akey p a ≤ l * 512) && decide (l * 512 < akey p a + n))

/-- A page leaves Tier 1 (08 R260, R271). -/
def dropPage (s : State) (p b : Nat) : State :=
  match pageOf s p b with
  | some g =>
    noteSpill (setPage ((spotsOf s p b).foldl (fun t a => dropSpan t p a g.size) s) p b
      (some { g with tier := 2, moving := 0, frame := 0, t2 := true, back := [] }))
  | none => s

/-! ## Release (08 R489, R256) -/

/-- The 64 bytes of an entry of a pattern table (06 R182). -/
def PatEntry.bytes (e : PatEntry) : List Byte :=
  leBytes 16 e.key.toNat ++ leBytes 4 e.refs ++ leBytes 4 0 ++ leBytes 8 e.dataAddr.toNat ++ leBytes 8 e.envAddr.toNat ++
  leBytes 8 e.time.toNat ++ leBytes 4 e.geom.toNat ++ leBytes 12 0

/-- Put an entry into slot k of a table, or clear the slot. -/
def PatTable.put (t : PatTable) (k : Nat) (e : Option PatEntry) : PatTable :=
  { t with entries := (t.entries.filter (fun x => x.1 != k)) ++ (e.map (fun x => (k, x))).toList }

/-- The slot and entry of a key. -/
def PatTable.find (t : PatTable) (key : Nat) : Option (Nat × PatEntry) := t.entries.find? (fun e => e.2.key.toNat == key)

/-- The module writes an entry of a pattern table into memory, where a page stands there (R182; notes/assumptions/46.md). -/
def tableWrite (s : State) (p a : Nat) (bs : List Byte) : State :=
  if (objAt s p a).any (fun o => (pageOf s p (pageBase o a)).isSome) then writeAt (touchSpan s (wr p a bs.length)) p a bs noSoil else s

/-- Change the entry of a key in a table of partition p (none: drop it), in the table's memory too. -/
def modTable (s : State) (p : Nat) (t : PatTable) (key : Nat) (f : PatEntry → Option PatEntry) : State × PatTable :=
  match t.find key with
  | none => (s, t)
  | some (k, e) => (tableWrite s p (t.addr + 64 * k) (match f e with
      | some x => x.bytes
      | none => List.replicate 64 0), t.put k (f e))

/-- Change the entry of a key in partition p's current generation, and in the shadow where one is being built (06 R195). -/
def modEntry (s : State) (p key : Nat) (f : PatEntry → Option PatEntry) : State :=
  let x := patsOf s p
  let a := match x.cur with
    | some t => let r := modTable s p t key f; (r.1, some r.2)
    | none => (s, none)
  let b := match x.shadow with
    | some (t, j, w) => let r := modTable a.1 p t key f; (r.1, some (r.2, j, w))
    | none => (a.1, none)
  { b.1 with tm := { b.1.tm with pats := tset (fun _ => pat0) b.1.tm.pats p { x with cur := a.2, shadow := b.2 } } }

/-- A region no longer maps the entry of a key (06 R186). -/
def unref (s : State) (p key : Nat) : State := modEntry s p key (fun e => some { e with refs := e.refs - 1 })

/-- Release the object of partition p with the id: its pages, holders, bytes, region, shared nodes and index. -/
def releaseObj (s : State) (p id : Nat) : State :=
  match s.tm.objs.find? (fun o => o.p == p && o.id == id) with
  | none => s
  | some o =>
    let x := akey p o.base
    let inside (k : Nat) : Bool := decide (x ≤ k) && decide (k < x + o.size)
    let s1 := match regionOf s p id with
      | some r => r.shared.foldl (fun t e => match e.2 with
        | some k => unref t p k
        | none => t) s
      | none => s
    let s2 := eraseAt (dropSpan s1 p o.base o.size) p o.base o.size
    noteSpill { s2 with tm := { s2.tm with
      objs := s2.tm.objs.filter (fun q => !(q.p == p && q.id == id))
      regions := s2.tm.regions.filter (fun q => !(q.p == p && q.id == id))
      indexes := s2.tm.indexes.filter (fun q => !(q.p == p && q.id == id))
      pages := tdrop s2.tm.pages inside
      holds := tdrop s2.tm.holds inside } }

/-- Whether descriptor id has completed. -/
def gone (s : State) (id : Nat) : Bool := s.hp.jobs.all (fun j => j.id != id)

/-- Whether every descriptor of its partition that began before descriptor j has completed (08 R489). -/
def olderGone (s : State) (j : Job) : Bool := (begunBefore s (part s j) j.order).isEmpty

/-- Check 9 of a free of an object of the kind (08 R288, R489): a free that began earlier takes its object. -/
def freeErr (s : State) (j : Job) (kind : Nat) : Option Ending :=
  let o := if j.obj = 0 then none else objNamed s (part s j) j.obj j.id
  fields [bad (!o.any (fun o => o.kind == kind)) 12, rsvd j 16 56]

/-- A free of an object of the kind runs (08 R489): check 9, then the wait for what began before. -/
def freeObj (s : State) (j : Job) (kind : Nat) : State :=
  match freeErr s j kind with
  | some e => finish s j.id e
  | none => keepRunning s j.id

/-- Whether the free of descriptor id may take place, and of what. -/
def freeDue (s : State) (id : Nat) : Option Obj :=
  match job? s id with
  | some j => if olderGone s j then s.tm.objs.find? (fun o => o.p == part s j && o.id == j.obj) else none
  | none => none

/-! ## Objects (08 R253-R259, R286-R288) -/

/-- Free ranges taken in die d's scratch part. -/
def pinned (s : State) (d : Nat) : List (Nat × Nat) :=
  ((allPages s).filter (fun e => e.2.2.tier == 0 && e.2.2.die == d)).map (fun e => (e.2.2.off, e.2.2.size))

/-- Scratch bytes of die d in force (08 R258). -/
def scratchOf (s : State) (d : Nat) : Nat := tget (fun _ => 0) s.tm.split d * 2 ^ 27

/-- Free scratch of die d. -/
def scratchFree (s : State) (d : Nat) : Nat := scratchOf s d - ((pinned s d).map (fun e => e.2)).sum

/-- The lowest aligned place for a page of n bytes below cap beside what is taken (08 R259). -/
def placePage (n cap : Nat) (taken : List (Nat × Nat)) : Option Nat :=
  ((0 :: taken.map (fun e => roundUp (e.1 + e.2) n)).filter (fun a =>
    decide (a + n ≤ cap) && taken.all (fun e => !overlap a n e.1 e.2))).min?

/-- Places for k pages of n bytes, in page order. -/
def placePages (n cap : Nat) : Nat → List (Nat × Nat) → Option (List Nat)
  | 0, _ => some []
  | k + 1, taken => match placePage n cap taken with
    | none => none
    | some a => (placePages n cap k ((a, n) :: taken)).map (fun l => a :: l)

/-- The object's pages in Tier 0, zeroed (08 R256, R259). -/
def pinPages (s : State) (o : Obj) (places : List Nat) : State :=
  (places.zipIdx).foldl (fun t e =>
    let d := drawWord t
    let n := 2 ^ (12 + o.sz)
    setOwn d.2 o.p (o.base + e.2 * n) (some ⟨o.id, n, e.2 * (n / 4096), 0, 0, 0, 0, ageNow t, d.1, 0, o.die, e.1, false, [], []⟩)) s

/-- Whether [base, base + size) of partition p overlaps an object. -/
def spanTaken (s : State) (p base size : Nat) : Bool :=
  s.tm.objs.any (fun o => o.p == p && overlap base size o.base o.size)

/-- Whether an object id is in use. -/
def idTaken (s : State) (p id : Nat) : Bool := s.tm.objs.any (fun o => o.p == p && o.id == id)

/-- Check 9 of OBJ_CREATE (08 R253, R286). -/
def objCreateErr (s : State) (j : Job) : Option Ending :=
  let p := part s j
  let base := j.va 16
  let size := j.va 24
  let sz := j.fld 32 1
  let n := 2 ^ (12 + sz)
  let pol := j.fld 33 1
  let die := j.fld 34 1
  let pin := pol == 2
  fields [bad (j.obj == 0 || idTaken s p j.obj) 12, a52 j 16, bad (decide (sz ≤ 18) && base % n != 0) 16, a52 j 24,
      bad (decide (sz ≤ 18) && (size == 0 || size % n != 0 || decide (2 ^ 52 < base + size))) 24, bad (decide (18 < sz)) 32,
      bad (decide (3 < pol)) 33, bad (decide (7 < die) || (!pin && die != 0)) 34, rsvd j 35 56]
    <|> fields [bad (spanTaken s p base size) 16, bad (pin && !bitOf (diesOf s p) die) 34]

/-- OBJ_CREATE (08 R253, R259, R286). -/
def execObjCreate (id : Nat) (s : State) : Out :=
  runOp s id 0x0700 (fun j =>
    let p := part s j
    let base := j.va 16
    let size := j.va 24
    let sz := j.fld 32 1
    let n := 2 ^ (12 + sz)
    let pol := j.fld 33 1
    let die := j.fld 34 1
    let pin := pol == 2
    match objCreateErr s j with
    | some e => finish s id e
    | none =>
      let o : Obj := ⟨p, j.obj, base, size, sz, pol, die, 0, 0⟩
      let s1 := { s with tm := { s.tm with objs := s.tm.objs ++ [o] } }
      if pin then
        match placePages n (scratchOf s die) (size / n) (pinned s die) with
        | none => finish s id (shapeErr 4 (scratchFree s die / 2 ^ 20))
        | some l => finish (pinPages s1 o l) id (stDone, 0)
      else finish s1 id (stDone, 0))

/-- OBJ_FREE (08 R489). -/
def execObjFree (id : Nat) (s : State) : Out := runOp s id 0x0701 (fun j => freeObj s j 0)

/-- Check 9 of OBJ_POLICY (08 R254, R287). -/
def objPolicyErr (s : State) (j : Job) (id : Nat) : Option Ending :=
  let p := part s j
  let o := objNamed s p j.obj id
  let new := j.fld 16 1
  fields [bad (o.all (fun o => o.kind != 0 || o.policy == 2)) 12, bad (!([0, 1, 3].contains new)) 16, rsvd j 17 56]

/-- OBJ_POLICY (08 R254, R287). -/
def execObjPolicy (id : Nat) (s : State) : Out :=
  runOp s id 0x0702 (fun j =>
    let p := part s j
    let new := j.fld 16 1
    match objPolicyErr s j id with
    | some e => finish s id e
    | none => finish (modObj s p j.obj (fun o => { o with policy := new })) id (stDone, 0))

/-! ## Range operations (08 R272) -/

/-- Checks of a range operation; `hold`: byte 32 may carry the hold flag. -/
def rangeErr (s : State) (j : Job) (hold : Bool) : Option Ending :=
  let o := if j.obj = 0 then none else objNamed s (part s j) j.obj j.id
  fields [bad o.isNone 12, a52 j 16, bad (j.fld 24 8 == 0) 24, bad (decide ((if hold then 1 else 0) < j.fld 32 1)) 32, rsvd j 33 56]
  <|> (match o with
    | some o => chk (decide (j.va 16 < o.base) || decide (o.base + o.size < j.va 16 + j.fld 24 8)) (fieldErr 16)
    | none => none)

/-- The pages of a range operation that may move: object, first byte. -/
def rangePages (s : State) (j : Job) : List (Obj × Nat) :=
  let p := part s j
  (pagesIn s p (j.fld 24 8 / 4096 + 2) (j.va 16) (j.va 16 + j.fld 24 8)).filterMap (fun e => match e.1 with
    | some o => if policyAt s o e.2.1 = 1 ∨ policyAt s o e.2.1 = 3 then some (o, e.2.1) else none
    | none => none)

/-- Start fetching a page: it takes its Tier 1 page now (08 R291). -/
def startFetch (s : State) (p b : Nat) : State :=
  match pageOf s p b with
  | some g => noteSpill (setPage s p b (some { g with moving := 1 }))
  | none => s

/-- Add a holder to a page (08 R263). -/
def addHold (s : State) (p b : Nat) : State := setHolds s p b (holdsOf s p b + 1)
/-- Remove a holder of a page, if it has one (08 R272). -/
def dropHold (s : State) (p b : Nat) : State := setHolds s p b (holdsOf s p b - 1)

/-- Pages of the list that lie in Tier 2 only, or are on their way out of it. -/
def absentPages (s : State) (p : Nat) (ps : List Nat) : List (Nat × Page) :=
  ps.filterMap (fun b => (pageOf s p b).bind (fun g => if g.tier = 2 then some (b, g) else none))

/-- What a PREFETCH of pages `far` waits for: the fetch of each, which TIER_FAULT_RESOLVED starts as room lets it (08 R265, R272). -/
def fetchWaits (p oid id : Nat) (far : List (Nat × Page)) : List TierWait := far.map (fun e => ⟨p, e.1, oid, id, 0, 0⟩)

/-- PREFETCH (08 R272); it completes when the last of its pages is in Tier 1. -/
def execPrefetch (id : Nat) (s : State) : Out :=
  runOp s id 0x0703 (fun j =>
    match rangeErr s j true with
    | some e => finish s id e
    | none =>
      let p := part s j
      let ps := (rangePages s j).map (fun e => e.2)
      let far := absentPages s p ps
      match (if far.isEmpty then none else deepErr s p) with
      | some c => tierFail s id [] c j.obj
      | none =>
        let s1 := { s with tm := { s.tm with waits := s.tm.waits ++ fetchWaits p j.obj id far } }
        let s2 := if j.bits 32 0 1 = 1 then ps.foldl (fun t b => addHold t p b) s1 else s1
        keepRunning (modJob s2 id (fun k => { k with
          moved := (far.map (fun e => e.2.size)).sum, detail := BitVec.ofNat 32 (sat (2 ^ 32 - 1) far.length) })) id)

/-- PREFETCH j ends without its pages: it leaves no holder (08 R272, R273). -/
def dropPrefetch (s : State) (j : Job) : State :=
  let s1 := dropWaits s j.id
  if j.bits 32 0 1 = 1 then (rangePages s j).foldl (fun t e => dropHold t (part s j) e.2) s1 else s1

/-- A running PREFETCH ends once every page has come or failed to (08 R272, R273, R288). -/
def prefetchEnd (s : State) (j : Job) : State :=
  let mine := s.tm.waits.filter (fun w => w.job == j.id)
  if mine.any (fun w => decide (w.st ≤ 1)) then s
  else match mine.find? (fun w => w.st == 3) with
    | some w => tierFail (dropPrefetch s j) j.id [] w.cause j.obj
    | none => finish (dropWaits s j.id) j.id (stDone, j.detail.toNat)

/-- RELEASE (08 R272). -/
def execRelease (id : Nat) (s : State) : Out :=
  runOp s id 0x0704 (fun j => match rangeErr s j false with
    | some e => finish s id e
    | none => finish ((rangePages s j).foldl (fun t e => dropHold t (part s j) e.2) s) id (stDone, 0))

/-- Write every dirty tile of the pages to Tier 2: how many pages were written, or the cause of the fault. -/
def writePages (s : State) (p : Nat) (ps : List Nat) : State × Nat × Option Nat :=
  ps.foldl (fun acc b =>
    match acc.2.2, pageOf acc.1 p b with
    | some c, _ => (acc.1, acc.2.1, some c)
    | none, none => acc
    | none, some g =>
      if g.dirty = 0 ∨ g.tier ≠ 1 then acc
      else match deepErr acc.1 p with
        | some c => (acc.1, acc.2.1, some c)
        | none =>
          if !deepRoom acc.1 p (dirtyFrameBytes acc.1 p b g) then (acc.1, acc.2.1, some cDeepFull)
          else
            let t := (dirtyTiles g).foldl (fun t k => storeTile t p b k) (setPage acc.1 p b (some { g with moving := 0, back := [] }))
            (setPage t p b ((pageOf t p b).map (fun h => { h with t2 := true })), acc.2.1 + 1, none)) (s, 0, none)

/-- WRITE_BACK (08 R272). -/
def execWriteBack (id : Nat) (s : State) : Out :=
  runOp s id 0x0705 (fun j => match rangeErr s j false with
    | some e => finish s id e
    | none =>
      let r := writePages s (part s j) ((rangePages s j).map (fun e => e.2))
      match r.2.2 with
      | some c => tierFail r.1 id [] c j.obj
      | none => finish r.1 id (stDone, sat (2 ^ 32 - 1) r.2.1))

/-- EVICT (08 R272). -/
def execEvict (id : Nat) (s : State) : Out :=
  runOp s id 0x0706 (fun j => match rangeErr s j false with
    | some e => finish s id e
    | none =>
      let p := part s j
      let ps := (rangePages s j).map (fun e => e.2)
      let r := writePages s p ps
      match r.2.2 with
      | some c => tierFail r.1 id [] c j.obj
      | none =>
        let inT1 := ps.filter (fun b => match pageOf r.1 p b with
          | some g => g.tier == 1 && (keyOf r.1 p).isSome
          | none => false)
        let out := inT1.filter (fun b => !heldAt r.1 p b)
        finish (out.foldl (fun t b => dropPage t p b) r.1) id
          (stDone, sat 65535 out.length + 65536 * sat 65535 (inT1.length - out.length)))

/-! ## Tier faults, spill and frames (08 R261-R274) -/

/-- The waits for the page at b of partition p, wherever it shows, become st, with the cause. -/
def settleWaits (s : State) (p b st cause : Nat) : State :=
  let bs := spotsOf s p b
  { s with tm := { s.tm with waits := s.tm.waits.map (fun w =>
    if w.p = p ∧ bs.contains w.page ∧ w.st ≤ 1 then { w with st := st, cause := cause } else w) } }

/-- The wait for room of a wait for a page that nothing backs: it ends where there is room, and fails where none can be made (08 R261). -/
def settleRoom (s : State) (w : TierWait) : State :=
  let n := (objAt s w.p w.page).elim 4096 (fun o => pageSize o w.page)
  if roomFor s w.p n then { s with tm := { s.tm with waits := s.tm.waits.filter (fun x => !(x.job == w.job && x.st == 1)) } }
  else if canEvict s w.p n then s else settleWaits s w.p w.page 3 cNoRoom

/-- TIER_FAULT_RESOLVED (08 R273, R274): TM starts the fetch that a waiting access needs, lets one that waits for room go on,
or finds that it cannot. -/
def execTierFaultResolved (p : Fin 8) (va : Nat) (s : State) : Out :=
  let q := p.val
  .next (match s.tm.waits.find? (fun w => w.p == q && w.page == va && decide (w.st ≤ 1)) with
    | none => s
    | some w =>
      if w.st = 1 then settleRoom s w
      else match pageOf s q va with
      | none => settleWaits s q va 2 0
      | some g =>
        if g.moving = 1 then s
        else if g.tier ≠ 2 then settleWaits s q va 2 0
        else match deepErr s q with
        | some c => settleWaits s q va 3 c
        | none =>
          if roomFor s q g.size then startFetch s q va
          else if canEvict s q g.size then s else settleWaits s q va 3 cNoRoom)

/-- Lay the tiles of a fetched page down (08 R269, R282): those lost soiled whole, those that fail their checks soiled whole with
TM_STAIN.CRC_FAIL; a tile that the module itself wrote meanwhile stays as it is (notes/assumptions/45.md). -/
def layPage (s : State) (k : DeepKey) (p va : Nat) (g : Page) (lost : List Nat) : State :=
  (List.range (g.size / 4096)).foldl (fun t i =>
    let f := storedTile s k g i
    let a := va + 4096 * i
    if (tget (fun _ => loc0) g.locs i).len = 0 ∨ (bitOf g.dirty i ∧ !lost.contains i) then t
    else
      let t1 := layTile t p a f.1 (if lost.contains i then allSoil else f.2.1)
      stainIf (!f.2.2 && !lost.contains i) t1 rTmStain 2) s

/-- The header of a region whose first page has come shows how many nodes are shared now (06 R172, 08 R278). -/
def freshHeader (s : State) (p va : Nat) : State :=
  match s.tm.regions.find? (fun r => r.p == p && r.base == va) with
  | none => s
  | some r =>
    let n := ((List.range r.nodes).takeWhile (fun j => (tget (fun _ => none) r.shared j).isSome)).length
    if numAt s p (va + 96) 4 = n then s else writeAt (touchSpan s (wr p (va + 96) 4)) p (va + 96) (leBytes 4 n) noSoil

/-- PAGE_FETCH_DONE (08 R265, R269, R282): the page is in Tier 1; lost tiles are soiled, a lost tile map (a number at or beyond the
page's tiles) leaves the fault unresolved; rebuilt pages are relocated. -/
def execPageFetchDone (p : Fin 8) (va : Nat) (x : PageRead) (s : State) : Out :=
  let q := p.val
  let lost := x.lost
  .next (match pageOf s q va, keyOf s q with
    | some g, some k =>
      if g.moving ≠ 1 then s
      else
        let s0 := stainIf (x.rebuilt != 0) (addCnt s rRebuilt x.rebuilt) rDtStain 0
        if lost.any (fun t => decide (g.size / 4096 ≤ t)) then
          setStain (settleWaits (setPage s0 q va (some { g with moving := 0 })) q va 3 cTableSoil) rTmStain 3
        else
          let d := drawWord s0
          let h := { g with tier := 1, moving := 0, frame := d.1, spread := spreadOf s q }
          let s1 := layPage (hbmSpan (setPage d.2 q va (some h)) h 0 g.size true) k q va g lost
          let s2 := stainIf (!lost.isEmpty) s1 rDtStain 1
          let s3 := (spotsOf s2 q va).foldl (fun t a => freshHeader (treeSoil t q a g.size) q a) s2
          count (settleWaits s3 q va 2 0) 1476 1
    | _, _ => s)

/-- The oldest of pages: age, then partition, then address (08 R264). -/
def oldest (ps : List (Nat × Nat × Page)) : Option (Nat × Nat × Page) :=
  ps.foldl (fun o e => match o with
    | none => some e
    | some x => if e.2.2.age < x.2.2.age ∨ (e.2.2.age = x.2.2.age ∧ (e.1 < x.1 ∨ (e.1 = x.1 ∧ e.2.1 < x.2.1))) then some e else o) none

/-- Count a page spilled. -/
def countSpill (s : State) : State := count (addCnt s rTmSpilled 1) 1475 1

/-- Release the pattern entry of a key of partition p (06 R185). -/
def dropEntry (s : State) (p key : Nat) : State := modEntry s p key (fun _ => none)

/-- The pages of the partitions `ok` that may be evicted. -/
def evictPages (s : State) (ok : Nat → Bool) : List (Nat × Nat × Page) :=
  (allPages s).filter (fun e => ok e.1 && evictable s e.1 e.2.1 e.2.2)

/-- Of these, the clean ones of DEEP objects, which go first (08 R262). -/
def evictDeep (s : State) (ok : Nat → Bool) : List (Nat × Nat × Page) :=
  (evictPages s ok).filter (fun e => e.2.2.dirty == 0 && (match objAt s e.1 e.2.1 with
    | some o => policyAt s o e.2.1 == 3
    | none => false))

/-- Evict the next page among the partitions `ok`, in the order of 08 R262. -/
def evictNext (s : State) (ok : Nat → Bool) : State :=
  match oldest (evictDeep s ok) with
  | some e => countSpill (dropPage s e.1 e.2.1)
  | none => match oldEntry s ok with
    | some k => dropEntry s k.1 k.2
    | none => match oldest (evictPages s ok) with
      | some e =>
        if e.2.2.dirty = 0 then countSpill (dropPage s e.1 e.2.1)
        else setPage s e.1 e.2.1 (some { e.2.2 with moving := 2, was := e.2.2.dirty, back := e.2.2.locs })
      | none => s

/-- Whether partition p needs Tier 1 at its quota, or waits for room. -/
def quotaBinds (s : State) (p : Nat) : Bool := atQuota s p 1 || s.tm.waits.any (fun w => w.p == p && decide (w.st ≤ 1))

/-- SPILL_EVICT (08 R261, R262). -/
def execSpillEvict (p : Option (Fin 8)) (s : State) : Out :=
  match p with
  | some q => runIf s (quotaBinds s q.val) (evictNext s (fun k => k == q.val))
  | none => runIf s (rfield (noteSpill s) rTmStatus 31 1 == 1 || s.tm.waits.any (fun w => decide (w.st ≤ 1)))
      (evictNext (noteSpill s) (fun k => mayTake s 8 k))

/-- FRAME_WRITE_DONE (08 R263, R267-R271): the frame of a tile of a page that is leaving; after its last dirty tile the page is gone,
unless it may no longer leave. -/
def execFrameWriteDone (p : Fin 8) (va : Nat) (s : State) : Out :=
  let q := p.val
  .next (match objAt s q va with
    | none => s
    | some o =>
      let b := pageBase o va
      match pageOf s q b with
      | none => s
      | some g =>
        let t := (va - b) / 4096
        if g.moving ≠ 2 ∨ !bitOf g.dirty t ∨ (deepErr s q).isSome then s
        else if !deepRoom s q (((tileFrame s q b g t).getD []).length) then
          setStain (setPage s q b (some (g.written 0))) rTmStain 1
        else
          let s1 := storeTile s q b t
          match pageOf s1 q b with
          | some h =>
            if h.dirty ≠ 0 then s1
            else if mayLeave s1 q b then countSpill (dropPage s1 q b)
            else setPage s1 q b (some { h with moving := 0, t2 := true, back := [] })
          | none => s1)

/-! ## Keys (08 R284, R285) -/

/-- The check value of a key (08 R284). -/
def keyCheck (k : DeepKey) : List Byte :=
  shake256 4 (leBytes 8 k.id.toNat ++ leBytes 32 k.k1.toNat ++ leBytes 32 k.k2.toNat)

/-- The keys under which the carrier holds data (08 R284): those of checkpoints, and those of partitions with something in Tier 2. -/
def keysInUse (s : State) : List DeepKey :=
  s.tm.ckpts.map (fun c => c.key) ++ ((List.range 8).filter (fun p => t2Used s p != 0)).filterMap (keyOf s)

/-- Check 9 of KEY_LOAD (08 R284). -/
def keyLoadErr (j : Job) : Option Ending :=
  let k : DeepKey := ⟨BitVec.ofNat 64 (j.fld 16 8), BitVec.ofNat 256 (j.xfld 0 32), BitVec.ofNat 256 (j.xfld 32 32)⟩
  fields [rsvd j 12 16, bad (k.id == 0) 16, rsvd j 24 56, bad (k.k1 == k.k2) 64]

/-- KEY_LOAD (08 R284). -/
def execKeyLoad (id : Nat) (s : State) : Out :=
  runOp s id 0x070B (fun j =>
    let p := part s j
    let k : DeepKey := ⟨BitVec.ofNat 64 (j.fld 16 8), BitVec.ofNat 256 (j.xfld 0 32), BitVec.ofNat 256 (j.xfld 32 32)⟩
    let refuse (d : Nat) : State := finish (setStain s rTmStain 4) id (stAccess, d)
    match keyLoadErr j with
    | some e => finish s id e
    | none =>
      if (keysInUse s).any (fun c => c.id == k.id && keyCheck c != keyCheck k) then refuse 1
      else if (List.range 8).any (fun q => q != p && (keyOf s q).any (fun x => x.id == k.id)) then refuse 2
      else match keyOf s p with
      | some x => if x = k then finish s id (stDone, 1) else refuse 3
      | none => finish { s with tm := { s.tm with keys := tset (fun _ => none) s.tm.keys p (some k) } } id (stDone, 0))

/-! ## Checkpoints (08 R275-R279, R490) -/

/-- What CHECKPOINT `id` captured; one that captured nothing as it began does so now. -/
def shotOf (s : State) (p id : Nat) : Shot := (s.tm.shots.find? (fun x => x.job == id)).getD (takeShot s p id)

/-- CHECKPOINT `id` has ended. -/
def dropShot (s : State) (id : Nat) : State := { s with tm := { s.tm with shots := s.tm.shots.filter (fun x => x.job != id) } }

/-- What a checkpoint has written: frames and their bytes. -/
structure Wrote where
  n : Nat
  bytes : Nat
  deriving DecidableEq, Repr

/-- Save tile t of page g, as the capture x holds it at va: its frame is written where it was dirty at T, unless its page has written it since,
unchanged; a live tile not written since is clean then (08 R270, R275). -/
def saveTile (x : Shot) (k : DeepKey) (va : Nat) (g : Page) (acc : State × Tab Loc × Wrote) (t : Nat) : State × Tab Loc × Wrote :=
  let s := acc.1
  let was := g.dirty ||| (if g.moving = 2 then g.was else 0)
  let put (l : Loc) : Tab Loc := tset (fun _ => loc0) acc.2.1 t l
  let same := !bitOf (tget (fun _ => 0) x.wrote va) t
  if !bitOf was t then (s, put (tget (fun _ => loc0) g.locs t), acc.2.2)
  else match pageOf s x.p va with
    | some h =>
      if same ∧ !bitOf h.dirty t then (s, put (tget (fun _ => loc0) h.locs t), acc.2.2)
      else
        let f := frameAt x.mem x.soil (akey x.p (va + 4096 * t)) g t
        let r := putFrame s k f
        let n := (f.elim 0 (fun b => b.length))
        (if same then setPage r.2 x.p va (some { h.stored t r.1 with t2 := true }) else r.2, put r.1,
          ⟨acc.2.2.n + (if n = 0 then 0 else 1), acc.2.2.bytes + n⟩)
    | none =>
      let f := frameAt x.mem x.soil (akey x.p (va + 4096 * t)) g t
      let r := putFrame s k f
      let n := (f.elim 0 (fun b => b.length))
      (r.2, put r.1, ⟨acc.2.2.n + (if n = 0 then 0 else 1), acc.2.2.bytes + n⟩)

/-- Save object o as captured: its tile maps, each written, and its page list (08 R271, R277; the page list's layout is a DESIGN CHOICE,
notes/assumptions/41.md). -/
def saveObj (x : Shot) (k : DeepKey) (o : Obj) (s : State) : State × CkObj × Wrote :=
  let b := akey o.p o.base
  let inside (q : Nat) : Bool := decide (b ≤ q) && decide (q < b + o.size)
  let pages := x.pages.filter (fun e => decide (o.base ≤ e.1) && decide (e.1 < o.base + o.size))
  let r := pages.foldl (fun (acc : State × List (Nat × Tab Loc) × List Byte × Wrote) e =>
    let y := (List.range (e.2.size / 4096)).foldl (saveTile x k e.1 e.2) (acc.1, [], acc.2.2.2)
    let m := deepAppend y.1 k (mapBytes e.2.size y.2.1)
    (m.2, acc.2.1 ++ [(e.1 - o.base, y.2.1)], acc.2.2.1 ++ leBytes 8 (e.1 - o.base) ++ leBytes 8 (16 * m.1), y.2.2)) (s, [], [], ⟨0, 0⟩)
  let l := deepAppend r.1 k r.2.2.1
  (l.2, ⟨o, x.regions.find? (fun y => y.id == o.id), x.indexes.find? (fun y => y.id == o.id), pages.map (fun e => e.1 - o.base),
    (x.mem.filter (fun e => inside e.1)).map (fun e => (e.1 - b, e.2)),
    (x.soil.filter (fun e => inside (64 * e.1))).map (fun e => (e.1 - b / 64, e.2)), r.2.1, l.1⟩, r.2.2.2)

/-- Save the objects: what the checkpoint holds of them, and what it wrote (08 R275). -/
def saveObjs (x : Shot) (k : DeepKey) (os : List Obj) (s : State) : State × List CkObj × Wrote :=
  os.foldl (fun acc o =>
    let r := saveObj x k o acc.1
    (r.1, acc.2.1 ++ [r.2.1], ⟨acc.2.2.n + r.2.2.n, acc.2.2.bytes + r.2.2.bytes⟩)) (s, [], ⟨0, 0⟩)

/-- Bytes 0-63 of a manifest (08 R277). -/
def Ckpt.head (c : Ckpt) : List Byte :=
  leBytes 4 1 ++ leBytes 4 c.objs.length ++ leBytes 8 c.cid.toNat ++ leBytes 4 c.job.toNat ++ leBytes 4 (c.module % 4096 + 4096 * c.part) ++
  leBytes 8 c.key.id.toNat ++ leBytes 8 c.t.toNat ++ leBytes 8 c.frameBytes ++ leBytes 16 0

/-- The entry of an object in a manifest (08 R277). -/
def CkObj.entry (o : CkObj) : List Byte :=
  leBytes 4 o.obj.id ++ leBytes 1 o.obj.sz ++ leBytes 1 o.obj.policy ++ leBytes 2 (if o.region.isSome then 1 else 0) ++
  leBytes 8 o.obj.base ++ leBytes 8 o.obj.size ++ leBytes 8 (16 * o.list) ++ leBytes 8 o.maps.length ++ leBytes 24 0

/-- The entries of a manifest. -/
def Ckpt.entries (c : Ckpt) : List Byte := (c.objs.map CkObj.entry).flatten

/-- Every tile map of a checkpoint, as its objects and pages come (08 R277). -/
def Ckpt.mapBytes (c : Ckpt) : List Byte :=
  (c.objs.map (fun o => (o.maps.map (fun m => Machine.mapBytes (pageSize o.obj (o.obj.base + m.1)) m.2)).flatten)).flatten

/-- A manifest (08 R277). -/
def Ckpt.manifest (c : Ckpt) : List Byte := c.head ++ shake256 64 (c.head ++ c.entries ++ c.mapBytes) ++ c.entries

/-- Commit a checkpoint: its manifest is written last (08 R276). -/
def commit (s : State) (c : Ckpt) : State :=
  let r := deepAppend s c.key c.manifest
  { r.2 with tm := { r.2.tm with ckpts := r.2.tm.ckpts ++ [{ c with place := r.1 }] } }

/-- The tile maps of an object of a manifest, read by way of its page list (08 R278). -/
def readMaps (s : State) (k : DeepKey) (o : CkObj) : List Byte :=
  let l := deepGet s k o.list (16 * o.maps.length)
  ((o.maps.zipIdx).map (fun e =>
    deepGet s k (ofLe ((l.drop (16 * e.2 + 8)).take 8) / 16) (pageSize o.obj (o.obj.base + e.1.1) / 512))).flatten

/-- Whether a checkpoint's manifest, read under the key, passes its digest check (08 R277, R278). -/
def digestOk (s : State) (k : DeepKey) (c : Ckpt) : Bool :=
  let m := deepGet s k c.place (128 + 64 * c.objs.length)
  decide ((m.drop 64).take 64 = shake256 64 (m.take 64 ++ m.drop 128 ++ (c.objs.map (readMaps s k)).flatten))

/-- A checkpoint that began fails to commit. -/
def ckptFail (s : State) (id cause oid : Nat) : State :=
  finish (countFaults (stainCause (setStain (dropShot (dropWaits s id) id) rTmStain 5) cause) 1) id (tierErr cause oid)

/-- Check 9 of CHECKPOINT (08 R275). -/
def checkpointErr (j : Job) : Option Ending :=
  let n := j.fld 24 2
  let cid := BitVec.ofNat 64 (j.fld 32 8)
  fields [rsvd j 12 16, a52 j 16, bad (n == 0 || decide (4096 < n)) 24, rsvd j 26 32, bad (cid == 0) 32, rsvd j 40 56]

/-- Whether a CHECKPOINT of partition p that began earlier than j has the id and is not decided (08 R279). -/
def ckptTaken (s : State) (j : Job) : Bool :=
  (begunBefore s (part s j) j.order).any (fun k => k.opcode == 0x0707 && k.phase == .checked && k.fld 32 8 == j.fld 32 8)

/-- CHECKPOINT (08 R275, R276, R279, R490): the image is of its begin. -/
def execCheckpoint (id : Nat) (s : State) : Out :=
  runOp s id 0x0707 (fun j =>
    let p := part s j
    let n := j.fld 24 2
    let cid := BitVec.ofNat 64 (j.fld 32 8)
    match checkpointErr j with
    | some e => finish (dropShot s id) id e
    | none => withMemOr s id [rd p (j.va 16) (4 * n)] (fun c o => ckptFail s id c o) (fun s =>
      let x := shotOf s p id
      let ids := (List.range n).map (fun i => numAt s p (j.va 16 + 4 * i) 4)
      let os := ids.map (fun i => x.objs.find? (fun o => o.id == i && mayReach s o id))
      if os.any (fun o => o.isNone) then finish (dropShot s id) id (fieldErr 16)
      else match deepErr s p, keyOf s p with
      | some c, _ => ckptFail s id c (ids.headD 0)
      | none, none => ckptFail s id cKeyAbsent (ids.headD 0)
      | none, some key =>
        if ckptTaken s j || (ckptsOf s p).any (fun c => c.cid == cid) || decide (256 ≤ (ckptsOf s p).length) then
          finish (dropShot s id) id (fieldErr 32)
        else
          let r := saveObjs x key (os.filterMap (fun o => o)) s
          if !deepRoom s p r.2.2.bytes then ckptFail s id cDeepFull (ids.headD 0)
          else
            finish (dropShot (commit r.1 ⟨key, cid, (ringOf s j.ring).job, moduleNo s, p, x.t, r.2.2.bytes, r.2.1, 0⟩) id) id
              (stDone, sat (2 ^ 32 - 1) r.2.2.n)))

/-- Bring one captured object back: its record, its pages in Tier 2, its bytes (08 R278); none: no scratch for it. -/
def restoreObj (s : State) (p : Nat) (c : CkObj) : Option State :=
  let o := { c.obj with p := p }
  let x := akey p o.base
  let s1 := { s with tm := { s.tm with
    objs := s.tm.objs ++ [o]
    regions := match c.region with
      | some r => s.tm.regions ++ [{ r with
          p := p, res := r.vis, appends := [], shared := [], shadows := [], drains := [], recalls := [], recallNew := []
          recallOld := [], cutting := none }]
      | none => s.tm.regions
    indexes := match c.index with
      | some i => s.tm.indexes ++ [{ i with p := p, opened := [], voids := [], shadow := none, drain := none }]
      | none => s.tm.indexes
    mem := c.bytes.foldl (fun m e => tset byte0 m (x + e.1) e.2) s.tm.mem
    soil := c.soil.foldl (fun m e => tset clean m (x / 64 + e.1) e.2) s.tm.soil } }
  if o.policy = 2 then
    (placePages (2 ^ (12 + o.sz)) (scratchOf s o.die) (o.size / 2 ^ (12 + o.sz)) (pinned s o.die)).map (fun l =>
      c.maps.foldl (fun t e => setOwn t p (o.base + e.1) ((ownPage t p (o.base + e.1)).map (fun g => { g with t2 := true, locs := e.2 })))
        (pinPages s1 o l))
  else
    some (c.maps.foldl (fun t e =>
      let va := o.base + e.1
      setOwn t p va (some ⟨o.id, pageSize o va, e.1 / 4096, 2, 0, 0, 0, 0, 0, 0, 0, 0, true, e.2, []⟩)) s1)

/-- Bring every captured object back into partition p; none: no scratch for one. -/
def restoreObjs (s : State) (p : Nat) (cs : List CkObj) : Option State := cs.foldl (fun t o => t.bind (fun u => restoreObj u p o)) (some s)

/-- Check 9 of RESTORE (08 R278). -/
def restoreErr (j : Job) : Option Ending :=
  fields [rsvd j 12 16, rsvd j 16 32, bad (j.fld 32 8 == 0) 32, rsvd j 40 56]

/-- Whether a captured object cannot come back: its id or span is in use, its die is not the partition's, or the module's 256 indexes stand
(08 R278, R287, 09 R297). -/
def restoreBlocked (s : State) (p : Nat) (cs : List CkObj) : Bool :=
  cs.any (fun o => idTaken s p o.obj.id || spanTaken s p o.obj.base o.obj.size || (o.obj.policy == 2 && !bitOf (diesOf s p) o.obj.die)) ||
  decide (256 < s.tm.indexes.length + (cs.filter (fun o => o.index.isSome)).length)

/-- RESTORE (08 R278, R490). -/
def execRestore (id : Nat) (s : State) : Out :=
  runOp s id 0x0708 (fun j =>
    let p := part s j
    match restoreErr j with
    | some e => finish s id e
    | none => match deepErr s p, keyOf s p with
      | some c, _ => tierFail s id [] c 0
      | none, none => tierFail s id [] cKeyAbsent 0
      | none, some k => match (ckptsOf s p).find? (fun c => c.cid.toNat == j.fld 32 8) with
        | none => finish s id (fieldErr 32)
        | some c =>
          if !digestOk s k c then tierFail s id [] cDigest 0
          else if restoreBlocked s p c.objs then finish s id (fieldErr 32)
          else match restoreObjs s p c.objs with
            | some t => finish t id (stDone, c.objs.length)
            | none => finish s id (shapeErr 4 0))

/-- Check 9 of CHECKPOINT_DROP (08 R279). -/
def checkpointDropErr (j : Job) : Option Ending :=
  fields [rsvd j 12 16, rsvd j 16 32, bad (j.fld 32 8 == 0) 32, rsvd j 40 56]

/-- CHECKPOINT_DROP (08 R279, R490). -/
def execCheckpointDrop (id : Nat) (s : State) : Out :=
  runOp s id 0x0709 (fun j =>
    let p := part s j
    match checkpointDropErr j with
    | some e => finish s id e
    | none => match deepErr s p with
      | some c => tierFail s id [] c 0
      | none =>
        let mine (c : Ckpt) : Bool := (keyOf s p).any (fun k => k.id == c.key.id) && c.cid.toNat == j.fld 32 8
        if s.tm.ckpts.any mine then
          finish { s with tm := { s.tm with ckpts := s.tm.ckpts.filter (fun c => !mine c) } } id (stDone, 0)
        else finish s id (fieldErr 32))

/-- Check 9 of CATALOG (08 R279). -/
def catalogErr (j : Job) : Option Ending :=
  fields [rsvd j 12 16, a52 j 16, rsvd j 24 56]

/-- What CATALOG writes: how many checkpoints, then their ids, ascending (08 R279). -/
def catalogBytes (s : State) (p : Nat) : List Byte :=
  let ids := ((ckptsOf s p).map (fun c => c.cid.toNat)).mergeSort (fun a b => decide (a ≤ b))
  leBytes 8 ids.length ++ (ids.map (leBytes 8)).flatten

/-- CATALOG (08 R279, R490). -/
def execCatalog (id : Nat) (s : State) : Out :=
  runOp s id 0x070A (fun j =>
    let p := part s j
    match catalogErr j with
    | some e => finish s id e
    | none => match deepErr s p with
      | some c => tierFail s id [] c 0
      | none =>
        let bs := catalogBytes s p
        let xs := [wr p (j.va 16) bs.length]
        match regionErr s xs with
        | some e => finish s id e
        | none => withMem s id xs (fun t => finish (writeAt t p (j.va 16) bs noSoil) id (stDone, 0)))

/-- The physical address of copy c of a page-table node of partition p, aligned to 8 KiB: a free value (08 R250, R252;
notes/assumptions/1.md). -/
def nodeFrame (p level i c : Nat) : Nat := (Config.nodeFrame p level i c).toNat % 2 ^ 52 / 8192 * 8192

/-- The entry of a walk to va at a level above its leaf's (08 R251): a pointer to copy 0 of the next node where it stands. -/
def pointerOf (s : State) (p va level : Nat) : Nat :=
  let shift := 12 + 10 * level
  if (mappings s p).any (fun e => e.1 / 2 ^ shift == va / 2 ^ shift && (decide (level ≠ 1) || decide (e.2 < 2 ^ 22))) then
    1 + nodeFrame p (level - 1) (va / 2 ^ shift) 0
  else 0

/-- The leaf of a backed page (08 R251). -/
def leafEntry (s : State) (p b : Nat) (g : Page) : Nat :=
  let tier := if g.moving ≠ 0 then 3 else g.tier
  3 + (if g.dirty = 0 then 0 else 8) + 16 * tier + 64 * (Nat.log2 g.size - 12) +
    (if heldAt s p b then 2 ^ 11 else 0) + (if g.tier = 2 then 0 else bitsOf g.frame.toNat 12 40 * 2 ^ 12)

/-- The page-table entry at a level of partition p's tree that a walk to va reads (08 R250, R251). -/
def tableEntry (s : State) (p va level : Nat) : Nat :=
  match objAt s p va with
  | none => pointerOf s p va level
  | some o =>
    let b := pageBase o va
    match pageOf s p b with
    | some g => if level = (if g.size < 2 ^ 22 then 0 else 1) then leafEntry s p b g else pointerOf s p va level
    | none => pointerOf s p va level

/-- The level at which the walk to va ends: that of the leaves of its object's pages (08 R250). -/
def leafLevel (s : State) (p va : Nat) : Nat := (objAt s p va).elim 0 (fun o => if pageSize o va < 2 ^ 22 then 0 else 1)

/-- The leaf entry of the page that holds va (08 R251), its age and its count of dirty tiles. -/
def leafOf (s : State) (p va : Nat) : Nat × Nat × Nat :=
  match (objAt s p va).bind (fun o => pageOf s p (pageBase o va)) with
  | none => (0, 0, 0)
  | some g => (tableEntry s p va (leafLevel s p va), g.age, (dirtyTiles g).length)

/-- Check 9 of QUERY (08 R286). -/
def queryErr (j : Job) : Option Ending :=
  fields [rsvd j 12 16, a52 j 16, a52 j 24, rsvd j 32 56]

/-- QUERY (08 R286). -/
def execQuery (id : Nat) (s : State) : Out :=
  runOp s id 0x070C (fun j =>
    let p := part s j
    match queryErr j with
    | some e => finish s id e
    | none =>
      let l := leafOf s p (j.va 16)
      let xs := [wr p (j.va 24) 16]
      match regionErr s xs with
      | some e => finish s id e
      | none => withMem s id xs (fun t =>
          finish (writeAt t p (j.va 24) (leBytes 8 l.1 ++ leBytes 4 l.2.1 ++ leBytes 4 l.2.2) noSoil) id (stDone, 0)))

/-! ## Pools and scrub (08 R258, R280, R292, R293) -/

/-- SC_POOL_CFG_WRITE (08 R258). -/
def execScPoolCfgWrite (d : Fin 8) (v : Word) (s : State) : Out :=
  let n := bitsOf v.toNat 0 4
  let old := tget (fun _ => 0) s.tm.split d.val
  runIf s (ready s && decide (n ≤ 8))
    (if n < old ∧ (pinned s d.val).any (fun e => decide (n * 2 ^ 27 < e.1 + e.2)) then wfield s (rPoolStatus d.val) 30 1 1
     else
      let s1 := wfield (wreg s (rPoolCfg d.val) (BitVec.ofNat 32 n)) (rPoolStatus d.val) 30 1 0
      wfield s1 (rPoolStatus d.val) 31 1 (if n = old then 0 else 1))

/-- Write back and invalidate the cache part of die d (08 R258, 01 R19). -/
def flushPool (s : State) (d : Nat) : State :=
  dropLines s (fun e _ => e == d)

/-- POOL_SPLIT_DONE (08 R258). -/
def execPoolSplitDone (d : Fin 8) (s : State) : Out :=
  runIf s (rfield s (rPoolStatus d.val) 31 1 == 1)
    (let s1 := flushPool s d.val
     wfield { s1 with tm := { s1.tm with split := tset (fun _ => 0) s1.tm.split d.val (rfield s (rPoolCfg d.val) 0 4) } }
       (rPoolStatus d.val) 31 1 0)

/-- A page-table node copy lies at physical address a: its partition, level, number and copy. -/
def nodeAtPhys (s : State) (a : Nat) : List (Nat × Nat × Nat × Nat) :=
  (List.range 8).flatMap (fun p =>
    (((mappings s p).flatMap (fun e => walkNodes e.1 e.2)).dedup).flatMap (fun n =>
      ((List.range 2).filter (fun c => nodeFrame p n.1 n.2 c == a / 8192 * 8192)).map (fun c => (p, n.1, n.2, c))))

/-- Soil the unit at a physical address of Tier 1, where a page lies there; a node copy there is uncorrectable (08 R252, R280). -/
def soilPhys (s : State) (a : Nat) : State :=
  let s1 := (allPages s).foldl (fun t e =>
    let f := e.2.2.frame.toNat / 4096 * 4096
    if e.2.2.inT1 && decide (f ≤ a) && decide (a < f + e.2.2.size) then
      soilUnit t e.1 ((e.2.1 + (a - f)) / 64 * 64)
    else t) s
  { s1 with tm := { s1.tm with badNodes := (s1.tm.badNodes ++ nodeAtPhys s a).dedup } }

/-- HBM_PATROL_SCRUB (08 R280, R293). -/
def execHbmPatrolScrub (st : Fin 12) (ce : Nat) (ue : List DWord) (late : Bool) (s : State) : Out :=
  let b := rHm st.val
  runIf s (ready s && rfield s (b + 4) 16 1 == 1)
    (let s1 := stainIf (ce != 0) (wreg s (b + 8) (BitVec.ofNat 32 (sat (2 ^ 32 - 1) ((rreg s (b + 8)).toNat + ce)))) (rHmStain st.val) 0
     let s2 := stainIf (!ue.isEmpty) (wreg s1 (b + 12) (BitVec.ofNat 32 (sat (2 ^ 32 - 1) ((rreg s (b + 12)).toNat + ue.length)))) (rHmStain st.val) 1
     let s3 := match ue.getLast? with
      | some a => wcnt s2 (b + 0x10) a
      | none => s2
     let s4 := ue.foldl (fun t a => soilPhys t a.toNat) (stainIf late s3 (rHmStain st.val) 2)
     count (count s4 (1344 + 4 * st.val + 2) ce) (1344 + 4 * st.val + 3) ue.length)

/-! ## SRAM scrub (08 R280, R292, 03 R105) -/

/-- The 64-byte unit u of die d's shared pool is uncorrectable: of a PINNED0 page in the scratch part, or of a line in the cache part, whose
lines follow one another set by set (08 R259, R260, R280). -/
def poolUnit (s : State) (d u : Nat) : State :=
  let b := 64 * u
  if b < scratchOf s d then
    (match (ownPages s).find? (fun e => e.2.2.tier == 0 && e.2.2.die == d && decide (e.2.2.off ≤ b) && decide (b < e.2.2.off + e.2.2.size)) with
     | some e => soilUnit s e.1 (e.2.1 + (b - e.2.2.off))
     | none => s)
  else
    match tget (fun _ => none) s.tm.cache (d * 2 ^ 32 + (b - scratchOf s d) / 512) with
    | some l => soilUnit s (l.tag * 512 / 2 ^ 52) (l.tag * 512 % 2 ^ 52 + b % 512)
    | none => s

/-- SRAM_SCRUB (08 R280): `ce` sectors of die d corrected; arrays of the cores `cores` met one; units of core buffers that are
uncorrectable, and the other errors met. -/
def execSramScrub (d : Fin 8) (ce : Nat) (cores : List (Fin 64)) (units : List (Fin 64 × Nat)) (x : ScrubErrors) (s : State) : Out :=
  let mine (c : Fin 64) : Bool := c.val / 8 == d.val
  let us := units.filter (fun u => mine u.1 && decide (64 * u.2 < bufBytes))
  let ss := x.slots.filter (fun x => mine x.1 && decide (x.2.2.1 < 2048) && decide (x.2.2.2 < 256))
  let ps := x.pool.filter (fun u => decide (64 * u < 2 ^ 30))
  let fs := x.tables.filter (fun x => mine x.1)
  let ue := us.length + ss.length + ps.length + (fs.filter (fun x => x.2.2)).length
  runIf s (ready s)
    (let s1 := us.foldl (fun t u => writeAt t (bufPlace u.1.val) (64 * u.2) (bytesAt t (bufPlace u.1.val) (64 * u.2) 64) allSoil) s
     let s2 := ss.foldl (fun t x =>
       let y := arrOf t x.1.val x.2.1.val
       let t1 := match y.col x.2.2.1 with
         | some q => setArr t x.1.val x.2.1.val (y.setCol x.2.2.1 (some (q.setAcc x.2.2.2 { q.acc x.2.2.2 with soil := true })))
         | none => t
       setStain t1 (rMxStain x.1.val) 4) s1
     let s3 := (cores.filter mine).foldl (fun t c => setStain t (rMxStain c.val) 3) s2
     let s4 := fs.foldl (fun t x => if x.2.2 then loseTable (setStain t (rFnStain x.1.val) 4) x.1.val x.2.1.val
       else setStain t (rFnStain x.1.val) 3) (ps.foldl (fun t u => poolUnit t d.val u) s3)
     let s5 := stainIf (ue != 0) (stainIf (ce != 0) s4 (rScStain d.val) 0) (rScStain d.val) 1
     count (count s5 (1024 + 16 * d.val + 13) ce) (1024 + 16 * d.val + 14) ue)

/-! ## BAR4 (01 R23) -/

/-- Where function f's BAR4 offset lies: partition and address (01 R23). -/
def barAt (s : State) (f off : Nat) : Option (Nat × Nat) :=
  match partOf s.hp.own f with
  | some p =>
    if present s f && inBar s f 4 off then
      some (p, (rfield s (rTmPart p + 0x14) 0 20 * 2 ^ 32 + rfield s (rTmPart p + 0x10) 30 2 * 2 ^ 30 + off) % 2 ^ 52)
    else none
  | none => none

/-- Whether BAR4 reaches n bytes at va: mapped, and not only in Tier 2. -/
def barOk (s : State) (p va n : Nat) : Bool :=
  (pagesIn s p (n / 4096 + 2) va (va + n)).all (fun e => e.1.isSome && (match pageOf s p e.2.1 with
    | some g => g.tier != 2
    | none => true))

/-- BAR4_READ (01 R23). -/
def execBar4Read (f : Fin 9) (off len : Nat) (s : State) : Out :=
  .next (if !ready s then emit s (.barAbort f.val) else
    match barAt s f.val off with
    | none => setStain (emit s (.barAbort f.val)) rHpStain 7
    | some (p, va) =>
      if barOk s p va len && decide (0 < len) then
        let bad := soiledAt s p va len
        stainIf bad (emit (touchSpan s (rd p va len)) (.barData f.val (bytesAt s p va len) bad)) rHpStain 8
      else setStain (emit s (.barAbort f.val)) rHpStain 7)

/-- BAR4_WRITE (01 R23, 06 R171). -/
def execBar4Write (f : Fin 9) (off : Nat) (bs : List Byte) (poison : Bool) (s : State) : Out :=
  .next (if !ready s then s else
    match barAt s f.val off with
    | none => setStain s rHpStain 7
    | some (p, va) =>
      let new := ((pagesIn s p (bs.length / 4096 + 2) va (va + bs.length)).filterMap (fun e => match e.1 with
        | some o => if needsPage s p e.2.1 then some (p, e.2.1, e.2.2, o.id) else none
        | none => none))
      let ok := barOk s p va bs.length && !inRegion s p va bs.length && (new.isEmpty || roomFor s p ((new.map (fun e => e.2.2.1)).sum))
      let s1 := stainIf poison s rHpStain 8
      if ok then writeAt (touchSpan (new.foldl backPage s1) (wr p va bs.length)) p va bs (if poison then allSoil else noSoil)
      else setStain s1 rHpStain 7)

end Sys2Proof.Machine
end

