-- ==== Sys2Proof/Machine/CeCore.lean ====
section
/-! DEFINITION. Group slots of the collective engine and how their operations end (spec 07 R205-R211, R230-R237). -/

namespace Sys2Proof.Machine

/-- Group slot g. -/
def grpOf (s : State) (g : Nat) : Option Grp := tget (fun _ => none) s.ce.groups g

/-- Store group slot g. -/
def setGrp (s : State) (g : Nat) (x : Option Grp) : State :=
  { s with ce := { s.ce with groups := tset (fun _ => none) s.ce.groups g x } }

/-- The first slot whose group satisfies `f`. -/
def grpWhere (s : State) (f : Grp → Bool) : Option (Nat × Grp) :=
  s.ce.groups.findSome? (fun e => e.2.bind (fun x => if f x then some (e.1, x) else none))

/-- The valid group of partition p with the id (R210, R244). -/
def grpNamed (s : State) (p : Nat) (gid : Nat) : Option (Nat × Grp) :=
  grpWhere s (fun x => x.p == p && x.gid.toNat == gid && x.joining.isNone && x.leaving.isNone)

/-- The group with the id and epoch, in whichever partition. -/
def grpAt (s : State) (gid : BitVec 16) (epoch : Word) : Option (Nat × Grp) := grpWhere s (fun x => x.gid == gid && x.epoch == epoch)

/-- Module and partition of an entry of a member list (R206). -/
def entryModule (e : Nat) : Nat := e % 4096
/-- The partition of an entry. -/
def entryPart (e : Nat) : Nat := e / 4096 % 8

/-- The partners of the all-reduce pattern (R228). -/
def patternIdx (P i : Nat) : List Nat :=
  let h := 2 ^ (Nat.log2 P)
  let ks := (List.range 12).filter (fun k => decide (2 ^ k < P))
  if h ≤ i then [i - h] else (ks.map (fun k => Nat.xor i (2 ^ k))).filter (fun j => decide (j < h)) ++ (if i + h < P then [i + h] else [])

/-- The indices that the member of index i exchanges frames with (R207, R228): ring neighbours, the all-reduce pattern's partners and
those that a binomial tree of any root gives (notes/assumptions/37.md). -/
def partnerIdx (P i : Nat) : List Nat :=
  let ks := (List.range 12).filter (fun k => decide (2 ^ k < P))
  let all := [(i + 1) % P, (i + P - 1) % P] ++ patternIdx P i ++ ks.flatMap (fun k => [(i + 2 ^ k) % P, (i + P - 2 ^ k) % P])
  (List.range P).filter (fun j => j != i && all.contains j)

/-- The entries of a member's partners, in index order. -/
def Grp.partners (x : Grp) : List Nat := (partnerIdx x.members.length x.index).map (fun i => x.members.getD i 0)

/-- The module of the member of index i. -/
def Grp.module (x : Grp) (i : Nat) : Nat := entryModule (x.members.getD i 0)

/-- P. -/
def Grp.size (x : Grp) : Nat := x.members.length

/-- Let go of the pages that a Spin holds (R215). -/
def unholdSpin (s : State) (x : SpinRun) : State := x.pages.foldl (fun t b => dropHold t x.p b) s

/-- F and B (R217). -/
def spinSteps (P dir : Nat) : Nat := if dir = 0 then P / 2 else (P - 1) / 2

/-- The shard that step k of a direction brings to the member of index i (R217). -/
def spinShard (P i dir k : Nat) : Nat := if dir = 0 then (i + P - k % P) % P else (i + k) % P

/-- The slot that step k of a direction fills (R217). -/
def spinSlot (dir k : Nat) : Nat := 2 * dir + (k + 1) % 2

/-- Bytes of a chunk (R218). -/
def Window.chunkBytes (w : Window) : Nat := w.c * w.geo.hkv * w.geo.bb
/-- Bytes of a shard's envelopes (R215). -/
def Window.shardEnv (w : Window) : Nat := 2 * w.nh * w.geo.hkv * (2 * w.geo.d)

/-- What of a Spin window is undefined once the Spin has failed (R212): chunks that were due and not signalled, envelopes not
complete. -/
def spinLoose (x : Grp) (y : SpinRun) : List Span :=
  let P := x.members.length
  let w := y.win
  (List.range 2).flatMap (fun d =>
    let hi := min (spinSteps P d) (y.granted.getD d 0 + 2) * w.chunks
    ((List.range hi).drop (y.signalled.getD d 0)).map (fun q =>
      wr y.p (w.dataAt (spinSlot d (q / w.chunks + 1)) (q % w.chunks * w.c) 0) w.chunkBytes)) ++
  ((List.range P).filter (fun m => !y.envs.contains m)).map (fun m => wr y.p (w.envAt m 0 0) w.shardEnv)

/-- What of the destination of a failed operation is undefined (R212). -/
def runLoose (x : Grp) (r : CollRun) : List Span :=
  match r.spin with
  | some y => spinLoose x y
  | none =>
    let d := min r.len (r.signalled * 2 ^ r.chunk)
    if r.len ≤ d then [] else [wr x.p (r.dst + d) (r.len - d)]

/-- The running operation of slot g ends: its windows close, its descriptor is decided, it is counted. -/
def endRun (s : State) (g : Nat) (e : Ending) : State :=
  match grpOf s g with
  | none => s
  | some x => match x.run with
    | none => s
    | some r =>
      let s1 := match r.spin with
        | some w => unholdSpin s w
        | none => s
      count (finish (setGrp s1 g (some { x with run := none, firsts := x.firsts.filter (fun f => f.2.1 != r.index) })) r.job e) 1482 1

/-- The Stain bit of a COLL_ status (R247). -/
def collStain (s : State) (st : Nat) : State :=
  if st = stMismatch then setStain s rCeStain 2
  else if st = stTimeout then setStain s rCeStain 3
  else if st = stMemberLost then setStain s rCeStain 4 else s

/-- The running operation of slot g fails and its group breaks, module m being named (R230, R232, R234, R237). -/
def breakRun (s : State) (g : Nat) (e : Ending) (m : Nat) : State :=
  match grpOf s g with
  | none => s
  | some x =>
    let s1 := match x.run with
      | some r => (runLoose x r).foldl freeFill s
      | none => s
    let t := collStain (endRun s1 g e) e.1
    match grpOf t g with
    | some y => setGrp t g (some { y with broken := some m })
    | none => t

/-- The job of the ring that issued descriptor id. -/
def jobOfDesc (s : State) (id : Nat) : Word := match job? s id with
  | some j => (ringOf s j.ring).job
  | none => 0

/-- A notice about the running operation of a group. -/
def noticeOf (s : State) (x : Grp) (r : CollRun) (m : Nat) : Notice := ⟨x.gid, x.epoch, r.index, BitVec.ofNat 12 m, s.now⟩

/-- What a frame from the member of slot x to the member of index i carries of the group. -/
def Grp.head (x : Grp) (i : Nat) : CeHead := ⟨x.gid, x.epoch, x.index, i⟩

/-- The watchdog of slot g starts anew (R232). -/
def touchGrp (s : State) (g : Nat) : State := match grpOf s g with
  | some x => setGrp s g (some { x with watch := s.now })
  | none => s

/-- A frame is refused by the collective engine (R211). -/
def refuseCe (s : State) : State := setStain (addCnt s rCeReject 1) rCeStain 5

/-- A frame of a group destroyed here is discarded and counted (R210). -/
def strayCe (s : State) : State := addCnt s rCeReject 1

end Sys2Proof.Machine
end

