-- ==== Sys2Proof/Machine/PressCore.lean ====
section
/-! DEFINITION. The native attention algorithm (05 R135-R149) as pure functions: queries, masks, bounds, records, pressing and
finishing. -/

namespace Sys2Proof.Machine

/-! ## Records (05 R145, R146) -/

/-- The state of an unfinished row-head. -/
structure PRec where
  den : Int
  skip : Int
  num : List Int
  mp : Val
  cls : Cls
  soil : Bool
  deriving DecidableEq, Repr

/-- A record opened (R146). -/
def prec0 (d : Nat) : PRec := ⟨0, 0, List.replicate d 0, .inf true, .fin, false⟩

/-- Bytes of a record (R145). -/
def recBytes (d : Nat) : Nat := roundUp (20 * (d + 2) + 6) 16

/-- Two records combine (R146). -/
def PRec.add (a b : PRec) : PRec :=
  ⟨wrap160 (a.den + b.den), wrap160 (a.skip + b.skip), (a.num.zip b.num).map (fun e => wrap160 (e.1 + e.2)),
    if Val.lt a.mp b.mp then b.mp else a.mp, a.cls.add b.cls, a.soil || b.soil⟩

/-- FP32 bits of a value, rounded to nearest. -/
def fp32Bits (v : Val) : Nat := (fp32.encode .rne v).1

/-- A record's bytes (R145). -/
def PRec.pack (r : PRec) : List Byte :=
  let w (i : Int) : List Byte := leBytes 20 (unsgn 160 i)
  let bs := w r.den ++ w r.skip ++ (r.num.map w).flatten ++ leBytes 4 (fp32Bits r.mp) ++
    [BitVec.ofNat 8 r.cls.code, if r.soil then 1 else 0]
  bs ++ List.replicate (recBytes r.num.length - bs.length) 0

/-- The record that bytes spell (R145). -/
def unpackRec (d : Nat) (bs : List Byte) : PRec :=
  let n (o k : Nat) : Nat := ofLe ((bs.drop o).take k)
  ⟨sgn 160 (n 0 20), sgn 160 (n 20 20), (List.range d).map (fun i => sgn 160 (n (40 + 20 * i) 20)), fp32.decode (n (40 + 20 * d) 4),
    Cls.ofCode (n (44 + 20 * d) 1 % 4), n (45 + 20 * d) 1 % 2 == 1⟩

/-! ## Queries and masks (R135-R139) -/

/-- A row-head's query aligned: integers and scale exponents by block of 32, whether a non-finite element makes it NaN, its
position and segment. -/
structure PQuery where
  ints : List Int
  exps : List Int
  nan : Bool
  pos : Nat
  seg : Nat
  soil : Bool
  deriving DecidableEq, Repr

/-- Align a query row (R135). -/
def alignQuery (xs : List Val) (q16 : Bool) (pos seg : Nat) (soil : Bool) : PQuery :=
  let bs := (List.range (xs.length / 32)).map (fun b => alignBlock (if q16 then 14 else 6) (chunk32 b xs))
  ⟨(bs.map (fun b => b.2)).flatten, bs.map (fun b => b.1), xs.any (fun x => !x.isFin), pos, seg, soil⟩

/-- Element i of an aligned query as an exact value. -/
def PQuery.elem (q : PQuery) (i : Nat) : Rat := (q.ints.getD i 0 : Rat) * pow2 (q.exps.getD (i / 32) 0)

/-- What a press is asked for beside its rows. -/
structure PressOpt where
  alpha : Rat
  tau : Rat
  skip : Bool
  external : Bool
  mask : Nat
  width : Nat
  segments : Bool
  deriving DecidableEq, Repr

/-- Whether position pk is visible to a query (R138). -/
def PressOpt.visible (o : PressOpt) (q : PQuery) (pk seg : Nat) : Bool :=
  (if o.mask = 1 then decide (pk ≤ q.pos)
   else if o.mask = 2 then decide (q.pos < pk + o.width) && decide (pk ≤ q.pos)
   else if o.mask = 3 then decide (pk < o.width) || decide (pk ≤ q.pos) else true) && (!o.segments || seg == q.seg)

/-- The visible tokens of a block; none: wholly masked (R139). -/
def PressOpt.tokens (o : PressOpt) (q : PQuery) (b : Block) : List Nat :=
  if o.segments && (decide (q.seg < b.segLo) || decide (b.segHi < q.seg)) then []
  else (List.range b.at'.n).filter (fun t => o.visible q (64 * b.at'.j + t) (b.segs.getD t 0))

/-! ## Bounds and scores (R140, R141) -/

/-- Round up to FP32. -/
def up32 (v : Val) : Val := (fp32.round .rup v).1

/-- Whether rounding up to FP32 saturates (02 R63). -/
def up32Over (v : Val) : Bool := (fp32.round .rup v).2

/-- An envelope byte as a value (02 R59). -/
def envVal (b : Nat) : Val := if b = 0xFF then .inf true else if b = 0x7F then .inf false else e4m3.decode b

/-- The bound of an envelope for a query before it is rounded (R140): α × Σ max(q·lo, q·hi), 0 times an infinity counting as 0. -/
def envBound (q : PQuery) (lo hi : List Nat) (alpha : Rat) : Val :=
  let term (i : Nat) : Val :=
    let x := q.elem i
    if x = 0 then .fin false 0
    else Val.max (Val.mul (Val.ofRat x) (envVal (lo.getD i 0))) (Val.mul (Val.ofRat x) (envVal (hi.getD i 0)))
  let ts := (List.range lo.length).map term
  if ts.any (fun t => t == .inf false) then .inf false
  else Val.mul (.fin false alpha) (ts.foldl Val.add (.fin false 0))

/-- The exact score of a token (R141); an invalid key scale makes it NaN (R167). -/
def scoreOf (q : PQuery) (b : Block) (alpha : Rat) (t : Nat) : Val :=
  let ks := b.keys.getD t []
  let sc := b.ks.getD t []
  if sc.any (fun x => (sf8 x).isNone) then .nan
  else Val.ofRat (alpha * ((List.range sc.length).map (fun k =>
    ((blockSum (chunk32 k q.ints) (chunk32 k ks) 0 : Int) : Rat) * pow2 (q.exps.getD k 0) * ((sf8 (sc.getD k 0)).getD 0))).sum)

/-- A value channel; an invalid scale makes it NaN. -/
def valueOf (b : Block) (t i : Nat) : Val :=
  match sf8 ((b.vs.getD t []).getD (i / 32) 255) with
  | some s => Val.ofRat (((b.vals.getD t []).getD i 0 : Rat) * s)
  | none => .nan

/-- A key channel; an invalid scale makes it NaN. -/
def keyOf' (b : Block) (t i : Nat) : Val :=
  match sf8 ((b.ks.getD t []).getD (i / 32) 255) with
  | some s => Val.ofRat (((b.keys.getD t []).getD i 0 : Rat) * s)
  | none => .nan

/-- A block as a row-head meets it: its visible tokens, its bound, whether it is unbounded, whether the bound saturated. -/
structure Met where
  blk : Block
  ts : List Nat
  b : Val
  unb : Bool
  satd : Bool
  deriving DecidableEq, Repr

/-- How a row-head meets a block; none: wholly masked (R139, R140). -/
def meet (o : PressOpt) (q : PQuery) (b : Block) : Option Met :=
  let ts := o.tokens q b
  if ts.isEmpty then none
  else
    let e := if b.envSoil then .inf false else envBound q b.lo b.hi o.alpha
    if e = .inf false then
      let xs := (ts.map (scoreOf q b o.alpha)).filter (fun x => !x.isNan)
      some ⟨b, ts, xs.foldl (fun m x => if Val.lt m (up32 x) then up32 x else m) (.inf true), true, xs.any up32Over⟩
    else some ⟨b, ts, up32 e, false, up32Over e⟩

/-- How much of a block's segment record a row-head reads (R139): 0 nothing, since it has no visible position; 1 its range, which shuts
the row-head out; 2 all of it. -/
def PressOpt.segLook (o : PressOpt) (q : PQuery) (b : Block) : Nat :=
  if !o.segments || b.at'.seg == 0 || ({ o with segments := false }.tokens q b).isEmpty then 0
  else if decide (q.seg < b.segLo) || decide (b.segHi < q.seg) then 1 else 2

/-- The largest bound (R143). -/
def refOf (ms : List (Option Met)) : Val :=
  ms.foldl (fun m x => match x with
    | some x => if Val.lt m x.b then x.b else m
    | none => m) (.inf true)

/-! ## Pressing (R141-R147) -/

/-- What pressing one block brought up: soiled input, a score above an external reference, an invalid scale, a saturation. -/
structure Mark where
  soil : Bool
  low : Bool
  nan : Bool
  sat : Bool
  deriving DecidableEq, Repr

/-- Nothing brought up. -/
def mark0 : Mark := ⟨false, false, false, false⟩

/-- A row-head while it is pressed: its record, and by block what it was (0 masked, 1 skipped, 2 pressed) and what it brought up. -/
structure Pressed where
  r : PRec
  fate : List Nat
  marks : List Mark
  deriving DecidableEq, Repr

/-- The larger of two values that are not NaN. -/
def vmax (a b : Val) : Val := if Val.lt a b then b else a

/-- exp(b − M) × (1 + 2^-30), rounded up to the grid, 64 times c blocks (R142, 06 R192). -/
def skipTerm (b m : Val) (c : Nat) : Int := 64 * c * grid88Up ((laneExp (ladd b m.neg)).rat * (1 + 1 / 2 ^ 30))

/-- Press one visible token. A weight that is NaN, which only a NaN external reference gives, makes the row-head NaN. -/
def pressToken (o : PressOpt) (q : PQuery) (m : Val) (b : Block) (p : PRec × Mark) (t : Nat) : PRec × Mark :=
  let s := scoreOf q b o.alpha t
  let r := p.1
  if s.isNan || (b.vs.getD t []).any (fun x => (sf8 x).isNone) then ({ r with cls := .nan }, { p.2 with nan := true })
  else
    let above := o.external && Val.lt m s
    let e := if above then .fin false 1 else laneExp (ladd s m.neg)
    let w := grid88 e.rat
    ({ r with
        mp := vmax r.mp (up32 s)
        cls := if e.isNan then .nan else r.cls
        den := wrap160 (r.den + w)
        num := (List.range r.num.length).map (fun i => wrap160 (r.num.getD i 0 + grid88 (acc88 w * (valueOf b t i).rat))) },
      { p.2 with low := p.2.low || above, sat := p.2.sat || up32Over s })

/-- Press one block. -/
def pressMet (o : PressOpt) (q : PQuery) (m : Val) (p : Pressed) (x : Option Met) : Pressed :=
  match x with
  | none => ⟨p.r, p.fate ++ [0], p.marks ++ [mark0]⟩
  | some x =>
    if o.skip && Val.lt x.b (Val.add m (Val.ofRat (-o.tau))) then
      ⟨{ p.r with skip := wrap160 (p.r.skip + skipTerm x.b m 1), mp := vmax p.r.mp x.b }, p.fate ++ [1],
        p.marks ++ [{ mark0 with sat := x.satd }]⟩
    else
      let y := x.ts.foldl (pressToken o q m x.blk) (p.r, ⟨x.blk.soil, false, false, x.satd⟩)
      ⟨{ y.1 with soil := y.1.soil || x.blk.soil }, p.fate ++ [2], p.marks ++ [y.2]⟩

/-- Press a row-head against its blocks with the reference m. -/
def pressRow (o : PressOpt) (q : PQuery) (m : Val) (d : Nat) (xs : List (Option Met)) : Pressed :=
  xs.foldl (pressMet o q m) ⟨{ prec0 d with soil := q.soil, cls := if q.nan then .nan else .fin }, [], []⟩

/-- M′ < M − 40 (R143). -/
def looseAt (mp m : Val) : Bool := Val.lt mp (Val.add m (Val.ofRat (-40)))

/-- A row-head pressed: the reference used, the result, the fates of both passes, whether it was pressed again. -/
structure RowHead where
  m : Val
  p : Pressed
  fates : List (List Nat)
  again : Bool
  /-- By block: whether it was unbounded, whether its envelope was soiled, how much of its segment record was read. -/
  unbs : List Bool
  envs : List Bool
  looks : List Nat
  qnan : Bool
  qsoil : Bool
  deriving DecidableEq, Repr

/-- Whether some block was visible to the row-head. -/
def RowHead.seen (h : RowHead) : Bool := h.fates.any (fun f => f.any (· != 0))

/-- Press a row-head: against an external reference, or a local one with one re-press where it is loose (R143, R147). -/
def pressHead (o : PressOpt) (q : PQuery) (ext : Val) (d : Nat) (bs : List Block) : RowHead :=
  let xs := bs.map (meet o q)
  let m := if o.external then ext else refOf xs
  let p := pressRow o q m d xs
  let h : RowHead := ⟨m, p, [p.fate], false, xs.map (fun x => x.any (·.unb)), xs.map (fun x => x.any (·.blk.envSoil)),
    bs.map (o.segLook q), q.nan, q.soil⟩
  if !o.external && looseAt p.r.mp m then
    let p2 := pressRow o q p.r.mp d xs
    { h with m := p.r.mp, p := p2, fates := [p.fate, p2.fate], again := true }
  else h

/-- Whether a finished row-head needs a re-press (R147). -/
def needsRepress (r : PRec) (m : Val) : Bool := Val.lt m r.mp || looseAt r.mp m

/-! ## Finishing (R144, R149) -/

/-- A row-head's output bytes, whether one saturated, and its detail bits 1 and 2. -/
def finishRec (r : PRec) (fmt : Nat) (md : Rnd) : List Byte × Bool × Nat :=
  let all (v : Val) : List Byte × Bool := encodeAll fmt md (r.num.map (fun _ => v))
  match r.cls with
  | .nan => ((all .nan).1, false, 2)
  | .pinf => ((all (.inf false)).1, (all (.inf false)).2, 0)
  | .ninf => ((all (.inf true)).1, (all (.inf true)).2, 0)
  | .fin =>
    if r.den = 0 then ((all (.fin false 0)).1, false, 4)
    else
      let e := encodeAll fmt md (r.num.map (fun n => Val.ofRat ((n : Rat) / (r.den : Rat))))
      (e.1, e.2, 0)

/-- The 16 bytes of a row-head's statistics, and whether one of them saturated (R149, 02 R63). `m`: the M used; −∞ stands in its place
where no block is visible: M′ is then still −∞ and the class is not NaN. -/
def statBytes (r : PRec) (m : Val) (seen : Bool) : List Byte × Bool :=
  let lse : Val := if r.cls = .nan then .nan else if r.den = 0 then .inf true else ladd (laneLn (acc88 r.den)) m
  let rel : Val := if r.skip = 0 then .fin false 0 else if r.den = 0 then .inf false else Val.ofRat ((r.skip : Rat) / (r.den : Rat))
  let ref : Val := if seen || r.mp != .inf true || r.cls == .nan then m else .inf true
  let e := fp32.encode .rne lse
  let b := fp32.encode .rup rel
  (leBytes 4 (fp32Bits ref) ++ leBytes 4 e.1 ++ leBytes 4 b.1 ++ leBytes 4 (fp32Bits r.mp), e.2 || b.2)

/-! ## Cost (R134) -/

/-- Steps of a row group of rg row-heads, given the fates of each at each block. -/
def groupCost (rg d : Nat) (q16 : Bool) (fs : List (List (List Nat))) : Nat :=
  let n := (fs.flatMap (fun f => f.map (fun l => l.length))).foldl max 0
  let k := (fs.map (fun f => f.length)).foldl max 0
  ((List.range k).flatMap (fun pass => (List.range n).map (fun b =>
    let at' := fs.map (fun f => (f.getD pass []).getD b 0)
    (if at'.any (fun x => x != 0) then cdiv (rg * d) 1024 else 0) +
      (if at'.any (fun x => x == 2) then cdiv (rg * d) 128 * (if q16 then 2 else 1) else 0)))).sum

/-- Cut a list into groups of at most k. -/
def groupsOf {α : Type} (k : Nat) (l : List α) : List (List α) :=
  (List.range (cdiv l.length k)).map (fun i => (l.drop (i * k)).take k)

end Sys2Proof.Machine
end

