-- ==== Sys2Proof/Machine/Press.lean ====
section
/-! DEFINITION. The Press pipelines (spec 05): PRESS, BOUND, FINISH, DECODE_BATCH, PLEAT, the backward pass and its drain. -/

namespace Sys2Proof.Machine

/-! ## Fields (05 R159, R160) -/

/-- The fields of a Press-class descriptor (R159). -/
structure PressF where
  qa : Nat
  qf : Nat
  oa : Nat
  of : Nat
  sa : Nat
  ra : Nat
  rows : Nat
  kf : Nat
  kc : Nat
  opn : Bool
  fin : Bool
  ext : Bool
  skp : Bool
  q16 : Bool
  rnd : Rnd
  rot : Bool
  mask : Nat
  segf : Bool
  s1 : Nat
  fmts : Nat
  prio : Bool
  deriving DecidableEq, Repr

/-- The fields of descriptor j. -/
def pressF (j : Job) : PressF :=
  let b (k : Nat) : Bool := j.bits 52 k 1 == 1
  ⟨j.va 16, j.fmt 16, j.va 24, j.fmt 24, j.va 32, j.va 40, j.fld 48 2, j.fld 50 1, j.fld 51 1, b 0, b 1, b 2, b 3, b 4,
    Rnd.ofCode (j.bits 52 5 2), b 7, j.bits 53 0 2, j.bits 53 2 1 == 1, j.bits 53 4 4, j.fld 54 1, j.bits 2 4 1 == 1⟩

/-- The rotary settings: θ, d_r, layout, table address (R136). -/
structure Rot where
  theta : Val
  dr : Nat
  halves : Bool
  table : Nat
  deriving DecidableEq, Repr

/-- The rotary settings of the extension. -/
def rotX (j : Job) : Rot := ⟨fp32.decode (j.xfld 40 4), j.xfld 44 2, j.xbits 46 0 1 == 1, j.xva 48⟩

/-- The first non-zero byte of extension bytes a to b - 1, where the condition makes them unused. -/
def xunused (c : Bool) (j : Job) (a b : Nat) : Option Nat := if c then rsvd j (64 + a) (64 + b) else none

/-- Check of the rotary fields of the extension, at the dimension d (R160, R163). -/
def rotErr (j : Job) (on : Bool) (d : Nat) : List (Option Nat) :=
  let r := rotX j
  [bad (on && (!r.theta.isFin || !Val.lt (.fin false 1) r.theta)) 104, xunused (!on) j 40 44,
   bad (on && (decide (r.dr < 2) || decide (d < r.dr) || r.dr % 2 == 1)) 108, xunused (!on) j 44 46,
   bad (on && decide (1 < j.xfld 46 1)) 110, xunused (!on) j 46 47, if on then xa52 j 48 else none, xunused (!on) j 48 56]

/-- The frequency table of rotary settings (R136). -/
def rotTable (s : State) (p : Nat) (r : Rot) : Option (List Val) :=
  if r.table = 0 then none else some (elemsAt s p r.table (r.dr / 2) 5)

/-- The span of the frequency table. -/
def rotSpan (p : Nat) (on : Bool) (r : Rot) : List Span := if on && r.table != 0 then [rd p r.table (4 * (r.dr / 2))] else []

/-- The FP32 scale α or threshold τ as a rational. -/
def xrat (j : Job) (off : Nat) : Rat := (fp32.decode (j.xfld off 4)).rat

/-! ## What is pressed -/

/-- The region that descriptor j names, where its object is one. -/
def kvNamed (s : State) (j : Job) : Option Region :=
  match (if j.obj = 0 then none else objNamed s (part s j) j.obj j.id) with
  | some o => if o.kind = 1 then regionOf s o.p o.id else none
  | none => none

/-- The Spin window that descriptor j names. -/
def windowNamed (s : State) (j : Job) : Option Window :=
  match (if j.obj = 0 then none else objNamed s (part s j) j.obj j.id) with
  | some o => if o.kind = 0 then windowAt s o.p o.base else none
  | none => none

/-- The key end of descriptor j's press of layer l, fixed as it began: the given one, at most the visible length; 0: the visible length
(R160, R166, 06 R179). -/
def keyEnd (j : Job) (r : Region) (l given : Nat) : Nat := if given = 0 then j.lenOf r l else min given (j.lenOf r l)

/-- The source of a press of a region: heads kf to kf + kc - 1 of layer l below the key end; `sets`: the blocks of
the recall set that this descriptor is bound to are absent (06 R193). -/
def regionSrc (s : State) (r : Region) (l kf kc ke : Nat) (sets : Option Nat) : KvSrc :=
  ⟨r.geo, kTag r.k4, vTag r.v4, r.segs, (List.range kc).map (fun i =>
    (((r.refs l (kf + i) ke).filter (fun b => !(sets.any (fun job => (r.recallFor job l (kf + i)).any (fun x => inRecall s r x b.j))))).map
      (readBlock s r.p r.geo)))⟩

/-- The source of a press of a Spin window: shard m, the nodes given, from slot k (07 R216). -/
def windowSrc (s : State) (p : Nat) (w : Window) (m k kf kc : Nat) (nodes : List Nat) : KvSrc :=
  ⟨w.geo, w.kTag, w.vTag, false, (List.range kc).map (fun i => nodes.map (fun j => readBlock s p w.geo (w.ref m k (kf + i) j)))⟩

/-- FORMAT_MISMATCH of declared formats against a source (R164). -/
def fmtErr (fmts kt vt : Nat) : Option Ending :=
  let dk := kTag (bitOf fmts 0)
  let dv := vTag (bitOf fmts 1)
  if kt ≠ dk then some (stMismatchFmt, kt + 256 * dk) else if vt ≠ dv then some (stMismatchFmt, vt + 256 * dv + 65536) else none
where
  /-- FORMAT_MISMATCH. -/
  stMismatchFmt : Nat := stFormat

/-- Why a press cannot have its source; else the source (R163, R164, 07 R216, 06 R193). `slot`: the shard's slot is needed. -/
def sourceOf (s : State) (j : Job) (f : PressF) (slot sets : Bool) : Ending ⊕ KvSrc :=
  let p := part s j
  let l := j.xfld 6 2
  match kvNamed s j, windowNamed s j with
  | some r, _ =>
    let found := if sets && f.ext then (List.range f.kc).filterMap (fun i => r.recallFor j.id l (f.kf + i)) else []
    if found.any (fun _ => !f.skp) then .inl (fieldErr 52)
    else if found.any (fun x => x.tau.toNat != j.xfld 20 4) then .inl (fieldErr 84)
    else match fmtErr f.fmts (kTag r.k4) (vTag r.v4) with
      | some e => .inl e
      | none => .inr (regionSrc s r l f.kf f.kc (keyEnd j r l (j.xfld 56 6)) (if sets && f.ext then some j.id else none))
  | none, some w =>
    match selNodes w (j.xfld 14 2), (if slot then slotOf s p w l else some 0) with
    | none, _ => .inl (fieldErr 78)
    | _, none => .inl (fieldErr 70)
    | some (nodes, chunks), some k =>
      if slot && chunks.any (fun c => decide ((slotHead s p w k).2 ≤ c)) then .inl (fieldErr 78)
      else match fmtErr f.fmts w.kTag w.vTag with
        | some e => .inl e
        | none => .inr (windowSrc s p w l k f.kf f.kc nodes)
  | none, none => .inl (fieldErr 12)

/-- The geometry, layers (a window's members), and segments flag of what j names. -/
def pressGeo (s : State) (j : Job) : Option (KvGeo × Nat × Bool × Bool) :=
  match kvNamed s j with
  | some r => some (r.geo, r.layers, r.segs, false)
  | none => (windowNamed s j).map (fun w => (w.geo, w.members, false, true))

/-- Cores that a press runs on: the named one, or S of them in partition-local numbering (R152). -/
def pressCores (s : State) (j : Job) (n : Nat) : List Nat :=
  let l := coresOf s (part s j)
  (List.range n).map (fun k => l.getD ((j.fld 55 1 + k) % l.length) 0)

/-- Cores in service of partition p. -/
def liveCores (s : State) (p : Nat) : Nat := ((coresOf s p).filter (fun c => !s.boot.retired.getLsbD c)).length

/-- Checks of the extension (R160, R163). `ref`: the reference is used. -/
def extErr (j : Job) (f : PressF) (ref : Bool) (g : KvGeo × Nat × Bool × Bool) : List (Option Nat) :=
  let tau := fp32.decode (j.xfld 20 4)
  let alpha := fp32.decode (j.xfld 16 4)
  [bad (decide (g.2.1 ≤ j.xfld 6 2)) 70, bad (f.mask == 2 && j.xfld 8 6 == 0) 72, xunused (decide (f.mask < 2)) j 8 14,
   xunused (!g.2.2.2) j 14 16, bad (!alpha.isFin || alpha.isZero || alpha.isNeg) 80,
   bad (f.skp && (!tau.isFin || Val.lt tau (.fin false 1) || Val.lt (.fin false 88) tau)) 84, xunused (!f.skp) j 20 24,
   bad (ref && j.xfld 24 8 == 0) 88, xunused (!ref) j 24 32, if ref then xa52 j 24 else none,
   bad (f.segf && j.xfld 32 8 == 0) 96, xunused (!f.segf) j 32 40, if f.segf then xa52 j 32 else none,
   xunused true j 47 48, xunused g.2.2.2 j 56 62, xunused true j 62 64] ++ rotErr j f.rot g.1.d

/-- What the descriptor of each operation may say beside R159's ranges. -/
structure PressRule where
  bound : Bool
  pleat : Bool
  select : Bool
  deriving DecidableEq, Repr

/-- Check 9 of PRESS, PLEAT, BOUND, RECALL_BOUND and RECALL_SELECT (R159, R163, R157, 06 R192, R199, R200). -/
def pressErr (s : State) (j : Job) (f : PressF) (q : PressRule) : Option Ending :=
  let outs := f.fin && !q.bound && !q.select
  let need := !q.bound && (q.select || !(f.opn && f.fin))
  match pressGeo s j with
  | none => some (fieldErr 12)
  | some g =>
    fields ([bad (q.pleat && f.prio) 2, bad (decide (0x0606 ≤ j.opcode) && g.2.2.2) 12, aFmt j 16 (fun c => decide (2 ≤ c) && decide (c ≤ 4) && (!q.pleat || c == 2)),
      if outs then aFmt j 24 (fun c => isFloat c && (!q.pleat || c == 2 || c == 5)) else rsvd j 24 30,
      bad (!outs && (j.bits 30 0 4 != 0 || !(j.fmt 24 == 0 || isFloat (j.fmt 24)) || j.bits 31 4 4 != 0)) 30,
      if q.bound || q.select then rsvd j 32 40 else a52 j 32, if q.bound then rsvd j 40 48 else a52 j 40,
      bad (need && j.fld 40 8 == 0) 40, bad (f.rows == 0 || decide (4096 < f.rows)) 48,
      bad (decide (g.1.hkv < f.kf + f.kc)) 50, bad (f.kc == 0) 51,
      bad (q.bound && (f.opn || f.ext || f.skp || j.bits 52 5 2 != 0)) 52,
      bad (q.pleat && (!f.opn || !f.fin || f.ext || f.skp)) 52,
      bad (q.select && (!f.opn || f.fin || !f.ext || !f.skp)) 52,
      bad (!q.bound && !q.pleat && !q.select && !f.ext && !(f.opn && f.fin)) 52,
      bad (j.bits 53 3 1 != 0 || (f.prio && f.s1 == 0) || (!f.prio && f.s1 != 0) || decide (liveCores s (part s j) < f.s1 + 1)) 53,
      bad (f.segf && (!g.2.2.1 || q.pleat || q.select || decide (0x0606 ≤ j.opcode))) 53, bad (q.pleat && f.mask == 3) 53,
      bad (decide (3 < f.fmts)) 54, bad (q.pleat && f.fmts != 0) 54, badCore s j 55,
      bad (q.pleat && (g.2.2.2 || !(g.1.d == 64 || g.1.d == 128))) 12] ++ extErr j f (q.bound || f.ext) g)

/-- The press options of descriptor j. -/
def pressOpt (j : Job) (f : PressF) : PressOpt :=
  ⟨xrat j 16, if f.skp then xrat j 20 else 0, f.skp, f.ext, f.mask, j.xfld 8 6, f.segf⟩

/-- The query rows of nrh row-heads: hp of them per position from `first` on, elements of the format at qa (R151). -/
def queriesOf (s : State) (p qa qf d nrh hp first : Nat) (q16 : Bool) (rot : Option Rot) (segOf : Nat → Nat) : List PQuery :=
  let es := elemSize qf
  (List.range nrh).map (fun i =>
    let a := qa + i * d * es
    let xs := elemsAt s p a d qf
    let pos := first + i / hp
    let ys := match rot with
      | some r => rotate xs pos r.theta r.dr r.halves (rotTable s p r)
      | none => xs
    alignQuery ys q16 pos (segOf (i / hp)) (soiledAt s p a (d * es)))

/-- Press every row-head: row-head i belongs to KV head (i mod hp) / g of the source. -/
def headsOf (o : PressOpt) (src : KvSrc) (hp : Nat) (qs : List PQuery) (refs : List Val) : List RowHead :=
  (qs.zipIdx).map (fun e => pressHead o e.1 (refs.getD e.2 .nan) src.geo.d (src.heads.getD (e.2 % hp / src.geo.g) []))

/-- The row groups of the row-heads of KV head h (R133, R151). -/
def rowGroups (hp : Nat) (src : KvSrc) (rs : List RowHead) (h : Nat) : List (List RowHead) :=
  groupsOf (if src.geo.d ≤ 128 then 64 else 32) (((rs.zipIdx).filter (fun r => r.2 % hp / src.geo.g == h)).map (fun r => r.1))

/-- What a row group reads of block i, b, of a KV head (R139, R142): of its segment record, what some row-head looks at; its envelope
where some row-head meets it; its data once per pass in which some row-head presses it, or finds its bound by its scores. -/
def groupReads (p : Nat) (src : KvSrc) (env : Bool) (g : List RowHead) (b : Block) (i : Nat) : List Span :=
  let look := (g.map (fun r => r.looks.getD i 0)).foldl max 0
  let passes := (g.map (fun r => r.fates.length)).foldl max 0
  let at' (k : Nat) (q : Nat → Bool) : Bool := g.any (fun r => q ((r.fates.getD k []).getD i 0))
  (if look = 0 then [] else [rd p (b.at'.seg + 128) 4]) ++ (if look = 2 then [rd p b.at'.seg 128] else []) ++
    (if env && g.any (fun r => r.fates.any (fun f => f.getD i 0 != 0)) then [rd p b.at'.env (2 * src.geo.d)] else []) ++
    (List.range passes).flatMap (fun k =>
      if at' k (· == 2) || (k == 0 && g.any (fun r => r.unbs.getD i false)) then [rd p b.at'.data src.geo.bb] else [])

/-- The spans that pressing reads; every row group fetches its blocks (R133). `env`: their envelopes too. -/
def blockSpans (p hp : Nat) (src : KvSrc) (env : Bool) (rs : List RowHead) : List Span :=
  (src.heads.zipIdx).flatMap (fun h => (rowGroups hp src rs h.2).flatMap (fun g => (h.1.zipIdx).flatMap (fun b =>
    groupReads p src env g b.1 b.2)))

/-- Steps of pressing blocks lo to lo + n - 1 of every head (R133, R134), fill and tail included. -/
def pressSteps (hp : Nat) (src : KvSrc) (q16 : Bool) (rs : List RowHead) (lo n : Nat) : Nat :=
  300 + ((List.range src.heads.length).flatMap (fun h => (rowGroups hp src rs h).map (fun g =>
    groupCost g.length src.geo.d q16 (g.map (fun r => r.fates.map (fun f => (f.drop lo).take n)))))).sum

/-- Outputs and statistics of finished row-heads (R144, R149), each with its reference and whether a block was visible; saturation and
detail bits. -/
def emitRows (s : State) (p oa of : Nat) (md : Rnd) (sa : Nat) (rs : List (PRec × Val × Bool)) : State × Nat :=
  (rs.zipIdx).foldl (fun acc e =>
    let r := e.1.1
    let d := r.num.length
    let o := finishRec r of md
    let t := writeAt acc.1 p (oa + e.2 * d * elemSize of) o.1 (fun _ => r.soil)
    let st := statBytes r e.1.2.1 e.1.2.2
    let t1 := if sa = 0 then t else writeAt t p (sa + 16 * e.2) st.1 (fun _ => r.soil)
    (t1, acc.2 ||| o.2.2 ||| (if o.2.1 || (sa != 0 && st.2) then 1 else 0))) (s, 0)

/-- What the row-heads leave in the Stain register of core c, which pressed blocks lo to lo + n - 1 of each (R152, R165, R167, R169,
02 R63). -/
def partStains (s : State) (c lo n : Nat) (rs : List RowHead) : State :=
  let m (f : Mark → Bool) : Bool := rs.any (fun r => ((r.p.marks.drop lo).take n).any f)
  stainIf (rs.any (fun r => ((r.envs.drop lo).take n).any (fun x => x))) (stainIf (m (·.low)) (stainIf (m (·.nan) || rs.any (·.qnan))
    (stainIf (m (·.soil) || rs.any (·.qsoil)) (stainIf (m (·.sat)) s (rPrStain c) 0) (rPrStain c) 1)
      (rPrStain c) 2) (rPrStain c) 3) (rPrStain c) 4

/-- How many blocks the row-heads skipped, both passes counting. -/
def skipsOf (rs : List RowHead) : Nat := (rs.map (fun r => ((r.fates.flatten).filter (· == 1)).length)).sum
/-- How many unbounded blocks they met. -/
def unboundedOf (rs : List RowHead) : Nat := (rs.map (fun r => (r.unbs.filter (fun x => x)).length)).sum

/-- What the row-heads of a Press-class descriptor, whose parts of `share` blocks each the cores `cs` pressed, leave in the Stain
registers and the event counts (R152, R165, R167, R169); the first core reads the records and writes the outputs. -/
def pressNotes (s : State) (cs : List Nat) (share det : Nat) (rs : List RowHead) (soiled : Bool) : State :=
  let c := cs.headD 0
  let s1 := addCnt (addCnt (addCnt s rRepress (rs.filter (fun r => r.again)).length) rSkip (skipsOf rs)) rUnbounded (unboundedOf rs)
  stainIf soiled (stainIf (bitOf det 0) ((cs.zipIdx).foldl (fun t e => partStains t e.1 (e.2 * share) share rs) s1) (rPrStain c) 0)
    (rPrStain c) 1

/-- The detail of a Press-class descriptor, beside `det` (R165). -/
def pressDetail (det : Nat) (rs : List RowHead) (soiled : Bool) : Nat :=
  let b (q : Bool) (v : Nat) : Nat := if q then v else 0
  det ||| b (rs.any (fun r => r.p.r.cls == .nan)) 2 ||| b soiled 8 ||| b (rs.any (fun r => r.again)) 16 ||| b (skipsOf rs != 0) 128 |||
    b (unboundedOf rs != 0) 256

/-- A Press-class descriptor ends. -/
def pressEnd (s : State) (id : Nat) (cs : List Nat) (share det : Nat) (rs : List RowHead) (soiled : Bool) (steps moved : Nat) : State :=
  finish (ranOn (pressNotes s cs share det rs soiled) id (cs.headD 0) steps moved) id (doneOf soiled (pressDetail det rs soiled))

/-- The cores that a begun priority stream runs on (R152). -/
def prioCores (s : State) (j : Job) : List Nat := pressCores s j (j.fld 53 1 / 16 + 1)

/-- Whether standard work for core c stands behind a priority part that its pipeline serves first (R152). -/
def behindPriority (s : State) (c : Nat) : Bool := (prioStreams s).any (fun j => j.phase == .checked && !j.waits && (prioCores s j).contains c)

/-- A Press-class row on the core that byte `at'` of its descriptor names: it waits behind a priority part there (R152). -/
def pressOp (s : State) (id opcode at' : Nat) (k : Job → State) : Out :=
  runOp s id opcode (fun j => if (coreAt s (part s j) (j.fld at' 1)).any (behindPriority s) then s else k j)

/-- Records of n row-heads at ra. -/
def readRecs (s : State) (p ra d n : Nat) : List PRec :=
  (List.range n).map (fun i =>
    let a := ra + i * recBytes d
    let r := unpackRec d (bytesAt s p a (recBytes d))
    { r with soil := r.soil || soiledAt s p a (recBytes d) })

/-- Write records at ra (R145). -/
def writeRecs (s : State) (p ra d : Nat) (rs : List PRec) : State :=
  (rs.zipIdx).foldl (fun t e => writeAt t p (ra + e.2 * recBytes d) e.1.pack noSoil) s

/-- A press that fails in translation: no output is written, records are left soiled (R167). -/
def pressFault (s : State) (id p : Nat) (xs : List Span) (ra n : Nat) (cause oid : Nat) : State :=
  let t := tierFail s id (xs.filter (fun x => !x.write)) cause oid
  if ra = 0 ∨ cause = cUnmapped ∧ (objAt s p ra).isNone then t
  else
    let u := freeFill t (wr p ra n)
    if (pageOf u p ((objAt s p ra).elim ra (fun o => pageBase o ra))).isSome then writeAt u p ra (bytesAt u p ra n) allSoil else u

/-! ## PRESS (R141-R152) -/

/-- Whether the records of PRESS would lie over its queries or its outputs (R159). -/
def pressClash (j : Job) (src : KvSrc) : Bool :=
  let f := pressF j
  let d := src.geo.d
  let hp := f.kc * src.geo.g
  let n := f.rows * hp
  let es := elemSize f.qf
  let rb := n * recBytes d
  f.ra != 0 && (overlap f.ra rb f.qa (n * d * es) || (f.fin && overlap f.ra rb f.oa (n * d * elemSize f.of)))

/-- The row-heads of PRESS, pressed (R143). -/
def pressHeads (s : State) (j : Job) (src : KvSrc) : List RowHead :=
  let p := part s j
  let f := pressF j
  let d := src.geo.d
  let hp := f.kc * src.geo.g
  let n := f.rows * hp
  let segA := j.xva 32
  let refA := j.xva 24
  let rot := if f.rot then some (rotX j) else none
  let qs := queriesOf s p f.qa f.qf d n hp (j.xfld 0 6) f.q16 rot (fun r => if f.segf then numAt s p (segA + 2 * r) 2 else 0)
  headsOf (pressOpt j f) src hp qs (if f.ext then elemsAt s p refA n 5 else [])

/-- What PRESS reads. -/
def pressIns (s : State) (j : Job) (src : KvSrc) : List Span :=
  let p := part s j
  let f := pressF j
  let d := src.geo.d
  let hp := f.kc * src.geo.g
  let n := f.rows * hp
  let es := elemSize f.qf
  let rb := n * recBytes d
  let segA := j.xva 32
  let refA := j.xva 24
  let rs := pressHeads s j src
  [rd p f.qa (n * d * es)] ++ (if f.segf then [rd p segA (2 * f.rows)] else []) ++
    (if f.ext then [rd p refA (4 * n)] else []) ++ rotSpan p f.rot (rotX j) ++ blockSpans p hp src true rs ++
    (if f.opn then [] else [rd p f.ra rb])

/-- Whether PRESS writes records: it starts or adds into them wherever it names any (R145, R146; notes/assumptions/34.md). -/
def PressF.records (f : PressF) : Bool := f.ra != 0

/-- What PRESS writes: outputs and statistics where it finishes, and its records (R143, R145, R146). -/
def pressOuts (s : State) (j : Job) (src : KvSrc) : List Span :=
  let p := part s j
  let f := pressF j
  let d := src.geo.d
  let hp := f.kc * src.geo.g
  let n := f.rows * hp
  let rb := n * recBytes d
  (if f.fin then [wr p f.oa (n * d * elemSize f.of)] ++ (if f.sa = 0 then [] else [wr p f.sa (16 * n)]) else []) ++
    (if f.records then [wr p f.ra rb] else [])

/-- PRESS (R141, R143, R152). A standard stream waits behind a priority part on its core. -/
def execPress (id : Nat) (s : State) : Out :=
  runOp s id 0x0500 (fun j =>
    let p := part s j
    let f := pressF j
    if (!f.prio || j.demoted) && (coreAt s p (j.fld 55 1)).any (behindPriority s) then s else
    match pressErr s j f ⟨false, false, false⟩ with
    | some e => finish s id e
    | none => match sourceOf s j f true true with
      | .inl e => finish s id e
      | .inr src =>
        let d := src.geo.d
        let hp := f.kc * src.geo.g
        let n := f.rows * hp
        let rb := n * recBytes d
        let over' := pressClash j src
        if over' then finish s id (fieldErr 40)
        else
          let rs := pressHeads s j src
          let ins := pressIns s j src
          let outs := pressOuts s j src
          match regionErr s outs with
          | some e => finish s id e
          | none => withMemOr s id (ins ++ outs) (pressFault s id p (ins ++ outs) f.ra rb) (fun s =>
            let parts := if f.prio && !j.demoted then f.s1 + 1 else 1
            let old := if f.opn then [] else readRecs s p f.ra d n
            let recs := (rs.zipIdx).map (fun e => if f.opn then e.1.p.r else (old.getD e.2 (prec0 d)).add e.1.p.r)
            let again := ((recs.zip rs).filter (fun e => needsRepress e.1 e.2.m)).length
            let fin := emitRows s p f.oa f.of f.rnd f.sa (recs.zip (rs.map (fun r => (r.m, r.seen))))
            let s0 := if f.fin then fin else (s, 0)
            let s1 := if f.records then (writeRecs s0.1 p f.ra d recs, s0.2) else s0
            let nb := (src.heads.map (fun h => h.length)).foldl max 0
            let share := cdiv nb parts
            let s2 := ((pressCores s j parts).zipIdx).foldl (fun t e =>
              coreCount t e.1 11 (pressSteps hp src f.q16 rs (e.2 * share) share + (if f.fin && e.2 == 0 then cdiv (n * d) 16 else 0))) s1.1
            let need := if f.fin && f.ext then again else 0
            pressEnd s2 id (pressCores s j parts) share (s1.2 ||| (if need = 0 then 0 else 32) ||| (if j.demoted then 64 else 0) ||| 65536 * sat 65535 need) rs
              (recs.any (fun r => r.soil)) (pressSteps hp src f.q16 rs 0 nb) ((ins.map (fun x => x.len)).sum)))

/-! ## BOUND (R140, R148) -/

/-- The value that BOUND writes for a row-head: its largest block bound (R148). -/
def boundOf (o : PressOpt) (q : PQuery) (bs : List Block) : Val × List (Option Met) :=
  let xs := bs.map (meet o q)
  (refOf xs, xs)

/-- What BOUND makes of every row-head, as row-heads for `blockSpans` and `pressEnd`. -/
def boundHeads (o : PressOpt) (src : KvSrc) (hp : Nat) (qs : List PQuery) : List RowHead :=
  (qs.zipIdx).map (fun e =>
    let bs := src.heads.getD (e.2 % hp / src.geo.g) []
    let b := boundOf o e.1 bs
    ⟨b.1, ⟨{ prec0 0 with cls := if e.1.nan then .nan else .fin }, [], b.2.map (fun x => { mark0 with sat := x.any (·.satd) })⟩,
      [bs.map (fun x => if (o.tokens e.1 x).isEmpty then 0 else 3)], false, b.2.map (fun x => x.any (·.unb)),
      b.2.map (fun x => x.any (·.blk.envSoil)), bs.map (o.segLook e.1), e.1.nan, e.1.soil⟩)

/-- The queries of BOUND and RECALL_BOUND. -/
def boundQueries (s : State) (j : Job) (src : KvSrc) : List PQuery :=
  let p := part s j
  let f := pressF j
  let d := src.geo.d
  let hp := f.kc * src.geo.g
  let n := f.rows * hp
  let segA := j.xva 32
  let rot := if f.rot then some (rotX j) else none
  queriesOf s p f.qa f.qf d n hp (j.xfld 0 6) f.q16 rot (fun r => if f.segf then numAt s p (segA + 2 * r) 2 else 0)

/-- The row-heads of BOUND and RECALL_BOUND, bounded (R148). -/
def boundRows (s : State) (j : Job) (src : KvSrc) : List RowHead :=
  boundHeads (pressOpt j (pressF j)) src ((pressF j).kc * src.geo.g) (boundQueries s j src)

/-- What BOUND and RECALL_BOUND write: one FP32 reference per row-head (R148). -/
def boundOuts (s : State) (j : Job) (src : KvSrc) : List Span :=
  let p := part s j
  let f := pressF j
  let hp := f.kc * src.geo.g
  let n := f.rows * hp
  let refA := j.xva 24
  [wr p refA (4 * n)]

/-- Whether BOUND or RECALL_BOUND leaves a span to the Sort units (06 R191): an envelope of a complete level-1 span in Tier 2. -/
def sortSide (s : State) (j : Job) (x : Span) : Bool :=
  j.opcode == 0x0606 && (kvNamed s j).any (fun r =>
    x.len == 2 * r.d && decide (x.addr < r.base + 4096 + 64 * (j.lenOf r (j.xfld 6 2) / 4096) * r.envBytes) &&
    (pagesIn s r.p 4 x.addr (x.addr + x.len)).any (fun e => (pageOf s r.p e.2.1).any (fun g => g.tier == 2)))

/-- What BOUND and RECALL_BOUND read through the tiers; leaves in Tier 2 are evaluated where they lie. -/
def boundIns (s : State) (j : Job) (src : KvSrc) : List Span :=
  let p := part s j
  let f := pressF j
  let d := src.geo.d
  let hp := f.kc * src.geo.g
  let n := f.rows * hp
  let es := elemSize f.qf
  let segA := j.xva 32
  let refA := j.xva 24
  let rs := boundRows s j src
  [rd p f.qa (n * d * es)] ++ (if f.segf then [rd p segA (2 * f.rows)] else []) ++
    (if f.fin then [rd p refA (4 * n)] else []) ++ rotSpan p f.rot (rotX j) ++
    (blockSpans p hp src true rs).filter (fun x => !sortSide s j x)

/-- BOUND or RECALL_BOUND of descriptor j: the references of all its row-heads (R140, 06 R191). -/
def boundExec (s : State) (j : Job) : State :=
  let id := j.id
  let p := part s j
  let f := pressF j
  match pressErr s j f ⟨true, false, false⟩ with
  | some e => finish s id e
  | none => match sourceOf s j f false false with
    | .inl e => finish s id e
    | .inr src =>
      let hp := f.kc * src.geo.g
      let n := f.rows * hp
      let refA := j.xva 24
      let qs := boundQueries s j src
      let rs := boundRows s j src
      let ins := boundIns s j src
      let outs := boundOuts s j src
      match regionErr s outs with
      | some e => finish s id e
      | none => withMemOr s id (ins ++ outs) (pressFault s id p (ins ++ outs) 0 0) (fun s =>
        let old := if f.fin then elemsAt s p refA n 5 else []
        let soil (i : Nat) : Bool := (qs[i]?).any (fun q => q.soil) || (f.fin && soiledAt s p (refA + 4 * i) 4)
        let s1 := (rs.zipIdx).foldl (fun t e =>
          let m := if f.fin then vmax (old.getD e.2 (.inf true)) e.1.m else e.1.m
          writeAt t p (refA + 4 * e.2) (leBytes 4 (fp32Bits m)) (fun _ => soil e.2)) s
        let c := (pressCores s j 1).headD 0
        let nb := (src.heads.map (fun h => h.length)).foldl max 0
        let steps := pressSteps hp src f.q16 rs 0 nb
        let satd := rs.any (fun r => r.p.marks.any (·.sat))
        pressEnd (coreCount s1 c 11 steps) id [c] nb (if satd then 1 else 0) rs ((List.range n).any soil) steps ((ins.map (fun x => x.len)).sum))

/-- BOUND (R140). -/
def execBound (id : Nat) (s : State) : Out := pressOp s id 0x0505 55 (boundExec s)

/-! ## FINISH (R144, R147) -/

/-- Check 9 of FINISH (R147). -/
def finishErr (s : State) (j : Job) : Option Ending :=
  let f := pressF j
  let d := 32 * f.kf
  let n := f.rows * (f.kc + 1)
  let rb := n * recBytes d
  fields [rsvd j 12 16, rsvd j 16 24, aFmt j 24 isFloat, a52 j 32, a52 j 40, bad (j.fld 40 8 == 0) 40,
      bad (f.rows == 0 || decide (4096 < f.rows)) 48, bad (!([2, 3, 4, 6, 8].contains f.kf)) 50, bad (decide (256 < f.kc + 1)) 51,
      bad (f.opn || f.skp || f.q16 || f.rot) 52, rsvd j 53 55, badCore s j 55]
    <|> fields [bad (overlap f.ra rb f.oa (n * d * elemSize f.of)) 40]

/-- What FINISH reads and writes: records; outputs and statistics. -/
def finishSpans (s : State) (j : Job) : List Span :=
  let p := part s j
  let f := pressF j
  let d := 32 * f.kf
  let n := f.rows * (f.kc + 1)
  let rb := n * recBytes d
  [rd p f.ra rb, wr p f.oa (n * d * elemSize f.of)] ++ (if f.sa = 0 then [] else [wr p f.sa (16 * n)])

/-- FINISH (R144, R147, R149). The spec gives it no reference: each row-head's M is a free value (notes/assumptions/29.md). -/
def execFinish (id : Nat) (s : State) : Out :=
  pressOp s id 0x0503 55 (fun j =>
    let p := part s j
    let f := pressF j
    let d := 32 * f.kf
    let n := f.rows * (f.kc + 1)
    let rb := n * recBytes d
    match finishErr s j with
    | some e => finish s id e
    | none =>
      let spans := finishSpans s j
      match regionErr s spans with
      | some e => finish s id e
      | none => withMemOr s id spans (pressFault s id p spans 0 0) (fun s =>
        let recs := readRecs s p f.ra d n
        let ms := (List.range n).map (fun i => fp32.decode ((Config.freeWord (s.free + i)).toNat % 2 ^ 32))
        let e := emitRows { s with free := s.free + n } p f.oa f.of f.rnd f.sa (recs.zip (ms.map (fun m => (m, false))))
        let need := if f.ext then ((recs.zip ms).filter (fun e => needsRepress e.1 e.2)).length else 0
        let c := (pressCores s j 1).headD 0
        let steps := 300 + cdiv (n * d) 16
        pressEnd (coreCount e.1 c 11 steps) id [c] 0 (e.2 ||| (if need = 0 then 0 else 32) ||| 65536 * sat 65535 need) []
          (recs.any (fun r => r.soil)) steps rb))

/-! ## DECODE_BATCH (R153, R161) -/

/-- An entry of a batch's list (R161). -/
structure BatchEntry where
  obj : Nat
  pos : Nat
  seg : Nat
  qa : Nat
  oa : Nat
  ok : Bool
  deriving DecidableEq, Repr

/-- Entry e of the list at a. -/
def batchEntry (s : State) (p a e : Nat) : BatchEntry :=
  let n (o k : Nat) : Nat := numAt s p (a + 32 * e + o) k
  ⟨n 0 4 % 2 ^ 20, n 4 6, n 10 2, n 16 8 % 2 ^ 52, n 24 8 % 2 ^ 52,
    n 0 4 / 2 ^ 20 == 0 && n 12 4 == 0 && decide (n 16 8 < 2 ^ 52) && decide (n 24 8 < 2 ^ 52)⟩

/-- The fields of a DECODE_BATCH (R161). -/
def batchF (j : Job) : PressF :=
  let b (k : Nat) : Bool := j.bits 38 k 1 == 1
  ⟨0, j.fld 36 1, 0, j.fld 37 1, j.va 24, 0, 1, j.fld 34 1, j.fld 35 1, b 0, b 1, b 2, b 3, b 4,
    Rnd.ofCode (j.bits 38 5 2), b 7, j.bits 39 0 2, j.bits 39 2 1 == 1, j.bits 39 4 4, j.fld 40 1, false⟩

/-- The length bucket of a region length (R153). -/
def bucketOf (n : Nat) : Nat := ((List.range 15).filter (fun j => decide (2 ^ (j + 12) < n))).length

/-- The order of a batch's tickets (R153): pairs entry * kc + head, from the longest bucket down, then in list order. -/
def batchOrder (lens : List Nat) (kc : Nat) : List Nat :=
  (List.range 16).reverse.flatMap (fun b => ((lens.zipIdx).filter (fun e => bucketOf e.1 == b)).flatMap (fun e =>
    (List.range kc).map (fun h => e.2 * kc + h)))

/-- Ticket counter k of partition p (11 R371). -/
def ticketOf (s : State) (p k : Nat) : Ticket := tget (fun _ => ticket0) s.tp.tickets (p * 256 + k)

/-- Store ticket counter k of partition p. -/
def setTicket (s : State) (p k : Nat) (t : Ticket) : State :=
  { s with tp := { s.tp with tickets := tset (fun _ => ticket0) s.tp.tickets (p * 256 + k) t } }

/-- Descriptor id takes counter k of partition p for n tickets (11 R372). -/
def takeTicket (s : State) (p k id n : Nat) (order lens : List Nat) : State :=
  let t := ticketOf s p k
  setTicket s p k ⟨some id, 0, n, t.gen + 1, [], [], [], t.late, [], order, lens⟩

/-- The bytes of row-heads that entry e of a batch writes: outputs and statistics, or records. -/
def batchOut (p : Nat) (f : PressF) (r : Region) (e : BatchEntry) (idx i n : Nat) : List Span :=
  let hp := f.kc * r.g
  if f.fin then
    [wr p (e.oa + i * r.d * elemSize f.of) (n * r.d * elemSize f.of)] ++
      (if f.sa = 0 then [] else [wr p (f.sa + (idx * hp + i) * 16) (16 * n)])
  else [wr p (e.oa + i * recBytes r.d) (n * recBytes r.d)]

/-- The region of an entry, where descriptor id may name it. -/
def batchRegion (s : State) (p id : Nat) (e : BatchEntry) : Option Region :=
  match objNamed s p e.obj id with
  | some o => if o.kind = 1 then regionOf s p e.obj else none
  | none => none

/-- Check 9 of DECODE_BATCH (R161). -/
def batchErr (j : Job) : Option Ending :=
  let cnt := j.fld 32 2
  let f := batchF j
  let geo0 : KvGeo × Nat × Bool × Bool := ⟨⟨256, 1, 256, false, false⟩, 65536, true, false⟩
  fields ([rsvd j 12 16, a52 j 16, a52 j 24, bad (cnt == 0 || decide (4096 < cnt)) 32, bad (f.kc == 0) 35,
      bad (decide (f.qf < 2) || decide (4 < f.qf)) 36, bad (if f.fin then !isFloat f.of else f.of != 0) 37,
      bad (f.fin && !f.opn) 38, bad (!f.ext && !(f.opn && f.fin)) 38, bad (j.bits 39 3 1 != 0 || f.s1 != 0) 39,
      bad (decide (3 < f.fmts)) 40, rsvd j 41 56, xunused true j 0 6, xunused true j 32 40, xunused true j 56 62] ++
      extErr j { f with segf := false } f.ext geo0)

/-- What DECODE_BATCH finds wrong with the regions of its entries (R153, R161). -/
def batchWrong (s : State) (j : Job) (id : Nat) : Option Ending :=
  let p := part s j
  let cnt := j.fld 32 2
  let f := batchF j
  let la := j.va 16
  let es := (List.range cnt).map (batchEntry s p la)
  let regs := es.map (batchRegion s p id)
  let l := j.xfld 6 2
  let rs := regs.filterMap (fun r => r)
  let over' := (es.zip rs).any (fun e =>
    let n := f.kc * e.2.g
    !f.fin && overlap e.1.oa (n * recBytes e.2.d) e.1.qa (n * e.2.d * elemSize f.qf))
  chk over' (fieldErr 16) <|> rs.findSome? (fun r => firstErr [chk (decide (r.hkv < f.kf + f.kc)) (fieldErr 34), chk (f.segf && !r.segs) (fieldErr 39),
    chk (decide (r.layers ≤ l)) (fieldErr 70), chk (f.rot && decide (r.d < j.xfld 44 2)) (fieldErr 108),
    (if f.ext then (List.range f.kc).findSome? (fun i => (r.recallFor id l (f.kf + i)).bind (fun x =>
      if !f.skp then some (fieldErr 38) else chk (x.tau.toNat != j.xfld 20 4) (fieldErr 84))) else none),
    fmtErr f.fmts (kTag r.k4) (vTag r.v4)])

/-- What the tickets of a DECODE_BATCH write. -/
def batchOuts (s : State) (j : Job) (id : Nat) : List Span :=
  let p := part s j
  let cnt := j.fld 32 2
  let f := batchF j
  let la := j.va 16
  let es := (List.range cnt).map (batchEntry s p la)
  let regs := es.map (batchRegion s p id)
  let rs := regs.filterMap (fun r => r)
  ((es.zip rs).zipIdx).flatMap (fun e => batchOut p f e.1.2 e.1.1 e.2 0 (f.kc * e.1.2.g))

/-- DECODE_BATCH (R153, R161): it takes the lowest free counter of 240 to 255 and hands its pairs out as tickets (11 R371). -/
def execDecodeBatch (id : Nat) (s : State) : Out :=
  runOp s id 0x0501 (fun j =>
    let p := part s j
    let cnt := j.fld 32 2
    let f := batchF j
    let la := j.va 16
    let es := (List.range cnt).map (batchEntry s p la)
    let regs := es.map (batchRegion s p id)
    let l := j.xfld 6 2
    match ((List.range 16).map (fun i => 240 + i)).find? (fun k => (ticketOf s p k).job.isNone) with
    | none => s
    | some k =>
    match batchErr j with
    | some e => finish s id e
    | none => withMem s id [rd p la (32 * cnt)] (fun s =>
      if es.any (fun e => !e.ok) ∨ regs.any (fun r => r.isNone) then finish s id (fieldErr 16)
      else
        let rs := regs.filterMap (fun r => r)
        let wrong := batchWrong s j id
        match wrong with
        | some e => finish s id e
        | none =>
          let outs := batchOuts s j id
          match regionErr s outs with
          | some e => finish s id e
          | none =>
            let lens := rs.map (fun r => j.lenOf r l)
            let s1 := takeTicket s p k id (cnt * f.kc) (batchOrder lens f.kc) lens
            keepRunning (modJob s1 id (fun j => { j with status := stDone, detail := 0 })) id))

/-- A ticket ends with these detail bits and needs: they join what the descriptor has. -/
def noteTicket (s : State) (id low high : Nat) (soiled : Bool) : State :=
  modJob s id (fun j => { j with
    status := if soiled then stDoneSoiled else j.status
    detail := BitVec.ofNat 32 ((j.detail.toNat % 65536 ||| low) + 65536 * sat 65535 (j.detail.toNat / 65536 + high)) })

/-- Descriptor j loses its ticket counter. -/
def freeTicket (s : State) (p k : Nat) : State :=
  let t := ticketOf s p k
  setTicket s p k { t with job := none, out := [], redo := [], spent := [], order := [], lens := [] }

/-- Ticket v of a batch is worked on core c (R153); `done` is what follows once its outputs are written. -/
def batchTicket (s : State) (j : Job) (p k v c : Nat) (done : State → State) : State :=
  let t := ticketOf s p k
  let f := batchF j
  let id := j.id
  let x := t.order.getD v 0
  let idx := x / f.kc
  let h := x % f.kc
  let e := batchEntry s p (j.va 16) idx
  match batchRegion s p id e with
  | none => freeTicket (finish s id (tierErr cUnmapped e.obj)) p k
  | some r =>
    let l := j.xfld 6 2
    let n := r.g
    let hp := f.kc * r.g
    let src := regionSrc s r l (f.kf + h) 1 (t.lens.getD idx 0) (if f.ext then some id else none)
    let qa := e.qa + h * n * r.d * elemSize f.qf
    let refA := j.xva 24 + (idx * hp + h * n) * 4
    let oa := if f.fin then e.oa + h * n * r.d * elemSize f.of else e.oa + h * n * recBytes r.d
    let qs := queriesOf s p qa f.qf r.d n n e.pos f.q16 (if f.rot then some (rotX j) else none) (fun _ => if f.segf then e.seg else 0)
    let heads := headsOf (pressOpt j f) src n qs (if f.ext then elemsAt s p refA n 5 else [])
    let ins := [rd p qa (n * r.d * elemSize f.qf)] ++ rotSpan p f.rot (rotX j) ++ (if f.ext then [rd p refA (4 * n)] else []) ++
      blockSpans p n src true heads ++ (if f.fin || f.opn then [] else [rd p oa (n * recBytes r.d)])
    let outs := batchOut p f r e idx (h * n) n
    withMemBy s id (some (c / 8)) (ins ++ outs) (fun cause oid => freeTicket (pressFault s id p (ins ++ outs) (if f.fin then 0 else oa) (n * recBytes r.d) cause oid) p k) (fun s =>
      let old := if f.fin || f.opn then [] else readRecs s p oa r.d n
      let recs := (heads.zipIdx).map (fun e => if f.opn then e.1.p.r else (old.getD e.2 (prec0 r.d)).add e.1.p.r)
      let need := if f.fin && f.ext then ((recs.zip heads).filter (fun e => needsRepress e.1 e.2.m)).length else 0
      let o := if f.fin then emitRows s p oa f.of f.rnd (if f.sa = 0 then 0 else f.sa + (idx * hp + h * n) * 16)
          (recs.zip (heads.map (fun h => (h.m, h.seen))))
        else (writeRecs s p oa r.d recs, 0)
      let soiled := recs.any (fun q => q.soil)
      let det := o.2 ||| (if need = 0 then 0 else 32)
      let steps := pressSteps n src f.q16 heads 0 (src.heads.map (fun h => h.length)).sum + (if f.fin then cdiv (n * r.d) 16 else 0)
      let s1 := pressNotes (coreCount o.1 c 11 steps) [c] (src.heads.map (fun h => h.length)).sum det heads soiled
      done (noteTicket (ranOn s1 id c (j.steps + steps) (j.moved + (ins.map (fun x => x.len)).sum)) id (pressDetail det heads soiled) need soiled))

/-! ## Pleat mode (R157) -/

/-- fp(): to nearest FP32. -/
def fp (v : Val) : Val := (fp32.round .rne v).1

/-- Whether fp() of some of the values saturates (02 R63). -/
def fpOver (vs : List Val) : Bool := vs.any (fun v => (fp32.round .rne v).2)

/-- The V4's exponential and logarithm: free functions where the spec states no result (notes/assumptions/30.md). -/
def v4exp (v : Val) : Val := match v with
  | .nan => .nan
  | .inf true => .fin false 0
  | .inf false => .inf false
  | .fin _ _ => fp (Val.ofRat (Config.v4 1 v.rat))

/-- The V4's logarithm. -/
def v4log (v : Val) : Val := match v with
  | .nan => .nan
  | .inf _ => .inf false
  | .fin _ m => if m = 0 then .inf true else fp (Val.ofRat (Config.v4 3 v.rat))

/-- Running statistics of a Pleat row. -/
structure PleatRow where
  m : Val
  l : Val
  acc : List Val
  sat : Bool
  deriving DecidableEq, Repr

/-- The exact dot product of a query and a key. -/
def keyDot (xs : List Val) (b : Block) (t : Nat) : Val :=
  ((xs.zipIdx).map (fun e => Val.mul e.1 (keyOf' b t e.2))).foldl Val.add (.fin false 0)

/-- One block of PLEAT. -/
def pleatBlock (xs : List Val) (scale : Val) (r : PleatRow) (b : Block) (ts : List Nat) : PleatRow :=
  if ts.isEmpty then r else
  let ds := ts.map (keyDot xs b)
  let sc := ds.map (fun x => Val.mul scale (fp x))
  let ss := sc.map fp
  let mn := ss.foldl Val.max r.m
  let c := v4exp (fp (Val.add r.m mn.neg))
  let cut := r.acc.map (fun a => Val.mul a c)
  let r1 : PleatRow := ⟨mn, fp (Val.mul r.l c), cut.map fp, r.sat || fpOver (ds ++ sc ++ Val.mul r.l c :: cut)⟩
  (ts.zip ss).foldl (fun q e =>
    let p := v4exp (fp (Val.add e.2 mn.neg))
    let pv := (List.range q.acc.length).map (fun i => Val.mul p (valueOf b e.1 i))
    let sum := (q.acc.zip pv).map (fun a => Val.add a.1 (fp a.2))
    ⟨q.m, fp (Val.add q.l p), sum.map fp, q.sat || fpOver (Val.add q.l p :: pv ++ sum)⟩) r1

/-- A quotient under 02 R66; a zero divisor gives an infinity, or NaN for zero over zero. -/
def vdiv (x y : Val) : Val :=
  match y with
  | .fin n m => if m = 0 then (if x.isZero || x.isNan then .nan else .inf (x.sign != n)) else Val.mul x (Val.ofRat (1 / y.rat))
  | .inf n => if x.isFin then .fin (x.sign != n) 0 else .nan
  | .nan => .nan

/-- What PLEAT reads. -/
def pleatIns (s : State) (j : Job) (src : KvSrc) : List Span :=
  let p := part s j
  let f := pressF j
  let d := src.geo.d
  let hp := f.kc * src.geo.g
  let n := f.rows * hp
  let o : PressOpt := ⟨xrat j 16, 0, false, false, f.mask, j.xfld 8 6, false⟩
  let q0 (i : Nat) : PQuery := ⟨[], [], false, j.xfld 0 6 + i / hp, 0, false⟩
  let bsOf (i : Nat) : List Block := src.heads.getD (i % hp / src.geo.g) []
  let seen (i : Nat) : List Nat := (bsOf i).map (fun b => if (o.tokens (q0 i) b).isEmpty then 0 else 2)
  let rs : List RowHead := (List.range n).map (fun i => ⟨.inf true, ⟨prec0 0, [], []⟩, [seen i], false, [], [], [], false, false⟩)
  [rd p f.qa (n * d * 2)] ++ rotSpan p f.rot (rotX j) ++
    blockSpans p hp src false rs

/-- What PLEAT writes. -/
def pleatOuts (s : State) (j : Job) (src : KvSrc) : List Span :=
  let p := part s j
  let f := pressF j
  let d := src.geo.d
  let hp := f.kc * src.geo.g
  let n := f.rows * hp
  [wr p f.oa (n * d * elemSize f.of)] ++ (if f.sa = 0 then [] else [wr p f.sa (16 * n)])

/-- PLEAT (R157). -/
def execPleat (id : Nat) (s : State) : Out :=
  pressOp s id 0x0504 55 (fun j =>
    let p := part s j
    let f := pressF j
    match pressErr s j f ⟨false, true, false⟩ with
    | some e => finish s id e
    | none => match sourceOf s j f false false with
      | .inl e => finish s id e
      | .inr src =>
        let d := src.geo.d
        let hp := f.kc * src.geo.g
        let n := f.rows * hp
        let o : PressOpt := ⟨xrat j 16, 0, false, false, f.mask, j.xfld 8 6, false⟩
        let row (i : Nat) : List Val :=
          let xs := elemsAt s p (f.qa + i * d * 2) d 2
          if f.rot then rotate xs (j.xfld 0 6 + i / hp) (rotX j).theta (rotX j).dr (rotX j).halves (rotTable s p (rotX j)) else xs
        let q0 (i : Nat) : PQuery := ⟨[], [], false, j.xfld 0 6 + i / hp, 0, false⟩
        let bsOf (i : Nat) : List Block := src.heads.getD (i % hp / src.geo.g) []
        let seen (i : Nat) : List Nat := (bsOf i).map (fun b => if (o.tokens (q0 i) b).isEmpty then 0 else 2)
        let res := (List.range n).map (fun i => (bsOf i).foldl (fun r b => pleatBlock (row i) (.fin false o.alpha) r b (o.tokens (q0 i) b))
          (⟨.inf true, .fin false 0, List.replicate d (.fin false 0), false⟩ : PleatRow))
        let soil (i : Nat) : Bool := soiledAt s p (f.qa + i * d * 2) (2 * d) ||
          (bsOf i).any (fun b => b.soil && !(o.tokens (q0 i) b).isEmpty)
        let inv (i : Nat) (b : Block) : Bool := (o.tokens (q0 i) b).any (fun t =>
          ((b.ks.getD t []) ++ (b.vs.getD t [])).any (fun x => (sf8 x).isNone))
        let marks (i : Nat) : List Mark := (bsOf i).map (fun b => ⟨b.soil && !(o.tokens (q0 i) b).isEmpty, false, inv i b, false⟩)
        let rs : List RowHead := (List.range n).map (fun i => ⟨.inf true, ⟨prec0 0, [], marks i⟩, [seen i], false, [], [], [],
          (row i).any (fun x => !x.isFin), soiledAt s p (f.qa + i * d * 2) (2 * d)⟩)
        let ins := pleatIns s j src
        let outs := pleatOuts s j src
        match regionErr s outs with
        | some e => finish s id e
        | none => withMemOr s id (ins ++ outs) (pressFault s id p (ins ++ outs) 0 0) (fun s =>
          let w := (res.zipIdx).foldl (fun acc e =>
            let ys := if e.1.m = .inf true then List.replicate d Val.nan else e.1.acc.map (fun a => fp (vdiv a e.1.l))
            let o := encodeAll f.of f.rnd ys
            let lse := Val.add e.1.m (v4log e.1.l)
            let st := leBytes 4 (fp32Bits e.1.m) ++ leBytes 4 (fp32Bits (fp lse)) ++ leBytes 4 0 ++ leBytes 4 (fp32Bits e.1.m)
            let over' := o.2 || e.1.sat || fpOver (e.1.acc.map (fun a => vdiv a e.1.l)) || (f.sa != 0 && fpOver [lse])
            let t := writeAt acc.1 p (f.oa + e.2 * d * elemSize f.of) o.1 (fun _ => soil e.2)
            (if f.sa = 0 then t else writeAt t p (f.sa + 16 * e.2) st (fun _ => soil e.2),
              acc.2 ||| (if over' then 1 else 0) ||| (if ys.any Val.isNan then 2 else 0))) (s, 0)
          let c := (pressCores s j 1).headD 0
          let steps := pressSteps hp src true rs 0 ((src.heads.map (fun h => h.length)).foldl max 0) + cdiv (n * d) 16
          pressEnd (coreCount w.1 c 11 steps) id [c] ((src.heads.map (fun h => h.length)).foldl max 0) w.2 rs ((List.range n).any soil) steps ((ins.map (fun x => x.len)).sum)))

/-! ## Backward (R154-R156, R162) -/

/-- Rotate a row back by −a in the lane word (R154). -/
def rotateBack (xs : List Val) (p : Nat) (r : Rot) (table : Option (List Val)) : List Val :=
  (xs.zipIdx).map (fun e =>
    let k := e.2
    if r.dr ≤ k then e.1 else
      let i := if r.halves then k % (r.dr / 2) else k / 2
      let first := if r.halves then decide (k < r.dr / 2) else k % 2 == 0
      let o := xs.getD (if r.halves then (if first then k + r.dr / 2 else k - r.dr / 2) else (if first then k + 1 else k - 1)) .nan
      let a := angle p (rotFreq r.theta table r.dr i)
      let c := builtin 0x10 a
      let n := builtin 0x0F a
      if first then rotSum e.1 c o n false else rotSum e.1 c o n true)

/-- A gradient accumulator: its word, whether its class is NaN, whether a term saturated (R155). -/
structure Grad where
  w : Int
  nan : Bool
  satd : Bool
  deriving DecidableEq, Repr

/-- Add a term, whose magnitude must stay below 2^lim (R155). -/
def Grad.add (g : Grad) (lim : Nat) (t : Val) : Grad :=
  match t with
  | .nan => { g with nan := true }
  | .inf _ => { g with nan := true, satd := true }
  | .fin _ m => if (2 ^ lim : Nat) ≤ m then { g with nan := true, satd := true } else { g with w := wrap160 (g.w + grid88 t.rat) }

/-- What one row-head contributes: by visible token p·dO and α·dS, with its dQ (R154). -/
structure BackRow where
  head : Nat
  toks : List (Nat × Val × Val)
  q : PQuery
  dO : List Val
  dQ : List Grad
  soil : Bool
  nan : Bool
  /-- A NaN query, or an invalid scale, was pressed (R169). -/
  nanIn : Bool
  /-- By block: how much of its segment record was read, whether it is read. -/
  looks : List Nat
  reads : List Bool
  deriving DecidableEq, Repr

/-- The backward pass of one row-head (R154). -/
def backRow (o : PressOpt) (q : PQuery) (bs : List Block) (head d : Nat) (dO out : List Val) (lse : Val) (soil : Bool) : BackRow :=
  let dv := lane (((dO.zip out).map (fun e => Val.mul e.1 e.2)).foldl Val.add (.fin false 0))
  let a := Val.fin false o.alpha
  let toks := bs.flatMap (fun b => (o.tokens q b).map (fun t =>
    let p := if q.nan then Val.nan else laneExp (ladd (scoreOf q b o.alpha t) lse.neg)
    let dp := lane (((dO.zipIdx).map (fun e => Val.mul e.1 (valueOf b t e.2))).foldl Val.add (.fin false 0))
    let ds := lane (Val.mul p (Val.add dp dv.neg))
    (64 * b.at'.j + t, p, Val.mul a ds)))
  let flat := bs.flatMap (fun b => (o.tokens q b).map (fun t => (b, t)))
  ⟨head, toks, q, dO, (List.range d).map (fun i => ((toks.zip flat).foldl (fun (g : Grad) e =>
      g.add 23 (Val.mul e.1.2.2 (keyOf' e.2.1 e.2.2 i))) ⟨0, q.nan, false⟩)),
    soil || q.soil || bs.any (fun b => b.soil && !(o.tokens q b).isEmpty), q.nan,
    q.nan || flat.any (fun e => ((e.1.ks.getD e.2 []) ++ (e.1.vs.getD e.2 [])).any (fun x => (sf8 x).isNone)),
    bs.map (o.segLook q), bs.map (fun b => !(o.tokens q b).isEmpty)⟩

/-- The row-head as `rowGroups` counts it. -/
def BackRow.asHead (b : BackRow) : RowHead :=
  ⟨.nan, ⟨prec0 0, [], []⟩, [b.reads.map (fun x => if x then 2 else 0)], false, [], [], b.looks, b.q.nan, b.q.soil⟩

/-- A gradient word in memory. -/
def gradAt (s : State) (p a : Nat) : Grad := ⟨sgn 160 (numAt s p a 20), tget clean s.tm.nans (akey p a), false⟩

/-- Store a gradient word with its class (R155, 02 R66). -/
def putGrad (s : State) (p a : Nat) (g : Grad) (soil : Bool) : State :=
  let t := writeAt s p a (leBytes 20 (unsgn 160 g.w)) (fun _ => soil)
  { t with tm := { t.tm with nans := tset clean t.tm.nans (akey p a) g.nan } }

/-- Add a term to the gradient word at a (R155); whether one saturated, and whether an accumulator became NaN. -/
def addGrad (acc : State × Bool × Bool) (p a : Nat) (t : Val) (soil : Bool) : State × Bool × Bool :=
  let old := gradAt acc.1 p a
  let g := old.add 32 t
  (putGrad acc.1 p a g (soil || soiledAt acc.1 p a 20), acc.2.1 || g.satd, acc.2.2 || (g.nan && !old.nan))

/-- Check 9 and the formats of PRESS_BACKWARD (R162). -/
def backwardErr (s : State) (j : Job) (r : Region) : Option Ending :=
  let p := part s j
  let rows := j.xfld 56 2
  let kf := j.xfld 58 1
  let kc := j.xfld 59 1
  let rotf := j.xbits 60 3 1 == 1
  let mask := j.xbits 60 4 2
  let segf := j.xbits 60 6 1 == 1
  let fmts := j.xfld 61 1
  let l := j.xfld 6 2
  let alpha := fp32.decode (j.xfld 16 4)
  let core := j.fmt 48
  fields ([aFmt j 16 (fun c => decide (2 ≤ c) && decide (c ≤ 4)), a52 j 24, aFmt j 32 isFloat, aFmt j 40 isFloat,
      bad ((coreAt s p core).isNone) 54, bad (j.bits 55 4 4 != 0) 55, bad (decide (r.layers ≤ l)) 70,
      bad (mask == 2 && j.xfld 8 6 == 0) 72, xunused (decide (mask < 2)) j 8 14, xunused true j 14 16,
      bad (!alpha.isFin || alpha.isZero || alpha.isNeg) 80, xunused true j 20 24, bad (j.xfld 24 8 == 0) 88, xa52 j 24,
      bad (segf && j.xfld 32 8 == 0) 96, xunused (!segf) j 32 40, if segf then xa52 j 32 else none, xunused true j 47 48,
      bad (rows == 0 || decide (4096 < rows)) 120, bad (decide (r.hkv < kf + kc)) 122, bad (kc == 0) 123,
      bad (j.xbits 60 7 1 != 0 || (segf && !r.segs)) 124, bad (decide (3 < fmts)) 125, xunused true j 62 64] ++ rotErr j rotf r.d)
    <|> fmtErr fmts (kTag r.k4) (vTag r.v4)

/-- The options of a PRESS_BACKWARD (R162): it never skips. -/
def backOpt (j : Job) : PressOpt := ⟨xrat j 16, 0, false, false, j.xbits 60 4 2, j.xfld 8 6, j.xbits 60 6 1 == 1⟩

/-- What PRESS_BACKWARD presses: the keys below the visible length as it began (R166). -/
def backSrc (s : State) (j : Job) (r : Region) : KvSrc :=
  regionSrc s r (j.xfld 6 2) (j.xfld 58 1) (j.xfld 59 1) (j.lenOf r (j.xfld 6 2)) none

/-- The row-heads of PRESS_BACKWARD (R154). -/
def backRows (s : State) (j : Job) (r : Region) : List BackRow :=
  let p := part s j
  let kf := j.xfld 58 1
  let hp := j.xfld 59 1 * r.g
  let n := j.xfld 56 2 * hp
  let d := r.d
  let qf := j.fmt 16
  let es := elemSize qf
  let eo := elemSize (j.fmt 32)
  let o := backOpt j
  let src := backSrc s j r
  let rot := if j.xbits 60 3 1 == 1 then some (rotX j) else none
  let qs := queriesOf s p (j.va 16) qf d n hp (j.xfld 0 6) (j.xbits 60 0 1 == 1) rot
    (fun k => if o.segments then numAt s p (j.xva 32 + 2 * k) 2 else 0)
  (qs.zipIdx).map (fun e =>
    let i := e.2
    let h := i % hp / r.g
    backRow o e.1 (src.heads.getD h []) (kf + h) d (elemsAt s p (j.va 24 + i * d * es) d qf) (elemsAt s p (j.va 32 + i * d * eo) d (j.fmt 32))
      (fp32.decode (numAt s p (j.xva 24 + 16 * i + 4) 4))
      (soiledAt s p (j.va 24 + i * d * es) (d * es) || soiledAt s p (j.va 32 + i * d * eo) (d * eo) || soiledAt s p (j.xva 24 + 16 * i) 16))

/-- What PRESS_BACKWARD reads and writes (R154, R155); of a wholly masked block, nothing (R139). -/
def backwardSpans (s : State) (j : Job) (r : Region) : List Span :=
  let p := part s j
  let rows := j.xfld 56 2
  let d := r.d
  let hp := j.xfld 59 1 * r.g
  let n := rows * hp
  let L := j.lenOf r (j.xfld 6 2)
  let base := j.va 48
  let es := elemSize (j.fmt 16)
  let eo := elemSize (j.fmt 32)
  let ei := elemSize (j.fmt 40)
  let blocks := blockSpans p hp (backSrc s j r) false ((backRows s j r).map BackRow.asHead)
  let grads := if L = 0 then [] else [wr p base (2 * L * r.hkv * d * 20), rd p base (2 * L * r.hkv * d * 20)]
  [rd p (j.va 16) (n * d * es), rd p (j.va 24) (n * d * es), rd p (j.va 32) (n * d * eo), rd p (j.xva 24) (16 * n)] ++
    (if (backOpt j).segments then [rd p (j.xva 32) (2 * rows)] else []) ++ rotSpan p (j.xbits 60 3 1 == 1) (rotX j) ++ blocks ++ grads ++
    [wr p (j.va 40) (n * d * ei)]

/-- The dK and dV terms of the row-heads added into their accumulators (R154, R155); whether one saturated, whether one became NaN. -/
def addGrads (s : State) (j : Job) (r : Region) (rs : List BackRow) : State × Bool × Bool :=
  let p := part s j
  let d := r.d
  let L := j.lenOf r (j.xfld 6 2)
  let at' (t h i : Nat) : Nat := j.va 48 + ((t * r.hkv + h) * d + i) * 20
  rs.foldl (fun acc b => b.toks.foldl (fun acc x => (List.range d).foldl (fun acc i =>
    let a1 := addGrad acc p (at' x.1 b.head i) (Val.mul x.2.2 (if b.nan then .nan else Val.ofRat (b.q.elem i))) b.soil
    addGrad a1 p (at' x.1 b.head i + L * r.hkv * d * 20) (Val.mul x.2.1 (b.dO.getD i .nan)) b.soil) acc) acc) (s, false, false)

/-- The dQ rows written (R154); whether one saturated. -/
def writeDq (s : State) (j : Job) (d : Nat) (rs : List BackRow) : State × Bool :=
  let p := part s j
  let ei := elemSize (j.fmt 40)
  (rs.zipIdx).foldl (fun acc e =>
    let v := e.1.dQ.map (fun g => if g.nan then Val.nan else Val.ofRat (acc88 g.w))
    let v1 := if j.xbits 60 3 1 == 1 then rotateBack v (e.1.q.pos) (rotX j) (rotTable acc.1 p (rotX j)) else v
    let o := encodeAll (j.fmt 40) (Rnd.ofCode (j.xbits 60 1 2)) v1
    (writeAt acc.1 p (j.va 40 + e.2 * d * ei) o.1 (fun _ => e.1.soil), acc.2 || o.2)) (s, false)

/-- PRESS_BACKWARD (R154, R155, R162). -/
def execPressBackward (id : Nat) (s : State) : Out :=
  runOp s id 0x0502 (fun j =>
    let p := part s j
    if (coreAt s p (j.fmt 48)).any (behindPriority s) then s else
    match kvNamed s j with
    | none => finish s id (fieldErr 12)
    | some r =>
      match backwardErr s j r with
      | some e => finish s id e
      | none =>
        let src := backSrc s j r
        let rs := backRows s j r
        let spans := backwardSpans s j r
        match regionErr s spans with
        | some e => finish s id e
        | none => withMemOr s id spans (pressFault s id p spans 0 0) (fun s =>
          let g := addGrads s j r rs
          let dq := writeDq g.1 j r.d rs
          let satd := g.2.1 || dq.2 || rs.any (fun b => b.dQ.any (fun g => g.satd))
          let nan := g.2.2 || rs.any (fun b => b.nan || b.dQ.any (fun g => g.nan))
          let soiled := rs.any (fun b => b.soil)
          let c := (coreAt s p (j.fmt 48)).getD 0
          let steps := pressSteps (j.xfld 59 1 * r.g) src (j.xbits 60 0 1 == 1) (rs.map BackRow.asHead) 0
              ((src.heads.map (fun h => h.length)).foldl max 0)
          let s2 := stainIf (rs.any (·.nanIn)) (stainIf soiled (stainIf satd (coreCount dq.1 c 11 steps) (rPrStain c) 0) (rPrStain c) 1)
            (rPrStain c) 2
          let b (q : Bool) (v : Nat) : Nat := if q then v else 0
          finish (ranOn s2 id c steps ((spans.map (fun x => x.len)).sum)) id (doneOf soiled (b satd 1 + b nan 2 + b soiled 8))))

/-- Check 9 of PRESS_GRAD_DRAIN (R162). -/
def gradDrainErr (s : State) (j : Job) : Option Ending :=
  let rows := j.fld 32 4
  let d := 32 * j.fld 36 1
  let unrot := j.bits 37 3 1 == 1
  let heads := j.fld 38 2
  fields ([rsvd j 12 16, a52 j 16, aFmt j 24 isFloat, bad (rows == 0) 32, bad (!([2, 3, 4, 6, 8].contains (j.fld 36 1))) 36, bad (j.bits 37 4 4 != 0) 37,
      bad (unrot && heads == 0) 38, badCore s j 46, rsvd j 47 56, xunused j.ext.isSome j 0 40, xunused j.ext.isSome j 47 48,
      xunused j.ext.isSome j 56 64] ++ (if j.ext.isSome then rotErr j unrot d else []))

/-- What PRESS_GRAD_DRAIN reads and writes (R156). -/
def gradDrainSpans (s : State) (j : Job) : List Span :=
  let p := part s j
  let rows := j.fld 32 4
  let d := 32 * j.fld 36 1
  let unrot := j.bits 37 3 1 == 1
  let zero := j.bits 37 2 1 == 1
  let fmt := j.fmt 24
  let es := elemSize fmt
  let r := rotX j
  [rd p (j.va 16) (rows * d * 20), wr p (j.va 24) (rows * d * es)] ++ rotSpan p unrot r ++
    (if zero then [wr p (j.va 16) (rows * d * 20)] else [])

/-- PRESS_GRAD_DRAIN (R156, R162). -/
def execPressGradDrain (id : Nat) (s : State) : Out :=
  pressOp s id 0x0507 46 (fun j =>
    let p := part s j
    let rows := j.fld 32 4
    let d := 32 * j.fld 36 1
    let unrot := j.bits 37 3 1 == 1
    let zero := j.bits 37 2 1 == 1
    let heads := j.fld 38 2
    let fmt := j.fmt 24
    match gradDrainErr s j with
    | some e => finish s id e
    | none =>
      let es := elemSize fmt
      let r := rotX j
      let spans := gradDrainSpans s j
      match regionErr s spans with
      | some e => finish s id e
      | none => withMemOr s id spans (pressFault s id p spans 0 0) (fun s =>
        let one (acc : State × Bool × Bool × Bool) (k : Nat) : State × Bool × Bool × Bool :=
          let a := j.va 16 + k * d * 20
          let gs := (List.range d).map (fun i => gradAt acc.1 p (a + 20 * i))
          let v := gs.map (fun g => if g.nan then Val.nan else Val.ofRat (acc88 g.w))
          let v1 := if unrot then rotateBack v (j.fld 40 6 + k / heads) r (rotTable acc.1 p r) else v
          let o := encodeAll fmt (Rnd.ofCode (j.bits 37 0 2)) v1
          let soil := (List.range d).map (fun i => soiledAt acc.1 p (a + 20 * i) 20)
          let t := writeAt acc.1 p (j.va 24 + k * d * es) o.1 (byteSoil es soil)
          let t1 := if zero then writeAt t p a (List.replicate (20 * d) 0) noSoil else t
          (t1, acc.2.1 || o.2, acc.2.2.1 || v.any Val.isNan, acc.2.2.2 || soil.any (fun x => x))
        let w := (List.range rows).foldl one (s, false, false, false)
        let c := (coreAt s p (j.fld 46 1)).getD 0
        let s2 := stainIf w.2.2.2 (stainIf w.2.1 w.1 (rPrStain c) 0) (rPrStain c) 1
        let b (q : Bool) (v : Nat) : Nat := if q then v else 0
        finish (ranOn s2 id c 0 (rows * d * (20 + es))) id (doneOf w.2.2.2 (b w.2.1 1 + b w.2.2.1 2 + b w.2.2.2 8))))

end Sys2Proof.Machine
end

