-- ==== Sys2Proof/Machine/SortUnits.lean ====
section
/-! DEFINITION. The contexts of the Sort units (09 R294, R295, R309), which searches and the leaf evaluations of recall draw on, and those
leaf evaluations (06 R191, R192, R202). -/

namespace Sys2Proof.Machine

/-- The channels on which a query waits for pages. -/
def Query.channels (q : Query) : List Nat := (q.pages.map (fun e => e.1)).dedup

/-- The channels on which leaf groups are still to come. -/
def LeafWork.channels (w : LeafWork) : List Nat := (w.groups.map (fun e => e.1)).dedup

/-- Contexts in use on channel ch (R294). -/
def ctxUsed (s : State) (ch : Nat) : Nat :=
  ((s.tm.searches.flatMap (fun x => x.queries)).filter (fun q => q.ctxs.contains ch)).length +
  (s.tm.leaves.filter (fun w => w.ctxs.contains ch)).length

/-- Contexts for a query that holds those of `held` and needs those of `chans`, where n of each channel are taken: 256 a channel (R294,
R309). -/
def grantOne (held chans : List Nat) (n : Tab Nat) : List Nat × Tab Nat :=
  chans.foldl (fun (b : List Nat × Tab Nat) c =>
    let k := tget (fun _ => 0) b.2 c
    if held.contains c ∨ 256 ≤ k then b else (b.1 ++ [c], tset (fun _ => 0) b.2 c (k + 1))) (held, n)

/-- Grant contexts to what descriptor id asked for. -/
def grantJob (acc : State × Tab Nat) (id : Nat) : State × Tab Nat :=
  let s := acc.1
  match s.tm.searches.find? (fun x => x.job == id), s.tm.leaves.find? (fun w => w.job == id) with
  | some x, _ =>
    let r := x.queries.foldl (fun (a : List Query × Tab Nat) q =>
      let g := grantOne q.ctxs q.channels a.2
      (a.1 ++ [{ q with ctxs := g.1 }], g.2)) ([], acc.2)
    ({ s with tm := { s.tm with searches := s.tm.searches.map (fun y => if y.job = id then { y with queries := r.1 } else y) } }, r.2)
  | none, some w =>
    let g := grantOne w.ctxs w.channels acc.2
    ({ s with tm := { s.tm with leaves := s.tm.leaves.map (fun y => if y.job = id then { y with ctxs := g.1 } else y) } }, g.2)
  | none, none => acc

/-- Every context whose last page has come is free (R309). -/
def freeContexts (s : State) : State :=
  { s with tm := { s.tm with
    searches := s.tm.searches.map (fun x => { x with queries := x.queries.map (fun q => { q with ctxs := q.ctxs.filter q.channels.contains }) })
    leaves := s.tm.leaves.map (fun w => { w with ctxs := w.ctxs.filter w.channels.contains }) } }

/-- Grant contexts in the order in which they were asked for (R309). -/
def grantContexts (s : State) : State :=
  let t := freeContexts s
  let asks := t.tm.asks.filter (fun id => t.tm.searches.any (fun x => x.job == id) || t.tm.leaves.any (fun w => w.job == id))
  (asks.foldl grantJob ({ t with tm := { t.tm with asks := asks } }, (List.range 32).map (fun c => (c, ctxUsed t c)))).1

/-- Descriptor id asks for contexts. -/
def askContexts (s : State) (id : Nat) : State := grantContexts { s with tm := { s.tm with asks := s.tm.asks ++ [id] } }

/-- The leaf evaluation of descriptor id has ended. -/
def dropLeaves (s : State) (id : Nat) : State :=
  if s.tm.leaves.any (fun w => w.job == id) then
    grantContexts { s with tm := { s.tm with leaves := s.tm.leaves.filter (fun w => w.job != id) } }
  else s

/-- Descriptor id, which evaluates the leaf groups `groups` of region obj of partition p in the Deep tier, goes on once they have come;
`fault`: the carrier or the key is not there (R294, 06 R191, 08 R273). -/
def withLeaves (s : State) (id p obj : Nat) (groups : List (Nat × Nat × Nat × Nat)) (fault : Nat → Nat → State) (perform : State → State) :
    State :=
  match s.tm.leaves.find? (fun w => w.job == id) with
  | some w => if w.groups.isEmpty then perform s else markWaits s id
  | none =>
    if groups.isEmpty then perform s
    else match deepErr s p with
    | some c => fault c obj
    | none => markWaits (askContexts { s with tm := { s.tm with leaves := s.tm.leaves ++ [⟨id, p, obj, groups, []⟩] } } id) id

/-- The leaf group that channel ch reads next: of the context that asked first (R294). -/
def nextLeaves (s : State) (ch : Nat) : Option (LeafWork × (Nat × Nat × Nat)) :=
  s.tm.asks.findSome? (fun id => (s.tm.leaves.find? (fun w => w.job == id && w.ctxs.contains ch)).bind (fun w =>
    (w.groups.find? (fun e => e.1 == ch)).map (fun e => (w, e.2))))

/-- The leaves of a group fail LDPC and parity: they arrive soiled (06 R202). -/
def loseLeaves (s : State) (r : Region) (l h i : Nat) : State :=
  (List.range 64).foldl (fun t k =>
    let j := 64 * i + k
    if farLeaf t r l h j then leafSoil (soilNode t r (r.envAt l h j)) r l h j else t) s

/-- A leaf group reaches every context that has asked for it (R295). -/
def meetLeaves (s : State) (ch : Nat) (w : LeafWork) (e : Nat × Nat × Nat) (lost : Bool) : State :=
  let t := { s with tm := { s.tm with leaves := s.tm.leaves.map (fun y =>
    if y.p = w.p ∧ y.obj = w.obj ∧ y.ctxs.contains ch then { y with groups := y.groups.filter (fun g => g != (ch, e)) } else y) } }
  match regionOf t w.p w.obj with
  | some r => if lost then loseLeaves t r e.1 e.2.1 e.2.2 else t
  | none => t

end Sys2Proof.Machine
end

