-- ==== Sys2Proof/Machine/Kv.lean ====
section
/-! DEFINITION. KV regions (spec 06): creating, appending, truncating, prefix sharing, the envelope tree and recall. Switching the
generations of its tables is in `Generations`. -/

namespace Sys2Proof.Machine

/-! ## The header (R172) -/

/-- The geometry code. -/
def Region.geom (r : Region) : Nat :=
  (if r.k4 then 1 else 0) + (if r.v4 then 2 else 0) + 16 * (r.d / 32) + 256 * (r.hkv - 1) + 65536 * (r.layers - 1) +
  2 ^ 24 * (r.g - 1) + 2 ^ 28 * (r.logP - 12)

/-- The first 100 bytes of the header at creation. -/
def Region.header (r : Region) : List Byte :=
  leBytes 2 1 ++ leBytes 1 (kTag r.k4) ++ leBytes 1 (vTag r.v4) ++ leBytes 1 (r.d / 32) ++
  leBytes 1 ((if r.segs then 1 else 0) + (if r.share then 2 else 0) + (if r.spill then 4 else 0)) ++ leBytes 2 r.logP ++
  leBytes 2 r.hkv ++ leBytes 2 r.g ++ leBytes 4 r.layers ++ leBytes 8 r.lmax ++ leBytes 8 r.ns.toNat ++ leBytes 8 r.geom ++
  leBytes 8 4096 ++ leBytes 8 (if r.segs then r.segOff else 0) ++ leBytes 8 r.treeOff ++ leBytes 8 r.dataOff ++ leBytes 8 r.nodeBytes ++
  leBytes 4 r.envBytes ++ leBytes 4 r.treeBytes ++ leBytes 4 r.switches.toNat ++ leBytes 4 r.id ++ leBytes 4 0

/-- Write bytes of a region's header. -/
def putHeader (s : State) (r : Region) (off : Nat) (bs : List Byte) : State :=
  writeAt (touchSpan s (wr r.p (r.base + off) bs.length)) r.p (r.base + off) bs noSoil

/-- Set the visible length of layer l (R172, R175). -/
def setVis (s : State) (r : Region) (l n : Nat) : State :=
  putHeader (modRegion s r.p r.id (fun x => { x with vis := tset (fun _ => 0) x.vis l n })) r (2048 + 8 * l) (leBytes 8 n)

/-- The leading nodes mapped from the pattern table. -/
def Region.leading (r : Region) : Nat :=
  (((List.range r.nodes).takeWhile (fun j => (tget (fun _ => none) r.shared j).isSome))).length

/-- Write the count of leading shared nodes into the header. -/
def noteShared (s : State) (p id : Nat) : State :=
  match regionOf s p id with
  | some r => putHeader s r 96 (leBytes 4 r.leading)
  | none => s

/-- The planes of a region's node j: data, then envelopes. -/
def Region.nodeSpans (r : Region) (j : Nat) (write : Bool) : List Span :=
  [⟨r.p, r.base + r.dataOff + j * r.nodeBytes, r.nodeBytes, write⟩, ⟨r.p, r.base + 4096 + j * r.envBytes, r.envBytes, write⟩]

/-- The region that KV_CREATE makes (R170, R198). -/
def newRegion (s : State) (j : Job) : Region :=
  let p := part s j
  let base := j.va 16
  let lmax := j.fld 24 6
  let lp := j.fld 38 1
  let hkv := j.fld 32 2
  let g := j.fld 34 1
  let fl := j.fld 37 1
  ⟨p, j.obj, base, lmax, j.fld 30 2, hkv, g, 32 * j.fld 35 1, j.bits 36 0 1 == 1, j.bits 36 1 1 == 1, bitOf fl 0,
    bitOf fl 1, bitOf fl 2, lp, BitVec.ofNat 64 (j.fld 40 8), [], [], [], [], 0, [], [], [], [], [], none⟩

/-- Check 9 of KV_CREATE (R198). -/
def kvCreateErr (s : State) (j : Job) : Option Ending :=
  let p := part s j
  let base := j.va 16
  let lmax := j.fld 24 6
  let lp := j.fld 38 1
  let hkv := j.fld 32 2
  let g := j.fld 34 1
  let fl := j.fld 37 1
  let r : Region := newRegion s j
  fields [bad (j.obj == 0 || idTaken s p j.obj) 12, a52 j 16, bad (decide (lp ≤ 21) && base % 2 ^ lp != 0) 16,
      bad (lmax == 0 || lmax % 4096 != 0) 24, bad (r.layers == 0 || decide (256 < r.layers)) 30,
      bad (hkv == 0 || decide (256 < hkv)) 32, bad (g == 0 || decide (16 < g) || decide (256 < g * hkv)) 34,
      bad (!([2, 3, 4, 6, 8].contains (j.fld 35 1))) 35, bad (decide (3 < j.fld 36 1)) 36, bad (decide (7 < fl) || fl % 4 == 3) 37,
      bad (decide (lp < 12) || decide (21 < lp)) 38, rsvd j 39 40, rsvd j 48 56]
    <|> fields [bad (spanTaken s p base r.span) 16, bad (decide (2 ^ 52 < base + r.span)) 24]

/-- The state with the region that KV_CREATE makes and its object, before its header is written. -/
def kvCreated (s : State) (j : Job) : State :=
  let p := part s j
  let base := j.va 16
  let lp := j.fld 38 1
  let r : Region := newRegion s j
  let o : Obj := ⟨p, j.obj, base, r.span, lp - 12, 0, 0, 1, r.dataOff⟩
  { s with tm := { s.tm with objs := s.tm.objs ++ [o], regions := s.tm.regions ++ [r] } }

/-- KV_CREATE (R170, R172, R198). -/
def execKvCreate (id : Nat) (s : State) : Out :=
  runOp s id 0x0600 (fun j =>
    let p := part s j
    let base := j.va 16
    let r : Region := newRegion s j
    match kvCreateErr s j with
    | some e => finish s id e
    | none =>
      let t := kvCreated s j
      withMemNew s t id [wr p base 4096] (fun u => finish (writeAt u p base r.header noSoil) id (stDone, 0)))

/-! ## Quantising keys and values (R176) -/

/-- One token's channels quantised: codes, scale bytes, whether one saturated, whether one was NaN or infinite, soil by group. -/
structure KvRow where
  codes : List Int
  scales : List Nat
  sat : Bool
  nf : Bool
  soil : List Bool
  deriving DecidableEq, Repr

/-- Quantise a group of 32 channels (R176). -/
def kvGroup (bits : Nat) (m : Rnd) (xs : List Val) : List (Int × Bool) × Nat × Bool :=
  let a := (xs.map (fun x => if x.isFin then x.abs.rat else 0)).foldl max 0
  let e := e4m3.encode .rup (Val.ofRat (a / ((2 ^ (bits - 1) - 1 : Nat) : Rat)))
  if e.1 = 0 then (xs.map (fun x => (0, !x.isFin)), 0, false)
  else (xs.map (quantise bits m (e4m3.decode e.1).rat 0), e.1, e.2)

/-- Quantise one token's channels (R176). -/
def kvRow (bits : Nat) (m : Rnd) (xs : List Val) (soil : List Bool) : KvRow :=
  let gs := (List.range (xs.length / 32)).map (fun k => kvGroup bits m (chunk32 k xs))
  ⟨gs.flatMap (fun g => g.1.map (fun c => c.1)), gs.map (fun g => g.2.1), gs.any (fun g => g.2.2 || g.1.any (fun c => c.2)),
    xs.any (fun x => !x.isFin), soil⟩

/-- Codes as bytes (02 R58). -/
def kvPack (bits : Nat) (cs : List Int) : List Byte :=
  if bits = 4 then (List.range (cs.length / 2)).map (fun i =>
    BitVec.ofNat 8 (unsgn 4 (cs.getD (2 * i) 0) + 16 * unsgn 4 (cs.getD (2 * i + 1) 0)))
  else cs.map (fun c => BitVec.ofNat 8 (unsgn 8 c))

/-- The dequantised channels of a row. -/
def KvRow.values (r : KvRow) : List Val :=
  (r.codes.zipIdx).map (fun e => Val.ofRat ((e.1 : Rat) * (e4m3.decode (r.scales.getD (e.2 / 32) 0)).rat))

/-! ## Envelopes (R177, 02 R59) -/

/-- A lower bound's byte. -/
def envLo (v : Val) : Nat := if Val.lt v (.fin true 448) then 0xFF else if Val.lt (.fin false 448) v then 0x7E else (e4m3.encode .rdn v).1
/-- An upper bound's byte. -/
def envHi (v : Val) : Nat := if Val.lt (.fin false 448) v then 0x7F else if Val.lt v (.fin true 448) then 0xFE else (e4m3.encode .rup v).1

/-- An envelope record: lower bounds, upper bounds, soil. -/
structure Env where
  lo : List Nat
  hi : List Nat
  soil : Bool
  deriving DecidableEq, Repr

/-- The envelope of one key. -/
def Env.of (ks : List Val) (soil : Bool) : Env := ⟨ks.map envLo, ks.map envHi, soil⟩

/-- An envelope widened by one key (R177). -/
def Env.widen (e : Env) (ks : List Val) (soil : Bool) : Env :=
  ⟨(e.lo.zip ks).map (fun x => if Val.lt x.2 (envVal x.1) then envLo x.2 else x.1),
    (e.hi.zip ks).map (fun x => if Val.lt (envVal x.1) x.2 then envHi x.2 else x.1), e.soil || soil⟩

/-- A node over two envelopes (R187). -/
def Env.join (a b : Env) : Env :=
  ⟨(a.lo.zip b.lo).map (fun x => if Val.lt (envVal x.2) (envVal x.1) then x.2 else x.1),
    (a.hi.zip b.hi).map (fun x => if Val.lt (envVal x.1) (envVal x.2) then x.2 else x.1), a.soil || b.soil⟩

/-- A node over envelopes (R187). -/
def Env.joinAll : List Env → Env
  | [] => ⟨[], [], false⟩
  | e :: es => es.foldl Env.join e

/-- The envelope record at address a. -/
def envAt' (s : State) (p a d : Nat) : Env := ⟨natsAt s p a d, natsAt s p (a + d) d, soiledAt s p a (2 * d)⟩

/-- Write an envelope record. -/
def putEnv (s : State) (p a : Nat) (e : Env) : State :=
  writeAt s p a ((e.lo ++ e.hi).map (fun b => BitVec.ofNat 8 b)) (fun _ => e.soil)

/-! ## Shared nodes (R186) -/

/-- Nodes of the list that are mapped from the pattern table. -/
def Region.sharedOf (r : Region) (js : List Nat) : List (Nat × Nat) :=
  js.filterMap (fun j => (tget (fun _ => none) r.shared j).map (fun k => (j, k)))

/-- Make node j private: its bytes already lie at the region's addresses (notes/assumptions/31.md). -/
def unshare (s : State) (r : Region) (e : Nat × Nat) : State :=
  noteShared (modRegion (unref s r.p e.2) r.p r.id (fun x => { x with shared := tset (fun _ => none) x.shared e.1 none })) r.p r.id

/-- A descriptor that would write fails; it sets COPY_FAIL where the copy of a shared node that it needs first cannot be made (R186,
R202). -/
def kvFail (s : State) (id : Nat) (copies : List Span) (cause oid : Nat) : State :=
  let lost := match (tierSays s id copies).1 with
    | .fault _ _ => true
    | _ => false
  tierFail (stainIf lost s rKvStain 2) id [] cause oid

/-! ## Appending (R175-R178) -/

/-- Write the codes and scales of one row of token tt at codes offset off and scales offset soff of the block at a. -/
def putRow (s : State) (p a off soff tt bits : Nat) (r : KvRow) : State :=
  let n := r.codes.length
  writeAt (writeAt s p (a + off + tt * (n * bits / 8)) (kvPack bits r.codes) (fun i => r.soil.getD (i / (4 * bits)) false))
    p (a + soff + tt * (n / 32)) (r.scales.map (fun b => BitVec.ofNat 8 b)) (fun i => r.soil.getD i false)

/-- Write one token of a head with its envelope (R174, R177). -/
def putToken (s : State) (r : Region) (l h pos : Nat) (k v : KvRow) : State :=
  let x := r.geo
  let j := pos / 64
  let a := r.dataAt l h j
  let s1 := putRow (putRow s r.p a 0 x.ksOff (pos % 64) x.kb k) r.p a x.vOff x.vsOff (pos % 64) x.vb v
  let soil := k.soil.any (fun b => b)
  let e := if pos % 64 = 0 then Env.of k.values soil else (envAt' s r.p (r.envAt l h j) r.d).widen k.values soil
  let s2 := putEnv s1 r.p (r.envAt l h j) e
  if soil then leafSoil s2 r l h j else s2

/-- Write one token's segment number (R177). -/
def putSegment (s : State) (r : Region) (pos seg : Nat) : State :=
  let a := r.segAt (pos / 64)
  let lo := if pos % 64 = 0 then seg else min seg (numAt s r.p (a + 128) 2)
  let hi := if pos % 64 = 0 then seg else max seg (numAt s r.p (a + 130) 2)
  writeAt (writeAt s r.p (a + 2 * (pos % 64)) (leBytes 2 seg) noSoil) r.p (a + 128) (leBytes 2 lo ++ leBytes 2 hi) noSoil

/-- The fields of KV_APPEND (R198). -/
structure AppendF where
  ka : Nat
  kf : Nat
  va : Nat
  vf : Nat
  sa : Nat
  start : Nat
  layer : Nat
  t : Nat
  rot : Bool
  rnd : Rnd
  deriving DecidableEq, Repr

/-- The fields of descriptor j. -/
def appendF (j : Job) : AppendF :=
  ⟨j.va 16, j.fmt 16, j.va 24, j.fmt 24, j.va 32, j.fld 40 6, j.fld 46 2, j.fld 48 4, j.bits 52 0 1 == 1, Rnd.ofCode (j.bits 52 1 2)⟩

/-- Check 9 of KV_APPEND (R175, R177, R198, R200). -/
def appendErr (s : State) (j : Job) (r : Region) : Option Ending :=
  let f := appendF j
  let x := j.ext.isSome
  fields ([aFmt j 16 isFloat, aFmt j 24 isFloat, a52 j 32, bad (f.sa != 0 && (f.layer != 0 || !r.segs)) 32,
    bad (decide (f.layer < r.layers) && (f.start != r.end' f.layer || (f.layer != 0 && decide (r.end' 0 < f.start + f.t)))) 40,
    bad (decide (r.layers ≤ f.layer)) 46, bad (f.t == 0 || decide (65536 < f.t) || decide (r.lmax < f.start + f.t)) 48,
    bad (j.bits 52 3 5 != 0) 52, rsvd j 53 55, badCore s j 55, xunused x j 0 40, xunused x j 47 48, xunused x j 56 64] ++
    (if x then rotErr j f.rot r.d else []))

/-- The nodes that an append reaches. -/
def AppendF.nodes (f : AppendF) : List Nat :=
  (List.range ((f.start + f.t - 1) / 64 + 1 - f.start / 64)).map (fun i => f.start / 64 + i)

/-- What an append reads. -/
def appendReads (r : Region) (j : Job) : List Span :=
  let f := appendF j
  let n := f.t * r.hkv * r.d
  [rd r.p f.ka (n * elemSize f.kf), rd r.p f.va (n * elemSize f.vf)] ++ rotSpan r.p f.rot (rotX j) ++
  (if f.sa = 0 then [] else [rd r.p f.sa (2 * f.t)])

/-- What an append writes: its layer's blocks and envelopes, its segment records, whole nodes that it copies. -/
def appendWrites (r : Region) (j : Job) : List Span :=
  let f := appendF j
  f.nodes.flatMap (fun n => [wr r.p (r.dataAt f.layer 0 n) (r.hkv * r.blockBytes), wr r.p (r.envAt f.layer 0 n) (r.hkv * (2 * r.d))] ++
    (if f.sa = 0 then [] else [wr r.p (r.segAt n) 256]) ++
    (if (tget (fun _ => none) r.shared n).isSome then r.nodeSpans n true else []))

/-- The copies of shared nodes that an append makes first (R186). -/
def appendCopies (r : Region) (j : Job) : List Span := (r.sharedOf (appendF j).nodes).flatMap (fun e => r.nodeSpans e.1 true)

/-- Whether an append to the region that began before j has not yet raised its reserved end (R175). -/
def appendBehind (s : State) (r : Region) (j : Job) : Bool :=
  (begunBefore s r.p j.order).any (fun k => k.opcode == 0x0601 && k.phase == .checked && k.obj == r.id && !r.appends.any (fun a => a.job == k.id))

/-- The rows of token t, head h: keys and values. -/
def appendRows (s : State) (r : Region) (j : Job) (t h : Nat) : KvRow × KvRow :=
  let f := appendF j
  let at' (a code : Nat) : Nat := a + (t * r.hkv + h) * r.d * elemSize code
  let soil (a code : Nat) : List Bool := soilsAt s r.p (at' a code) (r.d / 32) (32 * elemSize code)
  let ks := elemsAt s r.p (at' f.ka f.kf) r.d f.kf
  let kr := if f.rot then rotate ks (f.start + t) (rotX j).theta (rotX j).dr (rotX j).halves (rotTable s r.p (rotX j)) else ks
  (kvRow r.kbits f.rnd kr (soil f.ka f.kf), kvRow r.vbits f.rnd (elemsAt s r.p (at' f.va f.vf) r.d f.vf) (soil f.va f.vf))

/-- Set the state of an append of a region. -/
def markAppend (s : State) (p oid job st : Nat) : State :=
  modRegion s p oid (fun r => { r with appends := r.appends.map (fun a => if a.job = job then { a with st := st } else a) })

/-- Write the tokens of append j; it then runs until KV_APPEND_COMPLETE. -/
def appendTokens (s : State) (r : Region) (j : Job) : State :=
  let f := appendF j
  let src := s
  let s1 := (r.sharedOf f.nodes).foldl (fun t e => unshare t r e) s
  let w := (List.range f.t).foldl (fun (acc : State × Bool × Bool × Bool) t =>
    let a1 := (List.range r.hkv).foldl (fun (acc : State × Bool × Bool × Bool) h =>
      let e := appendRows src r j t h
      (putToken acc.1 r f.layer h (f.start + t) e.1 e.2,
        acc.2.1 || e.1.sat || e.2.sat, acc.2.2.1 || e.1.nf || e.2.nf,
        acc.2.2.2 || (e.1.soil ++ e.2.soil).any (fun b => b))) acc
    (if f.sa = 0 then a1.1 else putSegment a1.1 r (f.start + t) (numAt src r.p (f.sa + 2 * t) 2), a1.2)) (s1, false, false, false)
  let c := (coreAt s r.p (j.fld 55 1)).getD 0
  let steps := cdiv (f.t * r.hkv * r.d) 64 + 100
  let b (q : Bool) (v : Nat) : Nat := if q then v else 0
  let e := doneOf w.2.2.2 (b w.2.1 1 + b w.2.2.1 2 + b w.2.2.2 4)
  let s2 := stainIf w.2.2.2 (stainIf w.2.1 (coreCount w.1 c 11 steps) (rPrStain c) 0) (rPrStain c) 1
  keepRunning (modJob (ranOn s2 j.id c steps ((appendReads r j).map (fun x => x.len)).sum) j.id
    (fun k => { k with status := e.1, detail := BitVec.ofNat 32 e.2 })) j.id

/-- KV_APPEND (R175-R178): it raises the reserved end as it begins, then writes its tokens. -/
def execKvAppend (id : Nat) (s : State) : Out :=
  runOp s id 0x0601 (fun j =>
    match kvNamed s j with
    | none => finish s id (fieldErr 12)
    | some r =>
      let f := appendF j
      let begun := r.appends.any (fun a => a.job == id)
      if !begun && appendBehind s r j then s
      else match (if begun then none else appendErr s j r) with
      | some e => finish s id e
      | none =>
        let s1 := if begun then s else modRegion s r.p r.id (fun x => { x with
          res := tset (fun _ => 0) x.res f.layer (f.start + f.t)
          appends := x.appends ++ [⟨f.layer, f.start, f.t, id, 0⟩] })
        withMemOr s1 id (appendReads r j ++ appendWrites r j)
          (fun c o => markAppend (kvFail s1 id (appendCopies r j) c o) r.p r.id id 2)
          (fun t => appendTokens t r j))

/-! ## The envelope tree (R187, R188) -/

/-- Set TREE_SOIL where a node is soiled, and write it. -/
def putNode (s : State) (p a : Nat) (e : Env) : State := putEnv (stainIf e.soil s rKvStain 0) p a e

/-- Build the shadow of a layer and KV head with the covered count t, from the current count c (R187). -/
def buildShadow (s : State) (r : Region) (l h t job : Nat) : State :=
  let c := treeCovered s r l h
  let slot := 1 - treeSlot s r l h
  let rec' (s : State) (a : Nat) : Env := envAt' s r.p a r.d
  let s1 := ((List.range t).drop c).foldl (fun u i =>
    putNode u r.p (r.l1At l h i) (Env.joinAll ((List.range 64).map (fun k => rec' u (r.envAt l h (64 * i + k)))))) s
  let over' (u : State) (g n : Nat) : Env := Env.joinAll ((List.range n).map (fun k => rec' u (r.l1At l h (64 * g + k))))
  let s2 := ((List.range (t / 64)).drop (c / 64)).foldl (fun u g => putNode u r.p (r.l2At l h g) (over' u g 64)) s1
  let e := r.edgeAt l h slot
  let s3 := if t % 64 = 0 then s2 else putNode s2 r.p (e + 16) (over' s2 (t / 64) (t % 64))
  let gen := numAt s r.p (r.edgeAt l h (1 - slot) + 8) 4 + 1
  modRegion (writeAt s3 r.p e (leBytes 8 t ++ leBytes 4 gen ++ leBytes 4 0) noSoil) r.p r.id
    (fun x => { x with shadows := x.shadows ++ [⟨l, h, t, job⟩] })

/-- What building that shadow reads and writes. -/
def shadowSpans (s : State) (r : Region) (l h t : Nat) : List Span :=
  let c := treeCovered s r l h
  ((List.range t).drop c).flatMap (fun i =>
    wr r.p (r.l1At l h i) (2 * r.d) :: (List.range 64).map (fun k => rd r.p (r.envAt l h (64 * i + k)) (2 * r.d))) ++
  ((List.range (t / 64)).drop (c / 64)).map (fun g => wr r.p (r.l2At l h g) (2 * r.d)) ++ [wr r.p (r.edgeAt l h 0) (2 * (16 + 2 * r.d))]

/-- Whether a change of a layer and KV head's tree waits: for a draining generation, or for another change (R187). -/
def treeBusy (r : Region) (l h : Nat) : Bool :=
  r.drains.any (fun e => e.1 == l && e.2.1 == h) || r.shadows.any (fun e => e.layer == l && e.head == h)

/-- The lookups of a layer and KV head's tree that have begun (R195): RECALL_BOUND and RECALL_SELECT. -/
def treeLookups (s : State) (r : Region) (l h : Nat) : List Nat :=
  (s.hp.jobs.filter (fun j => (j.phase == .checked || j.phase == .running) && (j.opcode == 0x0606 || j.opcode == 0x0607) &&
    partOfRing s j.ring == some r.p && j.obj == r.id && j.xfld 6 2 == l &&
    decide ((pressF j).kf ≤ h) && decide (h < (pressF j).kf + (pressF j).kc))).map (fun j => j.id)

/-- Switch the tree of a layer and KV head to its shadow (R195). -/
def switchTree (s : State) (r : Region) (l h : Nat) : State :=
  let slot := treeSlot s r l h
  let s0 := touchSpan s (wr r.p (r.edgeAt l h 0) (32 + 2 * r.d))
  let s1 := writeAt (writeAt s0 r.p (r.edgeAt l h slot + 12) [0] noSoil) r.p (r.edgeAt l h (1 - slot) + 12) [1] noSoil
  let ls := treeLookups s r l h
  let n := ((regionOf s r.p r.id).map (fun x => x.switches)).getD 0 + 1
  putHeader (modRegion s1 r.p r.id (fun x => { x with
    switches := n
    shadows := x.shadows.filter (fun e => !(e.layer == l && e.head == h))
    drains := if ls.isEmpty then x.drains else x.drains ++ [(l, h, ls)] })) r 88 (leBytes 4 n.toNat)

/-! ## Completing an append (R175, R187, R196) -/

/-- The end that layer l's visible length rises to when the append of `job` completes well; none: it raises nothing (R175). -/
def raiseTo (r : Region) (l job : Nat) : Option Nat :=
  match r.appends.filter (fun a => a.layer == l) with
  | [] => none
  | a :: as => if a.job = job then some ((as.takeWhile (fun b => b.st == 1)).foldl (fun _ b => b.start + b.len) (a.start + a.len)) else none

/-- Append j completes well: the visible length rises. -/
def raiseVis (s : State) (r : Region) (j : Job) : State :=
  let l := (appendF j).layer
  let e : Ending := (j.status, j.detail.toNat)
  match raiseTo r l j.id with
  | none => finish (markAppend s r.p r.id j.id 1) j.id e
  | some n =>
    let t := modRegion s r.p r.id (fun x => { x with
      appends := x.appends.filter (fun a => !(a.layer == l && decide (a.start + a.len ≤ n))) })
    finish (setVis t r l n) j.id e

/-- Append j goes on to complete: at once where it changes no tree; else its shadows are built, and it completes once they have
switched (R187). -/
def settleAppend (s : State) (j : Job) : State :=
  match regionOf s (part s j) j.obj with
  | none => finish s j.id (j.status, j.detail.toNat)
  | some r =>
    let l := (appendF j).layer
    let t := ((raiseTo r l j.id).getD 0) / 4096
    let late := (List.range r.hkv).filter (fun h => decide (treeCovered s r l h < t))
    if late.isEmpty then raiseVis s r j
    else if late.any (treeBusy r l) then s
    else withMemOr s j.id (late.flatMap (fun h => shadowSpans s r l h t))
      (fun c o => markAppend (kvFail s j.id [] c o) r.p r.id j.id 2)
      (fun u => late.foldl (fun v h => buildShadow v r l h t j.id) u)

/-- KV_APPEND_COMPLETE (R175, R196). -/
def execKvAppendComplete (id : Nat) (s : State) : Out :=
  .next (match job? s id with
    | some j => if j.phase = .running ∧ j.opcode = 0x0601 then settleAppend s j else s
    | none => s)

/-! ## Truncating (R180) -/

/-- End the recall sets of the layers and heads that `f` picks (R193): presses that began keep theirs. -/
def endRecalls (s : State) (r : Region) (f : Nat → Nat → Bool) : State :=
  let bound (l : Nat) : List Nat := (s.hp.jobs.filter (fun j => (j.phase == .checked || j.phase == .running) && partOfRing s j.ring == some r.p &&
    ((j.opcode == 0x0500 && j.obj == r.id && j.xfld 6 2 == l) || (j.opcode == 0x0501 && j.xfld 6 2 == l)))).map (fun j => j.id)
  let out := r.recalls.filter (fun x => f x.layer x.head)
  let s1 := out.foldl (fun t x => x.held.foldl (fun u b => dropHold u r.p b) t) s
  modRegion s1 r.p r.id (fun y => { y with
    recalls := y.recalls.filter (fun x => !f x.layer x.head)
    recallOld := y.recallOld ++ (out.filter (fun x => !(bound x.layer).isEmpty)).map (fun x => ⟨x.layer, x.head, some x, bound x.layer⟩) })

/-- Recompute the envelopes of layer l's block that its first n tokens end in (R180). -/
def cutEnvelopes (s : State) (r : Region) (l n : Nat) : State :=
  (List.range r.hkv).foldl (fun t h =>
    let j := n / 64
    let a := r.dataAt l h j
    let b := readBlock s r.p r.geo (r.ref l h j n)
    let key (k : Nat) : List Val := (List.range r.d).map (fun i => keyOf' b k i)
    let soil (k : Nat) : Bool := soiledAt s r.p (a + k * (r.d * r.kbits / 8)) (r.d * r.kbits / 8) ||
      soiledAt s r.p (a + r.geo.ksOff + k * (r.d / 32)) (r.d / 32)
    let e := ((List.range (n % 64)).drop 1).foldl (fun e k => e.widen (key k) (soil k)) (Env.of (key 0) (soil 0))
    let t1 := putEnv t r.p (r.envAt l h j) e
    if e.soil then leafSoil t1 r l h j else t1) s

/-- The layers whose last block L′ cuts, with their new lengths. -/
def cutLayers (r : Region) (n : Nat) : List (Nat × Nat) :=
  ((List.range r.layers).filter (fun l => decide (n ≤ r.len l) && n % 64 != 0)).map (fun l => (l, n))

/-- The trees that a truncate to n changes, with their new covered counts. -/
def cutTrees (s : State) (r : Region) (n : Nat) : List (Nat × Nat × Nat) :=
  (List.range r.layers).flatMap (fun l => (List.range r.hkv).filterMap (fun h =>
    let t := min n (r.len l) / 4096
    if t < treeCovered s r l h then some (l, h, t) else none))

/-- What KV_TRUNCATE to n reads and writes as it begins (R180). -/
def truncateSpans (s : State) (r : Region) (n : Nat) : List Span :=
  let cuts := cutLayers r n
  let trees := cutTrees s r n
  let copies := if cuts.isEmpty then [] else r.sharedOf [n / 64]
  cuts.flatMap (fun e => [rd r.p (r.dataAt e.1 0 (n / 64)) (r.hkv * r.blockBytes),
      wr r.p (r.envAt e.1 0 (n / 64)) (r.hkv * (2 * r.d))]) ++
    copies.flatMap (fun e => r.nodeSpans e.1 true) ++ trees.flatMap (fun e => shadowSpans s r e.1 e.2.1 e.2.2)

/-- KV_TRUNCATE (R180, R187): it has begun with no append to the region running; lengths, envelopes and shadows now; it completes when its
trees have switched and its releases are done (notes/assumptions/33.md). -/
def execKvTruncate (id : Nat) (s : State) : Out :=
  runOp s id 0x0602 (fun j =>
    match kvNamed s j with
    | none => finish s id (fieldErr 12)
    | some r =>
      let n := j.fld 16 6
      match fields [rsvd j 22 56] with
      | some e => finish s id e
      | none =>
        let cuts := cutLayers r n
        let trees := cutTrees s r n
        let copies := if cuts.isEmpty then [] else r.sharedOf [n / 64]
        if trees.any (fun e => treeBusy r e.1 e.2.1) then markWaits s id
        else
          let spans := truncateSpans s r n
          withMemOr s id spans (kvFail s id (copies.flatMap (fun e => r.nodeSpans e.1 true))) (fun s =>
            let s1 := copies.foldl (fun t e => unshare t r e) s
            let s2 := cuts.foldl (fun t e => cutEnvelopes t r e.1 e.2) s1
            let s3 := trees.foldl (fun t e => buildShadow t r e.1 e.2.1 e.2.2 id) s2
            let s4 := (List.range r.layers).foldl (fun t l => setVis t r l (min n (r.len l))) s3
            let s5 := modRegion s4 r.p r.id (fun x => { x with
              res := x.vis, appends := [], cutting := some (id, n) })
            keepRunning (match regionOf s5 r.p r.id with
              | some x => endRecalls s5 x (fun _ _ => true)
              | none => s5) id))

/-- Release what lies wholly at or beyond n (R180). -/
def releaseBeyond (s : State) (r : Region) (n : Nat) : State :=
  let first := cdiv n 64
  let d0 := r.base + r.dataOff + first * r.nodeBytes
  let e0 := r.base + 4096 + first * r.envBytes
  let g0 := roundUp (r.base + r.segOff + first * 256) 4096
  let cut (s : State) (a e : Nat) : State :=
    if e ≤ a then s else
      let t := eraseAt (dropSpan s r.p a (e - a)) r.p a (e - a)
      let inside (k : Nat) : Bool := decide (akey r.p a ≤ k) && decide (k < akey r.p e)
      { t with tm := { t.tm with pages := tdrop t.tm.pages inside, holds := tdrop t.tm.holds inside } }
  let s1 := (r.sharedOf ((List.range r.nodes).drop first)).foldl (fun t e => unshare t r e) s
  let s2 := cut (cut s1 d0 (r.base + r.dataOff + r.nodes * r.nodeBytes)) e0 (r.base + r.segOff)
  noteSpill (if r.segs then cut s2 g0 (r.base + r.treeOff) else s2)

/-- The region whose truncate is descriptor id, and its length, once every descriptor that began before has completed. -/
def truncateDue (s : State) (id : Nat) : Option (Region × Nat) :=
  s.tm.regions.findSome? (fun r => match r.cutting with
    | some (k, n) => if k = id ∧ (job? s id).any (olderGone s) ∧ !r.shadows.any (fun e => e.job == id) then some (r, n) else none
    | none => none)

/-- A due truncate ends. -/
def truncateEnd (s : State) (id : Nat) (e : Region × Nat) : State :=
  finish (releaseBeyond (modRegion s e.1.p e.1.id (fun x => { x with cutting := none })) e.1 e.2) id (stDone, 0)

/-! ## Freeing and closing -/

/-- KV_FREE (R203, 08 R489). -/
def execKvFree (id : Nat) (s : State) : Out := runOp s id 0x0603 (fun j => freeObj s j 1)

/-- Check 9 of RECALL_CLOSE (R199). -/
def recallCloseErr (j : Job) (r : Region) : Option Ending :=
  fields [bad (decide (r.layers ≤ j.fld 16 2)) 16, bad (decide (r.hkv < j.fld 18 1 + j.fld 19 1)) 18, bad (j.fld 19 1 == 0) 19, rsvd j 20 56]

/-- RECALL_CLOSE (R193, R199). -/
def execRecallClose (id : Nat) (s : State) : Out :=
  runOp s id 0x0608 (fun j =>
    match kvNamed s j with
    | none => finish s id (fieldErr 12)
    | some r =>
      let l := j.fld 16 2
      let kf := j.fld 18 1
      let kc := j.fld 19 1
      match recallCloseErr j r with
      | some e => finish s id e
      | none => finish (endRecalls s r (fun a h => a == l && decide (kf ≤ h) && decide (h < kf + kc))) id (stDone, 0))

/-! ## Prefix sharing (R181-R186) -/

/-- The pattern keys of a token sequence (R181): of nodes 0 to n - 1, their 256 bytes of token ids each at a + 256 j. -/
def patternKeys (s : State) (r : Region) (a n : Nat) : List Nat :=
  let k0 := shake256 16 (leBytes 8 r.ns.toNat ++ leBytes 4 r.geom)
  ((List.range n).foldl (fun (acc : List Byte × List Nat) j =>
    let k := shake256 16 (acc.1 ++ bytesAt s r.p (a + 256 * j) 256)
    (k, acc.2 ++ [ofLe k])) (k0, [])).2

/-- The lowest free slot of a table. -/
def freeSlot (t : PatTable) : Option Nat := (List.range (2 ^ t.cap)).find? (fun i => t.entries.all (fun y => y.1 != i))

/-- Where table t of partition p is full, the oldest entry that no region maps is released; none: every entry is mapped (R184, R185). -/
def makeRoom (s : State) (p : Nat) (t : PatTable) : Option State :=
  if t.entries.length < 2 ^ t.cap then some s
  else (oldestFree t.entries).map (fun e => dropEntry s p e.2.key.toNat)

/-- Room for one more entry in partition p's current generation and in the shadow where one is being built (R184, R195). -/
def storeRoom (s : State) (p : Nat) : Option State :=
  let cur (u : State) : Option State := match (patsOf u p).cur with
    | some t => makeRoom u p t
    | none => some u
  (cur s).bind (fun u => match (patsOf u p).shadow with
    | some (t, _, _) => makeRoom u p t
    | none => some u)

/-- Put an entry into the lowest free slot of a table, in its memory too. -/
def putEntry (s : State) (p : Nat) (t : PatTable) (e : PatEntry) : State × PatTable :=
  match freeSlot t with
  | some k => (tableWrite s p (t.addr + 64 * k) e.bytes, t.put k (some e))
  | none => (s, t)

/-- Put an entry into partition p's current table, and into its shadow (R195). -/
def addEntry (s : State) (p : Nat) (e : PatEntry) : State :=
  let x := patsOf s p
  let a := match x.cur with
    | some t => let r := putEntry s p t e; (r.1, some r.2)
    | none => (s, none)
  let b := match x.shadow with
    | some (t, j, w) => let r := putEntry a.1 p t e; (r.1, some (r.2, j, w))
    | none => (a.1, none)
  { b.1 with tm := { b.1.tm with pats := tset (fun _ => pat0) b.1.tm.pats p { x with cur := a.2, shadow := b.2 } } }

/-- The planes of node j of a region: address and bytes. -/
def Region.planes (r : Region) (j : Nat) : List (Nat × Nat) :=
  [(r.base + r.dataOff + j * r.nodeBytes, r.nodeBytes), (r.base + 4096 + j * r.envBytes, r.envBytes)]

/-- The pages of its own that a region has of node j, with their offsets in the node's pages. -/
def nodePages (s : State) (r : Region) (j : Nat) : Tab (Option Page) :=
  (ownPages s).filterMap (fun e =>
    if e.1 = r.p ∧ (r.planes j).any (fun a => decide (a.1 ≤ e.2.1) && decide (e.2.1 < a.1 + a.2)) then
      (r.nodeAt e.2.1).map (fun n => (n.2, some e.2.2)) else none)

/-- A region has no pages of its own of node j any more. -/
def dropNodePages (s : State) (r : Region) (j : Nat) : State :=
  { s with tm := { s.tm with pages := tdrop s.tm.pages (fun k =>
    (r.planes j).any (fun a => decide (akey r.p a.1 ≤ k) && decide (k < akey r.p a.1 + a.2))) } }

/-- The bytes of n bytes at address a of partition p that are not 0, and its soiled units, by offset. -/
def clip (s : State) (p a n : Nat) : Tab Byte × Tab Bool :=
  let x := akey p a
  ((s.tm.mem.filter (fun e => decide (x ≤ e.1) && decide (e.1 < x + n))).map (fun e => (e.1 - x, e.2)),
    (s.tm.soil.filter (fun e => decide (x ≤ 64 * e.1) && decide (64 * e.1 < x + n))).map (fun e => (e.1 - x / 64, e.2)))

/-- Lay clipped bytes and soil down at address a of partition p. -/
def unclip (s : State) (p a n : Nat) (c : Tab Byte × Tab Bool) : State :=
  let t := eraseAt s p a n
  { t with tm := { t.tm with
    mem := c.1.foldl (fun m e => tset byte0 m (akey p a + e.1) e.2) t.tm.mem
    soil := c.2.foldl (fun m e => tset clean m (akey p a / 64 + e.1) e.2) t.tm.soil } }

/-- Map the entry of a key into node j of a region (R183). -/
def mapNode (s : State) (r : Region) (j : Nat) (e : PatEntry) : State :=
  let da := r.base + r.dataOff + j * r.nodeBytes
  let ea := r.base + 4096 + j * r.envBytes
  let s0 := dropNodePages ((r.planes j).foldl (fun t a => dropSpan t r.p a.1 a.2) s) r j
  let s1 := unclip (unclip s0 r.p da r.nodeBytes (e.data, e.dataSoil)) r.p ea r.envBytes (e.env, e.envSoil)
  let s2 := modEntry s1 r.p e.key.toNat (fun x => some { x with refs := x.refs + 1, time := s.now })
  modRegion s2 r.p r.id (fun x => { x with shared := tset (fun _ => none) x.shared j (some e.key.toNat) })

/-- Whether sharing is enabled for partition p: its table, if so (R204). -/
def patternTable (s : State) (p : Nat) : Option PatTable := if rfield s (rPattern p) 0 1 = 1 then (patsOf s p).cur else none

/-- The entry under a key that descriptor `job` finds in the generation that it is bound to (R195). An entry that its draining generation
alone holds is no longer found (notes/assumptions/46.md). -/
def lookupEntry (s : State) (p job key : Nat) : Option PatEntry :=
  let seen := match (patsOf s p).drain with
    | some (t, js) => !js.contains job || (t.find key).isSome
    | none => true
  ((patternTable s p).bind (fun t => t.find key)).bind (fun e => if seen then some e.2 else none)

/-- Checks of KV_ATTACH and KV_PUBLISH (R199, R200). -/
def shareErr (j : Job) (r : Region) (empty : Bool) : Option Ending :=
  let n := j.fld 24 4
  fields [bad (!r.share || (empty && (List.range r.layers).any (fun l => r.len l != 0))) 12, a52 j 16,
    bad (n == 0 || decide (r.nodes < n) || (!empty && (List.range r.layers).any (fun l => decide (r.len l < 64 * n)))) 24, rsvd j 28 56]

/-- The entries that KV_ATTACH maps: those of the longest prefix of keys that the table holds (R183). -/
def attachHits (s : State) (j : Job) (r : Region) : List PatEntry :=
  (((patternKeys s r (j.va 16) (j.fld 24 4)).map (lookupEntry s r.p j.id)).takeWhile (fun e => e.isSome)).filterMap (fun e => e)

/-- The tree records that KV_ATTACH writes (R187). -/
def attachTree (s : State) (j : Job) (r : Region) : List Span :=
  let p := r.p
  let hits : List PatEntry := attachHits s j r
  let k := hits.length
  let trees := (List.range r.layers).flatMap (fun l => (List.range r.hkv).map (fun h => (l, h)))
  let grow := decide (4096 ≤ 64 * k)
  let t := 64 * k / 4096
  if grow then trees.flatMap (fun e =>
    ((List.range t).map (fun i => wr p (r.l1At e.1 e.2 i) (2 * r.d))) ++ ((List.range (t / 64)).map (fun i => wr p (r.l2At e.1 e.2 i) (2 * r.d))) ++
    [wr p (r.edgeAt e.1 e.2 0) (2 * (16 + 2 * r.d))]) else []

/-- KV_ATTACH (R183). -/
def execKvAttach (id : Nat) (s : State) : Out :=
  runOp s id 0x0604 (fun j =>
    match kvNamed s j with
    | none => finish s id (fieldErr 12)
    | some r =>
      let p := r.p
      let n := j.fld 24 4
      match shareErr j r true with
      | some e => finish s id e
      | none =>
        let hits : List PatEntry := attachHits s j r
        let k := hits.length
        let trees := (List.range r.layers).flatMap (fun l => (List.range r.hkv).map (fun h => (l, h)))
        let grow := decide (4096 ≤ 64 * k)
        if grow && trees.any (fun e => treeBusy r e.1 e.2) then markWaits s id
        else
          let t := 64 * k / 4096
          let tree := attachTree s j r
          withMem s id (rd p (j.va 16) (256 * n) :: tree) (fun s =>
            let s1 := (hits.zipIdx).foldl (fun u e => mapNode u r e.2 e.1) s
            let s2 := (List.range r.layers).foldl (fun u l => setVis u r l (64 * k)) s1
            let s3 := modRegion s2 p r.id (fun x => { x with
              res := (List.range r.layers).foldl (fun u l => tset (fun _ => 0) u l (max (tget (fun _ => 0) u l) (64 * k))) x.res })
            let s4 := if grow then trees.foldl (fun u e => switchTree (buildShadow u r e.1 e.2 t id) r e.1 e.2) s3 else s3
            finish (noteShared (addCnt s4 (rPatternHits p) k) p r.id) id (stDone, k)))

/-- Move node j of a region into the pattern store under a key (R184). -/
def publishNode (s : State) (r : Region) (j key : Nat) : State :=
  let da := r.base + r.dataOff + j * r.nodeBytes
  let ea := r.base + 4096 + j * r.envBytes
  let d := clip s r.p da r.nodeBytes
  let e := clip s r.p ea r.envBytes
  let a := drawWord s
  let b := drawWord a.2
  let x : PatEntry := ⟨BitVec.ofNat 128 key, 1, a.1 &&& 0xFFFFFFFFFFFFF, b.1 &&& 0xFFFFFFFFFFFFF, s.now, BitVec.ofNat 32 r.geom,
    r.nodeBytes + r.envBytes, nodePages s r j, e.1, d.1, e.2, d.2⟩
  modRegion (dropNodePages (addEntry b.2 r.p x) r j) r.p r.id (fun y => { y with shared := tset (fun _ => none) y.shared j (some key) })

/-- The nodes that KV_PUBLISH may move: those that are not shared (R184). -/
def publishOwn (j : Job) (r : Region) : List Nat :=
  let m := j.fld 24 4
  (List.range m).filter (fun n => (tget (fun _ => none) r.shared n).isNone)

/-- KV_PUBLISH (R184, R185). -/
def execKvPublish (id : Nat) (s : State) : Out :=
  runOp s id 0x0605 (fun j =>
    match kvNamed s j with
    | none => finish s id (fieldErr 12)
    | some r =>
      let p := r.p
      let m := j.fld 24 4
      match shareErr j r false with
      | some e => finish s id e
      | none =>
        let own := publishOwn j r
        withMem s id [rd p (j.va 16) (256 * m)] (fun s =>
          let keys := patternKeys s r (j.va 16) m
          let w := own.foldl (fun (acc : State × Nat × Bool) n =>
            let key := keys.getD n 0
            match patternTable acc.1 p with
            | none => acc
            | some t => if (t.find key).isSome then acc else match storeRoom acc.1 p with
              | some u => (publishNode u r n key, acc.2.1 + 1, acc.2.2)
              | none => (acc.1, acc.2.1, true)) (s, 0, false)
          finish (noteShared (stainIf w.2.2 w.1 rKvStain 1) p r.id) id
            (stDone, sat 65535 w.2.1 + 65536 * sat 65535 (own.length - w.2.1))))

/-- Check 9 of PATTERN_REBUILD (R199). -/
def patternRebuildErr (s : State) (j : Job) : Option Ending :=
  let cap := j.fld 24 1
  let live := (((patsOf s (part s j)).cur.map (fun t => t.entries)).getD []).filter (fun e => e.2.refs != 0)
  fields [rsvd j 12 16, a52 j 16, bad (!aligned (j.va 16) 4096) 16,
    bad (decide (cap < 10) || decide (22 < cap) || decide (2 ^ cap < live.length)) 24, rsvd j 25 32, rsvd j 40 56]

/-- PATTERN_REBUILD (R195, R199): the shadow is built now and switches at its time; it waits for a shadow and for a draining
generation. -/
def execPatternRebuild (id : Nat) (s : State) : Out :=
  runOp s id 0x0609 (fun j =>
    let p := part s j
    let x := patsOf s p
    let cap := j.fld 24 1
    let old := (x.cur.map (fun t => t.entries)).getD []
    let live := old.filter (fun e => e.2.refs != 0)
    match patternRebuildErr s j with
    | some e => finish s id e
    | none => if x.shadow.isSome || x.drain.isSome then markWaits s id else
      let spans := [wr p (j.va 16) (64 * 2 ^ cap)]
      match regionErr s spans with
      | some e => finish s id e
      | none => withMem s id spans (fun s =>
        let free := ((old.filter (fun e => e.2.refs == 0)).mergeSort (fun a b => decide (b.2.time.toNat ≤ a.2.time.toNat))).take (2 ^ cap - live.length)
        let es := ((live ++ free).zipIdx).map (fun e => (e.2, e.1.2))
        let t : PatTable := ⟨j.va 16, cap, (x.cur.map (fun c => c.gen + 1)).getD 0, es⟩
        let s1 := es.foldl (fun u e => writeAt u p (t.addr + 64 * e.1) e.2.bytes noSoil) (eraseAt s p t.addr (64 * 2 ^ cap))
        keepRunning { s1 with tm := { s1.tm with
          pats := tset (fun _ => pat0) s1.tm.pats p { x with shadow := some (t, id, BitVec.ofNat 64 (j.fld 32 8)) } } } id))

/-! ## Recall (R191-R193) -/

/-- A block with its position alone, for masks. -/
def stubBlock (j : Nat) : Block := ⟨⟨j, 64, 0, 0, 0⟩, [], [], false, [], [], [], [], false, [], 0, 0⟩

/-- A row-head under recall: its query, its reference, its record. -/
structure RecallRow where
  q : PQuery
  m : Val
  r : PRec
  deriving DecidableEq, Repr

/-- What recall works on: the press options, the first block beyond the spans it covers. -/
structure RecallCtx where
  o : PressOpt
  last : Nat
  deriving DecidableEq, Repr

/-- Whether block j exists for a row-head (R192). -/
def RecallCtx.sees (x : RecallCtx) (q : PQuery) (j : Nat) : Bool := decide (j < x.last) && !(x.o.tokens q (stubBlock j)).isEmpty

/-- The bound of a node or leaf, rounded up (05 R140, R187); a soiled one's is +∞ (R188). -/
def nodeBound (x : RecallCtx) (q : PQuery) (e : Env) : Val := if e.soil then .inf false else up32 (envBound q e.lo e.hi x.o.alpha)

/-- Whether b is below M − τ. -/
def RecallCtx.below (x : RecallCtx) (b m : Val) : Bool := Val.lt b (Val.add m (Val.ofRat (-x.o.tau)))

/-- Account c blocks under the bound b for a row-head, and raise M′ to b (R192). -/
def RecallRow.skip (w : RecallRow) (b : Val) (c : Nat) : RecallRow :=
  { w with r := { w.r with skip := if c = 0 then w.r.skip else wrap160 (w.r.skip + skipTerm b w.m c), mp := vmax w.r.mp b } }

/-- A node over the blocks js: the row-heads after it where it is below every one; none where it is descended (R192). -/
def pruneNode (x : RecallCtx) (ws : List RecallRow) (e : Env) (js : List Nat) : Option (List RecallRow) :=
  if ws.all (fun w => x.below (nodeBound x w.q e) w.m) then
    some (ws.map (fun w => w.skip (nodeBound x w.q e) (js.filter (x.sees w.q)).length))
  else none

/-- A leaf: the row-heads that it exists for account it where it is below each of them; none: it is a candidate (R192). -/
def pruneLeaf (x : RecallCtx) (ws : List RecallRow) (e : Env) (j : Nat) : Option (List RecallRow) :=
  if ws.all (fun w => !x.sees w.q j || x.below (nodeBound x w.q e) w.m) then
    some (ws.map (fun w => if x.sees w.q j then w.skip (nodeBound x w.q e) 1 else w))
  else none

/-- What recall makes of a KV head: the row-heads, the candidates, the leaves evaluated, whether soil was met. -/
structure RecallRes where
  ws : List RecallRow
  cands : List Nat
  leaves : List Nat
  soil : Bool
  deriving DecidableEq, Repr

/-- A leaf: a candidate, or accounted (R192). -/
def recallLeaf (s : State) (r : Region) (l h : Nat) (x : RecallCtx) (a : RecallRes) (j : Nat) : RecallRes :=
  let e := envAt' s r.p (r.envAt l h j) r.d
  match pruneLeaf x a.ws e j with
  | some ws => { a with ws := ws, leaves := a.leaves ++ [j], soil := a.soil || e.soil }
  | none => { a with cands := a.cands ++ [j], leaves := a.leaves ++ [j], soil := a.soil || e.soil }

/-- A level-1 node. -/
def recallL1 (s : State) (r : Region) (l h : Nat) (x : RecallCtx) (a : RecallRes) (i : Nat) : RecallRes :=
  let e := envAt' s r.p (r.l1At l h i) r.d
  let js := (List.range 64).map (fun k => 64 * i + k)
  match pruneNode x a.ws e js with
  | some ws => { a with ws := ws, soil := a.soil || e.soil }
  | none => (js.filter (fun j => decide (j < x.last))).foldl (recallLeaf s r l h x) { a with soil := a.soil || e.soil }

/-- A level-2 node over n level-1 spans from 64 g on, its record at address ad. -/
def recallL2 (s : State) (r : Region) (l h : Nat) (x : RecallCtx) (a : RecallRes) (g n ad : Nat) : RecallRes :=
  let e := envAt' s r.p ad r.d
  match pruneNode x a.ws e ((List.range (64 * n)).map (fun k => 4096 * g + k)) with
  | some ws => { a with ws := ws, soil := a.soil || e.soil }
  | none => ((List.range n).map (fun k => 64 * g + k)).foldl (recallL1 s r l h x) { a with soil := a.soil || e.soil }

/-- Recall over the tree of a layer and KV head that descriptor `job` is bound to (R192, R195). -/
def recallHead (s : State) (r : Region) (job l h : Nat) (x : RecallCtx) (ws : List RecallRow) : RecallRes :=
  let c := treeCoveredFor s r job l h
  let full := (List.range (c / 64)).foldl (fun a g => recallL2 s r l h x a g 64 (r.l2At l h g)) ⟨ws, [], [], false⟩
  if c % 64 = 0 then full else recallL2 s r l h x full (c / 64) (c % 64) (r.edgeAt l h (treeSlotFor s r job l h) + 16)

/-- The spans that descriptor j covers: the complete level-1 spans below the layer's visible length at its begin (R192). -/
def recallCtx (j : Job) (r : Region) : RecallCtx := ⟨pressOpt j (pressF j), 64 * (j.lenOf r (j.xfld 6 2) / 4096)⟩

/-! ### RECALL_BOUND (R191) -/

/-- Whether the demand path would evaluate span i of a layer and head: no node covers it, or its node's bound is not below the value that
some row-head of the head comes to (R191; notes/assumptions/47.md). -/
def boundDescends (s : State) (j : Job) (r : Region) (l h : Nat) (ws : List (PQuery × Val)) (i : Nat) : Bool :=
  decide (treeCoveredFor s r j.id l h ≤ i) ||
    ws.any (fun w => !Val.lt (nodeBound (recallCtx j r) w.1 (envAt' s r.p (r.l1At l h i) r.d)) w.2)

/-- The leaf groups that RECALL_BOUND j evaluates in the Deep tier (R189, R191). -/
def boundGroups (s : State) (j : Job) (r : Region) (src : KvSrc) : List (Nat × Nat × Nat × Nat) :=
  let f := pressF j
  let l := j.xfld 6 2
  let last := (recallCtx j r).last
  let rows := (boundQueries s j src).zip ((boundRows s j src).map (fun w => w.m))
  ((src.heads.zipIdx).flatMap (fun e =>
    let ws := ((rows.zipIdx).filter (fun y => y.2 % (f.kc * r.g) / r.g == e.2)).map (fun y => y.1)
    ((e.1.map (fun b => b.at'.j)).filter (fun k => decide (k < last) && farLeaf s r l (f.kf + e.2) k &&
      boundDescends s j r l (f.kf + e.2) ws (k / 64))).map (leafGroup l (f.kf + e.2)))).dedup

/-- The leaf groups of RECALL_BOUND j, none where it is refused. -/
def boundFar (s : State) (j : Job) : List (Nat × Nat × Nat × Nat) :=
  let f := pressF j
  match pressErr s j f ⟨true, false, false⟩, kvNamed s j, sourceOf s j f false false with
  | none, some r, .inr src => if (regionErr s (boundOuts s j src)).isSome then [] else boundGroups s j r src
  | _, _, _ => []

/-- Whether RECALL_BOUND j meets a soiled leaf or node (R188). -/
def boundSoil (s : State) (j : Job) : Bool :=
  let f := pressF j
  let l := j.xfld 6 2
  match kvNamed s j, sourceOf s j f false false with
  | some r, .inr src => (src.heads.zipIdx).any (fun e =>
      e.1.any (fun b => b.envSoil) ||
      (List.range (treeCoveredFor s r j.id l (f.kf + e.2))).any (fun i => soiledAt s r.p (r.l1At l (f.kf + e.2) i) (2 * r.d)))
  | _, _ => false

/-- RECALL_BOUND (R191). -/
def execRecallBound (id : Nat) (s : State) : Out :=
  runOp s id 0x0606 (fun j =>
    withLeaves s id (part s j) j.obj (boundFar s j) (tierFail s id []) (fun s => boundExec (stainIf (boundSoil s j) s rKvStain 0) j))

/-! ### RECALL_SELECT (R192) -/

/-- The pages of object o that the candidates' data and envelopes lie in, where their envelope is in Tier 2 (R189, R192). -/
def spilledPages (s : State) (r : Region) (l h : Nat) (js : List Nat) : List Nat × List Nat :=
  let far := js.filter (farLeaf s r l h)
  (far, (far.flatMap (fun j => (pagesIn s r.p 4 (r.envAt l h j) (r.envAt l h j + 2 * r.d) ++
    pagesIn s r.p (r.geo.bb / 4096 + 2) (r.dataAt l h j) (r.dataAt l h j + r.geo.bb)).map (fun e => e.2.1))).dedup)

/-- The current recall set's bitmap of a layer and head, or the other one for a new set. -/
def newMap (r : Region) (l h : Nat) : Nat := match r.recall l h with
  | some x => 1 - x.slot
  | none => 0

/-- What RECALL_SELECT reads through the tiers. -/
def recallIns (j : Job) (r : Region) : List Span :=
  let f := pressF j
  let p := r.p
  let n := f.rows * (f.kc * r.g)
  [rd p f.qa (n * r.d * elemSize f.qf), rd p (j.xva 24) (4 * n)] ++ rotSpan p f.rot (rotX j)

/-- The KV heads that a Press-class descriptor names. -/
def PressF.heads (f : PressF) : List Nat := (List.range f.kc).map (fun i => f.kf + i)

/-- What RECALL_SELECT writes: records, and the bitmaps of its sets (R192). -/
def recallOuts (j : Job) (r : Region) : List Span :=
  let f := pressF j
  let l := j.xfld 6 2
  wr r.p f.ra (f.rows * (f.kc * r.g) * recBytes r.d) ::
    f.heads.map (fun h => wr r.p (r.mapAt l h (newMap r l h) 0) (8 * ((recallCtx j r).last / 64)))

/-- A KV head of RECALL_SELECT: its number, its row-heads by number, what recall makes of them. -/
structure HeadRes where
  h : Nat
  rows : List Nat
  res : RecallRes
  deriving DecidableEq, Repr

/-- Recall over every KV head that RECALL_SELECT j names (R192). -/
def recallAll (s : State) (j : Job) (r : Region) : List HeadRes :=
  let f := pressF j
  let hp := f.kc * r.g
  let n := f.rows * hp
  let qs := queriesOf s r.p f.qa f.qf r.d n hp (j.xfld 0 6) f.q16 (if f.rot then some (rotX j) else none) (fun _ => 0)
  let refs := elemsAt s r.p (j.xva 24) n 5
  let row (i : Nat) (q : PQuery) : RecallRow :=
    let m := refs.getD i .nan
    ⟨q, m, { prec0 r.d with soil := q.soil, cls := if q.nan || m.isNan then .nan else .fin }⟩
  f.heads.map (fun h =>
    let mine := (qs.zipIdx).filter (fun e => f.kf + e.2 % hp / r.g == h)
    ⟨h, mine.map (fun e => e.2), recallHead s r j.id (j.xfld 6 2) h (recallCtx j r) (mine.map (fun e => row e.2 e.1))⟩)

/-- The leaf groups that RECALL_SELECT j evaluates in the Deep tier (R189, R192). -/
def selectGroups (s : State) (j : Job) (r : Region) : List (Nat × Nat × Nat × Nat) :=
  let l := j.xfld 6 2
  ((recallAll s j r).flatMap (fun e => (e.res.leaves.filter (farLeaf s r l e.h)).map (leafGroup l e.h))).dedup

/-- Whether a set of a layer and head that RECALL_SELECT names is being replaced, or drains (R195). -/
def recallBusy (r : Region) (l : Nat) (hs : List Nat) : Bool :=
  hs.any (fun h => r.recallOld.any (fun e => e.layer == l && e.head == h) || r.recallNew.any (fun e => e.2.layer == l && e.2.head == h))

/-- Write the bitmap of a new recall set (R174, R192). -/
def putMap (s : State) (r : Region) (l : Nat) (x : RecallCtx) (e : HeadRes) : State :=
  (List.range (x.last / 64)).foldl (fun u i => writeAt u r.p (r.mapAt l e.h (newMap r l e.h) i)
    (leBytes 8 (((List.range 64).map (fun b => if e.res.cands.contains (64 * i + b) then 0 else 2 ^ b)).sum)) noSoil) s

/-- RECALL_SELECT j accounts its trees: its records, its new sets and their bitmaps, the pages it holds and asks for (R192). -/
def recallSets (s : State) (j : Job) (r : Region) : State :=
  let f := pressF j
  let l := j.xfld 6 2
  let x := recallCtx j r
  let n := f.rows * (f.kc * r.g)
  let res := recallAll s j r
  let far := res.map (fun e => spilledPages s r l e.h e.res.cands)
  let recs := (List.range n).map (fun i => (res.findSome? (fun e => (e.rows.zip e.res.ws).findSome? (fun y =>
    if y.1 = i then some y.2.r else none))).getD (prec0 r.d))
  let s1 := writeRecs s r.p f.ra r.d recs
  let s2 := (res.zip far).foldl (fun t e =>
    modRegion (e.2.2.foldl (fun u b => addHold u r.p b) (putMap t r l x e.1)) r.p r.id (fun y => { y with recallNew := y.recallNew ++
      [(j.id, ⟨l, e.1.h, BitVec.ofNat 32 (j.xfld 20 4), newMap r l e.1.h, x.last / 64, e.2.2⟩)] })) s1
  let out := ((far.flatMap (fun e => e.2)).dedup).filter (fun b => (pageOf s2 r.p b).any (fun g => g.tier == 2))
  let s3 := addWaits s2 (out.map (fun b => ⟨r.p, b, r.id, j.id, 0, 0⟩))
  let soil := recs.any (fun q => q.soil)
  let c := (pressCores s j 1).headD 0
  let s4 := stainIf soil (stainIf (res.any (fun e => e.res.soil)) s3 rKvStain 0) (rPrStain c) 1
  keepRunning (modJob (ranOn s4 j.id c 0 (((recallIns j r).map (fun x => x.len)).sum)) j.id (fun y => { y with
    status := if soil then stDoneSoiled else stDone, detail := BitVec.ofNat 32 ((far.map (fun e => e.1.length)).sum) })) j.id

/-- RECALL_SELECT (R192): it accounts the tree, writes its records and its new sets' bitmaps, and asks for its candidates; each set
switches once they are resident. -/
def execRecallSelect (id : Nat) (s : State) : Out :=
  runOp s id 0x0607 (fun j =>
    let f := pressF j
    match pressErr s j f ⟨false, false, true⟩, kvNamed s j with
    | some e, _ => finish s id e
    | none, none => finish s id (fieldErr 12)
    | none, some r => match fmtErr f.fmts (kTag r.k4) (vTag r.v4) with
      | some e => finish s id e
      | none =>
        if recallBusy r (j.xfld 6 2) f.heads then markWaits s id
        else
          let xs := recallIns j r ++ recallOuts j r
          match regionErr s [wr r.p f.ra (f.rows * (f.kc * r.g) * recBytes r.d)] with
          | some e => finish s id e
          | none => withLeaves s id r.p r.id (selectGroups s j r) (tierFail s id (recallIns j r)) (fun s =>
              withMemOr s id xs (pressFault s id r.p xs f.ra (f.rows * (f.kc * r.g) * recBytes r.d)) (fun t => recallSets t j r)))

/-- A recall that runs ends without its sets: what it asked for is let go (R202). -/
def dropRecall (s : State) (id : Nat) : State :=
  s.tm.regions.foldl (fun t r =>
    let mine := r.recallNew.filter (fun e => e.1 == id)
    modRegion (mine.foldl (fun u e => e.2.held.foldl (fun v b => dropHold v r.p b) u) t) r.p r.id
      (fun x => { x with recallNew := x.recallNew.filter (fun e => e.1 != id) })) (dropLeaves (dropWaits s id) id)

/-- Switch a layer and KV head's recall set (R195, R196): once every candidate of its descriptor is resident; a failed prefetch ends
it instead. -/
def switchRecall (s : State) (r : Region) (l h : Nat) : State :=
  match r.recallNew.find? (fun e => e.2.layer == l && e.2.head == h) with
  | none => s
  | some (id, x) =>
    match s.tm.waits.find? (fun w => w.job == id && w.st == 3) with
    | some w => tierFail (dropRecall s id) id [] w.cause w.oid
    | none =>
      if s.tm.waits.any (fun w => w.job == id && decide (w.st ≤ 1)) then s
      else
        let none0 := (r.recall l h).isNone
        let s1 := endRecalls s r (fun a b => a == l && b == h)
        let bound := (s.hp.jobs.filter (fun j => (j.phase == .checked || j.phase == .running) && partOfRing s j.ring == some r.p &&
          ((j.opcode == 0x0500 && j.obj == r.id && j.xfld 6 2 == l) || (j.opcode == 0x0501 && j.xfld 6 2 == l)))).map (fun j => j.id)
        let s2 := modRegion s1 r.p r.id (fun y => { y with
          recalls := y.recalls ++ [x]
          recallOld := if none0 && !bound.isEmpty then y.recallOld ++ [⟨l, h, none, bound⟩] else y.recallOld
          recallNew := y.recallNew.filter (fun e => !(e.2.layer == l && e.2.head == h)) })
        if r.recallNew.any (fun e => e.1 == id && !(e.2.layer == l && e.2.head == h)) then s2
        else match job? s2 id with
        | some j => addCnt (finish (dropWaits s2 id) id (j.status, j.detail.toNat)) rKvRecall j.detail.toNat
        | none => s2

/-! ## Switches and drains of the pattern table and the trees (R195) -/

/-- Switch partition p's pattern table at its time. -/
def switchPattern (s : State) (p : Nat) : State :=
  let x := patsOf s p
  match x.shadow with
  | none => s
  | some (t, id, w) =>
    if s.now < w then s
    else
      let ls := (s.hp.jobs.filter (fun j => j.phase == .checked && (j.opcode == 0x0604 || j.opcode == 0x0605) &&
        partOfRing s j.ring == some p)).map (fun j => j.id)
      let y : Patterns := ⟨some t, none, if ls.isEmpty then none else x.cur.map (fun c => (c, ls))⟩
      finish { s with tm := { s.tm with pats := tset (fun _ => pat0) s.tm.pats p y } } id (stDone, 0)

/-- Switch the tree of a layer and KV head: an append's when its shadow is built, a truncate's when it may complete (R196, R180). -/
def switchTreeOf (s : State) (r : Region) (l h : Nat) : State :=
  match r.shadows.find? (fun e => e.layer == l && e.head == h) with
  | none => s
  | some x =>
    let cut := r.cutting.any (fun e => e.1 == x.job) && !(job? s x.job).any (olderGone s)
    if cut then s
    else
      let t := switchTree s r l h
      match regionOf t r.p r.id, job? t x.job with
      | some y, some j => if j.opcode = 0x0601 ∧ !y.shadows.any (fun e => e.job == x.job) then settleAppend t j else t
      | _, _ => t

end Sys2Proof.Machine
end

