-- ==== Sys2Proof/Machine/Deep.lean ====
section
/-! DEFINITION. Indexes, searches and the Deep carrier (spec 09). -/

namespace Sys2Proof.Machine

/-! ## Indexes (R297-R300) -/

/-- The index of partition p with the id. -/
def indexOf (s : State) (p id : Nat) : Option Index := s.tm.indexes.find? (fun x => x.p == p && x.id == id)

/-- Change the index of partition p with the id. -/
def modIndex (s : State) (p id : Nat) (f : Index → Index) : State :=
  { s with tm := { s.tm with indexes := s.tm.indexes.map (fun x => if x.p = p ∧ x.id = id then f x else x) } }

/-- The index that descriptor j names. -/
def indexNamed (s : State) (j : Job) : Option Index :=
  match (if j.obj = 0 then none else objNamed s (part s j) j.obj j.id) with
  | some o => if o.kind = 2 then indexOf s o.p o.id else none
  | none => none

/-- Bytes of a centroid row. -/
def centroidBytes (d w : Nat) : Nat := roundUp (d * w / 8 + d / 32) 16

/-- Records of list l; the side list is list 0xFFFF. -/
def Index.list (x : Index) (l : Nat) : List Rec := tget (fun _ => []) x.lists l

/-- Whether number i was voided (R305). -/
def voided (vs : List (Nat × Nat)) (i : Nat) : Bool := vs.any (fun v => decide (v.1 ≤ i) && decide (i < v.1 + v.2))

/-- Records in all lists and the side list, void ones excluded (R299). -/
def Index.items (x : Index) : Nat :=
  ((x.lists.flatMap (fun l => l.2) ++ x.side).filter (fun r => !voided x.voids r.num)).length

/-- The header's bytes (R299). -/
def Index.header (x : Index) : List Byte :=
  leBytes 2 1 ++ leBytes 1 (x.dim / 32) ++ leBytes 1 x.w ++ leBytes 4 x.dist ++ leBytes 4 x.c ++ leBytes 4 x.side.length ++
  leBytes 4 x.tombs.length ++ leBytes 4 x.gen.toNat ++ leBytes 8 x.next ++ leBytes 8 x.visible ++ leBytes 8 x.mergePt ++ leBytes 8 x.items

/-- Change an index and write its header. -/
def setIndex (s : State) (p id : Nat) (f : Index → Index) : State :=
  let t := modIndex s p id f
  match indexOf t p id with
  | some x => writeAt (touchSpan t (wr p x.base 56)) p x.base x.header noSoil
  | none => t

/-- Why the carrier cannot serve a class 0x09 descriptor (R297, R318). -/
def idxErr (s : State) (p : Nat) (write : Bool) : Option Nat :=
  (deepErr s p) <|> (if write && rfield s rDtStatus 28 1 == 1 then some cDeepFull else none)

/-- Check 9 of IDX_CREATE (R297, R298). -/
def idxCreateErr (s : State) (j : Job) : Option Ending :=
  let p := part s j
  let base := j.va 16
  let size := j.fld 24 8
  let d := j.fld 40 2
  let w := j.fld 42 1
  let c := j.fld 44 2
  let row := centroidBytes d w
  fields [bad (j.obj == 0 || idTaken s p j.obj) 12, a52 j 16, bad (!aligned base 4096) 16,
      bad (size % 4096 != 0 || decide (size < 4096 + c * row) || decide (2 ^ 52 < base + size)) 24, aFmt j 32 isFloat,
      bad (decide (d < 32) || decide (4096 < d) || d % 32 != 0) 40, bad (w != 8 && w != 4) 42, bad (decide (2 < j.fld 43 1)) 43,
      bad (c == 0) 44, rsvd j 46 48, bad (decide (3 < j.fld 48 1)) 48, rsvd j 49 56]
    <|> fields [bad (spanTaken s p base size) 16] <|> chk (decide (256 ≤ s.tm.indexes.length)) (shapeErr 6 0)

/-- The state with the index that IDX_CREATE makes and its object, before its header is written. -/
def idxCreated (s : State) (j : Job) : State :=
  let p := part s j
  let base := j.va 16
  let size := j.fld 24 8
  let d := j.fld 40 2
  let w := j.fld 42 1
  let c := j.fld 44 2
  let o : Obj := ⟨p, j.obj, base, size, 0, 0, 0, 2, 0⟩
  let x : Index := ⟨p, j.obj, base, d, w, j.fld 43 1, c, [], [], [], [], 0, 1, 0, 0, [], [], none, none⟩
  { s with tm := { s.tm with objs := s.tm.objs ++ [o], indexes := s.tm.indexes ++ [x] } }

/-- What IDX_CREATE reads and writes. -/
def idxCreateSpans (s : State) (j : Job) : List Span :=
  let p := part s j
  let base := j.va 16
  let d := j.fld 40 2
  let w := j.fld 42 1
  let c := j.fld 44 2
  let row := centroidBytes d w
  let es := elemSize (j.fmt 32)
  [rd p (j.va 32) (c * d * es), wr p base (4096 + c * row)]

/-- IDX_CREATE (R297, R298, R314). -/
def execIdxCreate (id : Nat) (s : State) : Out :=
  runOp s id 0x0900 (fun j =>
    let p := part s j
    let base := j.va 16
    let d := j.fld 40 2
    let w := j.fld 42 1
    let c := j.fld 44 2
    let row := centroidBytes d w
    match idxCreateErr s j with
    | some e => finish s id e
    | none => match idxErr s p true with
      | some e => tierFail s id [] e j.obj
      | none =>
        let es := elemSize (j.fmt 32)
        withMemNew s (idxCreated s j) id (idxCreateSpans s j) (fun u =>
          let r := (List.range c).foldl (fun (acc : State × Bool × Bool) i =>
            let q := kvRow w (Rnd.ofCode (j.bits 48 0 2)) (elemsAt acc.1 p (j.va 32 + i * d * es) d (j.fmt 32)) []
            let soil := soiledAt acc.1 p (j.va 32 + i * d * es) (d * es)
            (writeAt acc.1 p (base + 4096 + i * row) (kvPack w q.codes ++ q.scales.map (fun b => BitVec.ofNat 8 b)) (fun _ => soil),
              acc.2.1 || q.sat, acc.2.2 || soil)) (u, false, false)
          finish (setIndex (stainIf r.2.1 r.1 rDtStain 7) p j.obj (fun x => x)) id (doneOf r.2.2 0)))

/-- IDX_FREE (08 R489). -/
def execIdxFree (id : Nat) (s : State) : Out :=
  runOp s id 0x0901 (fun j => match freeErr s j 2, idxErr s (part s j) false with
    | none, some c => tierFail s id [] c j.obj
    | _, _ => freeObj s j 2)

/-! ## Numbers and visibility (R303-R305) -/

/-- V: the largest number up to which every one is closed (R303). -/
def Index.v (x : Index) : Nat := match (x.opened.map (fun e => e.1)).min? with
  | some n => n - 1
  | none => x.next - 1

/-- An INSERT or DELETE of the index that began before descriptor j has not taken its numbers (R303). -/
def numbersAhead (s : State) (x : Index) (j : Job) : Bool :=
  s.hp.jobs.any (fun k => (k.opcode == 0x0902 || k.opcode == 0x0903) && k.phase == .checked && decide (k.order < j.order) &&
    k.obj == x.id && part s k == x.p && !x.opened.any (fun e => e.2.2 == k.id))

/-- The index as descriptor job found it as it began (R304, R311, R312). -/
def boundIndex (s : State) (job : Nat) (x : Index) : Index := ((s.tm.bound.find? (fun e => e.1 == job)).map (fun e => e.2)).getD x

/-- Descriptor job takes n numbers (R303). -/
def takeNumbers (s : State) (x : Index) (job n : Nat) : State :=
  setIndex s x.p x.id (fun y => { y with next := y.next + n, opened := y.opened ++ [(y.next, n, job)] })

/-- The first number that descriptor job took. -/
def Index.firstOf (x : Index) (job : Nat) : Nat := ((x.opened.find? (fun e => e.2.2 == job)).map (fun e => e.1)).getD 0

/-- An INSERT or DELETE ends: its numbers close; `void`: it is voided (R305). -/
def closeNumbers (s : State) (p id job : Nat) (void : Bool) : State :=
  setIndex s p id (fun x =>
    let mine := x.opened.filter (fun e => e.2.2 == job)
    let y := { x with opened := x.opened.filter (fun e => e.2.2 != job) }
    let z := if void then { y with
      voids := y.voids ++ mine.map (fun e => (e.1, e.2.1))
      tombs := y.tombs.filter (fun t => !voided (mine.map (fun e => (e.1, e.2.1))) t.num) } else y
    { z with visible := max x.visible z.v })

/-- Check 9 of an INSERT that has not begun (R303); begun: it took its numbers. -/
def insertErr (j : Job) (x : Index) (begun : Bool) : Option Ending :=
  let n := j.fld 40 4
  if begun then none else
    fields [aFmt j 16 isFloat, a52 j 24, a52 j 32, bad (n == 0 || decide (65536 < n)) 40, bad (decide (3 < j.fld 44 1)) 44, rsvd j 45 56]
    <|> chk (decide (2 ^ 24 < x.side.length + n)) (shapeErr 7 0)

/-- The pages of the side list that n more records change (R300). -/
def sidePages (x : Index) (n : Nat) : List Nat := (List.range (cdiv (x.side.length + n) x.perPage)).drop (x.side.length / x.perPage)

/-- Whether Tier 2 has room for the pages that n more records of the side list take (08 R274). -/
def sideRoom (s : State) (x : Index) (n : Nat) : Bool := deepRoom s x.p (16384 * (newPages s x.places 0xFFFF (sidePages x n)).length)

/-- What INSERT reads. -/
def insertIns (j : Job) (x : Index) : List Span :=
  let p := x.p
  let n := j.fld 40 4
  let es := elemSize (j.fmt 16)
  [rd p (j.va 16) (n * x.dim * es), rd p (j.va 24) (8 * n)] ++ (if j.va 32 = 0 then [] else [rd p (j.va 32) (8 * n)])

/-- Records rs go to the side list of an index (R300): its list pages are written. -/
def addSide (s : State) (p id : Nat) (rs : List Rec) : State :=
  match indexOf s p id, keyOf s p with
  | some x, some k =>
    let side := x.side ++ rs
    let w := putPages s k x x.gen 0xFFFF side (sidePages x rs.length) x.places
    setIndex w.2 p id (fun y => { y with side := side, places := w.1 })
  | _, _ => s

/-- INSERT (R303, R305): it takes its numbers as it begins; its records become visible as it completes. -/
def execInsert (id : Nat) (s : State) : Out :=
  runOp s id 0x0902 (fun j =>
    match indexNamed s j with
    | none => finish s id (fieldErr 12)
    | some x =>
      let p := x.p
      let n := j.fld 40 4
      let begun := x.opened.any (fun e => e.2.2 == id)
      let err := insertErr j x begun
      if numbersAhead s x j then s else
      match err, (if begun then none else idxErr s p true) with
      | some e, _ => finish s id e
      | none, some c => tierFail s id [] c x.id
      | none, none =>
        let s1 := if begun then s else takeNumbers s x id n
        let es := elemSize (j.fmt 16)
        let ins := insertIns j x
        withMemOr s1 id ins (fun c o => closeNumbers (tierFail s1 id [] c o) p x.id id true) (fun u =>
          if !sideRoom u x n then closeNumbers (tierFail u id [] cDeepFull x.id) p x.id id true
          else
            let first := ((indexOf u p x.id).map (fun y => y.firstOf id)).getD 0
            let rows := (List.range n).map (fun i =>
              let q := kvRow x.w (Rnd.ofCode (j.bits 44 0 2)) (elemsAt u p (j.va 16 + i * x.dim * es) x.dim (j.fmt 16)) []
              let soil := soiledAt u p (j.va 16 + i * x.dim * es) (x.dim * es)
              ((⟨numAt u p (j.va 24 + 8 * i) 8 % 2 ^ 48, first + i,
                if j.va 32 = 0 then 0 else BitVec.ofNat 64 (numAt u p (j.va 32 + 8 * i) 8), kvPack x.w q.codes,
                q.scales.map (fun b => BitVec.ofNat 8 b), soil⟩ : Rec), q))
            let satd := rows.any (fun r => r.2.sat)
            let soiled := rows.any (fun r => r.1.soil)
            let b (q : Bool) (v : Nat) : Nat := if q then v else 0
            let e := doneOf soiled (b satd 1 + b (rows.any (fun r => r.2.nf)) 2 + b soiled 4)
            let u1 := addSide (stainIf satd u rDtStain 7) p x.id (rows.map (fun r => r.1))
            keepRunning (modJob u1 id (fun k => { k with
              status := e.1, detail := BitVec.ofNat 32 e.2, moved := (ins.map (fun y => y.len)).sum })) id))

/-- Check 9 of a DELETE that has not begun (R303); begun: it took its numbers. -/
def deleteErr (j : Job) (x : Index) (begun : Bool) : Option Ending :=
  let n := j.fld 40 4
  if begun then none else
    fields [rsvd j 16 24, a52 j 24, rsvd j 32 40, bad (n == 0 || decide (65536 < n)) 40, rsvd j 44 56]
    <|> chk (decide (65536 < x.tombs.length + n)) (shapeErr 8 0)

/-- DELETE (R303, R304): it takes its numbers as it begins; its tombstones take effect as it completes. -/
def execDelete (id : Nat) (s : State) : Out :=
  runOp s id 0x0903 (fun j =>
    match indexNamed s j with
    | none => finish s id (fieldErr 12)
    | some x =>
      let p := x.p
      let n := j.fld 40 4
      let begun := x.opened.any (fun e => e.2.2 == id)
      let err := deleteErr j x begun
      if numbersAhead s x j then s else
      match err, (if begun then none else idxErr s p true) with
      | some e, _ => finish s id e
      | none, some c => tierFail s id [] c x.id
      | none, none =>
        let s1 := if begun then s else takeNumbers s x id n
        withMemOr s1 id [rd p (j.va 24) (8 * n)] (fun c o => closeNumbers (tierFail s1 id [] c o) p x.id id true) (fun u =>
          let first := ((indexOf u p x.id).map (fun y => y.firstOf id)).getD 0
          let ts : List Tomb := (List.range n).map (fun i => ⟨numAt u p (j.va 24 + 8 * i) 8 % 2 ^ 48, first + i⟩)
          keepRunning (modJob (setIndex u p x.id (fun y => { y with tombs := y.tombs ++ ts })) id (fun k => { k with
            status := stDone, detail := 0, moved := 8 * n })) id))

/-! ## Distances (R301, R302) -/

/-- Channel i of a vector of codes and scales; an invalid scale makes it NaN (02 R53). -/
def vecElem (w : Nat) (codes scales : List Byte) (i : Nat) : Val :=
  let b := (codes.getD (i * w / 8) 0).toNat
  let c : Int := if w = 8 then sgn 8 b else sgn 4 (if i % 2 = 0 then b % 16 else b / 16)
  match sf8 (scales.getD (i / 32) 0).toNat with
  | some s => Val.ofRat ((c : Rat) * s)
  | none => .nan

/-- The distance of two vectors: FP32 bits (R301); NaN where one has a NaN channel. -/
def distBy (kind d : Nat) (yv xv : Nat → Val) : Nat :=
  let y (i : Nat) : Rat := (yv i).rat
  let x (i : Nat) : Rat := (xv i).rat
  if (List.range d).any (fun i => (yv i).isNan || (xv i).isNan) then fp32Bits .nan else
  let sum (f : Nat → Rat) : Rat := ((List.range d).map f).sum
  let dot := sum (fun i => y i * x i)
  if kind = 0 then fp32Bits (Val.ofRat dot)
  else if kind = 1 then
    (let nn := sum (fun i => y i * y i) * sum (fun i => x i * x i)
     if nn = 0 then 0 else fp32Bits (Val.mul (Val.ofRat dot) (builtin 7 (lane (Val.ofRat nn)))))
  else fp32Bits (Val.ofRat (sum (fun i => (y i - x i) * (y i - x i))))

/-- The distance of an aligned query and a vector of codes and scales. -/
def distOf (kind d w : Nat) (q : PQuery) (codes scales : List Byte) : Nat := distBy kind d (fun i => Val.ofRat (q.elem i)) (vecElem w codes scales)

/-- Whether distance a is better than b (R301); a NaN is worse than any number (notes/assumptions/48.md). -/
def better (kind a b : Nat) : Bool :=
  if (fp32.decode b).isNan then !(fp32.decode a).isNan
  else if kind = 2 then Val.lt (fp32.decode a) (fp32.decode b) else Val.lt (fp32.decode b) (fp32.decode a)

/-- Whether candidate a ranks before b (R302). -/
def Cand.before (kind : Nat) (a b : Cand) : Bool :=
  better kind a.dist b.dist || (!better kind b.dist a.dist && (decide (a.item < b.item) || (a.item == b.item && decide (a.num < b.num))))

/-- Put a candidate into a ranked list of at most k. -/
def insertCand (kind k : Nat) (c : Cand) (l : List Cand) : List Cand :=
  ((l.takeWhile (fun x => !c.before kind x)) ++ c :: (l.dropWhile (fun x => !c.before kind x))).take k

/-- The centroids of an index: codes and scales. -/
def centroidAt (s : State) (x : Index) (c : Nat) : List Byte × List Byte :=
  let a := x.base + 4096 + c * centroidBytes x.dim x.w
  (bytesAt s x.p a (x.dim * x.w / 8), bytesAt s x.p (a + x.dim * x.w / 8) (x.dim / 32))

/-- The lists of an index, best first for a query; equal distances by number (R302). -/
def rankLists (s : State) (x : Index) (q : PQuery) : List Nat :=
  (((List.range x.c).map (fun c => (distOf x.dist x.dim x.w q (centroidAt s x c).1 (centroidAt s x c).2, c))).mergeSort
    (fun a b => !better x.dist b.1 a.1)).map (fun e => e.2)

/-- A query vector aligned. -/
def queryVec (fmt : Nat) (q16 : Bool) (bs : List Byte) : PQuery := alignQuery (elemsOf fmt bs) q16 0 0 false

/-! ## Searching (R306-R310) -/

/-- The pages that a list of n records takes: channel, list, page (R300). -/
def listPages (x : Index) (l n : Nat) : List (Nat × Nat × Nat) :=
  (List.range (cdiv n x.perPage)).map (fun j => ((if l = 0xFFFF then j % 32 else (l + j) % 32), l, j))

/-- The top k of a query over its channels' contexts (R306). -/
def topOf (kind k : Nat) (q : Query) : List Cand := ((q.best.flatMap (fun e => e.2)).foldl (fun l c => insertCand kind k c l) [])

/-- The result of a query (R310). -/
def resultBytes (x : Search) (kind k : Nat) (q : Query) : List Byte :=
  let best := topOf kind k q
  leBytes 8 x.snap ++ leBytes 2 best.length ++ leBytes 1 ((if q.nf then 1 else 0) + (if q.soiled = 0 then 0 else 2)) ++ [0] ++
  leBytes 4 (sat (2 ^ 32 - 1) q.seen) ++
  (best.map (fun c => leBytes 6 c.item ++ leBytes 2 c.list ++ leBytes 4 c.dist ++ leBytes 4 c.num)).flatten ++
  List.replicate (16 * (k - best.length)) 0

/-- The search of descriptor id has ended. -/
def dropSearch (s : State) (id : Nat) : State :=
  grantContexts { s with tm := { s.tm with searches := s.tm.searches.filter (fun y => y.job != id) } }

/-- Where descriptor j's results lie, and how many bytes. -/
def resultSpan (p : Nat) (j : Job) : Span := wr p (j.va 24) (j.fld 40 2 * (16 + 16 * j.fld 42 2))

/-- A search ends: its results are written (R310, R316). -/
def endSearch (s : State) (j : Job) (x : Search) : State :=
  let k := j.fld 42 2
  let kind := ((indexOf s x.p x.obj).map (fun y => y.dist)).getD 0
  let drop (t : State) : State := dropSearch t j.id
  withMemOr s j.id [resultSpan x.p j] (fun c o => drop (tierFail s j.id [] c o)) (fun s =>
    let s1 := (x.queries.zipIdx).foldl (fun t e =>
      writeAt t x.p (j.va 24 + e.2 * (16 + 16 * k)) (resultBytes x kind k e.1) (fun _ => e.1.soil)) s
    let n := (x.queries.map (fun q => q.soiled)).sum
    finish (addCnt (drop s1) rSearches x.queries.length) j.id
      (doneOf (n != 0 || x.queries.any (fun q => q.soil)) (sat 65535 n + (if x.queries.any (fun q => q.nf) then 65536 else 0))))

/-- The search of descriptor j, once every page it asked for has come. -/
def searchDue (s : State) (id : Nat) : Option Search :=
  s.tm.searches.find? (fun x => x.job == id && x.queries.all (fun q => q.pages.isEmpty))

/-- Check 9 of SEARCH (R306). -/
def searchErr (s : State) (j : Job) (x : Index) : Option Ending :=
  let p := x.p
  let qn := j.fld 40 2
  let k := j.fld 42 2
  let np := j.fld 44 2
  let fmt := j.fmt 16
  let vb := x.dim * elemSize fmt
  let out := resultSpan p j
  fields [aFmt j 16 isFloat, a52 j 24, a52 j 32, bad (qn == 0 || decide (256 < qn)) 40, bad (k == 0 || decide (1024 < k)) 42,
      bad (np == 0 || decide (min 4096 x.c < np)) 44, bad (decide (1 < j.fld 46 1)) 46, badCore s j 47, rsvd j 48 56]
    <|> fields [bad (overlap out.addr out.len (j.va 16) (qn * vb) || (j.va 32 != 0 && overlap out.addr out.len (j.va 32) (32 * qn))) 24]
    <|> regionErr s [out]

/-- What SEARCH reads as it begins. -/
def searchIns (j : Job) (x : Index) : List Span :=
  let p := x.p
  let qn := j.fld 40 2
  let fmt := j.fmt 16
  let vb := x.dim * elemSize fmt
  let cb := x.c * centroidBytes x.dim x.w
  [rd p (j.va 16) (qn * vb), rd p (x.base + 4096) cb] ++ (if j.va 32 = 0 then [] else [rd p (j.va 32) (32 * qn)])

/-- SEARCH (R304, R306, R318): with the snapshot and the generation that it found as it began, it ranks the lists and asks for their
pages. -/
def execSearch (id : Nat) (s : State) : Out :=
  runOp s id 0x0904 (fun j =>
    match indexNamed s j with
    | none => finish s id (fieldErr 12)
    | some x0 =>
      let x := boundIndex s id x0
      let p := x.p
      let qn := j.fld 40 2
      let np := j.fld 44 2
      let q16 := j.bits 46 0 1 == 1
      let fmt := j.fmt 16
      let vb := x.dim * elemSize fmt
      let out := resultSpan p j
      match searchErr s j x with
      | some e => finish s id e
      | none => match idxErr s p false with
        | some c => tierFail s id [] c x.id
        | none =>
          let cb := x.c * centroidBytes x.dim x.w
          let ins := searchIns j x
          withMemOr s id (ins ++ [out]) (fun c o => tierFail s id [] c o) (fun s =>
            let flt (i o : Nat) : DWord := if j.va 32 = 0 then 0 else BitVec.ofNat 64 (numAt s p (j.va 32 + 32 * i + o) 8)
            let one (i : Nat) : Query :=
              let bs := bytesAt s p (j.va 16 + i * vb) vb
              let q := queryVec fmt q16 bs
              let soil := soiledAt s p (j.va 16 + i * vb) vb || soiledAt s p (x.base + 4096) cb ||
                (j.va 32 != 0 && soiledAt s p (j.va 32 + 32 * i) 32)
              let pages := if q.nan then [] else ((rankLists s x q).take np).flatMap (fun l => listPages x l (x.list l).length) ++
                listPages x 0xFFFF x.side.length
              ⟨bs, flt i 0, flt i 8, flt i 16, soil, q.nan, pages, [], [], 0, 0⟩
            let y : Search := ⟨id, p, x.id, x.gen, x.visible, x.lists, x.side, x.places, x.tombs, x.voids, (List.range qn).map one⟩
            let c := (coreAt s p (j.fld 47 1)).getD 0
            let steps := cdiv (qn * x.c * x.dim) 16384
            let s1 := ranOn (coreCount s c 11 steps) id c steps ((ins.map (fun e => e.len)).sum)
            let s2 := askContexts (keepRunning { s1 with tm := { s1.tm with searches := s1.tm.searches ++ [y] } } id) id
            match searchDue s2 id with
            | some z => endSearch s2 j z
            | none => s2))

/-- A record of list l meets a query (R304, R306, R307). -/
def meetRecord (x : Search) (idx : Index) (j : Job) (v : PQuery) (ch l : Nat) (lost : Bool) (q : Query) (r : Rec) : Query :=
  let q1 := { q with seen := q.seen + 1 }
  if lost || r.soil then { q1 with soiled := q.soiled + 1 }
  else
    let pass := r.label &&& q.all == q.all && r.label &&& q.none == 0 && (q.any == 0 || r.label &&& q.any != 0)
    let seen := decide (r.num ≤ x.snap) && !voided x.voids r.num &&
      !x.tombs.any (fun t => t.item == r.item && decide (r.num < t.num) && decide (t.num ≤ x.snap))
    let c : Cand := ⟨distOf idx.dist idx.dim idx.w v r.codes r.scales, r.item, r.num, l⟩
    if pass && seen then { q1 with best := tset (fun _ => []) q.best ch (insertCand idx.dist (j.fld 42 2) c (tget (fun _ => []) q.best ch)) }
    else q1

/-- Page j of list l reaches a query of a search. -/
def meetPage (s : State) (x : Search) (ch l pg : Nat) (lost : Bool) (q : Query) : Query :=
  if q.ctxs.contains ch && q.pages.contains (ch, l, pg) then
    match indexOf s x.p x.obj, job? s x.job with
    | some idx, some j =>
      let rs := ((if l = 0xFFFF then x.side else tget (fun _ => []) x.lists l).drop (pg * idx.perPage)).take idx.perPage
      let v := queryVec (j.fmt 16) (j.bits 46 0 1 == 1) q.vec
      rs.foldl (meetRecord x idx j v ch l lost) { q with pages := q.pages.filter (fun e => e != (ch, l, pg)) }
    | _, _ => q
  else q

/-- The page that channel ch reads next: of the context that asked first. -/
def nextPage (s : State) (ch : Nat) : Option (Search × Nat × Nat) :=
  s.tm.asks.findSome? (fun id => (s.tm.searches.find? (fun x => x.job == id)).bind (fun x => x.queries.findSome? (fun q =>
    if q.ctxs.contains ch then (q.pages.find? (fun e => e.1 == ch)).map (fun e => (x, e.2.1, e.2.2)) else none)))

/-- Pages rebuilt from their stripes' parity are counted (08 R282, R296). -/
def noteRebuilt (s : State) (n : Nat) : State := stainIf (n != 0) (addCnt s rRebuilt n) rDtStain 0

/-- Page pg of list l of search x reaches every context of the channel that has asked for that page, of searches on either generation that
hold it (R295, R311). -/
def servePage (s : State) (ch : Nat) (x : Search) (l pg : Nat) (lost : Bool) : State :=
  let a (y : Search) : Nat := tget (fun _ => 0) y.places (pageKey l pg)
  { s with tm := { s.tm with searches := s.tm.searches.map (fun y =>
      if y.p = x.p ∧ y.obj = x.obj ∧ a y = a x then { y with queries := y.queries.map (meetPage s y ch l pg lost) } else y) } }

/-- Searches whose every page has come end. -/
def endSearches (s : State) : State :=
  (s.tm.searches.map (fun y => y.job)).foldl (fun t id => match searchDue t id, job? t id with
    | some y, some j => endSearch t j y
    | _, _ => t) s

/-- A page has come on channel ch of the carrier: it counts (R321, 14 R440), and what waits for contexts goes on (R309). -/
def noteArrival (s : State) (ch : Nat) (lost rebuilt : Bool) : State :=
  grantContexts (noteRebuilt (stainIf lost (addCnt (count s (1392 + 2 * ch) 1) rPagesRead 1) rDtStain 1) (if rebuilt then 1 else 0))

/-- Records that the searches have evaluated. -/
def recordsSeen (s : State) : Nat := ((s.tm.searches.flatMap (fun y => y.queries)).map (fun q => q.seen)).sum

/-- The memory of contexts of channel ch, by descriptor and query, cannot be corrected (R317): what they held is excluded. -/
def loseContexts (s : State) (ch : Nat) (ue : List (Nat × Nat)) : State :=
  let hit (x : Search) (i : Nat) (q : Query) : Bool := ue.contains (x.job, i) && q.ctxs.contains ch
  let any := s.tm.searches.any (fun x => (x.queries.zipIdx).any (fun e => hit x e.2 e.1))
  stainIf any { s with tm := { s.tm with searches := s.tm.searches.map (fun x => { x with
    queries := (x.queries.zipIdx).map (fun e => if hit x e.2 e.1 then
      { e.1 with best := tset (fun _ => []) e.1.best ch [], soiled := e.1.soiled + 1 } else e.1) }) } } rDtStain 6

/-- SORT_PAGE_ARRIVAL (R294, R295, R306, R317, 06 R202): one read serves every context that has asked for the page; leaf evaluations come
first. -/
def execSortPageArrival (ch : Fin 32) (x : FlashRead) (s0 : State) : Out :=
  let s := loseContexts s0 ch.val x.ue
  .next (if !deepReady s0 then s0 else
    match nextLeaves s ch.val with
    | some (w, e) => noteArrival (meetLeaves s ch.val w e x.lost) ch.val x.lost x.rebuilt
    | none => match nextPage s ch.val with
      | none => s
      | some (y, l, pg) =>
        let s1 := servePage s ch.val y l pg x.lost
        endSearches (noteArrival (count s1 1483 (recordsSeen s1 - recordsSeen s)) ch.val x.lost x.rebuilt))

/-! ## Merge (R311, R312) -/

/-- Whether tombstones numbered at or below n hide a record (R304, R311). -/
def hidden (ts : List Tomb) (n : Nat) (r : Rec) : Bool :=
  ts.any (fun t => t.item == r.item && decide (r.num < t.num) && decide (t.num ≤ n))

/-- The list whose centroid ranks first for a record, taken as dequantised (R311; notes/assumptions/35.md). -/
def homeList (s : State) (x : Index) (r : Rec) : Nat :=
  ((List.range x.c).foldl (fun (b : Option (Nat × Nat)) c =>
    let m := centroidAt s x c
    let d := distBy x.dist x.dim (vecElem x.w r.codes r.scales) (vecElem x.w m.1 m.2)
    match b with
    | none => some (d, c)
    | some e => if better x.dist d e.1 then some (d, c) else some e) none).elim 0 (fun e => e.2)

/-- The lists of the shadow generation with the merge point n, and how many were rewritten (R311). -/
def mergeLists (s : State) (x : Index) (n : Nat) : Tab (List Rec) × Nat :=
  let keep (r : Rec) : Bool := !hidden x.tombs n r && !voided x.voids r.num
  let new := (x.side.filter (fun r => decide (r.num ≤ n) && keep r)).map (fun r => (homeList s x r, r))
  (List.range x.c).foldl (fun (acc : Tab (List Rec) × Nat) l =>
    let old := x.list l
    let now := old.filter keep ++ (new.filter (fun e => e.1 == l)).map (fun e => e.2)
    (tset (fun _ => []) acc.1 l now, acc.2 + (if now = old then 0 else 1))) ([], 0)

/-- The pages of lists that the shadow of a merge rewrites: list, records, pages (R311). -/
def mergePages (x : Index) (lists : Tab (List Rec)) : List (Nat × List Rec × List Nat) :=
  (List.range x.c).filterMap (fun l =>
    let rs := tget (fun _ => []) lists l
    if rs = x.list l then none else some (l, rs, List.range (cdiv rs.length x.perPage)))

/-- Where the list pages of the shadow of a merge lie: those of lists that gain or lose no record stay shared, the others are written
(R311). -/
def mergePlaces (s : State) (k : DeepKey) (x : Index) (lists : Tab (List Rec)) : Tab Nat × State :=
  let ps := mergePages x lists
  let kept := x.places.filter (fun e => decide (e.1 / 2 ^ 32 ≠ 0xFFFF) && ps.all (fun y => y.1 != e.1 / 2 ^ 32))
  ps.foldl (fun acc y => putPages acc.2 k x (x.gen + 1) y.1 y.2.1 y.2.2 acc.1) (kept, s)

/-- MERGE (R311, R312): its shadow is built at begin and switches at its time. -/
def execMerge (id : Nat) (s : State) : Out :=
  runOp s id 0x0905 (fun j =>
    match indexNamed s j with
    | none => finish s id (fieldErr 12)
    | some x =>
      match fields [rsvd j 24 56] with
      | some e => finish s id e
      | none => match idxErr s x.p true with
        | some c => tierFail s id [] c x.id
        | none =>
          let v := (boundIndex s id x).visible
          if x.shadow.isSome || x.drain.isSome then markWaits s id
          else withMem s id [rd x.p (x.base + 4096) (x.c * centroidBytes x.dim x.w)] (fun s =>
            let m := mergeLists s x v
            let n := ((mergePages x m.1).map (fun y => y.2.2.length)).sum
            match keyOf s x.p with
            | some k =>
              if !deepRoom s x.p (16384 * n) then tierFail s id [] cDeepFull x.id
              else
                let w := mergePlaces s k x m.1
                keepRunning (modIndex w.2 x.p x.id (fun y => { y with
                  shadow := some ⟨id, v, BitVec.ofNat 64 (j.fld 16 8), m.1, w.1, m.2⟩ })) id
            | none => tierFail s id [] cKeyAbsent x.id))

/-- The list pages of the generation that a shadow makes, its side list among them (R300, R311). -/
def shadowPlaces (s : State) (x : Index) (m : MergeShadow) (side : List Rec) : Tab Nat × State :=
  match keyOf s x.p with
  | some k => putPages s k x (x.gen + 1) 0xFFFF side (List.range (cdiv side.length x.perPage)) m.places
  | none => (m.places, s)

/-- Switch an index to its shadow (R195, R311): the searches that run stay on the old generation. -/
def switchIndex (s : State) (p id : Nat) : State :=
  match indexOf s p id with
  | none => s
  | some x => match x.shadow with
    | none => s
    | some m =>
      if s.now < m.t then s
      else
        let ls := (s.tm.searches.filter (fun y => y.p == p && y.obj == id)).map (fun y => y.job) ++
          (s.tm.bound.filter (fun e => e.2.p == p && e.2.id == id && (job? s e.1).any (fun j => j.opcode == 0x0904))).map (fun e => e.1)
        let side := x.side.filter (fun r => decide (m.n < r.num))
        let w := shadowPlaces s x m side
        let old := ((x.places.map (fun e => e.2)).filter (fun a => w.1.all (fun e => e.2 != a))).dedup
        finish (setIndex w.2 p id (fun y => { y with
          lists := m.lists
          side := side
          places := w.1
          tombs := y.tombs.filter (fun t => decide (m.n < t.num))
          voids := y.voids.filter (fun v => decide (m.n < v.1 + v.2 - 1))
          gen := y.gen + 1
          mergePt := m.n
          shadow := none
          drain := if ls.isEmpty then none else some (ls, old) })) m.job (stDone, m.rewritten)

/-! ## The carrier (R296, R318, R321) -/

/-- Spare blocks now stand at `spare` tenths of a percent: below 2.0 % the carrier is read-only (R296). -/
def noteSpare (s : State) (spare : Nat) : State :=
  let t := wfield s rDtStatus 0 10 spare
  if spare < 20 then setStain (wfield t rDtStatus 28 1 1) rDtStain 3 else t

/-- A new, empty carrier: nothing is stored on it, and Fray unit 36 has no history (14 R457). -/
def newCarrier (s : State) : State :=
  { s with
    tm := { s.tm with ckpts := [], deep := [], deepNext := 1024, blocks := [] }
    ob := { s.ob with carrierHours := 0, carrierFray := [] } }

/-- CARRIER_READY (R321): firmware brings the carrier up. -/
def execCarrierReady (controllers : BitVec 4) (x : Carrier) (s : State) : Out :=
  let s0 := if x.fresh && !s.tm.wasReady then newCarrier s else s
  let s1 := wfield (wfield (wfield s0 rDtStatus 29 3 7) rDtStatus 24 4 controllers.toNat) rDtStatus 28 1 0
  let s2 := (List.range 32).foldl (fun t f => wfield t (rDtChan f) 31 1 (if controllers.getLsbD (f / 8) then 1 else 0)) s1
  runIf s s.ob.counting
    (noteSpare (wfield (wfield { s2 with tm := { s2.tm with wasReady := true } } rTmStatus 29 1 1) rTmStatus 30 1 1) x.spare.toNat)

/-- A running class 0x09 descriptor, a prefetch on its way or leaves that are being evaluated lose the carrier (R318). -/
def loseDeep (s : State) (j : Job) : State :=
  let p := part s j
  if j.opcode = 0x0904 ∧ j.phase = .running then
    tierFail (dropSearch s j.id) j.id [] cDeepAbsent j.obj
  else if (j.opcode = 0x0902 ∨ j.opcode = 0x0903) ∧ ((indexOf s p j.obj).any (fun x => x.opened.any (fun e => e.2.2 == j.id))) then
    closeNumbers (tierFail s j.id [] cDeepAbsent j.obj) p j.obj j.id true
  else if j.opcode = 0x0905 ∧ j.phase = .running then
    tierFail (modIndex s p j.obj (fun x => { x with shadow := none })) j.id [] cDeepAbsent j.obj
  else if j.opcode = 0x0703 ∧ s.tm.waits.any (fun w => w.job == j.id && decide (w.st ≤ 1)) then
    tierFail (dropPrefetch s j) j.id [] cDeepAbsent j.obj
  else if s.tm.leaves.any (fun w => w.job == j.id && !w.groups.isEmpty) then tierFail (dropLeaves s j.id) j.id [] cDeepAbsent j.obj
  else s

/-- CARRIER_LINK_FAIL (R318, 08 R274). -/
def execCarrierLinkFail (removed : Bool) (s : State) : Out :=
  let s1 := (s.hp.jobs).foldl (fun t j => if j.phase = .decided then t else loseDeep t j) s
  let s2 := mapPages { s1 with tm := { s1.tm with
    waits := s1.tm.waits.map (fun w => if w.st = 0 then { w with st := 3, cause := cDeepAbsent } else w) } }
    (fun g => if g.moving = 1 then { g with moving := 0 } else g.written 0)
  let s3 := wfield (wfield (wfield s2 rDtStatus 30 1 0) rDtStatus 29 1 0) rTmStatus 30 1 0
  let s4 := if removed then wfield (wfield (wfield (wfield s3 rDtStatus 31 1 0) rTmStatus 29 1 0) rDtStatus 24 4 0) rDtStatus 0 10 0 else s3
  let s5 := (List.range 32).foldl (fun t f => wreg t (rDtChan f) 0) s4
  .next (stainIf s.tm.wasReady s5 rDtStain 5)

/-- CARRIER_LINK_RETRAIN (R321). -/
def execCarrierLinkRetrain (s : State) : Out := runIf s (rfield s rDtStatus 29 1 == 1) (setStain s rDtStain 4)

/-- Flash pages read beside those of Sort units, and pages written, count (R321, 14 R440). -/
def noteFlash (s : State) (e : Fin 32 × Nat × Nat) : State :=
  count (count (addCnt s rPagesRead e.2.1) (1392 + 2 * e.1.val) e.2.1) (1393 + 2 * e.1.val) e.2.2

/-- GARBAGE_COLLECTION (R296): blocks retired, pages rebuilt, which it relocates, and flash pages read and written are counted
(notes/assumptions/54.md). -/
def execGarbageCollection (retired : Nat) (x : Collected) (s : State) : Out :=
  runIf s (deepReady s)
    (noteSpare (noteRebuilt (stainIf (retired != 0) (addCnt (x.flash.foldl noteFlash s) rRetired retired) rDtStain 2) x.rebuilt) x.spare.toNat)

end Sys2Proof.Machine
end

