-- ==== Sys2Proof/Machine/Generations.lean ====
section
/-! DEFINITION. The generations of the pattern table, the envelope trees, the recall sets and the indexes (06 R195, R196, 09 R311,
R312). -/

namespace Sys2Proof.Machine

/-- GENERATION_SWITCH (06 R195, R196, 09 R311). -/
def execGenerationSwitch (t : GenTable) (s : State) : Out :=
  .next (match t with
    | .pattern p => switchPattern s p.val
    | .tree p o l h => (match regionOf s p.val o with
      | some r => switchTreeOf s r l h
      | none => s)
    | .recall p o l h => (match regionOf s p.val o with
      | some r => switchRecall s r l h
      | none => s)
    | .index p o => switchIndex s p.val o)

/-- GENERATION_DRAINED (06 R195, 09 R312): every lookup bound to the draining generation has completed. -/
def execGenerationDrained (t : GenTable) (s : State) : Out :=
  .next (match t with
    | .pattern p =>
      let x := patsOf s p.val
      if x.drain.any (fun d => d.2.all (gone s)) then
        { s with tm := { s.tm with pats := tset (fun _ => pat0) s.tm.pats p.val { x with drain := none } } } else s
    | .tree p o l h => modRegion s p.val o (fun r => { r with
        drains := r.drains.filter (fun e => !(e.1 == l && e.2.1 == h && e.2.2.all (gone s))) })
    | .recall p o l h => modRegion s p.val o (fun r => { r with
        recallOld := r.recallOld.filter (fun e => !(e.layer == l && e.head == h && e.jobs.all (gone s))) })
    | .index p o => modIndex s p.val o (fun x => { x with
        drain := if x.drain.any (fun d => d.1.all (gone s)) then none else x.drain }))

end Sys2Proof.Machine
end

