-- ==== Sys2Proof/Machine/Streams.lean ====
section
/-! DEFINITION. The stream engines (spec 10): armings, transfers, merging, two-half buffers. -/

namespace Sys2Proof.Machine

/-! ## Queues and engines (R322, R323) -/

/-- Store queue q. -/
def setQueue (s : State) (q : Nat) (x : Queue) : State :=
  { s with se := { s.se with queues := tset (fun _ => queue0) s.se.queues q x } }

/-- The engine of queue q. -/
def engineOf (q : Nat) : Nat := if q < 1024 then q / 16 else if q < 1280 then 64 + (q - 1024) / 32 else 72

/-- The queues of engine e, ascending. -/
def queuesOf (e : Nat) : List Nat :=
  if e < 64 then (List.range 16).map (fun i => 16 * e + i)
  else if e < 72 then (List.range 32).map (fun i => 1024 + 32 * (e - 64) + i) else (List.range 64).map (fun i => 1280 + i)

/-- The most transfers that engine e holds outstanding (R327). -/
def engineCap (e : Nat) : Nat := if e < 64 then 512 else if e < 72 then 1024 else 2048

/-- The offset of queue q's register block (R352). -/
def queueBlock (q : Nat) : Nat :=
  if q < 1024 then rSeCore (q / 16) (q % 16) else if q < 1280 then rSeDie ((q - 1024) / 32) ((q - 1024) % 32) else rSeHub (q - 1280)

/-- Checks of bytes 48-50. -/
def queueErr (s : State) (j : Job) : List (Option Nat) :=
  let q := j.fld 49 1
  let e := j.fld 48 1
  [bad (decide (2 < e)) 48, bad (decide ((if e = 0 then 16 else if e = 1 then 32 else 8) ≤ q)) 49,
   bad (match e with
     | 0 => (coreAt s (part s j) (j.fld 50 1)).isNone
     | 1 => decide ((partDies s (part s j)).length ≤ j.fld 50 1)
     | _ => j.fld 50 1 != 0) 50]

/-- Transfers of queue q held or issued. -/
def piecesOf (s : State) (q : Nat) : List Piece := (s.se.groups.flatMap (fun g => g.pieces)).filter (fun x => x.q == q)

/-- Transfers of queue q issued and not landed. -/
def issuedOf (s : State) (q : Nat) : List Piece :=
  ((s.se.groups.filter (fun g => g.issued)).flatMap (fun g => g.pieces)).filter (fun x => x.q == q)

/-- The die whose cache part queue q's engine reads through (R339); none: the hub's. -/
def queueDie (q : Nat) : Option Nat := if q < 1024 then some (q / 128) else if q < 1280 then some ((q - 1024) / 32) else none

/-! ## Armings (R325, R331-R336, R345, R346) -/

/-- The arming that descriptor j gives. -/
def armingOf (s : State) (j : Job) : Arming :=
  let b (k : Nat) : Bool := j.bits 52 k 1 == 1
  ⟨j.id, part s j, j.fld 16 8, j.fld 24 8, j.fld 32 4, j.fld 36 4, j.fld 40 4, j.fld 44 4, j.fld 51 1 + 1, j.bits 52 0 3, b 3, b 4, b 5, b 6,
    b 7, j.bits 53 0 2, j.bits 53 2 2, j.fld 54 1, j.xfld 0 8, j.xfld 8 4, j.xfld 12 4, j.xfld 16 4, j.xfld 20 2, j.xfld 22 1, j.xfld 23 1,
    j.xbits 24 0 2, j.xbits 24 2 2, j.xbits 24 4 1 == 1, 0, 0, false, none, 0, false, 0, []⟩

/-- Element sizes on the two sides; 1 without conversion. -/
def Arming.ssz (a : Arming) : Nat := if a.conv then elemSize a.sfmt else 1
/-- The destination side's element size. -/
def Arming.dsz (a : Arming) : Nat := if a.conv then elemSize a.dfmt else 1
/-- Destination bytes of a row (R333). -/
def Arming.drow (a : Arming) : Nat := a.rowBytes / a.ssz * a.dsz

/-- The span of n rows of `len` bytes, `stride` apart. -/
def rowsSpan (n len stride : Nat) : Nat := (n - 1) * stride + len

/-- Whether an engine carries these spaces (R324). -/
def spacesOk (e s d : Nat) : Bool :=
  if e = 0 then (s == 0 && d == 1) || (s == 1 && d == 0) else if e = 1 then s == 0 && (d == 1 || d == 3 || d == 0)
  else (s == 0 && d == 0) || (s == 2 && d == 0) || (s == 0 && d == 2)

/-- Rows and stride that bound a side: all rows, or under an index the index limit's. -/
def Arming.bound (a : Arming) (src : Bool) : Option Nat :=
  let indexed := a.index && (a.scatter != src)
  if indexed then (if a.idxLimit = 0 then none else some a.idxLimit) else some a.rows

/-- Checks of ARM that its own fields decide (R345-R347). -/
def armFields (s : State) (j : Job) (a : Arming) : List (Option Nat) :=
  let e := j.fld 48 1
  let srcSpan := (a.bound true).map (fun n => rowsSpan n a.rowBytes a.sstride)
  let dstSpan := if a.two then some (2 * a.h) else (a.bound false).map (fun n => rowsSpan n a.drow a.dstride)
  let local' (base : Nat) (span : Option Nat) : Bool := decide (bufBytes < base + (span.getD 1))
  let die := (partDies s a.p).getD (j.fld 50 1) 0
  let x := j.ext.isSome
  [if a.sspace = 0 then a52 j 16 else none, bad (a.sspace == 1 && local' a.src srcSpan) 16,
   if a.dspace = 0 then a52 j 24 else none, bad (a.dspace == 1 && !a.two && local' a.dst dstSpan) 24, bad (a.dspace == 3 && a.dst != 0) 24,
   bad (a.sspace == a.dspace && (match srcSpan, dstSpan with
     | some m, some n => overlap a.src m a.dst n
     | _, _ => false)) 24,
   bad (a.rowBytes == 0 || decide (2 ^ 24 < a.rowBytes) || (a.conv && a.ssz != 0 && a.rowBytes % a.ssz != 0)) 32,
   bad (a.rows == 0 || decide (2 ^ 24 < a.rows)) 36, bad (a.two && a.dstride != a.drow) 44] ++ queueErr s j ++
  [bad (a.two && a.dspace != 1) 52, bad (!spacesOk e a.sspace a.dspace || j.bits 53 4 4 != 0) 53,
   bad (if e = 1 ∧ a.dspace = 1 then a.mask == 0 || (List.range 8).any (fun m => bitOf a.mask m && s.boot.retired.getLsbD (8 * die + m))
     else a.mask != 0) 54, rsvd j 55 56] ++
  (if x then
    [xunused (!a.index) j 0 8, if a.index then xa52 j 0 else none, bad (a.index && a.idxAddr % 4 != 0) 64, xunused (!a.index) j 8 16,
     bad (a.two && (decide (a.h < 4096) || a.drow == 0 || a.h % a.drow != 0 || decide (bufBytes < a.dst + 2 * a.h))) 80,
     xunused (!a.two) j 16 22, bad (j.xbits 21 4 4 != 0) 85, bad (if a.conv then !isFloat a.sfmt else a.sfmt != 0) 86,
     bad (if a.conv then !isFloat a.dfmt else a.dfmt != 0) 87,
     bad ((!a.conv && a.rnd != 0) || a.padSize == 3 || ((a.conv || !a.index) && a.padSize != 0) || (a.scatter && (!a.index || a.two)) ||
       j.xbits 24 5 3 != 0) 88, xunused true j 25 64] else [])

/-- What SE says of a destination span that overlaps a KV region (06 R171). -/
def armRegion (s : State) (a : Arming) : Option Ending :=
  if a.dspace = 0 then (match a.bound false with
    | some n => regionErr s [wr a.p a.dst (rowsSpan n a.drow a.dstride)]
    | none => none) else none

/-- A re-arm or arming that breaks the half state (R336). -/
def halfErr (x : Queue) (a : Arming) : Option Ending :=
  if a.two && !x.full.isEmpty then
    (if x.buf ≠ a.dst then some (fieldErr 24) else if x.h ≠ a.h then some (fieldErr 80) else none) else none

/-! ## What comes next of an arming (R326, R331, R332, R334) -/

/-- What queue q would issue next. -/
inductive Next where
  /-- Nothing more. -/
  | done
  /-- Nothing yet: a half is full (`true`), or the page of its index list is on its way. -/
  | blocked (half : Bool)
  /-- The page of its index list has to be asked for. -/
  | ask
  /-- The row is passed over. -/
  | skip (range : Bool)
  /-- A transfer. -/
  | piece (x : Piece) (range : Bool)
  /-- The index list, or a local address, cannot be reached. -/
  | fail (e : Nat × Nat) (tier : Bool)
  deriving DecidableEq, Repr

/-- The bytes left before a 4 KiB boundary of a range or host address; else 4,096. -/
def cutAt (space addr : Nat) : Nat := if space = 0 ∨ space = 2 then 4096 - addr % 4096 else 4096

/-- Whether segment n's half may be written (R334). -/
def halfFree (x : Queue) (n : Nat) : Bool := (x.writing ++ x.full).all (fun m => m == n || m % 2 != n % 2) && !x.full.contains n

/-- Destination of byte o of the destination bytes of a two-half arming. -/
def Arming.halfAddr (a : Arming) (o : Nat) : Nat := a.dst + ((a.seg0 + o / a.h) % 2) * a.h + o % a.h

/-- The next step of the running arming a of queue q. -/
def nextOf (s : State) (q : Nat) (x : Queue) (a : Arming) : Next :=
  if a.stop || decide (a.rows ≤ a.row) then .done
  else
    let ia := a.idxAddr + 4 * a.row
    match (if a.index then (spanSays s a.job (rd a.p ia 4)).1 else .go) with
    | .fault c o => .fail (tierErr c o) true
    | .wait ws => if ws.isEmpty then .blocked false else .ask
    | .go =>
      let i := if a.index then numAt s a.p ia 4 else a.row
      let isoil := a.index && soiledAt s a.p ia 4
      let outside := a.index && i != 0xFFFFFFFF && a.idxLimit != 0 && decide (a.idxLimit ≤ i)
      let pad := a.index && (i == 0xFFFFFFFF || outside)
      if pad && a.scatter then .skip outside
      else
        let si := if a.index && !a.scatter then i else a.row
        let di := if a.index && a.scatter then i else a.row
        let seg := if a.two then a.seg0 + (a.row * a.drow + a.off / a.ssz * a.dsz) / a.h else 0
        if a.two && !halfFree x seg then .blocked true
        else
          let src := a.src + si * a.sstride + a.off
          let doff := a.off / a.ssz * a.dsz
          let dst := if a.two then a.halfAddr (a.row * a.drow + doff) else a.dst + di * a.dstride + doff
          let fit (n each : Nat) : Nat := max 1 (n / each)
          let el := (a.rowBytes - a.off) / a.ssz
          let n := min (min el (fit 4096 a.ssz)) (min (if pad then el else fit (cutAt a.sspace src) a.ssz) (fit (cutAt a.dspace dst) a.dsz))
          if (a.sspace == 1 && !pad && decide (bufBytes < src + n * a.ssz)) then .fail (fieldErr 16) false
          else if (a.dspace == 1 && decide (bufBytes < dst + n * a.dsz)) then .fail (fieldErr 24) false
          else .piece ⟨q, a.job, a.row, src, dst, n * a.ssz, n * a.dsz, doff, pad, isoil, seg⟩ outside

/-- The arming after passing n source bytes of its row. -/
def Arming.pass (a : Arming) (n : Nat) : Arming :=
  if a.rowBytes ≤ a.off + n then { a with row := a.row + 1, off := 0 } else { a with off := a.off + n }

/-! ## Ending and promoting (R325, R340, R348) -/

/-- How an arming ends. -/
def Arming.ends (a : Arming) : Ending := match a.ending with
  | some e => e
  | none => doneOf a.soiled a.detail

/-- An arming starts to run on queue q: a two-half one continues the segment numbering (R336). -/
def startArming (s : State) (q : Nat) (a : Arming) : State :=
  let x := queueOf s q
  let y := if a.two then { x with buf := a.dst, h := a.h } else x
  let t := setQueue s q { y with run := some { a with seg0 := x.next }, pend := none }
  modJob (wcnt t (queueBlock q + 8) 0) a.job (fun j => { j with engine := if engineOf q = 72 then 0x80 else engineOf q })

/-- The running arming of queue q waits only for a free half (R349). -/
def noteParked (s : State) (q : Nat) : State :=
  let x := queueOf s q
  match x.run with
  | none => s
  | some a =>
    let w := (piecesOf s q).isEmpty && (nextOf s q x a == .blocked true)
    modJob s a.job (fun j => { j with parked := w })

/-- Queue q's running arming completes where nothing of it is left, and its pending one runs (R325, R340, R350). -/
def settleQueue (s : State) (q : Nat) : State :=
  let x := queueOf s q
  match x.run with
  | none => s
  | some a =>
    if (piecesOf s q).isEmpty && (a.stop || decide (a.rows ≤ a.row)) then
      let t := finish (dropWaits (setQueue s q { x with run := none, pend := none }) a.job) a.job a.ends
      noteParked (match x.pend with
        | some b => startArming t q b
        | none => t) q
    else noteParked s q

/-- ARM (R325, R340): it runs, or is held behind the running arming. -/
def execArm (id : Nat) (s : State) : Out :=
  runOp s id 0x0100 (fun j =>
    let a := armingOf s j
    match fields (armFields s j a), queueNamed s j with
    | some e, _ => finish s id e
    | none, none => finish s id (fieldErr 49)
    | none, some q =>
      let x := queueOf s q
      if x.pend.isSome || (armsBegun s q).any (fun k => decide (k.order < j.order)) then s
      else match halfErr x a <|> armRegion s a with
      | some e => finish s id e
      | none =>
        if a.dspace = 3 ∧ cacheSets s ((q - 1024) / 32) = 0 then finish s id (stDone, 16)
        else
          let t := keepRunning s id
          match x.run with
          | some _ => setQueue t q { x with pend := some a }
          | none => settleQueue (startArming t q a) q)

/-- SWAP (R335): it frees the half that it found as it began. -/
def execSwap (id : Nat) (s : State) : Out :=
  runOp s id 0x0101 (fun j =>
    match fields ([rsvd j 16 48, rsvd j 51 56] ++ queueErr s j), queueNamed s j with
    | some e, _ => finish s id e
    | none, none => finish s id (fieldErr 49)
    | none, some q =>
      let x := queueOf s q
      match (s.se.found.find? (fun e => e.1 == id)).bind (fun e => e.2.2) with
      | none => finish s id (fieldErr 48)
      | some n => noteParked (finish (setQueue s q { x with full := x.full.filter (fun m => m != n) }) id (stDone, 0)) q)

/-- HALF_RESET (R336). -/
def execHalfReset (id : Nat) (s : State) : Out :=
  runOp s id 0x0102 (fun j =>
    match fields ([rsvd j 16 48, rsvd j 51 56] ++ queueErr s j), queueNamed s j with
    | some e, _ => finish s id e
    | none, none => finish s id (fieldErr 49)
    | none, some q =>
      let x := queueOf s q
      if x.run.isSome || x.pend.isSome then finish s id (fieldErr 48)
      else finish (setQueue s q { x with buf := 0, h := 0, writing := [], full := [], next := 0 }) id (stDone, 0))

/-! ## Issue and merging (R327, R328, R330) -/

/-- Whether two transfers of one engine may merge, the second following the first (R330). -/
def mergeable (s : State) (f g : Piece) : Bool :=
  match (queueOf s f.q).run, (queueOf s g.q).run with
  | some a, some b =>
    let inside (space x n : Nat) : Bool := space == 1 || decide (x / 4096 = (x + n - 1) / 4096)
    a.merge && b.merge && a.p == b.p && a.sspace == b.sspace && a.dspace == b.dspace && a.mask == b.mask && f.pad == g.pad && !f.pad &&
    f.src + f.len == g.src && f.dst + f.dlen == g.dst && (a.dspace != 3) &&
    inside a.sspace f.src (f.len + g.len) && inside a.dspace f.dst (f.dlen + g.dlen)
  | _, _ => false

/-- A group as one transfer. -/
def Group.whole (g : Group) : Option Piece := match g.pieces with
  | [] => none
  | f :: fs => some { f with len := f.len + (fs.map (fun x => x.len)).sum, dlen := f.dlen + (fs.map (fun x => x.dlen)).sum }

/-- Whether a group need wait no longer for a partner: 4 KiB, or at a boundary. -/
def Group.whole4k (g : Group) : Bool := decide (4096 ≤ (g.pieces.map (fun x => x.len)).sum)

/-- Issuing a group as one transfer costs 4 + ceil(bytes / 512) steps of the engine (R329), those of its first arming. -/
def chargeGroup (s : State) (g : Group) : State :=
  match g.whole with
  | some w => modJob s w.job (fun j => { j with steps := j.steps + 4 + cdiv w.len 512 })
  | none => s

/-- Issue the groups that `f` picks. -/
def issueGroups (s : State) (f : Group → Bool) : State :=
  let t := (s.se.groups.filter (fun g => f g && !g.issued)).foldl chargeGroup s
  { t with se := { t.se with groups := t.se.groups.map (fun g => if f g then { g with issued := true } else g) } }

/-- Queue q issues the transfer x: at once, merged with one held, or held for a partner. -/
def issuePiece (s : State) (x : Piece) (merge : Bool) : State :=
  let cand := s.se.groups.find? (fun g => !g.issued && decide (s.now.toNat ≤ g.ready.toNat + 64) && (match g.whole with
    | some w => mergeable s w x
    | none => false))
  let own (g : Group) : Bool := !g.issued && g.pieces.any (fun y => y.q == x.q)
  match (if merge then cand else none) with
  | some g =>
    let h := { g with pieces := g.pieces ++ [x], issued := g.whole4k || decide (4096 ≤ (g.pieces.map (fun y => y.len)).sum + x.len) }
    let t := if h.issued then chargeGroup s h else s
    addCnt { t with se := { t.se with groups := t.se.groups.map (fun y => if y.id = g.id then h else y) } } rSeMerged 1
  | none =>
    let u := issueGroups s own
    let g : Group := ⟨u.se.nextGroup, [x], u.now, !merge || decide (4096 ≤ x.len) || x.pad⟩
    let t := if g.issued then chargeGroup u g else u
    { t with se := { t.se with groups := t.se.groups ++ [g], nextGroup := t.se.nextGroup + 1 } }

/-- Whether queue q has a transfer ready and room for it (R327, R328). -/
def queueReady (s : State) (q : Nat) : Bool :=
  let x := queueOf s q
  match x.run with
  | none => false
  | some a => decide ((piecesOf s q).length < a.limit) && (match nextOf s q x a with
    | .piece _ _ => true
    | .skip _ => true
    | .fail _ _ => true
    | .ask => true
    | _ => false)

/-- The queue that engine e serves next: the highest priority, then in turn (R328). -/
def nextQueue (s : State) (e : Nat) : Option Nat :=
  let qs := (queuesOf e).filter (queueReady s)
  let prio (q : Nat) : Nat := ((queueOf s q).run.map (fun a => a.prio)).getD 0
  let top := (qs.map prio).foldl max 0
  let last := tget (fun _ => 0) s.se.last e
  let best := qs.filter (fun q => prio q == top)
  match best.find? (fun q => decide (last < q + 1)) with
  | some q => some q
  | none => best.head?

/-- Note an index out of range (R332). -/
def noteRange (s : State) (a : Arming) (range : Bool) : State × Arming :=
  if range then (setStain s rSeStain 3, { a with detail := a.detail ||| 4 }) else (s, a)

/-- TRANSFER_ISSUE (R326-R328, R330-R332). -/
def execTransferIssue (e : Fin 73) (s : State) : Out :=
  let out := (queuesOf e.val).map (fun q => (issuedOf s q).length)
  .next (match nextQueue s e.val with
    | none => s
    | some q =>
      let x := queueOf s q
      match x.run with
      | none => s
      | some a =>
        let s0 := { s with se := { s.se with last := tset (fun _ => 0) s.se.last e.val (q + 1) } }
        match nextOf s q x a with
        | .piece y range =>
          if engineCap e.val ≤ out.sum then s0
          else
            let n := noteRange s0 a range
            let x1 := { x with
              run := some (n.2.pass y.len)
              writing := if a.two && !x.writing.contains y.seg then x.writing ++ [y.seg] else x.writing
              next := if a.two then max x.next (y.seg + 1) else x.next }
            issuePiece (setQueue n.1 q x1) y a.merge
        | .skip range =>
          let n := noteRange s0 a range
          settleQueue (setQueue n.1 q { x with run := some { n.2 with row := a.row + 1, off := 0 } }) q
        | .fail f tier =>
          settleQueue (stainIf tier (setQueue s0 q { x with run := some { a with stop := true, ending := a.ending <|> some f } }) rSeStain 4) q
        | .ask =>
          withMemBy s0 a.job (queueDie q) [rd a.p (a.idxAddr + 4 * a.row) 4] (fun _ _ => s0) (fun t => t)
        | _ => s)

/-- MERGE_HOLD_EXPIRE (R330): the transfer that queue q holds is issued. -/
def execMergeHoldExpire (q : Fin 1344) (s : State) : Out :=
  .next (issueGroups s (fun g => !g.issued && g.pieces.any (fun y => y.q == q.val)))

/-! ## Landing (R326, R333, R334, R337-R339, R342) -/

/-- The bytes of a pad row from byte o of the row on (R332). -/
def padBytes (a : Arming) (o n : Nat) : List Byte :=
  let k := if a.conv then a.dsz else 2 ^ a.padSize
  (List.range n).map (fun i => BitVec.ofNat 8 (a.pad / 2 ^ (8 * ((o + i) % k))))

/-- The bytes that a transfer writes, the soil of each, whether an element saturated (R333, R342). -/
def moved (s : State) (a : Arming) (x : Piece) (c : Nat) (host : List Byte) (poison : Bool) : List Byte × (Nat → Bool) × Bool :=
  if x.pad then (padBytes a x.doff x.dlen, (fun _ => x.isoil), false)
  else
    let k := if a.sspace = 1 then bufPlace c else a.p
    let bs := if a.sspace = 2 then host ++ List.replicate (x.len - host.length) 0 else bytesAt s k x.src x.len
    let soil (i : Nat) : Bool := x.isoil || (if a.sspace = 2 then poison else unitSoil s k (x.src + i))
    if a.conv then
      let e := encodeAll a.dfmt (Rnd.ofCode a.rnd) (elemsOf a.sfmt bs)
      (e.1, (fun i => (List.range a.ssz).any (fun b => soil (i / a.dsz * a.ssz + b))), e.2)
    else (bs, soil, false)

/-- Write to host memory, a soiled 64-byte unit of the source in a poisoned write of its own (R342). -/
def hostUnits (s : State) (f dst : Nat) (bs : List Byte) (soil : Nat → Bool) : State :=
  if (List.range bs.length).any soil then
    (List.range (cdiv bs.length 64)).foldl (fun t u =>
      hostPut t f (dst + 64 * u) ((bs.drop (64 * u)).take 64) ((List.range (min 64 (bs.length - 64 * u))).any (fun i => soil (64 * u + i)))) s
  else hostPut s f dst bs false

/-- The cores that a transfer of queue q writes (R337). -/
def targets (q : Nat) (a : Arming) : List Nat :=
  if q < 1024 then [q / 16] else ((List.range 8).filter (bitOf a.mask)).map (fun m => 8 * ((q - 1024) / 32) + m)

/-- One transfer lands (R326, R337, R338). -/
def landPiece (s : State) (x : Piece) (host : List Byte) (poison : Bool) : State :=
  match (queueOf s x.q).run with
  | none => s
  | some a =>
    let f := (partOwner s.hp.own a.p).getD 0
    let die := if x.q < 1024 then x.q / 16 / 8 else (x.q - 1024) / 32
    let m := moved s a x (x.q / 16) host poison
    let soiled := (List.range m.1.length).any m.2.1
    let s1 := modJob s a.job (fun j => { j with moved := j.moved + (if a.dspace = 3 then x.len else x.dlen) })
    let s2 := match a.dspace with
      | 0 => writeAt s1 a.p x.dst m.1 m.2.1
      | 1 => (targets x.q a).foldl (fun t c => writeAt t (bufPlace c) x.dst m.1 m.2.1) s1
      | 2 => hostUnits s1 f x.dst m.1 m.2.1
      | _ => s1
    let n := if a.dspace = 3 then 0 else x.dlen
    let s3 := addCnt (addCnt s2 rSeBytes n) (queueBlock x.q + 8) n
    let s4 := if x.q < 1024 then coreCount s3 (x.q / 16) 15 n else if x.q < 1280 then
      count (count s3 (1024 + 16 * die + 12) n) (1024 + 16 * die + 15) (if a.dspace = 1 then n * (targets x.q a).length else 0) else s3
    let s4 := if a.sspace = 2 then count s4 1477 x.len else s4
    let bad' := soiled && a.dspace == 2
    let s5 := stainIf (bad' || (a.sspace == 2 && poison)) (stainIf soiled (stainIf m.2.2 s4 rSeStain 0) rSeStain 1) rSeStain 2
    let b (q : Bool) (v : Nat) : Nat := if q then v else 0
    let a1 := { a with detail := a.detail ||| b m.2.2 1 ||| b soiled 2 ||| b bad' 8, soiled := a.soiled || soiled }
    setQueue s5 x.q { queueOf s5 x.q with run := some a1 }

/-- A transfer that TM cannot serve: its destination is soiled, or it is dropped (R342). -/
def loseSource (s : State) (x : Piece) (a : Arming) (e : Ending) : State :=
  let n := x.dlen
  let bs := (List.range n).map (fun i => Config.freeByte (s.free + i))
  let s1 := { s with free := s.free + n }
  let f := (partOwner s.hp.own a.p).getD 0
  let s2 := match a.dspace with
    | 0 => writeAt s1 a.p x.dst bs allSoil
    | 1 => (targets x.q a).foldl (fun t c => writeAt t (bufPlace c) x.dst bs allSoil) s1
    | 2 => hostUnits s1 f x.dst bs allSoil
    | _ => s1
  setQueue (setStain s2 rSeStain 4) x.q { queueOf s2 x.q with run := some { a with ending := a.ending <|> some e } }

/-- Note the bytes landed of a two-half segment; a whole segment makes its half full and adds to the half peg (R334). -/
def noteSegment (s : State) (x : Piece) : State :=
  let q := queueOf s x.q
  match q.run with
  | none => s
  | some a =>
    if !a.two then s
    else
      let k := x.seg - a.seg0
      let size := min a.h (a.rows * a.drow - k * a.h)
      let done := tget (fun _ => 0) a.segDone k + x.dlen
      let q1 := { q with run := some { a with segDone := tset (fun _ => 0) a.segDone k done } }
      if size ≤ done then
        addPeg (setQueue s x.q { q1 with writing := q1.writing.filter (fun n => n != x.seg), full := q1.full ++ [x.seg] }) a.p (a.halfPeg % 4096) 1
      else setQueue s x.q q1

/-- The spans of a transfer in the unified range: source, then destination. -/
def pieceSpans (a : Arming) (x : Piece) : List Span × List Span :=
  (if a.sspace = 0 ∧ !x.pad then [rd a.p x.src x.len] else [], if a.dspace = 0 then [wr a.p x.dst x.dlen] else [])

/-- Land one transfer of a group; `some`: it landed, or was lost. -/
def tryLand (s : State) (x : Piece) (host : List Byte) (poison : Bool) : State × Bool :=
  match (queueOf s x.q).run with
  | none => (s, true)
  | some a =>
    let f := (partOwner s.hp.own a.p).getD 0
    let sp := pieceSpans a x
    if (a.sspace == 2 || a.dspace == 2) && !hostOpen s f then (s, false)
    else if a.dspace = 0 ∧ inRegion s a.p x.dst x.dlen then
      (setQueue s x.q { queueOf s x.q with run := some { a with stop := true, ending := a.ending <|> some (stAccess, 0) } }, true)
    else match (tierSays s a.job sp.1).1, (tierSays s a.job sp.2).1 with
    | _, .fault c o =>
      (setQueue (setStain (countFaults (stainCause s c) 1) rSeStain 4) x.q
        { queueOf s x.q with run := some { a with ending := a.ending <|> some (tierErr c o) } }, true)
    | .fault c o, .go => (loseSource (withMemBy (countFaults (stainCause s c) 1) a.job (queueDie x.q) sp.2 (fun _ _ => s) (fun t => t)) x a (tierErr c o), true)
    | .go, .go => (withMemBy s a.job (queueDie x.q) (sp.1 ++ sp.2) (fun _ _ => s) (fun t => landPiece t x host poison), true)
    | _, _ => (withMemBy s a.job (queueDie x.q) (sp.1 ++ sp.2) (fun _ _ => s) (fun t => t), false)

/-- Whether a transfer must land after an earlier one of its arming (R326). -/
def landsAfter (s : State) (x : Piece) : Bool :=
  (((s.se.groups.flatMap (fun g => g.pieces)).takeWhile (fun y => y != x)).any (fun y => y.q == x.q && y.job == x.job &&
    overlap y.dst y.dlen x.dst x.dlen)) && (match (queueOf s x.q).run with
  | some a => a.dspace != 3
  | none => false)

/-- TRANSFER_LANDED (R325, R326, R342): transfer number k of those that queue q has issued, with what is merged into it. -/
def execTransferLanded (q : Fin 1344) (k : Nat) (host : List Byte) (poison : Bool) (s : State) : Out :=
  .next (match (issuedOf s q.val)[k]? with
    | none => s
    | some x => match s.se.groups.find? (fun g => g.issued && g.pieces.contains x) with
      | none => s
      | some g =>
        if g.pieces.any (landsAfter s) then s
        else
          let r := g.pieces.foldl (fun (acc : State × List Piece) y =>
            let t := tryLand acc.1 y ((host.drop (y.src - ((g.pieces.head?).map (fun z => z.src)).getD 0)).take y.len) poison
            if t.2 then (noteSegment t.1 y, acc.2) else (t.1, acc.2 ++ [y])) (s, [])
          let s1 := { r.1 with se := { r.1.se with
            groups := (r.1.se.groups.map (fun h => if h.id = g.id then { h with pieces := r.2 } else h)).filter (fun h => !h.pieces.isEmpty) } }
          ((g.pieces.map (fun y => y.q)).dedup).foldl settleQueue s1)

/-! ## Stopping (R350, R351) -/

/-- The armings of queue q whose descriptors `f` picks stop with `e` (R350): the running one issues nothing more; a pending one is
discarded. -/
def stopQueue (s : State) (q : Nat) (f : Nat → Bool) (e : Ending) : State :=
  let x := queueOf s q
  let s1 := match x.pend with
    | some b => if f b.job then finish (setQueue s q { x with pend := none }) b.job e else s
    | none => s
  let y := queueOf s1 q
  match y.run with
  | some a =>
    if f a.job then
      let t := setQueue s1 q { y with run := some { a with stop := true, ending := some e } }
      settleQueue { t with se := { t.se with groups := (t.se.groups.map (fun g =>
        if g.issued then g else { g with pieces := g.pieces.filter (fun z => z.q != q) })).filter (fun g => !g.pieces.isEmpty) } } q
    else s1
  | none => s1

/-- The armings of queue q whose descriptors `f` picks stop for a job abort (R350). -/
def abortQueue (s : State) (q : Nat) (f : Nat → Bool) : State := stopQueue s q f (stAborted, 0)

/-- Queue q returns to its reset state (R351). -/
def clearQueue (s : State) (q : Nat) : State :=
  let t := wcnt (setQueue s q queue0) (queueBlock q + 8) 0
  let gs := (t.se.groups.map (fun g => { g with pieces := g.pieces.filter (fun z => z.q != q) })).filter (fun g => !g.pieces.isEmpty)
  { t with se := { t.se with groups := gs } }

/-- The queues of a partition: those of its dies and its hub queues (R323). -/
def queuesOfPart (s : State) (p : Nat) : List Nat :=
  ((partDies s p).flatMap (fun d => (List.range 8).flatMap (fun c => queuesOf (8 * d + c)) ++ queuesOf (64 + d))) ++
  (List.range 8).map (fun i => 1280 + 8 * p + i)

end Sys2Proof.Machine
end

