-- ==== Sys2Proof/Machine/TilePrograms.lean ====
section
/-! DEFINITION. Tile programs and tickets (spec 11): the loader, the issue check, runs split over stages and tickets. -/

namespace Sys2Proof.Machine

/-! ## Slots -/

/-- Tile-program slot k of partition p. -/
def tpSlot (s : State) (p k : Nat) : Option TpProg := tget (fun _ => none) s.tp.slots (p * 64 + k)

/-- Store tile-program slot k of partition p. -/
def setTpSlot (s : State) (p k : Nat) (x : Option TpProg) : State :=
  { s with tp := { s.tp with slots := tset (fun _ => none) s.tp.slots (p * 64 + k) x } }

/-- Check 9 of TP_LOAD (R376). -/
def tpLoadErr (j : Job) : Option Ending :=
  fields [bad (!aligned (j.fld 16 8) 64) 16, a52 j 16, bad (j.bits 24 6 2 != 0) 24, rsvd j 25 56]

/-- Check 9 of TP_UNLOAD (R376). -/
def tpUnloadErr (j : Job) : Option Ending :=
  fields [rsvd j 16 24, bad (j.bits 24 6 2 != 0) 24, rsvd j 25 56]

/-- The loads of slot k of partition p that have begun and are not decided. -/
def tpLoads (s : State) (p k : Nat) : List Job := begunOf s p 0x0A10 (fun x => x.bits 24 0 6 == k && (tpLoadErr x).isNone)

/-- The unloads of slot k of partition p that have begun and are not decided. -/
def tpUnloads (s : State) (p k : Nat) : List Job := begunOf s p 0x0A11 (fun x => x.bits 24 0 6 == k && (tpUnloadErr x).isNone)

/-- Whether slot k of partition p is valid: an unload clears it as it begins (R367). -/
def tpValid (s : State) (p k : Nat) : Bool := (tpSlot s p k).isSome && (tpUnloads s p k).isEmpty

/-- The program that slot k of partition p holds for the run j: none once an unload has begun before it (R367). -/
def tpFor (s : State) (p k : Nat) (j : Job) : Option TpProg :=
  if (tpUnloads s p k).any (fun x => decide (x.order < j.order)) then none else tpSlot s p k

/-- The runs that began before the unload j of their program, and complete with it (R367). -/
def tpUsers (s : State) (p k : Nat) (j : Job) : List Job := begunOf s p 0x0A12 (fun x => x.bits 48 0 6 == k && decide (x.order < j.order))

/-! ## The nest (R353-R356) -/

/-- The ranges of the four dimensions at a point of the nest: where each starts and how much it covers. -/
structure Rng where
  st : Nat → Nat
  ln : Nat → Nat

/-- Iteration i of a loop over a dimension. -/
def Rng.narrow (r : Rng) (dim ext i : Nat) : Rng :=
  ⟨fun d => if d = dim then r.st d + i * ext else r.st d, fun d => if d = dim then ext else r.ln d⟩

/-- The iterations of loops, outermost first (R353). -/
def nest : List TpLoop → Rng → List Rng
  | [], r => [r]
  | l :: ls, r => (List.range (cdiv (r.ln l.dim) l.ext)).flatMap (fun i => nest ls (r.narrow l.dim l.ext i))

/-- The loops of a level, in nest order. -/
def TpProg.at (g : TpProg) (level : Nat) : List TpLoop := g.loops.filter (fun l => l.level == level)

/-- The extent of the innermost loop of a dimension among loops. -/
def innermost (ls : List TpLoop) (dim : Nat) : Option Nat := ((ls.filter (fun l => l.dim == dim)).getLast?).map (fun l => l.ext)

/-- The loops outside D, the outermost K loop or the innermost position of level 1 (R360). -/
def TpProg.outside (g : TpProg) : List TpLoop :=
  if g.loops.any (fun l => l.dim == 2) then g.loops.takeWhile (fun l => l.dim != 2) else g.at 2 ++ g.at 1

/-- The slot columns of one row tile's output over N_live columns (R360). -/
def TpProg.tileCols (g : TpProg) (nlive : Nat) : Nat :=
  cdiv (cdiv nlive (2 ^ g.fold)) (maskArrs g.mask).length * 2 ^ g.fold * (if g.held = 1 then 1 else 2)

/-- U (R360), for the sizes M and N. -/
def TpProg.accNeed (g : TpProg) (M N : Nat) : Nat :=
  let mlive := (innermost g.outside 0).getD M
  cdiv mlive ((innermost g.loops 0).getD M) * g.tileCols ((innermost g.outside 1).getD N)

/-- One buffer half in bytes (R361), for the sizes M and K. -/
def TpProg.halfNeed (g : TpProg) (M K : Nat) : Nat :=
  let m2 := (innermost (g.at 2) 0).getD M
  m2 * (innermost (g.at 2) 2).getD K * elemSize g.held + (if g.held = 1 then 4 * m2 else 0)

/-- The issue check (R362) with the buffer base. -/
def issueCheck (g : TpProg) (M N K base : Nat) : Option Ending :=
  let w := effWidth g.stream g.guard
  let need := g.halfNeed M K * (if g.double then 2 else 1)
  firstErr [chk (decide (2 ^ (40 - w) < roundUp K 32)) (shapeErr 1 w),
    chk (!g.needle && decide (2048 < g.base + g.accNeed M N)) (shapeErr 2 (g.base + g.accNeed M N)),
    chk (decide (bufBytes < base + need)) (shapeErr 3 (cdiv need (2 ^ 20)))]

/-- Whether a size of a dimension without a loop breaks the innermost extents (R354). -/
def sizeBad (g : TpProg) (dim v : Nat) : Bool :=
  if g.needle then (if dim = 0 then decide (16 < v) else if dim = 2 then decide (65536 < v) else g.loops.all (fun l => l.dim != 1) && decide (65535 < v))
  else g.loops.all (fun l => l.dim != dim) && (if dim = 0 then decide (256 < v) else if dim = 1 then decide (65535 < v)
    else v % 32 != 0 || decide (256 / 2 ^ g.fold < v))

/-! ## The loader (R365, R366) -/

/-- The program that a header and loop entries spell. -/
def tpParse (hd : Nat) (ls : List Nat) : TpProg :=
  let b (o lo n : Nat) : Nat := bitsOf hd (8 * o + lo) n
  let level (i : Nat) : Nat := if i < b 4 0 4 then 2 else if i < b 4 0 4 + b 3 4 4 then 1 else 0
  ⟨b 2 0 8 == 1, b 5 0 2, b 5 2 1 == 1, b 5 3 1 == 1, b 5 4 1 == 1, b 5 5 2, b 6 0 8, b 7 0 8, b 8 0 8, b 9 0 4, b 9 4 4, b 10 0 11,
    b 12 0 24, b 16 0 24, b 20 0 24,
    (ls.zipIdx).map (fun e => ⟨level e.2, bitsOf e.1 0 2, bitOf e.1 2, bitsOf e.1 8 24⟩)⟩

/-- HEADER: the lowest header byte that is invalid. -/
def tpHeaderBad (hd : Nat) : Option Nat :=
  let b (o lo n : Nat) : Nat := bitsOf hd (8 * o + lo) n
  let nd := b 2 0 8 == 1
  ([bad (b 0 0 16 != 1) 0, bad (decide (1 < b 2 0 8)) 2, bad (b 4 4 4 != 0) 4,
    bad (b 5 7 1 != 0 || (nd && b 5 0 2 != 0)) 5, bad (b 6 0 8 == 0 || decide (4 < b 6 0 8)) 6, bad (!isStreamed (b 7 0 8)) 7,
    bad (!isFloat (b 8 0 8)) 8, bad ((b 9 0 4 == 0) != nd || (nd && b 9 4 4 != 8)) 9, bad (nd && b 10 0 16 != 0) 10,
    bad (b 11 3 5 != 0) 11, bad (b 15 0 8 != 0) 15, bad (b 19 0 8 != 0) 19] ++
    (List.range 41).map (fun i => bad (b (23 + i) 0 8 != 0) (23 + i))).findSome? id

/-- Whether loop i breaks LOOP_DIM (R354, R355); `ls`: every entry. -/
def loopDimBad (g : TpProg) (ls : List Nat) (i : Nat) : Bool :=
  let l := g.loops.getD i ⟨0, 0, false, 0⟩
  bitsOf (ls.getD i 0) 3 5 != 0 ||
  (if l.dim = 0 then g.needle || l.level == 0 else if l.dim = 2 then g.needle || l.level == 0 else l.dim == 3 && l.level != 2) ||
  (l.dim == 3 && (g.loops.take i).any (fun k => k.dim == 3)) || (l.split && (i != 0 || l.level != 2 || l.dim == 2))

/-- Whether loop i breaks NESTING (R354). -/
def nestBad (g : TpProg) (i : Nat) : Bool :=
  let l := g.loops.getD i ⟨0, 0, false, 0⟩
  let inner := (g.loops.drop (i + 1)).all (fun k => k.dim != l.dim)
  let outer := innermost (g.loops.take i) l.dim
  l.ext == 0 || outer.any (fun o => o % l.ext != 0) ||
  (if l.dim = 3 then l.ext != 1
   else inner && (if l.dim = 0 then decide (256 < l.ext) else if l.dim = 1 then decide (65535 < l.ext)
     else l.ext % 32 != 0 || decide (256 / 2 ^ g.fold < l.ext)))

/-- What the loader finds in an image: a code and its data (R366). -/
def tpLoaderErr (hd : Nat) (ls : List Nat) (busy : Bool) : Option (Nat × Nat) :=
  let b (o lo n : Nat) : Nat := bitsOf hd (8 * o + lo) n
  let g := tpParse hd ls
  let loop (f : Nat → Bool) : Option Nat := (List.range g.loops.length).find? f
  let coded (k : Nat) (o : Option Nat) : Option (Nat × Nat) := o.map (fun d => (k, d))
  [coded 1 (tpHeaderBad hd),
   coded 2 ([bad (decide (8 < b 4 0 4)) 2, bad (decide (8 < b 3 4 4)) 1, bad (decide (8 < b 3 0 4)) 0].findSome? id),
   coded 3 (loop (loopDimBad g ls)), coded 4 (loop (nestBad g)),
   coded 5 (loop (fun i => (g.loops.getD i ⟨0, 0, false, 0⟩).dim == 3 && (g.loops.take i).any (fun k => k.dim == 2))),
   coded 6 ((List.range 3).find? (fun d => let v := if d = 0 then g.m else if d = 1 then g.n else g.k
     v != 0 && sizeBad g d v)),
   if busy then some (7, 0) else none].findSome? id

/-- TP_LOAD_RESULT(p) as a load of slot k completes; what the spec does not state is free (notes/assumptions/26.md). -/
def tpResult (s : State) (p k : Nat) (r : Option (Nat × Nat)) : State :=
  let x := drawWord s
  let s1 := if r.isSome then s else x.2
  let y := r.getD (bitsOf x.1.toNat 0 8, bitsOf x.1.toNat 16 16)
  wreg s1 (rTpLoad p) (BitVec.ofNat 32 (y.1 % 256 + 2 ^ 8 * k + 2 ^ 16 * (y.2 % 65536)))

/-- What TP_LOAD reads: the header and its loops (R365). -/
def tpLoadSpans (s : State) (j : Job) : List Span :=
  let p := part s j
  let a := j.va 16
  let hd := numAt s p a 64
  let n := min 24 (bitsOf hd 24 4 + bitsOf hd 28 4 + bitsOf hd 32 4)
  [rd p a (64 + 4 * n)]

/-- TP_LOAD (R365, R366); of two loads into one slot the one that began first goes first (R367). -/
def execTpLoad (id : Nat) (s : State) : Out :=
  runOp s id 0x0A10 (fun j =>
    let p := part s j
    let a := j.va 16
    let k := j.bits 24 0 6
    match tpLoadErr j with
    | some e => finish (tpResult s p k none) id e
    | none =>
      if (tpLoads s p k).any (fun x => decide (x.order < j.order)) then markWaits s id
      else
        let hd := numAt s p a 64
        let n := min 24 (bitsOf hd 24 4 + bitsOf hd 28 4 + bitsOf hd 32 4)
        let spans := tpLoadSpans s j
        withMemOr s id spans (fun cause oid => tierFail (tpResult s p k none) id spans cause oid) (fun s =>
          let ls := (List.range n).map (fun i => numAt s p (a + 64 + 4 * i) 4)
          let busy := (tpSlot s p k).isSome || (tpUnloads s p k).any (fun x => decide (x.order < j.order))
          match tpLoaderErr hd ls busy with
          | some r => finish (tpResult s p k (some r)) id (fieldErr 16)
          | none =>
            let g := tpParse hd ls
            let t := tpResult s p k (some (0, 0))
            match (if g.m ≠ 0 ∧ g.n ≠ 0 ∧ g.k ≠ 0 then issueCheck g g.m g.n g.k 0 else none) with
            | some e => finish t id e
            | none => finish (setTpSlot t p k (some g)) id (stDone, 0)))

/-- Whether the unload j may end: loads and runs that began before it are over (R367). -/
def unloadDue (s : State) (j : Job) : Bool :=
  let p := part s j
  let k := j.bits 24 0 6
  (tpUsers s p k j).isEmpty && (tpLoads s p k).all (fun x => decide (j.order < x.order))

/-- TP_UNLOAD (R367): it runs until the runs of its program are over. -/
def execTpUnload (id : Nat) (s : State) : Out :=
  runOp s id 0x0A11 (fun j =>
    match tpUnloadErr j with
    | some e => finish s id e
    | none => if unloadDue s j then finish (setTpSlot s (part s j) (j.bits 24 0 6) none) id (stDone, 0) else keepRunning s id)

/-! ## Runs (R357-R362, R376, R377) -/

/-- A run: its program with its sizes and addresses. -/
structure TpRun where
  g : TpProg
  p : Nat
  M : Nat
  N : Nat
  K : Nat
  E : Nat
  x : Nat
  w : Nat
  ws : Nat
  y : Nat
  list : Nat
  xs : Nat
  wst : Nat
  sst : Nat
  ys : Nat
  zoff : Nat
  base : Nat
  pad : Nat
  deriving DecidableEq, Repr

/-- The run that j asks of program g. -/
def tpRunOf (s : State) (j : Job) (g : TpProg) : TpRun :=
  let size (fixed off : Nat) : Nat := if fixed = 0 then j.xfld off 3 else fixed
  ⟨g, part s j, size g.m 0, size g.n 4, size g.k 8, j.xfld 12 4, j.va 16, j.va 24, j.va 32, j.va 40, j.xva 16, j.xfld 24 4, j.xfld 28 4,
    j.xfld 32 4, j.xfld 36 4, j.xfld 40 4, j.xfld 44 4, j.xfld 48 4⟩

/-- The addresses of X, W codes, W scale and Y of entry e (R359). -/
def TpRun.addrs (s : State) (r : TpRun) (e : Nat) : Nat × Nat × Nat × Nat :=
  let at' (o : Nat) : Nat := numAt s r.p (r.list + 32 * e + o) 8 % 2 ^ 52
  if r.E = 0 then (r.x, r.w, r.ws, r.y) else (at' 0, at' 8, at' 16, at' 24)

/-- K rounded up to 32. -/
def TpRun.k32 (r : TpRun) : Nat := roundUp r.K 32

/-- The whole of a run. -/
def TpRun.full (r : TpRun) : Rng := ⟨fun _ => 0, fun d => if d = 0 then r.M else if d = 1 then r.N else if d = 2 then r.K else max 1 r.E⟩

/-- The iterations of the split loop; 1 without one (R355). -/
def TpRun.trips (r : TpRun) : Nat :=
  match r.g.loops with
  | l :: _ => if l.split then cdiv (r.full.ln l.dim) l.ext else 1
  | [] => 1

/-- The level-2 iterations of split iteration v. -/
def TpRun.level2 (r : TpRun) (v : Nat) : List Rng :=
  match r.g.at 2 with
  | l :: ls => if l.split then nest ls (r.full.narrow l.dim l.ext v) else nest (l :: ls) r.full
  | [] => [r.full]

/-- The part of a range of a dimension that lies below n: start and length. -/
def Rng.clip (q : Rng) (d n : Nat) : Nat × Nat := (q.st d, min (q.ln d) (n - q.st d))

/-- The output rows that a range writes. -/
def TpRun.outSpans (s : State) (r : TpRun) (q : Rng) : List Span :=
  let a := r.addrs s (q.st 3)
  let m := q.clip 0 r.M
  let n := q.clip 1 r.N
  let es := elemSize r.g.out
  if a.1 = 0 && r.E != 0 then [] else (List.range m.2).map (fun i => wr r.p (a.2.2.2 + (m.1 + i) * r.ys + n.1 * es) (n.2 * es))

/-- Everything that a level-2 iteration reads. -/
def TpRun.inSpans (s : State) (r : TpRun) (q : Rng) : List Span :=
  let a := r.addrs s (q.st 3)
  let m := q.clip 0 r.M
  let n := q.clip 1 r.N
  let k := q.clip 2 r.K
  let kw := q.clip 2 r.k32
  let e := elemSize r.g.held
  if a.1 = 0 && r.E != 0 then [] else
  (List.range m.2).map (fun i => rd r.p (a.1 + (m.1 + i) * r.xs + k.1 * e) (k.2 * e)) ++
  (if r.g.held = 1 then [rd r.p (a.1 + r.M * r.xs + 4 * m.1) (4 * m.2)] else []) ++
  (List.range n.2).flatMap (fun i =>
    let c := a.2.1 + (n.1 + i) * r.wst + k.1 * lqWidth r.g.stream / 8
    let sc := a.2.2.1 + (n.1 + i) * r.sst + k.1 / 32
    streamSpans r.p r.g.stream c sc (sc + r.zoff) (roundUp kw.2 32))

/-- What a split iteration reads and writes. -/
def TpRun.spans (s : State) (r : TpRun) (v : Nat) : List Span :=
  (if r.E = 0 then [] else [rd r.p r.list (32 * r.E)]) ++ (r.level2 v).flatMap (fun q => r.inSpans s q ++ r.outSpans s q)

/-- What every split iteration reads and writes. -/
def TpRun.allSpans (s : State) (r : TpRun) : List Span := (List.range r.trips).flatMap (r.spans s)

/-! ## One level-2 iteration (R355-R358) -/

/-- What the operations of a run bring up: detail bits 0 (saturated) and 1 (shift), soiled outputs, steps, bytes moved. -/
structure TpNotes where
  sat : Bool
  shift : Bool
  soil : Bool
  steps : Nat
  moved : Nat
  deriving DecidableEq, Repr

/-- Where a level-2 iteration's tile lies in the core buffer: its first byte, its row stride, where its row scales begin. -/
structure TileAt where
  base : Nat
  stride : Nat
  scales : Nat
  deriving DecidableEq, Repr

/-- Fetch a level-2 tile with its pads into core c's buffer (R356, R358). -/
def fetchTile (s : State) (r : TpRun) (c x : Nat) (q : Rng) (t : TileAt) : State :=
  let e := elemSize r.g.held
  let w := roundUp (q.ln 2) 32
  let pad := leBytes e r.pad
  let u := (List.range (q.ln 0)).foldl (fun u i =>
    let m := q.st 0 + i
    let k := if m < r.M then (q.clip 2 r.K).2 else 0
    let a := x + m * r.xs + q.st 2 * e
    writeAt u (bufPlace c) (t.base + i * t.stride) (bytesAt u r.p a (k * e) ++ (List.replicate (w - k) pad).flatten)
      (fun b => decide (b < k * e) && soiledAt u r.p (a + b / e * e) e)) s
  if r.g.held = 1 then
    let n := (q.clip 0 r.M).2
    let a := x + r.M * r.xs + 4 * q.st 0
    writeAt u (bufPlace c) t.scales (bytesAt u r.p a (4 * n)) (fun b => soiledAt u r.p (a + b / 4 * 4) 4)
  else u

/-- The stream of column n of W over k elements from ks (R99). -/
def TpRun.column (s : State) (r : TpRun) (a : Nat × Nat × Nat × Nat) (n ks k : Nat) : Stream :=
  let sc := a.2.2.1 + n * r.sst + ks / 32
  readStream s r.p r.g.stream (a.2.1 + n * r.wst + ks * lqWidth r.g.stream / 8) sc (sc + r.zoff) k

/-- Write elements of row m of Y from column n on (R357), with the soil of each; whether one saturated. -/
def TpRun.store (s : State) (r : TpRun) (y m n : Nat) (vs : List (Val × Bool)) : State × Bool :=
  let es := elemSize r.g.out
  let o := encodeAll r.g.out (Rnd.ofCode r.g.rnd) (vs.map (fun v => v.1))
  (writeAt s r.p (y + m * r.ys + n * es) o.1 (byteSoil es (vs.map (fun v => v.2))), o.2)

/-- The slot columns of output column n of row tile mi: array, and its slot columns by pass (R356). -/
def TpRun.slots (r : TpRun) (q : Rng) (n : Nat) : Nat × List Nat :=
  let as := maskArrs r.g.mask
  let G := 2 ^ r.g.fold
  let w := if r.g.held = 1 then 1 else 2
  let nlive := (innermost r.g.outside 1).getD r.N
  let mi := q.st 0 % (innermost r.g.outside 0).getD r.M / (innermost r.g.loops 0).getD r.M
  let k := n % nlive
  (as.getD (k / G % as.length) 0,
   (List.range w).map (fun h => r.g.base + mi * r.g.tileCols nlive + (k / G / as.length) * G * w + k % G * w + h))

/-- A tile's products with columns [n, n + cnt), from element ks of the reduction on (R355, R356). -/
def tileProducts (s : State) (r : TpRun) (id c : Nat) (a : Nat × Nat × Nat × Nat) (tile : Tile) (q : Rng) (n cnt ks kx : Nat) :
    State × Bool :=
  (List.range cnt).foldl (fun acc i =>
    let st := r.column acc.1 a (n + i) ks kx
    let sl := r.slots q (n + i)
    ((sl.2.zip (passes tile.wide))).foldl (fun acc h =>
      let x := arrOf acc.1 c sl.1
      let x1 := if ks = 0 then x.setCol h.1 (some ⟨effWidth r.g.stream r.g.guard, r.k32, kx, tile.wide, !tile.wide, []⟩)
        else x.setCol h.1 ((x.col h.1).map (fun o => { o with count := o.count + kx }))
      let y := x1.landAll ⟨id, true, 0, r.g.chain, r.g.guard, tile.wide, true, [h.1], landsOf tile st h.1 h.2⟩
      (setArr acc.1 c sl.1 y.1, acc.2 || y.2)) acc) (s, false)

/-- Drain the slots of a row tile's columns [n, n + cnt) into Y, and close them (R356, R358, 03 R100). -/
def tileDrain (s : State) (r : TpRun) (c y : Nat) (q : Rng) (n cnt scales : Nat) : State × Bool × Bool :=
  let o := (List.range (min (q.ln 0) (r.M - q.st 0))).foldl (fun (acc : State × Bool × Bool) i =>
    let sa := scales + 4 * i
    let scale : Option Val := if r.g.held = 1 then some (rowFactor (numAt acc.1 (bufPlace c) sa 4)) else none
    let ss := r.g.held == 1 && soiledAt acc.1 (bufPlace c) sa 4
    let vs := (List.range cnt).map (fun k =>
      let sl := r.slots q (n + k)
      let accs := sl.2.map (fun h => (((arrOf acc.1 c sl.1).col h).map (fun o => o.acc i)).getD acc0)
      (drainVal accs scale, ss || accs.any (fun x => x.soil)))
    let w := r.store acc.1 y (q.st 0 + i) n vs
    (w.1, acc.2.1 || w.2, acc.2.2 || vs.any (fun v => v.2))) (s, false, false)
  ((List.range cnt).foldl (fun u k =>
    let sl := r.slots q (n + k)
    setArr u c sl.1 (sl.2.foldl (fun x h => x.setCol h none) (arrOf u c sl.1))) o.1, o.2)

/-- One level-1 iteration of an array program: hold the tile, its products, the drains that fall due. -/
def arrayIter (r : TpRun) (id c : Nat) (a : Nat × Nat × Nat × Nat) (t : TileAt) (q2 q1 : Rng) (z : State × TpNotes) : State × TpNotes :=
  let kx := (q1.clip 2 r.k32).2
  if r.M ≤ q1.st 0 ∨ kx = 0 then z else
  let e := elemSize r.g.held
  let kx := roundUp kx 32
  let tile := loadTile z.1 c (t.base + (q1.st 0 - q2.st 0) * t.stride + (q1.st 2 - q2.st 2) * e) t.stride (q1.ln 0) kx r.g.held r.g.fold r.g.square
  let s1 := modArrs z.1 c r.g.mask (fun x => if tile.wide then x.take tile else (x.take tile).swap)
  (nest (r.g.at 0) q1).foldl (fun z q0 =>
    let n := q0.clip 1 r.N
    let p := tileProducts z.1 r id c a tile q1 n.1 n.2 (q1.st 2) kx
    let last := decide (r.k32 ≤ q1.st 2 + kx)
    let d := if last then tileDrain p.1 r c a.2.2.2 q1 n.1 n.2 (t.scales + 4 * (q1.st 0 - q2.st 0)) else (p.1, false, false)
    let steps := cdiv n.2 (2 ^ r.g.fold) * lqWidth r.g.stream * (if tile.wide then 2 else 1)
    (coreCount d.1 c 9 steps,
      ⟨z.2.sat || d.2.1, z.2.shift || p.2, z.2.soil || d.2.2, z.2.steps + steps, z.2.moved + n.2 * kx * lqWidth r.g.stream / 8⟩)) (s1, z.2)

/-- One Needle operation of a Needle program over the columns of a range (03 R95). -/
def needleIter (r : TpRun) (c : Nat) (a : Nat × Nat × Nat × Nat) (t : TileAt) (q : Rng) (z : State × TpNotes) : State × TpNotes :=
  let n := q.clip 1 r.N
  let af := r.g.held
  let xs := (List.range n.2).map (fun i => r.column z.1 a (n.1 + i) 0 r.k32)
  let o := (List.range r.M).foldl (fun (acc : State × Bool × Bool) m =>
    let row := needleRow acc.1 c (t.base + m * t.stride) r.k32 af
    let scale : Option Val := if af = 1 then some (rowFactor (numAt acc.1 (bufPlace c) (t.scales + 4 * m) 4)) else none
    let soil := soiledAt acc.1 (bufPlace c) (t.base + m * t.stride) (r.k32 * elemSize af) || (af == 1 && soiledAt acc.1 (bufPlace c) (t.scales + 4 * m) 4)
    let vs := xs.map (fun x => (needleVal row x scale, soil || x.soil))
    let w := r.store acc.1 a.2.2.2 m n.1 vs
    (w.1, acc.2.1 || w.2, acc.2.2 || vs.any (fun v => v.2))) (z.1, false, false)
  let bytes := n.2 * (r.k32 * lqWidth r.g.stream / 8 + r.k32 / 32)
  (coreCount o.1 c 13 bytes, ⟨z.2.sat || o.2.1, z.2.shift, z.2.soil || o.2.2, z.2.steps + cdiv bytes 256 + 150, z.2.moved + bytes⟩)

/-- Level-2 iteration number i of a core's share. -/
def level2Iter (r : TpRun) (id c : Nat) (z : State × TpNotes) (e : Rng × Nat) : State × TpNotes :=
  let q := e.1
  let a := r.addrs z.1 (q.st 3)
  if a.1 = 0 && r.E != 0 then z else
  let base := r.base + (if r.g.double && e.2 % 2 == 1 then r.g.halfNeed r.M r.K else 0)
  let stride := roundUp (q.ln 2) 32 * elemSize r.g.held
  let t : TileAt := ⟨base, stride, base + q.ln 0 * stride⟩
  let s1 := fetchTile z.1 r c a.1 q t
  if r.g.needle then (nest (r.g.at 1 ++ r.g.at 0) q).foldl (fun z q0 => needleIter r c a t q0 z) (s1, z.2)
  else (nest (r.g.at 1) q).foldl (fun z q1 => arrayIter r id c a t q q1 z) (s1, z.2)

/-- Split iteration v on core c, with what it brings up. -/
def splitIter (s : State) (r : TpRun) (id c v : Nat) : State × TpNotes :=
  let z := ((r.level2 v).zipIdx).foldl (level2Iter r id c) (s, ⟨false, false, false, 0, 0⟩)
  let s1 := modArrs z.1 c r.g.mask (fun x => if r.g.needle then x else { x with level := if drySpinOn s then 7 else 0, rising := false })
  (stainIf (z.2.soil) (stainIf z.2.sat s1 (rMxStain c) 1) (rMxStain c) 2, z.2)

/-- Whether the arrays that a run uses on core c are free of other products. -/
def tpArraysFree (s : State) (r : TpRun) (c : Nat) : Bool :=
  (maskArrs r.g.mask).all (fun a => (arrOf s c a).queue.isEmpty && (arrOf s c a).flight.isEmpty)

/-- The detail bits of what a run brought up (R377). -/
def TpNotes.detail (n : TpNotes) : Nat := (if n.sat then 1 else 0) + (if n.shift then 2 else 0) + (if n.soil then 4 else 0)

/-! ## TP_RUN (R368, R369, R372, R376, R377) -/

/-- The stage of j under the layer pipeline: its cores in order; none: it reaches a core not in service. -/
def stageOf (s : State) (j : Job) : Option (List Nat) :=
  let p := part s j
  let live := (coresOf s p).filter (fun c => !s.boot.retired.getLsbD c)
  let f := j.fld 49 1
  let n := j.fld 50 1
  if n = 0 then (if f = 0 ∧ live ≠ [] then some live else none)
  else
    let cs := (List.range n).filterMap (fun i => coreAt s p (f + i))
    if cs.length = n then some cs else none

/-- Check 9 of a TP_RUN for program g (R376, R377). -/
def tpRunErr (s : State) (j : Job) (g : TpProg) (r : TpRun) : Option Ending :=
  let tick := j.fld 3 1 == 0 || j.fld 3 1 == 3
  let listed := r.E != 0
  let size (dim fixed off : Nat) : Option Nat :=
    bad (decide (2 ^ 24 ≤ j.xfld off 4) || (fixed != 0 && j.xfld off 4 != 0) || (fixed == 0 && (j.xfld off 4 == 0 || sizeBad g dim (j.xfld off 4)))) (64 + off)
  let adr (off : Nat) : Option Nat := if listed then rsvd j off (off + 8) else a52 j off
  let ySpan (y : Nat) : Nat × Nat := (y, (r.M - 1) * r.ys + r.N * elemSize g.out)
  let xSpan (x : Nat) : Nat × Nat := (x, (r.M - 1) * r.xs + (if g.held = 1 then r.xs + 4 * r.M else r.K * elemSize g.held))
  let meets (a b : Nat × Nat) : Bool := overlap a.1 a.2 b.1 b.2
  let clash := (List.range (max 1 (min 65536 r.E))).any (fun e =>
    let a := r.addrs s e
    !(listed && a.1 == 0) && (meets (ySpan a.2.2.2) (xSpan a.1) || (listed && meets (ySpan a.2.2.2) (r.list, 32 * r.E))))
  fields [adr 16, adr 24, adr 32, adr 40, bad (decide (64 ≤ j.fld 48 1)) 48,
    bad (if tick then j.fld 49 1 != 0 else (stageOf s j).isNone) 49, bad (tick && j.fld 50 1 != 0) 50,
    bad (if tick then decide (239 < j.fld 51 1) || (ticketOf s r.p (j.fld 51 1)).job.isSome else j.fld 51 1 != 0) 51,
    rsvd j 52 56, size 0 g.m 0, size 1 g.n 4, size 2 g.k 8,
    bad (g.loops.any (fun l => l.dim == 3) != listed || decide (65536 < r.E)) 76,
    if listed then bad (!aligned (j.xfld 16 8) 32 || decide (2 ^ 52 ≤ j.xfld 16 8)) 80 else rsvd j 80 88,
    bad ((r.zoff != 0) != lqZero g.stream) 104, bad (!aligned r.base 64 || decide (2 ^ 27 ≤ r.base)) 108, rsvd j 116 128,
    bad clash (if listed then 80 else 40)]

/-- The split iterations of n that each core of a stage takes (R369). -/
def stageWork (cs : List Nat) (n : Nat) : List (Nat × List Nat) :=
  (cs.zipIdx).map (fun e => (e.1, (List.range n).filter (fun v => v / cdiv n cs.length == e.2)))

/-- The fill policy in force (R370): FILL, or by the partition's size. -/
def fillPolicy (s : State) (p : Nat) : Nat :=
  let f := rfield s (rPartCtrl p) 4 2
  if f = 1 ∨ f = 2 then f else if 4 ≤ (partDies s p).length then 2 else 1

/-- The lines of n bytes at address a of place k. -/
def linesOf (k a n : Nat) : List Nat :=
  if n = 0 then [] else (List.range ((akey k a + n - 1) / 512 + 1 - akey k a / 512)).map (fun i => akey k a / 512 + i)

/-- The lines of the W codes and scales of a run, from the lowest address up. -/
def TpRun.warmLines (s : State) (r : TpRun) : List Nat :=
  (((List.range (max 1 r.E)).flatMap (fun e =>
    let a := r.addrs s e
    if a.1 = 0 && r.E != 0 then [] else (List.range r.N).flatMap (fun n =>
      linesOf r.p (a.2.1 + n * r.wst) (r.k32 * lqWidth r.g.stream / 8) ++ linesOf r.p (a.2.2.1 + n * r.sst) (r.k32 / 32)))).dedup).mergeSort
    (fun a b => decide (a ≤ b))

/-- Next-layer prefetch (R370): as run j begins on stage cs, the stage's dies warm the W codes and scales of the next layer-pipeline run
fetched for the same first core, as far as Tier 1 holds them, in at most half of each cache part. -/
def warmNext (s : State) (j : Job) (cs : List Nat) : State :=
  let p := part s j
  let next := s.hp.jobs.find? (fun k => k.opcode == 0x0A12 && k.phase == .fetched && partOfRing s k.ring == some p &&
    (k.fld 3 1 == 1 || k.fld 3 1 == 2) && k.fld 49 1 == j.fld 49 1)
  match (if fillPolicy s p = 2 then next else none) with
  | none => s
  | some k => match tpSlot s p (k.bits 48 0 6) with
    | none => s
    | some g =>
      let ls := ((tpRunOf s k g).warmLines s).filter (fun t => (pageOfLine s t).any (fun e => e.1.tier == 1))
      ((cs.map (fun c => c / 8)).dedup).foldl (fun t d => (ls.take (cacheSets s d * 8)).foldl (fun u l => match pageOfLine u l with
        | some (g, off) => cacheLine u d l g off false
        | none => u) t) s

/-- The run of descriptor id. -/
def shareOf (s : State) (id : Nat) : Option TpShare := s.tp.shares.find? (fun x => x.job == id)

/-- Forget the run of descriptor id. -/
def dropShare (s : State) (id : Nat) : State := { s with tp := { s.tp with shares := s.tp.shares.filter (fun x => x.job != id) } }

/-- Whether a run may have its cores (R355, R370): their arrays are free, and under next-layer prefetch no core of it holds iterations of a
run that began before. -/
def shareFree (s : State) (r : TpRun) (x : TpShare) : Bool :=
  let cs := (x.work.filter (fun e => !e.2.isEmpty)).map (fun e => e.1)
  (r.g.needle || cs.all (tpArraysFree s r)) && cs.all (fun c => !s.boot.retired.getLsbD c) &&
  (fillPolicy s x.p != 2 || (s.tp.shares.takeWhile (fun y => y.job != x.job)).all (fun y =>
    y.work.all (fun e => e.2.isEmpty || !cs.contains e.1)))

/-- The layer-pipeline run j comes to its end: its cores run their iterations (R355, R369, R377, R378). -/
def endTpRun (s : State) (j : Job) : State :=
  match shareOf s j.id, tpSlot s (part s j) (j.bits 48 0 6) with
  | some x, some g =>
    let r := tpRunOf s j g
    if !shareFree s r x then s
    else
      let fail (cause oid : Nat) : State := tierFail (dropShare s j.id) j.id (r.allSpans s) cause oid
      withMemBy s j.id ((x.stage.head?).map (· / 8)) (r.allSpans s) fail (fun s =>
        let z := (x.work.flatMap (fun e => e.2.map (fun v => (e.1, v)))).foldl (fun (z : State × TpNotes) e =>
          let o := splitIter z.1 r j.id e.1 e.2
          (o.1, ⟨z.2.sat || o.2.sat, z.2.shift || o.2.shift, z.2.soil || o.2.soil, z.2.steps + o.2.steps, z.2.moved + o.2.moved⟩))
          (s, ⟨false, false, false, 0, 0⟩)
        finish (ranOn (dropShare z.1 j.id) j.id (x.stage.headD 0) z.2.steps z.2.moved) j.id (doneOf z.2.soil z.2.detail))
  | _, _ => s

/-- Core c has retired: its iterations pass to the lowest core of the stage still in service, else of the partition, behind what that core
holds (R369). -/
def passShares (s : State) (c : Nat) : State :=
  let live (k : Nat) : Bool := !s.boot.retired.getLsbD k
  { s with tp := { s.tp with shares := s.tp.shares.map (fun x =>
    let mine := (x.work.filter (fun e => e.1 == c)).flatMap (fun e => e.2)
    match (if mine.isEmpty then none else (x.stage.filter live).min? <|> ((coresOf s x.p).filter live).min?) with
    | none => x
    | some k =>
      let w := x.work.filter (fun e => e.1 != c)
      let add := mine.mergeSort (fun a b => decide (a ≤ b))
      { x with work := if w.any (fun e => e.1 == k) then w.map (fun e => if e.1 = k then (k, e.2 ++ add) else e) else w ++ [(k, add)] }) } }

/-- The list of addresses that a TP_RUN reads as it begins (R368). -/
def tpRunLists (r : TpRun) : List Span :=
  if r.E = 0 then [] else [rd r.p r.list (32 * min r.E 65536)]

/-- What a TP_RUN writes. -/
def tpRunOuts (s : State) (r : TpRun) : List Span :=
  let n := r.trips
  (List.range n).flatMap (fun v => (r.level2 v).flatMap (r.outSpans s))

/-- TP_RUN (R368): checked as it begins, then split by tickets or over its stage. -/
def execTpRun (id : Nat) (s : State) : Out :=
  runOp s id 0x0A12 (fun j =>
    let p := part s j
    match tpFor s p (j.bits 48 0 6) j with
    | none => finish s id (fieldErr 48)
    | some g =>
      let r := tpRunOf s j g
      withMem s id (tpRunLists r) (fun s =>
        match tpRunErr s j g r <|> issueCheck g r.M r.N r.K r.base <|> regionErr s (tpRunOuts s r) with
        | some e => finish s id e
        | none =>
          let t := keepRunning (modJob s id (fun j => { j with status := stDone, detail := 0 })) id
          if j.fld 3 1 = 0 ∨ j.fld 3 1 = 3 then takeTicket t r.p (j.fld 51 1) id r.trips [] []
          else
            let cs := (stageOf s j).getD []
            warmNext { t with tp := { t.tp with shares := t.tp.shares ++ [⟨id, p, cs, stageWork cs r.trips⟩] } } j cs))

/-! ## Tickets (R371-R375) -/

/-- Check of the counter in bytes 16-17. -/
def badCounter (j : Job) : List (Option Nat) := [bad (j.fld 17 1 != 0) 17, rsvd j 18 24]

/-- Check 9 of TICKET_READ (R375). -/
def ticketReadErr (j : Job) : Option Ending :=
  fields (badCounter j ++ [a52 j 24, rsvd j 32 56])

/-- TICKET_READ (R375). -/
def execTicketRead (id : Nat) (s : State) : Out :=
  runOp s id 0x0A18 (fun j =>
    let p := part s j
    let t := ticketOf s p (j.fld 16 1)
    match ticketReadErr j with
    | some e => finish s id e
    | none =>
      let out := [wr p (j.va 24) 16]
      match regionErr s out with
      | some e => finish s id e
      | none => withMem s id out (fun s =>
        finish (writeAt s p (j.va 24) (leBytes 4 t.next ++ leBytes 4 t.limit ++ leBytes 4 t.done.length ++ leBytes 2 t.gen.toNat ++
          [if t.job.isSome then 1 else 0, 0]) noSoil) id (stDone, 0)))

/-- Check 9 of TICKET_RESET (R375). -/
def ticketResetErr (s : State) (j : Job) : Option Ending :=
  let p := part s j
  let k := j.fld 16 1
  fields (badCounter j ++ [rsvd j 24 56, bad (decide (239 < k) || (ticketOf s p k).job.isSome) 16])

/-- TICKET_RESET (R375). -/
def execTicketReset (id : Nat) (s : State) : Out :=
  runOp s id 0x0A19 (fun j =>
    let p := part s j
    let k := j.fld 16 1
    match ticketResetErr s j with
    | some e => finish s id e
    | none => finish (setTicket s p k { ticketOf s p k with next := 0, limit := 0, done := [] }) id (stDone, 0))

/-- The queued re-issue of the lowest ticket. -/
def leastOf (l : List (Nat × BitVec 16)) : Option (Nat × BitVec 16) :=
  ((l.map (fun e => e.1)).min?).bind (fun v => l.find? (fun e => e.1 == v))

/-- TICKET_DRAW (R371-R373): a re-issued ticket first, else fetch-and-add on NEXT. -/
def execTicketDraw (p : Fin 8) (k : Fin 256) (c : Fin 64) (s : State) : Out :=
  let t := ticketOf s p.val k.val
  let mine := (coresOf s p.val).contains c.val && !s.boot.retired.getLsbD c.val
  .next (if t.job.isNone || !mine then s else
    match leastOf t.redo with
    | some (v, g) => setTicket s p.val k.val { t with redo := t.redo.filter (· != (v, g)), out := t.out ++ [(c.val, v, g)] }
    | none =>
      if t.spent.contains c.val then s
      else if t.next < t.limit then setTicket s p.val k.val { t with next := t.next + 1, out := t.out ++ [(c.val, t.next, t.gen)] }
      else setTicket s p.val k.val { t with next := (t.next + 1) % 2 ^ 32, spent := t.spent ++ [c.val] })

/-- A ticket of counter k is counted; the descriptor ends when DONE equals LIMIT (R372). -/
def countTicket (s : State) (p k id c v : Nat) (gen : BitVec 16) : State :=
  let t := ticketOf s p k
  let t1 := { t with done := t.done ++ [v], out := t.out.filter (fun e => e != (c, v, gen)) }
  let s1 := setTicket s p k t1
  if t1.done.length = t1.limit then
    match job? s1 id with
    | some j => freeTicket (finish s1 id (j.status, j.detail.toNat)) p k
    | none => freeTicket s1 p k
  else s1

/-- The outputs of a run's tickets that DONE has not counted. -/
def undone (s : State) (r : TpRun) (t : Ticket) : List Span :=
  (List.range r.trips).flatMap (fun v => if t.done.contains v then [] else (r.level2 v).flatMap (r.outSpans s))

/-- TICKET_COMPLETE (R371-R373): the ticket's work with its current generation; any other completion is stale. -/
def execTicketComplete (p : Fin 8) (k : Fin 256) (c : Fin 64) (v : Nat) (gen : BitVec 16) (s : State) : Out :=
  let t := ticketOf s p.val k.val
  let me : Nat × Nat × BitVec 16 := (c.val, v, gen)
  .next (if t.late.contains me then
      addCnt (setTicket s p.val k.val { t with late := t.late.erase me }) rTicketStale 1
    else if !t.out.contains me then s
    else match t.job.bind (job? s) with
      | none => s
      | some j =>
        if j.opcode = 0x0501 ∧ behindPriority s c.val then s
        else if j.opcode = 0x0501 then batchTicket s j p.val k.val v c.val (fun s => countTicket s p.val k.val j.id c.val v gen)
        else match (tpSlot s p.val (j.bits 48 0 6)).map (fun g => tpRunOf s j g) with
          | none => s
          | some r =>
            if !r.g.needle && !tpArraysFree s r c.val then s
            else
              let xs := r.spans s v
              withMemBy s j.id (some (c.val / 8)) xs (fun cause oid => freeTicket (tierFail s j.id (undone s r t) cause oid) p.val k.val) (fun s =>
                let o := splitIter s r j.id c.val v
                countTicket (noteTicket (ranOn o.1 j.id c.val (j.steps + o.2.steps) (j.moved + o.2.moved)) j.id o.2.detail 0 o.2.soil)
                  p.val k.val j.id c.val v gen))

/-- Core c has retired (R373): every ticket of each counter that it drew and DONE has not counted takes the new GEN and is queued. -/
def reissueTickets (s : State) (c : Nat) : State :=
  s.tp.tickets.foldl (fun u e =>
    let t := e.2
    let mine := t.out.filter (fun x => x.1 == c)
    if t.job.isNone then u
    else
      let u1 := setTicket u (e.1 / 256) (e.1 % 256) { t with
        gen := t.gen + 1
        out := t.out.filter (fun x => x.1 != c)
        late := t.late ++ mine
        redo := t.redo ++ mine.map (fun x => (x.2.1, t.gen + 1)) }
      let u2 := addCnt u1 rTicketReissued mine.length
      match t.job.bind (job? u2) with
      | some j => if j.opcode = 0x0A12 then noteTicket u2 j.id 0 mine.length false else u2
      | none => u2) s

/-- The layer-pipeline run of descriptor id stops (R378): how far its cores had come, the spec leaves open. -/
def stopShare (s : State) (id : Nat) : State :=
  match shareOf s id, job? s id with
  | some x, some j =>
    (match tpSlot s x.p (j.bits 48 0 6) with
     | some g => (tpRunOuts s (tpRunOf s j g)).foldl freeFill (dropShare s id)
     | none => dropShare s id)
  | _, _ => s

/-- Job id is abandoned (R374): its counter is freed, and the outputs of its unfinished tickets are undefined. -/
def dropTickets (s : State) (id : Nat) : State :=
  s.tp.tickets.foldl (fun u e =>
    let t := e.2
    let p := e.1 / 256
    if t.job ≠ some id then u
    else
      let v := freeTicket u p (e.1 % 256)
      match job? v id with
      | none => v
      | some j =>
        if j.opcode = 0x0A12 then
          match tpSlot v p (j.bits 48 0 6) with
          | some g => (undone v (tpRunOf v j g) t).foldl freeFill v
          | none => v
        else
          let f := batchF j
          ((List.range t.limit).filter (fun q => !t.done.contains q)).foldl (fun w q =>
            let b := batchEntry w p (j.va 16) (t.order.getD q 0 / f.kc)
            match batchRegion w p id b with
            | some r => (batchOut p f r b (t.order.getD q 0 / f.kc) (t.order.getD q 0 % f.kc * r.g) r.g).foldl freeFill w
            | none => w) v) s

end Sys2Proof.Machine
end

