-- ==== Sys2Proof/Machine/Abort.lean ====
section
/-! DEFINITION. Job aborts as one shared operation (01 R47, 14 R454-R456): what each engine does with a descriptor whose job is
aborted. -/

namespace Sys2Proof.Machine

/-- Drop the products of descriptor id from every array. -/
def dropProducts (s : State) (id : Nat) : State :=
  (s.mx.map (fun e => e.1)).foldl (fun t k =>
    let x := arrOf t (k / 4) (k % 4)
    let q := x.queue.filter (fun p => p.job != id)
    let f := x.flight.filter (fun p => p.job != id)
    setArr t (k / 4) (k % 4) { x with
      queue := q, flight := f
      level := if !x.flight.isEmpty && q.isEmpty && f.isEmpty then (if drySpinOn s then 7 else 0) else x.level }) s

/-- An append that stops without completing well (06 R175). -/
def dropAppend (s : State) (j : Job) : State :=
  let p := part s j
  markAppend (modRegion s p j.obj (fun r => { r with shadows := r.shadows.filter (fun e => e.job != j.id) })) p j.obj j.id 2

/-- An update of an index is voided (09 R305, R319). -/
def dropUpdate (s : State) (j : Job) : State :=
  let p := part s j
  if (indexOf s p j.obj).any (fun x => x.opened.any (fun e => e.2.2 == j.id)) then closeNumbers s p j.obj j.id true else s

/-- Operations that run only until others have completed: they end as they would, with JOB_ABORTED (08 R489, 06 R180, 04 R125, 07 R210, 11
R367, 14 R451). -/
def endsLater (op : Nat) : Bool := [0x0406, 0x0602, 0x0603, 0x0701, 0x0901, 0x0801, 0x0A11, 0x0B10].contains op

/-- What descriptor j has begun and not ended is abandoned; `false`: it ends only later. -/
def abandon (s : State) (j : Job) : State × Bool :=
  let id := j.id
  let p := part s j
  let op := j.opcode
  if op = 0x0201 then (dropProducts s id, true)
  else if op = 0x0601 then (dropAppend s j, true)
  else if op = 0x0609 then
    let x := patsOf s p
    (if x.shadow.any (fun e => e.2.1 == id) then { s with tm := { s.tm with pats := tset (fun _ => pat0) s.tm.pats p { x with shadow := none } } } else s, true)
  else if op = 0x0606 then (dropLeaves s id, true)
  else if op = 0x0607 then (dropRecall s id, true)
  else if op = 0x0703 then (if j.phase = .running then dropPrefetch s j else s, true)
  else if op = 0x0707 then (dropShot s id, true)
  else if op = 0x0902 ∨ op = 0x0903 then (dropUpdate s j, true)
  else if op = 0x0904 then (dropSearch s id, true)
  else if op = 0x0905 then
    (if (indexOf s p j.obj).any (fun x => x.shadow.any (fun m => m.job == id)) then modIndex s p j.obj (fun x => { x with shadow := none }) else s, true)
  else if op = 0x0501 ∨ op = 0x0A12 then (stopShare (dropTickets s id) id, true)
  else if op = 0x0800 then
    (match grpWhere s (fun x => x.joining == some id) with
     | some (g, _) => setGrp s g none
     | none => s, true)
  else if 0x0802 ≤ op ∧ op ≤ 0x0809 then
    (match grpWhere s (fun x => x.run.any (fun r => r.job == id)) with
     | some (g, _) => breakRun s g (stAborted, 0) (moduleNo s)
     | none => s, true)
  else if op = 0x0A22 ∨ op = 0x0A23 ∨ op = 0x080A then
    ({ s with ol := { s.ol with ops := s.ol.ops.map (fun o => if o.job = id then { o with stop := true } else o) } },
      !s.ol.ops.any (fun o => o.job == id))
  else if op = 0x0B00 then
    ({ s with ob := { s.ob with snaps := s.ob.snaps.map (fun e => (e.1, { e.2 with jobs := e.2.jobs.filter (· != id) })) } }, true)
  else if op = 0x0B03 then (s, true)
  else if op = 0x0B04 then
    ({ s with pw := { s.pw with caps := s.pw.caps.map (fun c => if c.job = some id then { c with job := none } else c) } }, true)
  else if endsLater op ∧ j.phase = .running then (modJob s id (fun k => { k with status := stAborted, detail := 0 }), false)
  else (s, true)

/-- Descriptor j of an aborted job is decided as JOB_ABORTED, at once or once its engine lets it (01 R47). -/
def abortJobOf (s : State) (j : Job) : State :=
  if j.phase = .decided then s
  else if j.phase = .fetched then finish s j.id (stAborted, 0)
  else if j.opcode = 0x0100 ∧ j.phase = .running then
    (s.se.queues.map (fun e => e.1)).foldl (fun t q => abortQueue t q (· == j.id)) s
  else
    let r := abandon (dropWaits s j.id) j
    if r.2 then finish r.1 j.id (stAborted, 0) else r.1

/-- Stop every descriptor of the rings that `f` picks, and halt them (01 R47). -/
def abortRings (s : State) (f : Nat → Bool) : State :=
  let t := (s.hp.jobs.filter (fun j => f j.ring)).foldl (fun u j => match job? u j.id with
    | some k => abortJobOf u k
    | none => u) s
  (t.hp.rings.map (fun e => e.1)).foldl (fun u n => if f n then setRing u n { ringOf u n with halted := true } else u) t

/-- A job abort acts here (R456): on the rings whose job is J and whose job or enable was written before ta, once for each J and
ta. -/
def abortLocal (s : State) (J : Word) (ta : DWord) (cause origin : Nat) : State :=
  let hit (n : Nat) : Bool := (ringOf s n).job == J && decide ((ringOf s n).jobAt.toNat < ta.toNat)
  if J = 0 ∨ s.ob.aborts.contains (J, ta) ∨ !(s.hp.rings.any (fun e => hit e.1)) then s
  else
    let t := abortRings { s with ob := { s.ob with aborts := s.ob.aborts ++ [(J, ta)] } } hit
    setStain (wreg (wreg t rAbortJob J) rAbortInfo (BitVec.ofNat 32 (cause * 2 ^ 28 + origin % 4096))) rObStain 6

/-- This module originates a job abort (R454). -/
def abortFrom (s : State) (J : Word) (ta : DWord) (cause : Nat) : State :=
  if J = 0 then s else originate (abortLocal s J ta cause (moduleNo s)) (.abort J ta cause)

end Sys2Proof.Machine
end

