-- ==== Sys2Proof/Machine/CollData.lean ====
section
/-! DEFINITION. What a collective computes and what each member sends for it (spec 07 R223-R228, R240, R241, R246). -/

namespace Sys2Proof.Machine

/-- The fields of a collective. `n`: elements reduced or moved at the source; `sb`: bytes of one member's source; `db`: bytes of a
destination; `es`: bytes of a source element. -/
structure Coll where
  op : Nat
  src : Nat
  dst : Nat
  sf : Nat
  df : Nat
  count : Nat
  n : Nat
  es : Nat
  sb : Nat
  db : Nat
  rop : Nat
  md : Rnd
  wire : Nat
  signal : Bool
  chunk : Nat
  root : Nat
  peg : Nat
  d : Nat
  typ : Nat
  deriving DecidableEq, Repr

/-- The collective that descriptor j of a group of P members describes. -/
def collOf (j : Job) (P : Nat) : Coll :=
  let op := j.opcode
  if op = 0x0809 then ⟨op, 0, 0, 0, 0, 0, 0, 1, 0, 0, 0, .rne, 0, false, 16, 0, 0, 0, 0⟩
  else if op = 0x0808 then
    let d := 32 * j.fld 34 1
    let n := j.fld 32 2
    let b := n * recBytes d
    ⟨op, j.va 16, j.va 24, 0, 0, n, n, recBytes d, b, b, 0, .rne, 0, false, 16, j.fld 44 2, 0, d, j.fld 34 1⟩
  else
    let sf := j.fmt 16
    let df := j.fmt 24
    let k := j.fld 32 6
    let n := k * (if op = 0x0805 then P else 1)
    let c := if j.fld 42 1 = 0 then 16 else j.fld 42 1
    ⟨op, j.va 16, j.va 24, sf, df, k, n, elemSize sf, n * elemSize sf, k * (if op = 0x0806 then P else 1) * elemSize df,
      j.bits 40 0 2, Rnd.ofCode (j.bits 40 2 2), j.fld 41 1, j.bits 40 4 1 == 1, c, j.bits 44 0 12, j.bits 46 0 12, 0, sf⟩

/-- Whether the collective is one of ALL_REDUCE, REDUCE, REDUCE_SCATTER. -/
def Coll.reduces (c : Coll) : Bool := decide (0x0803 ≤ c.op) && decide (c.op ≤ 0x0805)

/-- Whether the member of index i writes a destination (R223, R226). -/
def Coll.writes (c : Coll) (i : Nat) : Bool :=
  c.op != 0x0809 && (c.root == i || (c.op != 0x0804 && c.op != 0x0808))

/-- Bytes that the member of index i supplies. -/
def Coll.srcBytes (c : Coll) (i : Nat) : Nat := if c.op = 0x0807 ∧ i ≠ c.root then 0 else c.sb

/-- Bytes that the member of index i writes. -/
def Coll.dstBytes (c : Coll) (i : Nat) : Nat := if c.writes i then c.db else 0

/-- What this member supplies: n bytes at address a of partition p with the soil of each 64 (R246). -/
def ownSource (s : State) (p a n : Nat) : Contribution :=
  ⟨bytesAt s p a n, (List.range (cdiv n 64)).map (fun i => soiledAt s p (a + 64 * i) (min 64 (n - 64 * i)))⟩

/-- Whether any of n bytes from offset o of a contribution is soiled. -/
def contribSoil (c : Contribution) (o n : Nat) : Bool :=
  n != 0 && ((c.soil.drop (o / 64)).take ((o + n - 1) / 64 + 1 - o / 64)).any id

/-- What a collective gives one member: bytes, the soil of each, whether one saturated, special blocks met. -/
structure CollOut where
  bytes : List Byte
  soil : List Bool
  sat : Bool
  special : Nat
  deriving DecidableEq, Repr

/-- The larger or the smaller of the members' values (R224). -/
def pickVal (mx : Bool) (vs : List Val) : Val :=
  match vs with
  | [] => .nan
  | v :: t =>
    let r := t.foldl (fun a b => if mx then Val.max a b else Val.min a b) v
    if r.isZero && vs.any (fun x => x.isZero && !x.sign) then .fin false 0 else r

/-- Elements lo to hi - 1 of a reduction of the members' sources (R224, R70-R73, R246). -/
def reduceOut (c : Coll) (cs : List Contribution) (lo hi : Nat) : CollOut :=
  let vs := cs.map (fun m => elemsOf c.sf m.data)
  let sum := c.rop == 0
  let agreed := if sum then (List.range (cdiv c.n 256)).map (fun b =>
    (vs.map (fun v => wsByte ((v.drop (256 * b)).take 256))).foldl Nat.max 0) else []
  let at' (i : Nat) : List Val := vs.map (fun v => v.getD i .nan)
  let es := ((List.range hi).drop lo).map (fun i =>
    if sum then encodeElem c.df c.md (wsSum c.wire (agreed.getD (i / 256) 0) (at' i)) else encodeElem c.df .rne (pickVal (c.rop == 1) (at' i)))
  let dirty (i : Nat) : Bool :=
    if sum then cs.any (fun m => contribSoil m (i / 256 * 256 * c.es) (min 256 (c.n - i / 256 * 256) * c.es))
    else cs.any (fun m => contribSoil m (i * c.es) c.es)
  ⟨(es.map (fun e => e.1)).flatten, (((List.range hi).drop lo).map (fun i => List.replicate (elemSize c.df) (dirty i))).flatten,
    es.any (fun e => e.2), (agreed.filter (fun b => b == 255)).length⟩

/-- The combined records of SEQ_REDUCE (R226). -/
def seqOut (c : Coll) (cs : List Contribution) : CollOut :=
  let k := recBytes c.d
  let rs := (List.range c.n).map (fun i => cs.foldl (fun r m =>
    let x := unpackRec c.d ((m.data.drop (k * i)).take k)
    r.add { x with soil := x.soil || contribSoil m (k * i) k }) (prec0 c.d))
  ⟨(rs.map PRec.pack).flatten, (rs.map (fun r => List.replicate k r.soil)).flatten, false, 0⟩

/-- Bytes of contributions with their soil, as they move (R223). -/
def moveOut (cs : List Contribution) : CollOut :=
  ⟨(cs.map (fun m => m.data)).flatten, (cs.map (fun m => (List.range m.data.length).map (fun i => m.soil.getD (i / 64) false))).flatten,
    false, 0⟩

/-- What the collective gives the member of index i from every member's contribution. -/
def collOut (c : Coll) (cs : List Contribution) (i : Nat) : CollOut :=
  if c.op = 0x0803 ∨ c.op = 0x0804 then reduceOut c cs 0 c.n
  else if c.op = 0x0805 then reduceOut c cs (i * c.count) ((i + 1) * c.count)
  else if c.op = 0x0806 then moveOut cs
  else if c.op = 0x0807 then moveOut [cs.getD c.root ⟨[], []⟩]
  else if c.op = 0x0808 then seqOut c cs
  else ⟨[], [], false, 0⟩

/-- Whether every contribution that the collective needs is there. -/
def allGiven (c : Coll) (P : Nat) (cs : List Contribution) : Bool :=
  cs.length == P && (List.range P).all (fun i =>
    let m := cs.getD i ⟨[], []⟩
    c.srcBytes i == 0 || (m.data.length == c.srcBytes i && m.soil.length == cdiv (c.srcBytes i) 64))

/-- Whether phase two or the movement runs log-depth (R228, R245). -/
def logDepth (x : Grp) (c : Coll) : Bool :=
  let b := if c.reduces && c.rop == 0 then c.n * (if c.wire = 0xC1 then 4 else 8) else c.sb
  c.op == 0x0809 || x.force == 2 || (x.force == 0 && decide (b ≤ 2 ^ x.threshold))

/-! ## What each member sends (R228)

The order of segments in a half and of a member's frames is the model's (notes/assumptions/51.md). -/

/-- Blocks of 256 elements of a member's source. -/
def Coll.blocks (c : Coll) : Nat := cdiv c.n 256

/-- Soil of a frame's units of 64 bytes whose entries are `es` bytes each and stand for `per` elements, from element lo on, of the members
in S. -/
def entrySoil (c : Coll) (cs : List Contribution) (S : List Nat) (lo es per len : Nat) : List Bool :=
  (List.range (cdiv len 64)).map (fun u =>
    let a := lo + 64 * u / es * per
    let b := min c.n (lo + cdiv (min len (64 * u + 64)) es * per)
    S.any (fun j => contribSoil (cs.getD j ⟨[], []⟩) (a * c.es) ((b - a) * c.es)))

/-- n bytes from byte o of a contribution. -/
def sliceOf (m : Contribution) (o n : Nat) : Contribution :=
  let d := (m.data.drop o).take n
  ⟨d, (List.range (cdiv d.length 64)).map (fun u => contribSoil m (o + 64 * u) (min 64 (d.length - 64 * u)))⟩

/-- A result with its soil for each 64 bytes. -/
def CollOut.pack (o : CollOut) : Contribution :=
  ⟨o.bytes, (List.range (cdiv o.bytes.length 64)).map (fun u => ((o.soil.drop (64 * u)).take 64).any id)⟩

/-- What the members in S have reduced of elements lo to hi − 1, as it travels (R228, 02 R70-R72): block exponents in phase one, in phase
two the integers of a SUM under the agreed exponents, else values in the source format, or records. -/
def partialOf (c : Coll) (cs : List Contribution) (phase : Nat) (S : List Nat) (lo hi : Nat) : Contribution :=
  let mine := S.map (fun j => cs.getD j ⟨[], []⟩)
  let block (m : Contribution) (b : Nat) : Nat := wsByte (((elemsOf c.sf m.data).drop (256 * b)).take 256)
  let agree (ms : List Contribution) (b : Nat) : Nat := (ms.map (fun m => block m b)).foldl Nat.max 0
  let pack (es per : Nat) (bs : List Byte) : Contribution := ⟨bs, entrySoil c cs S lo es per bs.length⟩
  if hi ≤ lo then ⟨[], []⟩
  else if phase = 0 then pack 1 256 (((List.range (cdiv hi 256)).drop (lo / 256)).map (fun b => BitVec.ofNat 8 (agree mine b)))
  else if c.op = 0x0808 then sliceOf (seqOut c mine).pack (lo * c.es) ((hi - lo) * c.es)
  else if c.rop = 0 then
    let w := if c.wire = 0xC1 then 4 else 8
    pack w 1 (((List.range hi).drop lo).flatMap (fun i =>
      let z := (mine.map (fun m => wsInt c.wire (agree cs (i / 256)) ((elemsOf c.sf m.data).getD i .nan))).sum
      leBytes w (z % 2 ^ (8 * w)).toNat))
  else (reduceOut c mine lo hi).pack

/-- The element range of half h (0 forward, 1 backward) of a source (R228). -/
def Coll.half (c : Coll) (h : Nat) : Nat × Nat :=
  let k := min c.n (256 * cdiv c.blocks 2)
  if h = 0 then (0, k) else (k, c.n)

/-- The element range of segment j of half h among P members: the member's result in a REDUCE_SCATTER, else an equal part in blocks. -/
def Coll.segment (c : Coll) (P h j : Nat) : Nat × Nat :=
  let r := c.half h
  if c.op = 0x0805 then (max r.1 (j * c.count), min r.2 ((j + 1) * c.count))
  else
    let n := cdiv (r.2 - r.1) 256
    (min r.2 (r.1 + 256 * (j * n / P)), min r.2 (r.1 + 256 * ((j + 1) * n / P)))

/-- Frames of the member of index i along the rings (R228): for each direction, step and segment, with its data. -/
def ringMoves (P i : Nat) (steps : Nat → List Nat) (data : Nat → Nat → Nat → Contribution) (phase : Fin 2) : List (Nat × Chunk) :=
  ([0, 1] : List (Fin 4)).flatMap (fun d =>
    let to' := if d.val = 0 then (i + 1) % P else (i + P - 1) % P
    (steps d.val).map (fun t =>
      let j := if d.val = 0 then (i + P - t % P) % P else (i + t) % P
      let x := data d.val t j
      (to', ⟨d, false, phase, t, j, x.data, x.soil⟩)))

/-- The t members from the start of a segment's way up to member i, in direction d. -/
def ringSet (P i d t : Nat) : List Nat := (List.range t).map (fun k => if d = 0 then (i + P - k % P) % P else (i + k) % P)

/-- A reduce-scatter along the rings: in step t member i passes on segment i ∓ t with what t members have reduced of it. -/
def scatterMoves (c : Coll) (cs : List Contribution) (P i : Nat) (phase : Fin 2) : List (Nat × Chunk) :=
  ringMoves P i (fun _ => (List.range (P - 1)).map (· + 1)) (fun d t j =>
    let r := c.segment P d j
    partialOf c cs phase.val (ringSet P i d t) r.1 r.2) phase

/-- An all-gather along the rings: in step t member i passes on segment i ∓ (t − 1). -/
def gatherMoves (P i : Nat) (data : Nat → Nat → Contribution) (phase : Fin 2) : List (Nat × Chunk) :=
  (ringMoves P i (fun _ => List.range (P - 1)) (fun d _ j => data d j) phase).map (fun e => (e.1, { e.2 with step := e.2.step + 1 }))

/-- The ring algorithm of a phase (R228). -/
def ringPhase (c : Coll) (cs : List Contribution) (P i : Nat) (phase : Fin 2) : List (Nat × Chunk) :=
  let all := List.range P
  let seg (d j : Nat) : Contribution :=
    let r := c.segment P d j
    if phase.val = 0 then partialOf c cs 0 all r.1 r.2
    else if c.op = 0x0808 then partialOf c cs 1 all r.1 r.2
    else if r.2 ≤ r.1 then ⟨[], []⟩ else (reduceOut c cs r.1 r.2).pack
  if phase.val = 0 ∨ c.op = 0x0803 then scatterMoves c cs P i phase ++ gatherMoves P i seg phase
  else if c.op = 0x0805 then scatterMoves c cs P i phase
  else if c.op = 0x0804 ∨ c.op = 0x0808 then
    let far (d : Nat) : Nat := if d = 0 then (c.root + P - i) % P else (i + P - c.root) % P
    scatterMoves c cs P i phase ++
      (ringMoves P i (fun d => if far d = 0 then [] else List.range (P - far d)) (fun d _ j => seg d j) phase).map (fun e =>
        (e.1, { e.2 with step := P + e.2.step }))
  else
    let whole (d j : Nat) : Contribution :=
      let r := c.half d
      sliceOf (cs.getD j ⟨[], []⟩) (r.1 * c.es) ((r.2 - r.1) * c.es)
    if c.op = 0x0806 then gatherMoves P i whole phase
    else if c.op = 0x0807 then
      let near (d : Nat) : Nat := if d = 0 then (i + P - c.root) % P else (c.root + P - i) % P
      (ringMoves P i (fun d => if near d + 1 < P then [near d] else []) (fun d _ _ => whole d c.root) phase).map (fun e =>
        (e.1, { e.2 with step := e.2.step + 1 }))
    else []

/-- The members whose data member i < P′ holds before round k (R228). -/
def roundSet (P i k : Nat) : List Nat :=
  let h := 2 ^ Nat.log2 P
  let low := (List.range h).filter (fun j => j / 2 ^ k == i / 2 ^ k)
  low ++ (low.map (· + h)).filter (fun j => decide (j < P))

/-- The rounds of the all-reduce pattern at member i (R228): for each, the round's number, the members sent to and the members heard
from. Round 0 folds the members from P′ on, round k + 1 exchanges with i XOR 2^k, the last gives them the results. -/
def patternRounds (P i : Nat) : List (Nat × List Nat × List Nat) :=
  let h := 2 ^ Nat.log2 P
  let last := Nat.log2 P + 1
  if h ≤ i then [(0, [i - h], []), (last, [], [i - h])]
  else
    let up := if i + h < P then [i + h] else []
    [(0, [], up)] ++ (List.range (Nat.log2 P)).map (fun k => (k + 1, [Nat.xor i (2 ^ k)], [Nat.xor i (2 ^ k)])) ++ [(last, up, [])]

/-- The binomial tree's frame of member i (R228): the member sent to and the round; BROADCAST runs the rounds in reverse. -/
def treeMoves (P i root : Nat) (down : Bool) : List (Nat × Nat) :=
  let r := (i + P - root) % P
  let ks := (List.range 12).filter (fun k => decide (2 ^ k < P))
  if down then (ks.reverse.filter (fun k => r % 2 ^ (k + 1) == 0 && decide (r + 2 ^ k < P))).map (fun k => ((r + 2 ^ k + root) % P, k))
  else (ks.filter (fun k => r % 2 ^ (k + 1) == 2 ^ k)).map (fun k => ((r - 2 ^ k + root) % P, k))

/-- What the members in S give together, whole (R228). -/
def wholeOf (c : Coll) (cs : List Contribution) (phase : Nat) (S : List Nat) : Contribution :=
  if c.op = 0x0806 then
    let ms := (List.range cs.length).filter (S.contains ·)
    ⟨(ms.map (fun j => (cs.getD j ⟨[], []⟩).data)).flatten, (ms.map (fun j => (cs.getD j ⟨[], []⟩).soil)).flatten⟩
  else partialOf c cs phase S 0 c.n

/-- The log-depth algorithm of a phase (R228). -/
def logPhase (c : Coll) (cs : List Contribution) (P i : Nat) (phase : Fin 2) : List (Nat × Chunk) :=
  let put (to' round : Nat) (x : Contribution) : Nat × Chunk := (to', ⟨3, false, phase, round, 0, x.data, x.soil⟩)
  let tree := c.op == 0x0804 || c.op == 0x0808
  if c.op = 0x0807 then (treeMoves P i c.root true).map (fun e => put e.1 e.2 (cs.getD c.root ⟨[], []⟩))
  else if tree ∧ phase.val = 1 then
    (treeMoves P i c.root false).map (fun e =>
      let r := (i + P - c.root) % P
      let S := ((List.range (2 ^ e.2)).map (fun q => r + q)).filter (fun q => decide (q < P))
      put e.1 e.2 (wholeOf c cs 1 (S.map (fun q => (q + c.root) % P))))
  else
    (patternRounds P i).flatMap (fun e => e.2.1.map (fun j =>
      let S := if 2 ^ Nat.log2 P ≤ i then [i] else if e.1 = Nat.log2 P + 1 then List.range P else roundSet P i (e.1 - 1)
      put j e.1 (wholeOf c cs phase.val S)))

/-- Whether phase one of a SUM runs log-depth: its block exponents are one byte a block (R228). -/
def logFirst (x : Grp) (c : Coll) : Bool := x.force == 2 || (x.force == 0 && decide (c.blocks ≤ 2 ^ x.threshold))

/-- The frames that the member of index i sends for a collective with data, in order: member and chunk (R228). -/
def collMoves (x : Grp) (c : Coll) (cs : List Contribution) : List (Nat × Chunk) :=
  let P := x.members.length
  let i := x.index
  if P = 1 then [] else
  (if c.reduces && c.rop == 0 then (if logFirst x c then logPhase c cs P i 0 else ringPhase c cs P i 0) else []) ++
  (if logDepth x c then logPhase c cs P i 1 else ringPhase c cs P i 1)

end Sys2Proof.Machine
end

