-- ==== Sys2Proof/Machine/Collectives.lean ====
section
/-! DEFINITION. Groups and collectives of the collective engine (spec 07 R205-R213, R223-R246). What other members contribute to a
reduction or a movement comes with the row's operand (notes/assumptions/51.md); what this member sends leaves in frames. -/

namespace Sys2Proof.Machine

/-! ## Groups (R205-R210) -/

/-- Free slot g; join frames kept for its group go with it (R208). -/
def freeGrp (s : State) (g : Nat) : State :=
  match grpOf s g with
  | none => s
  | some x =>
    let t := setGrp s g none
    if (grpAt t x.gid x.epoch).isSome then t else
    { t with ce := { t.ce with joins := t.ce.joins.filter (fun e => !(e.1 == x.gid && e.2.1 == x.epoch)) } }

/-- A creation fails: the slot is freed (R208). -/
def failCreate (s : State) (g id : Nat) (e : Ending) : State := collStain (finish (freeGrp s g) id e) e.1

/-- What came from slot g's partners so far: a differing list hash fails the creation, the last join completes it (R208). -/
def joinStep (s : State) (g : Nat) : State :=
  match grpOf s g with
  | none => s
  | some x => match x.joining with
    | none => s
    | some id =>
      let came := s.ce.joins.filter (fun e => e.1 == x.gid && e.2.1 == x.epoch && x.partners.contains e.2.2.1)
      match x.partners.find? (fun m => came.any (fun e => e.2.2.1 == m && e.2.2.2 != x.hash)) with
      | some m => failCreate s g id (stMismatch, entryModule m)
      | none =>
        let y := { x with joined := x.partners.filter (fun m => came.any (fun e => e.2.2.1 == m)) }
        if y.joined = x.partners then finish (setGrp s g (some { y with joining := none })) id (stDone, x.index)
        else setGrp s g (some y)

/-- Check 9 of GROUP_CREATE (R239). -/
def createErr (j : Job) : Option Ending :=
  let n := j.bits 24 0 13
  let t := j.fld 44 1
  fields [a52 j 16, bad (n == 0 || decide (4096 < n)) 24, bad (j.bits 25 5 3 != 0) 25, bad (decide (600000 < j.fld 40 4)) 40,
    bad (t != 0 && (decide (t < 10) || decide (24 < t))) 44, bad (decide (2 < j.fld 45 1)) 45, rsvd j 46 56]

/-- The group that descriptor j creates, with its member list read. -/
def newGroup (s : State) (j : Job) : Grp :=
  let p := part s j
  let n := j.bits 24 0 13
  let es := (List.range n).map (fun i => numAt s p (j.va 16 + 2 * i) 2)
  let mine := moduleNo s + 4096 * p
  let h := shake256 16 (bytesAt s p (j.va 16) (2 * n))
  { p := p, gid := BitVec.ofNat 16 (j.fld 26 2), epoch := BitVec.ofNat 32 (j.fld 28 4), key := BitVec.ofNat 64 (j.fld 32 8),
    members := es, index := es.idxOf mine, watchdog := if j.fld 40 4 = 0 then 5000 else j.fld 40 4,
    threshold := if j.fld 44 1 = 0 then 16 else j.fld 44 1, force := j.fld 45 1, hash := BitVec.ofNat 128 (ofLe h),
    joining := some j.id, joined := [], broken := none, leaving := none, next := 0, run := none, firsts := [], watch := s.now }

/-- Whether a member list breaks R206. -/
def badMembers (s : State) (x : Grp) : Bool :=
  x.members.any (fun e => decide (2 ^ 15 ≤ e)) || decide ¬ x.members.Nodup || !x.members.contains (moduleNo s + 4096 * x.p)

/-- GROUP_CREATE with its list at hand (R208). -/
def createGroup (s : State) (j : Job) : State :=
  let x := newGroup s j
  if badMembers s x then finish s j.id (fieldErr 16) else
  match (List.range 64).find? (fun g => (grpOf s g).isNone) with
  | none => finish s j.id (shapeErr 5 0)
  | some g =>
    match x.partners.find? (fun m => !reachable s (entryModule m)) with
    | some m => finish s j.id (stLink, entryModule m)
    | none =>
      let t := keepRunning (setGrp s g (some x)) j.id
      let u := { t with ce := { t.ce with gone := t.ce.gone.filter (fun e => e != (x.gid, x.epoch)) } }
      joinStep (x.partners.foldl (fun v m =>
        sendCe v 0 7 (entryModule m) 0 (.join (Fin.ofNat 8 x.p) x.gid x.epoch x.hash)) u) g

/-- GROUP_CREATE (R208). -/
def execGroupCreate (id : Nat) (s : State) : Out :=
  runOp s id 0x0800 (fun j => match createErr j with
    | some e => finish s id e
    | none => withMem s id [rd (part s j) (j.va 16) (2 * j.bits 24 0 13)] (fun t => createGroup t j))

/-- A join frame of entry e reaches this module (R208): it is kept, as its group may be created later, and acted on where it is being
created; one of a group destroyed here is discarded (R210). -/
def landJoin (s : State) (gid : BitVec 16) (epoch : Word) (e : Nat) (hash : BitVec 128) : State :=
  let kept := s.ce.joins.filter (fun f => !(f.1 == gid && f.2.1 == epoch && f.2.2.1 == e))
  if (grpAt s gid epoch).isNone && s.ce.gone.contains (gid, epoch) then strayCe s
  else
    (List.range 64).foldl (fun u g => match grpOf u g with
      | some x => if x.gid = gid ∧ x.epoch = epoch then joinStep u g else u
      | none => u)
    { s with ce := { s.ce with joins := kept ++ [(gid, epoch, e, hash)] } }

/-- Check 9 of GROUP_DESTROY (R210). -/
def destroyErr (s : State) (j : Job) : Option Ending := fields [bad (grpNamed s (part s j) (j.fld 16 2)).isNone 16, rsvd j 18 56]

/-- Slot g's group is destroyed: the slot is free, and later frames of the group are discarded (R210). -/
def destroyGrp (s : State) (g : Nat) : State :=
  match grpOf s g with
  | none => s
  | some x =>
    let t := freeGrp s g
    if (grpAt t x.gid x.epoch).isSome then t else { t with ce := { t.ce with gone := t.ce.gone ++ [(x.gid, x.epoch)] } }

/-- GROUP_DESTROY (R210): at once without a running operation, else when it has completed. -/
def execGroupDestroy (id : Nat) (s : State) : Out :=
  runOp s id 0x0801 (fun j =>
    let x := grpNamed s (part s j) (j.fld 16 2)
    match destroyErr s j, x with
    | none, some (g, y) =>
      if y.run.isNone then finish (destroyGrp s g) id (stDone, 0)
      else keepRunning (setGrp s g (some { y with leaving := some id })) id
    | e, _ => finish s id (e.getD (fieldErr 16)))

/-- The slot that GROUP_DESTROY id waits for, where its operation has completed (R210). -/
def destroyDue (s : State) (id : Nat) : Option Nat :=
  (grpWhere s (fun x => x.leaving == some id && x.run.isNone)).map (fun e => e.1)

/-! ## Operations of a group (R209, R229-R235) -/

/-- The status of a notice's kind: mismatch (0), timeout (1), lost (2). -/
def noticeStatus (kind : Nat) : Nat := if kind = 0 then stMismatch else if kind = 1 then stTimeout else stMemberLost

/-- A notice of a kind acts here (R230, R232, R234, R235): the operation that it names ends in every slot of its group, the group breaks,
and a timeout or a loss aborts the job. A member that runs an earlier operation, or none, runs no later one (notes/assumptions/50.md); a
notice about a group destroyed here is discarded (R210). -/
def actNotice (s : State) (kind : Nat) (x : Notice) (origin : BitVec 12) : State :=
  if (grpAt s x.gid x.epoch).isNone then (if s.ce.gone.contains (x.gid, x.epoch) then strayCe s else s) else
  (List.range 64).foldl (fun u g => match grpOf u g with
    | none => u
    | some y =>
      if y.gid = x.gid ∧ y.epoch = x.epoch then
        match y.run with
        | some r =>
          if r.index = x.index then
            let job := jobOfDesc u r.job
            let t := breakRun u g (noticeStatus kind, x.module.toNat) x.module.toNat
            if kind = 0 then t else abortLocal t job x.ta (kind + 1) origin.toNat
          else setGrp u g (some { y with broken := y.broken.or (some x.module.toNat) })
        | none => setGrp u g (some { y with broken := y.broken.or (some x.module.toNat) })
      else u) s

/-- Running, this member names module m in a notice of a kind to every member, those in other partitions of this module too; a timeout or
a loss aborts the job (R230, R232, R234, 14 R454). -/
def failRun (s : State) (g kind : Nat) (m : Nat) : State :=
  match grpOf s g with
  | none => s
  | some x => match x.run with
    | none => s
    | some r =>
      let job := jobOfDesc s r.job
      let n := noticeOf s x r m
      let t := originate (actNotice (breakRun s g (noticeStatus kind, m) m) kind n (BitVec.ofNat 12 (moduleNo s))) (.notice kind n)
      if kind = 0 then t else abortFrom t job s.now (kind + 1)

/-- The module beyond the first hop of the route to module m that is down (R234). -/
def lostModule (s : State) (m : Nat) : Nat := match routeBreak s m with
  | some h => neighbour s h.1 h.2
  | none => m

/-- The signature of an operation (R229). -/
def signature (x : Grp) (opcode rop root typ df cnt : Nat) : Word :=
  BitVec.ofNat 32 (ofLe (shake256 4 (leBytes 2 x.gid.toNat ++ leBytes 4 x.epoch.toNat ++
    leBytes 4 (opcode + rop * 2 ^ 16 + root * 2 ^ 18) ++ leBytes 1 typ ++ leBytes 1 df ++ leBytes 8 cnt)))

/-- Slot g finds a partner of its running operation out of reach (R234). -/
def checkRoutes (s : State) (g : Nat) : State :=
  match grpOf s g with
  | none => s
  | some x =>
    if x.run.isNone then s
    else match x.partners.find? (fun m => !reachable s (entryModule m)) with
      | some m => failRun s g 2 (lostModule s (entryModule m))
      | none => s

/-- Slot g compares the first frames that it holds with its running operation's signature (R230). -/
def checkRun (s : State) (g : Nat) : State :=
  match grpOf s g with
  | none => s
  | some x => match x.run with
    | none => s
    | some r =>
      let here := x.firsts.filter (fun f => f.2.1 == r.index)
      match here.find? (fun f => f.2.2 != r.sig) with
      | some f => failRun s g 0 (x.module f.1)
      | none => checkRoutes (setGrp s g (some { x with
          firsts := x.firsts.filter (fun f => f.2.1 != r.index)
          run := some { r with heard := r.heard ++ here.map (fun f => f.1) } })) g

/-- Descriptor id begins as the next operation of slot g: it takes its collective index and sends its first frames (R209, R229). -/
def startRun (s : State) (g : Nat) (x : Grp) (r : CollRun) : State :=
  let y := { x with next := x.next + 1, run := some r, watch := s.now }
  let t := keepRunning (setGrp s g (some y)) r.job
  checkRun ((partnerIdx x.members.length x.index).foldl (fun u i =>
    sendCe u (if r.spin.isSome then 1 else 2) 2 (x.module i) x.key (.first (x.head i) r.index r.sig)) t) g

/-- An operation begins on a broken group (R230). -/
def endBroken (s : State) (id m : Nat) : State := collStain (finish s id (stMismatch, m % 4096 + 4096)) stMismatch

/-- Descriptor j, begun, waits for its turn in its group (R209): an operation runs, or one that began before it waits. -/
def awaitsTurn (s : State) (j : Job) (gid : Nat) (x : Grp) : Bool :=
  x.run.isSome || s.hp.jobs.any (fun k => k.id != j.id && k.phase == .checked && decide (0x0802 ≤ k.opcode) && decide (k.opcode ≤ 0x0809) &&
    decide (k.order < j.order) && part s k == part s j && (if k.opcode = 0x0802 then k.fld 28 2 else k.fld 38 2) == gid)

/-- The check of 12 R397 that a frame of a group's operation fails, by code: its slot, a live epoch and a window, then the key, then the
partner (R210, R211). -/
def ceCode (s : State) (fr : Frame) (h : CeHead) : Option Nat :=
  match grpWhere s (fun x => x.gid == h.gid && x.epoch == h.epoch && x.index == h.target) with
  | none => some 1
  | some (_, x) =>
    if x.key ≠ fr.key then some 2
    else if x.module h.sender ≠ fr.src.toNat ∨ !(partnerIdx x.members.length x.index).contains h.sender then some 3 else none

/-- The slot that a frame of a group's operation is for. -/
def ceSlot (s : State) (h : CeHead) : Option (Nat × Grp) :=
  grpWhere s (fun x => x.gid == h.gid && x.epoch == h.epoch && x.index == h.target)

/-- A first frame reaches slot g (R230): it is held until its operation begins, and compared. -/
def firstFrame (s : State) (g : Nat) (x : Grp) (i index : Nat) (sig : Word) : State :=
  match x.run with
  | some r =>
    if r.index = index then
      if sig ≠ r.sig then failRun s g 0 (x.module i)
      else setGrp s g (some { x with watch := s.now, run := some { r with heard := if r.heard.contains i then r.heard else r.heard ++ [i] } })
    else setGrp s g (some { x with firsts := x.firsts ++ [(i, index, sig)] })
  | none => setGrp s g (some { x with firsts := x.firsts ++ [(i, index, sig)] })

/-- Why a first frame is refused, by code (R211): as any frame of the group's operation; its window is closed where the group is broken or
the operation has ended. -/
def firstCode (s : State) (fr : Frame) (h : CeHead) (index : Nat) : Option Nat :=
  let shut : Bool := match ceSlot s h with
    | some (_, x) => x.broken.isSome || (decide (index < x.next) && !x.run.any (fun r => r.index == index))
    | none => false
  if shut then some 1 else ceCode s fr h

/-- MISMATCH_NOTICE (R230). -/
def execMismatchNotice (pt : Fin 16) (origin : BitVec 12) (num : Word) (x : Notice) (s : State) : Out :=
  .next (takeCast s pt.val origin num (.notice 0 x) (fun t => actNotice t 0 x origin))

/-- TIMEOUT_NOTICE (R232). -/
def execTimeoutNotice (pt : Fin 16) (origin : BitVec 12) (num : Word) (x : Notice) (s : State) : Out :=
  .next (takeCast s pt.val origin num (.notice 1 x) (fun t => actNotice t 1 x origin))

/-- LOST_NOTICE (R234). -/
def execLostNotice (pt : Fin 16) (origin : BitVec 12) (num : Word) (x : Notice) (s : State) : Out :=
  .next (takeCast s pt.val origin num (.notice 2 x) (fun t => actNotice t 2 x origin))

/-- Whether the watchdog of a group has run out (R232). -/
def watchOut (s : State) (x : Grp) : Bool := decide (x.watch.toNat + x.watchdog * 10 ^ 6 ≤ s.now.toNat)

/-- GROUP_WATCHDOG_EXPIRE (R208, R232, R233). -/
def execGroupWatchdogExpire (g : Fin 64) (s : State) : Out :=
  .next (match grpOf s g.val with
    | none => s
    | some x =>
      if !watchOut s x then s
      else match x.joining, x.run with
        | some id, _ => failCreate s g.val id (stTimeout, entryModule ((x.partners.find? (fun m => !x.joined.contains m)).getD 0))
        | none, some _ => if suspended s x.p then s else failRun s g.val 1 (moduleNo s)
        | none, none => s)

/-- The partner of the largest total of lag window w, the lower module where two are equal (R231). -/
def laggard (s : State) (w : Nat) : Option (Nat × Nat) :=
  ((s.ce.lag.filter (fun e => e.1 == w && e.2.2 != 0)).map (fun e => e.2)).foldl (fun o t => match o with
    | none => some t
    | some b => if b.2 < t.2 ∨ (b.2 = t.2 ∧ t.1 < b.1) then some t else some b) none

/-- WINDOW_MS in ns (R231). -/
def lagSpan (s : State) : Nat := max 1 (rfield s rLagCfg 0 16) * 10 ^ 6

/-- LAG_WINDOW_END (R231, R247): lag window w ends, is latched, and what was accumulated up to its end is cleared. -/
def execLagWindowEnd (w : Nat) (s : State) : Out :=
  let t := { s with ce := { s.ce with lag := s.ce.lag.filter (fun e => decide (w < e.1)), window := w + 1 } }
  runIf s (ready s && decide (s.ce.window ≤ w) && decide ((w + 1) * lagSpan s ≤ s.now.toNat)) (match laggard s w with
    | some (m, n) => wcnt (wreg t rLaggard (BitVec.ofNat 32 (2 ^ 31 + m))) rLaggardWait (BitVec.ofNat 64 n)
    | none => wcnt (wreg t rLaggard 0) rLaggardWait 0)

/-! ## Collectives (R223-R228, R240, R241, R246) -/

/-- Check 9 of the formats and the reduction of a collective (R224, R240). -/
def collFormats (j : Job) (c : Coll) : List (Option Nat) :=
  if c.reduces && c.rop == 3 then [some 40]
  else if c.reduces && c.rop == 0 then
    [bad (c.sf != 2 && c.sf != 5) 22, bad (!(c.wire == 0xC2 || (c.wire == 0xC1 && c.sf == 2))) 41, bad (c.df != 2 && c.df != 5) 30]
  else [bad (!c.reduces && j.bits 40 0 2 != 0) 40, bad (!isPlain c.sf) 22, bad (c.wire != 0) 41, bad (c.df != c.sf) 30]

/-- The checks of a collective (R240, R241, R244) for the member of index i of P members. -/
def collErr (s : State) (j : Job) (x : Option (Nat × Grp)) : Option Ending :=
  let P := (x.map (fun e => e.2.members.length)).getD 1
  let i := (x.map (fun e => e.2.index)).getD 0
  let c := collOf j P
  let g := bad x.isNone 38
  let lap := decide (0 < c.srcBytes i) && decide (0 < c.db) && overlap c.src (c.srcBytes i) c.dst c.db &&
    !(c.op == 0x0803 && c.src == c.dst)
  let rooted := c.op == 0x0804 || c.op == 0x0807 || c.op == 0x0808
  let root := bad (x.isSome && rooted && decide (P ≤ j.fld 44 2 % 4096)) 44
  firstErr [
    if c.op = 0x0809 then fields [rsvd j 16 38, g, rsvd j 40 56]
    else if c.op = 0x0808 then
      fields [a52 j 16, a52 j 24, bad (c.n == 0 || decide (4096 < c.n)) 32, bad (!([2, 3, 4, 6, 8].contains c.typ)) 34, rsvd j 35 38, g,
        rsvd j 40 44, root, bad (j.bits 45 4 4 != 0) 45, rsvd j 46 56, bad lap 24]
    else
      fields ([bad (j.bits 23 4 4 != 0) 23, bad (j.bits 31 4 4 != 0) 31, bad (c.count == 0 || decide (2 ^ 36 < c.count)) 32, g,
        bad (j.bits 40 5 3 != 0) 40, bad (j.fld 42 1 != 0 && (decide (j.fld 42 1 < 12) || decide (24 < j.fld 42 1))) 42, rsvd j 43 44,
        if rooted then root else rsvd j 44 46, bad (j.bits 45 4 4 != 0) 45, bad (j.bits 47 4 4 != 0) 47, rsvd j 48 56,
        bad lap 24] ++ collFormats j c),
    if c.dstBytes i = 0 then none else regionErr s [wr (part s j) c.dst c.db]]

/-- Send a chunk to the member of index i (R212). -/
def sendTo (s : State) (x : Grp) (vc : Fin 4) (i : Nat) (ch : Chunk) : State :=
  sendCe s vc 2 (x.module i) x.key (.chunk (x.head i) ch)

/-- Whether a contribution holds soiled bytes or records (R246, 05 R145). -/
def dirtySource (c : Coll) (m : Contribution) : Bool :=
  m.soil.any id || (c.op == 0x0808 && (List.range (m.data.length / recBytes c.d)).any (fun k =>
    (unpackRec c.d ((m.data.drop (recBytes c.d * k)).take (recBytes c.d))).soil))

/-- The collective of slot g ends: its frames sent, its result written, its chunks signalled, its detail (R227, R228, R245, R246). -/
def deliver (s0 : State) (g : Nat) (x : Grp) (r : CollRun) (c : Coll) (cs : List Contribution) : State :=
  let s := (collMoves x c cs).foldl (fun u e => sendTo u x 2 e.1 e.2) s0
  let o := collOut c cs x.index
  let dirty := cs.any (dirtySource c)
  let wrote := r.len != 0
  let t1 := if wrote then writeAt s x.p c.dst o.bytes (fun i => o.soil.getD i false) else s
  let t2 := addCnt (stainIf dirty (stainIf (wrote && o.sat) t1 rCeStain 0) rCeStain 1) rCeSpecial o.special
  let t3 := if c.signal && wrote then addPeg t2 x.p c.peg (BitVec.ofNat 64 (cdiv r.len (2 ^ r.chunk) - r.signalled)) else t2
  let detail := (if wrote && o.sat then 1 else 0) + (if o.special = 0 then 0 else 2) + (if wrote && o.soil.any id then 4 else 0) +
    (if logDepth x c then 8 else 0)
  endRun t3 g (doneOf dirty detail)

/-- The round of a BARRIER that slot x is in goes on (R223, R228): its frames are sent, then those of the next once its own have come;
`fuel` bounds the rounds. -/
def barrierGo (x : Grp) : Nat → State → CollRun → State × CollRun
  | 0, s, r => (s, r)
  | fuel + 1, s, r =>
    let rs := patternRounds x.members.length x.index
    let came := match rs[r.stage - 1]? with
      | some e => e.2.2.all (fun i => r.rounds.contains (i, e.1))
      | none => false
    if r.stage ≠ 0 ∧ !came then (s, r)
    else match rs[r.stage]? with
      | none => (s, { r with stage := rs.length + 1 })
      | some e => barrierGo x fuel (e.2.1.foldl (fun u i => sendTo u x 2 i ⟨3, false, 1, e.1, 0, [], []⟩) s) { r with stage := r.stage + 1 }

/-- Slot g's running BARRIER goes on, and ends once its last round has (R223). -/
def pumpBarrier (s : State) (g : Nat) : State :=
  match grpOf s g with
  | none => s
  | some x => match x.run with
    | none => s
    | some r =>
      if suspended s x.p then s
      else
        let n := (patternRounds x.members.length x.index).length
        let q := barrierGo x (n + 1) s r
        let t := setGrp q.1 g (some { x with run := some q.2, watch := if q.2 = r then x.watch else s.now })
        if q.2.stage = n + 1 then endRun t g (stDone, 8) else t

/-- The running collective of descriptor j goes on, with what the members supply. -/
def goColl (s : State) (j : Job) (srcs : List Contribution) : State :=
  match grpWhere s (fun x => x.run.any (fun r => r.job == j.id)) with
  | none => s
  | some (g, x) => match x.run with
    | none => s
    | some r =>
      let P := x.members.length
      let c := collOf j P
      let cs := srcs.set x.index r.mine
      if c.op = 0x0809 then pumpBarrier s g
      else if suspended s x.p || !allGiven c P cs then s
      else
        let spans := if r.len = 0 then [] else [wr x.p c.dst c.db]
        withMemOr s j.id spans
          (fun k oid => endRun (tierFail s j.id spans k oid) g (tierErr k oid)) (fun t => deliver t g x r c cs)

/-- A collective begins: its checks, then its turn in its group, then its index and first frames (R209, R229, R230, R240). -/
def beginColl (s : State) (j : Job) (srcs : List Contribution) : State :=
  let x := grpNamed s (part s j) (j.fld 38 2)
  match collErr s j x, x with
  | some e, _ => finish s j.id e
  | none, none => s
  | none, some (g, y) =>
    if awaitsTurn s j (j.fld 38 2) y then markWaits s j.id
    else match y.broken with
      | some m => endBroken s j.id m
      | none =>
        let p := part s j
        let c := collOf j y.members.length
        let n := c.srcBytes y.index
        let d := c.dstBytes y.index
        withMem s j.id ((if n = 0 then [] else [rd p c.src n]) ++ (if d = 0 then [] else [wr p c.dst d])) (fun t =>
          let mine := ownSource t p c.src n
          let sig := signature y c.op c.rop c.root c.typ c.df c.count
          let r : CollRun := ⟨j.id, y.next, sig, [], mine, c.dst, d, c.chunk, [], 0, 0, [], none⟩
          goColl (startRun (ranOn t j.id 0x81 0 (n + d)) g y r) j srcs)

/-- A collective's row: it begins the descriptor's operation, or goes on with it. -/
def runColl (s : State) (id opcode : Nat) (srcs : List Contribution) : Out :=
  .next (match job? s id with
    | none => s
    | some j =>
      if j.opcode ≠ opcode then s
      else if j.phase = .checked then beginColl s j srcs
      else if j.phase = .running then goColl s j srcs
      else s)

/-- ALL_REDUCE (R223, R224). -/
def execAllReduce (id : Nat) (srcs : List Contribution) (s : State) : Out := runColl s id 0x0803 srcs
/-- REDUCE (R223, R224). -/
def execReduce (id : Nat) (srcs : List Contribution) (s : State) : Out := runColl s id 0x0804 srcs
/-- REDUCE_SCATTER (R223, R224). -/
def execReduceScatter (id : Nat) (srcs : List Contribution) (s : State) : Out := runColl s id 0x0805 srcs
/-- ALL_GATHER (R223). -/
def execAllGather (id : Nat) (srcs : List Contribution) (s : State) : Out := runColl s id 0x0806 srcs
/-- BROADCAST (R223). -/
def execBroadcast (id : Nat) (srcs : List Contribution) (s : State) : Out := runColl s id 0x0807 srcs
/-- SEQ_REDUCE (R226). -/
def execSeqReduce (id : Nat) (srcs : List Contribution) (s : State) : Out := runColl s id 0x0808 srcs
/-- BARRIER (R223): it completes at the end of the all-reduce pattern's rounds. -/
def execBarrier (id : Nat) (s : State) : Out := runColl s id 0x0809 []

end Sys2Proof.Machine
end

