-- ==== Sys2Proof/Machine/Spins.lean ====
section
/-! DEFINITION. Spins, and chunks as they arrive for Spins and collectives (spec 07 R212, R214-R222, R227, R242). -/

namespace Sys2Proof.Machine

/-- The neighbour that a direction receives from, and the one that it sends to, as indices (R217). -/
def upstream (P i dir : Nat) : Nat := if dir = 0 then (i + P - 1) % P else (i + 1) % P
/-- The neighbour that a direction sends to. -/
def downstream (P i dir : Nat) : Nat := if dir = 0 then (i + 1) % P else (i + P - 1) % P

/-- Send a chunk, or a shard's envelopes, to the neighbour in a direction (R218, R219). -/
def sendChunk (s : State) (x : Grp) (dir : Nat) (env : Bool) (k index : Nat) (c : Contribution) : State :=
  sendTo s x 1 (downstream x.members.length x.index dir) ⟨Fin.ofNat 4 dir, env, 1, k, index, c.data, c.soil⟩

/-- Write a contribution at address a of partition p with the soil that it carries. -/
def putSource (s : State) (p a : Nat) (c : Contribution) : State := writeAt s p a c.data (fun i => c.soil.getD (i / 64) false)

/-- The index and the arrived chunks of slot k in the header of the window (R215; notes/assumptions/28.md). -/
def putSlotHead (s : State) (p : Nat) (w : Window) (k shard n : Nat) : State :=
  writeAt s p (w.base + 64 + 4 * k) (leBytes 2 shard ++ leBytes 2 n) noSoil

/-- The header of a window (R215) with every slot empty. -/
def windowHead (w : Window) (geom : Nat) : List Byte :=
  leBytes 2 1 ++ leBytes 1 w.kTag ++ leBytes 1 w.vTag ++ leBytes 4 geom ++ leBytes 2 w.members ++ leBytes 2 0 ++ leBytes 4 w.nh ++
  leBytes 2 w.c ++ leBytes 2 w.layer ++ List.replicate 44 0 ++ (List.replicate 5 (leBytes 2 0xFFFF ++ leBytes 2 0)).flatten ++
  List.replicate 4012 0

/-- Join contributions. -/
def joinSources (cs : List Contribution) : Contribution := ⟨(cs.map (fun c => c.data)).flatten, (cs.map (fun c => c.soil)).flatten⟩

/-- Chunk i of layer l of a region: its nodes' data (R218). -/
def regionChunk (s : State) (r : Region) (l c i : Nat) : Contribution :=
  joinSources ((List.range c).map (fun k => ownSource s r.p (r.dataAt l 0 (i * c + k)) (r.hkv * r.blockBytes)))

/-- The envelopes of the first n nodes of layer l of a region (R219). -/
def regionEnv (s : State) (r : Region) (l n : Nat) : Contribution :=
  joinSources ((List.range n).map (fun j => ownSource s r.p (r.envAt l 0 j) (r.hkv * (2 * r.d))))

/-- The window that SPIN j describes over object o, region r and group x. -/
def spinWindow (j : Job) (o : Obj) (r : Region) (x : Grp) : Window :=
  ⟨o.base, r.geo, kTag r.k4, vTag r.v4, x.members.length, j.fld 20 4 % 2 ^ 20, j.fld 26 2 % 2 ^ 13, j.fld 24 2⟩

/-- The KV region that SPIN j names. -/
def spinRegion (s : State) (j : Job) : Option Region :=
  match objNamed s (part s j) (j.fld 16 4 % 2 ^ 20) j.id with
  | some o => if o.kind = 1 then regionOf s o.p o.id else none
  | none => none

/-- LOOPBACK (R221). -/
def Job.loopback (j : Job) : Bool := j.bits 30 0 1 == 1

/-- The checks of SPIN (R242, R244). -/
def spinErr (s : State) (j : Job) : Option Ending :=
  let p := part s j
  let o := objNamed s p j.obj j.id
  let r := spinRegion s j
  let x := grpNamed s p (j.fld 28 2)
  let nh := j.fld 20 4 % 2 ^ 20
  let c := j.fld 26 2 % 2 ^ 13
  let small := match o, r, x with
    | some o, some r, some x => decide (o.size < (spinWindow j o r x.2).span j.loopback)
    | _, _, _ => false
  let short := match r with
    | some r => decide (r.layers ≤ j.fld 24 2) || decide (r.len (j.fld 24 2) < 128 * nh)
    | none => false
  firstErr [
    fields ([bad (o.isNone || small || o.any (fun o => o.policy == 2)) 12, bad r.isNone 16, bad (j.bits 18 4 4 != 0) 18, rsvd j 19 20,
      bad (nh == 0 || c == 0 || nh % c != 0) 20, bad (j.bits 22 4 4 != 0) 22, rsvd j 23 24, bad short 24,
      bad (c == 0 || decide (4096 < c)) 26, bad (j.bits 27 5 3 != 0) 27, bad x.isNone 28, bad (j.bits 30 1 7 != 0) 30, rsvd j 31 32,
      rsvd j 42 56] ++ [33, 35, 37, 39, 41].map (fun b => bad (j.bits b 4 4 != 0) b)),
    match o with
    | some o => regionErr s [wr p o.base o.size]
    | none => none]

/-- The chunks signalled once those of `got` have arrived (R212, R220). -/
def inOrder (got : List (Nat × Nat)) (nc steps : Nat) : Nat :=
  ((List.range (steps * nc)).takeWhile (fun q => got.contains (q / nc + 1, q % nc))).length

/-- Fill slot L with the member's own shard (R221). -/
def loopback (s : State) (p : Nat) (w : Window) (i : Nat) (cs : List Contribution) : State :=
  let t := (cs.zipIdx).foldl (fun u e => putSource u p (w.dataAt 4 (e.2 * w.c) 0) e.1) s
  putSlotHead t p w 4 i w.chunks

/-! ## Sending (R218-R220, R233) -/

/-- Slot g's running Spin. -/
def spinAt (s : State) (g : Nat) : Option (Grp × CollRun × SpinRun) :=
  (grpOf s g).bind (fun x => x.run.bind (fun r => r.spin.map (fun y => (x, r, y))))

/-- Store slot g with its Spin changed. -/
def setSpin (s : State) (g : Nat) (x : Grp) (r : CollRun) (y : SpinRun) : State :=
  setGrp s g (some { x with watch := s.now, run := some { r with spin := some y } })

/-- The chunk that a Spin sends next in a direction, as (step, index): in step 1 once every shard's envelopes are gathered, in a later
step once the chunk has arrived, from step 3 on once the slot is granted (R218-R220). -/
def spinNext (x : Grp) (y : SpinRun) (d : Nat) : Option (Nat × Nat) :=
  let P := x.members.length
  let q := y.sent.getD d 0
  let k := q / y.win.chunks + 1
  let c := q % y.win.chunks
  if q < spinSteps P d * y.win.chunks ∧ y.envs.length = P ∧ k ≤ y.allowed.getD d 0 ∧ (k = 1 ∨ (y.got.getD d []).contains (k - 1, c))
  then some (k, c) else none

/-- Slot g's Spin sends its next chunk in a direction where it may: its own, or from the slot that it arrived in (R218). -/
def pumpOne (s : State) (g d : Nat) : State :=
  match spinAt s g with
  | none => s
  | some (x, r, y) => match spinNext x y d with
    | none => s
    | some (k, c) =>
      let w := y.win
      let data := if k = 1 then y.own.getD c ⟨[], []⟩ else ownSource s y.p (w.dataAt (spinSlot d (k - 1)) (c * w.c) 0) w.chunkBytes
      sendChunk (setSpin s g x r { y with sent := modAt y.sent d (· + 1) }) x d false k c data

/-- Slot g's Spin sends what it may, unless its partition is suspended (R233). -/
def pumpSpin (s : State) (g : Nat) : State :=
  match spinAt s g with
  | none => s
  | some (x, _, y) =>
    if suspended s x.p then s
    else [0, 1].foldl (fun t d => (List.range (spinSteps x.members.length d * y.win.chunks)).foldl (fun u _ => pumpOne u g d) t) s

/-- Whether a frame of group x that `f` picks waits on a port, or has been sent and is not acknowledged (12 R388). -/
def unacked (s : State) (x : Grp) (f : Chunk → Bool) : Bool :=
  let mine (m : Msg) : Bool := match m with
    | .ce _ _ (.chunk h ch) => h.gid == x.gid && h.epoch == x.epoch && h.sender == x.index && f ch
    | _ => false
  (List.range 16).any (fun pt => (portOf s pt).sent.any (fun e => mine e.msg) || (portOf s pt).wait.any (fun e => mine e.msg))

/-- A Spin begins in slot g over its window and region, whose pages are at hand (R215, R217-R221). -/
def beginSpin (s : State) (j : Job) (g : Nat) (x : Grp) (o : Obj) (r : Region) : State :=
  let p := part s j
  let P := x.members.length
  let w := spinWindow j o r x
  let l := w.layer
  let peg (b : Nat) : Nat := j.fld b 2 % 2 ^ 12
  let arr := [peg 32, peg 34]
  let rel := [peg 38, peg 40]
  let env := regionEnv s r l (2 * w.nh)
  let cs := (List.range w.chunks).map (fun i => regionChunk s r l w.c i)
  let pages := (pagesIn s p (w.span j.loopback / 4096 + 2) w.base (w.base + w.span j.loopback)).map (fun e => e.2.1)
  let dirty := env.soil.any id || cs.any (fun c => c.soil.any id)
  let y : SpinRun := {
    p := p, win := w, own := cs, arrPeg := arr, relPeg := rel, envPeg := peg 36, arr0 := arr.map (pegOf s p), rel0 := rel.map (pegOf s p)
    got := [[], []], signalled := [0, 0], granted := [0, 0], allowed := [2, 2], sent := [0, 0], envs := [x.index], soiled := dirty
    pages := pages }
  let sig := signature x 0x0802 0 0 w.kTag 0 w.nh
  let run : CollRun := ⟨j.id, x.next, sig, [], ⟨[], []⟩, 0, 0, 16, [], 0, 0, [], some y⟩
  let s1 := putSource (writeAt s p w.base (windowHead w r.geom) noSoil) p (w.envAt x.index 0 0) env
  let s2 := if j.loopback then loopback s1 p w x.index cs else s1
  let s3 := addPeg (pages.foldl (fun t b => addHold t p b) (stainIf dirty s2 rCeStain 1)) p (peg 36) 1
  let s4 := startRun (ranOn s3 j.id 0x81 0 (env.data.length + (cs.map (fun c => c.data.length)).sum)) g x run
  match spinAt s4 g with
  | none => s4
  | some _ => pumpSpin (([0, 1] : List Nat).foldl (fun t d => if spinSteps P d = 0 then t else sendChunk t x d true 1 0 env) s4) g

/-- What a Spin of region r into window w reads and writes as it begins. -/
def spinSpans (s : State) (j : Job) (o : Obj) (r : Region) (x : Grp) : List Span :=
  let w := spinWindow j o r x
  (List.range (2 * w.nh)).flatMap (fun k =>
    [rd (part s j) (r.envAt w.layer 0 k) (r.hkv * (2 * r.d)), rd (part s j) (r.dataAt w.layer 0 k) (r.hkv * r.blockBytes)]) ++
  [wr (part s j) w.base (w.span j.loopback)]

/-- SPIN (R217-R221). -/
def execSpin (id : Nat) (s : State) : Out :=
  runOp s id 0x0802 (fun j =>
    let p := part s j
    match spinErr s j, objNamed s p j.obj id, spinRegion s j, grpNamed s p (j.fld 28 2) with
    | some e, _, _, _ => finish s id e
    | none, some o, some r, some (g, x) =>
      if awaitsTurn s j (j.fld 28 2) x then markWaits s id
      else match x.broken with
        | some m => endBroken s id m
        | none => withMem s id (spinSpans s j o r x) (fun t => beginSpin t j g x o r)
    | _, _, _, _ => s)

/-- Whether a Spin has received everything, and everything that it sent is acknowledged (R222). -/
def spinDone (s : State) (x : Grp) (y : SpinRun) : Bool :=
  let P := x.members.length
  let all (l : List Nat) : Bool := (List.range 2).all (fun d => l.getD d 0 == spinSteps P d * y.win.chunks)
  all y.signalled && all y.sent && y.envs.length == P && !unacked s x (fun _ => true)

/-- The Spin of descriptor id ends where it is done (R222, R233). -/
def endSpin (s : State) (id : Nat) : State :=
  match grpWhere s (fun x => x.run.any (fun r => r.job == id)) with
  | some (g, x) => match x.run.bind (fun r => r.spin) with
    | some y => if spinDone s x y && !suspended s x.p then endRun s g (doneOf y.soiled (if y.soiled then 4 else 0)) else s
    | none => s
  | none => s

/-! ## Chunks that arrive (R211, R212, R218-R220, R227) -/

/-- Whether slot x's running Spin takes a chunk of its upstream neighbour: into a slot that this member has granted, once. -/
def spinTakes (x : Grp) (y : SpinRun) (sender : Nat) (ch : Chunk) : Bool :=
  let P := x.members.length
  let d := ch.dir.val
  let w := y.win
  decide (d < 2) && decide (1 ≤ ch.step) && decide (ch.step ≤ spinSteps P d) && sender == upstream P x.index d &&
  (if ch.env then ch.index == 0 && !y.envs.contains (spinShard P x.index d ch.step) && ch.data.length == w.shardEnv
   else decide (ch.index < w.chunks) && !(y.got.getD d []).contains (ch.step, ch.index) &&
     decide (ch.step ≤ y.granted.getD d 0 + 2) && ch.data.length == w.chunkBytes) &&
  ch.soil.length == cdiv ch.data.length 64

/-- Bytes of chunk i of a destination of n bytes. -/
def chunkLen (n c i : Nat) : Nat := min (2 ^ c) (n - i * 2 ^ c)

/-- Whether slot x's running collective takes the chunk: bytes of its destination, or of a BARRIER a frame of its rounds. -/
def collTakes (x : Grp) (r : CollRun) (sender : Nat) (ch : Chunk) : Bool :=
  (ch.dir.val == 2 && decide (ch.index * 2 ^ r.chunk < r.len) && ch.data.length == chunkLen r.len r.chunk ch.index &&
    ch.soil.length == cdiv ch.data.length 64 && !r.chunks.contains ch.index) ||
  (ch.dir.val == 3 && r.len == 0 && ch.data.isEmpty &&
    (patternRounds x.members.length x.index).any (fun e => e.1 == ch.step && e.2.2.contains sender) && !r.rounds.contains (sender, ch.step))

/-- Why a chunk is refused, by code of 12 R397 (R211): as any frame of the group's operation; one that no window admits names a closed
one. -/
def chunkCode (s : State) (fr : Frame) (h : CeHead) (ch : Chunk) : Option Nat :=
  let admits : Bool := match ceSlot s h with
    | none => false
    | some (_, x) => match x.run with
      | none => false
      | some r => match r.spin with
        | some y => spinTakes x y h.sender ch
        | none => collTakes x r h.sender ch
  match ceCode s fr h with
  | some c => some c
  | none => if admits then none else some 1

/-- A shard's envelopes arrive: they are written, counted and passed on (R219). -/
def takeEnv (s : State) (g : Nat) (x : Grp) (r : CollRun) (y : SpinRun) (ch : Chunk) : State :=
  let P := x.members.length
  let d := ch.dir.val
  let m := spinShard P x.index d ch.step
  let c : Contribution := ⟨ch.data, ch.soil⟩
  let t := addPeg (putSource s y.p (y.win.envAt m 0 0) c) y.p y.envPeg 1
  let u := setSpin t g x r { y with envs := y.envs ++ [m], soiled := y.soiled || ch.soil.any id }
  pumpSpin (if ch.step < spinSteps P d then sendChunk u x d true (ch.step + 1) 0 c else u) g

/-- A chunk arrives: it is written, signalled in order, and what may now be sent is (R212, R218, R220). -/
def takeData (s : State) (g : Nat) (x : Grp) (r : CollRun) (y : SpinRun) (ch : Chunk) : State :=
  let P := x.members.length
  let d := ch.dir.val
  let w := y.win
  let got := modAt y.got d (· ++ [(ch.step, ch.index)])
  let old := y.signalled.getD d 0
  let new := inOrder (got.getD d []) w.chunks (spinSteps P d)
  let t := putSource s y.p (w.dataAt (spinSlot d ch.step) (ch.index * w.c) 0) ⟨ch.data, ch.soil⟩
  let t1 := ((List.range new).drop old).foldl (fun u q =>
    putSlotHead u y.p w (spinSlot d (q / w.chunks + 1)) (spinShard P x.index d (q / w.chunks + 1)) (q % w.chunks + 1)) t
  let t2 := addPeg t1 y.p (y.arrPeg.getD d 0) (BitVec.ofNat 64 (new - old))
  pumpSpin (setSpin t2 g x r { y with got := got, signalled := y.signalled.set d new, soiled := y.soiled || ch.soil.any id }) g

/-- A chunk of a collective's destination arrives with its final value (R212, R227). -/
def takeResult (s : State) (g : Nat) (x : Grp) (r : CollRun) (ch : Chunk) : State :=
  let cs := r.chunks ++ [ch.index]
  let c := (job? s r.job).map (fun j => collOf j x.members.length)
  let new := if c.any (fun c => c.signal) then ((List.range (cdiv r.len (2 ^ r.chunk))).takeWhile (fun q => cs.contains q)).length else 0
  let t := putSource s x.p (r.dst + ch.index * 2 ^ r.chunk) ⟨ch.data, ch.soil⟩
  let u := if new ≤ r.signalled then t else addPeg t x.p ((c.map (fun c => c.peg)).getD 0) (BitVec.ofNat 64 (new - r.signalled))
  setGrp u g (some { x with watch := s.now, run := some { r with chunks := cs, signalled := new } })

/-- A frame of a BARRIER's round arrives (R223, R228). -/
def takeRound (s : State) (g : Nat) (x : Grp) (r : CollRun) (sender : Nat) (ch : Chunk) : State :=
  pumpBarrier (setGrp s g (some { x with watch := s.now, run := some { r with rounds := r.rounds ++ [(sender, ch.step)] } })) g

/-- The bytes that a chunk writes in slot x. -/
def chunkSpan (x : Grp) (r : CollRun) (ch : Chunk) : Span :=
  match r.spin with
  | some y =>
    if ch.env then wr y.p (y.win.envAt (spinShard x.members.length x.index ch.dir.val ch.step) 0 0) ch.data.length
    else wr y.p (y.win.dataAt (spinSlot ch.dir.val ch.step) (ch.index * y.win.c) 0) ch.data.length
  | none => wr x.p (r.dst + ch.index * 2 ^ r.chunk) ch.data.length

/-- A chunk that is not refused arrives in slot g, its pages at hand (R212). -/
def landChunk (s : State) (g : Nat) (x : Grp) (r : CollRun) (sender : Nat) (ch : Chunk) : State :=
  let u := stainIf (ch.soil.any id) s rCeStain 1
  match r.spin with
  | some y => if ch.env then takeEnv u g x r y ch else takeData u g x r y ch
  | none => if ch.dir.val = 3 then takeRound u g x r sender ch else takeResult u g x r ch

/-- Why a grant is refused (R211): as any frame of the group's operation, or no Spin waits for it. -/
def grantCode (s : State) (fr : Frame) (h : CeHead) (d step : Nat) : Option Nat :=
  let fits : Bool := match ceSlot s h with
    | none => false
    | some (g, x) => match spinAt s g with
      | none => false
      | some (_, _, y) => h.sender == downstream x.members.length x.index d && step == y.allowed.getD d 0 + 1
  match ceCode s fr h with
  | some c => some c
  | none => if fits then none else some 1

/-- A grant arrives in slot g (R220): the slot for the next step may be filled. -/
def landGrant (s : State) (g d : Nat) : State :=
  match spinAt s g with
  | none => s
  | some (x, r, y) => pumpSpin (setSpin s g x r { y with allowed := modAt y.allowed d (· + 1) }) g

/-- This member grants its slot for a step k + 2, the next of a direction, once the release peg has reached r + k × n_c and its own sending
of step k + 1 is acknowledged (R220). -/
def giveGrant (s : State) (g d step : Nat) : State :=
  match spinAt s g with
  | none => s
  | some (x, r, y) =>
    let P := x.members.length
    let k := y.granted.getD d 0 + 1
    let freed := (pegOf s y.p (y.relPeg.getD d 0) - y.rel0.getD d 0).toNat
    let done := decide ((k + 1) * y.win.chunks ≤ y.sent.getD d 0) && !unacked s x (fun ch => ch.dir.val == d && !ch.env && ch.step == k + 1)
    if step = k + 2 ∧ step ≤ spinSteps P d ∧ k * y.win.chunks ≤ freed ∧ done ∧ !suspended s x.p then
      let i := upstream P x.index d
      sendCe (setSpin s g x r { y with granted := y.granted.set d k }) 1 2 (x.module i) x.key (.grant (x.head i) (Fin.ofNat 2 d) step)
    else s

end Sys2Proof.Machine
end

