-- ==== Sys2Proof/Machine/Stitch.lean ====
section
/-! DEFINITION. The Stitch time base: advertisements, root, parent and lock (spec 14 R434-R437). Counter steering lies outside the
model (notes/assumptions/12.md). -/

namespace Sys2Proof.Machine

/-- The advertisements of the UP ports. -/
def liveAdverts (s : State) : List (Nat × Advert) :=
  (upPorts s).filterMap (fun pt => (tget (fun _ => none) s.ob.adverts pt).map (fun a => (pt, a)))

/-- The advertisement that would be the parent's (R436): the lowest running root, then the fewest hops, then the lowest port. -/
def bestAdvert (s : State) : Option (Nat × Advert) :=
  ((liveAdverts s).filter (fun e => e.2.running && decide (e.2.hops + 1 < 32))).foldl (fun o e => match o with
    | none => some e
    | some b => if e.2.root < b.2.root ∨ (e.2.root = b.2.root ∧ e.2.hops < b.2.hops) then some e else some b) none

/-- What OB_STITCH_STATUS and OB_STITCH_OFFSET show, the bound and θ in 1/64 ns. -/
structure StitchInfo where
  locked : Bool
  isRoot : Bool
  alone : Bool
  root : Nat
  hops : Nat
  parent : Nat
  bound : Nat
  theta : Int
  deriving DecidableEq, Repr

/-- The module's place in its island (R436, 13 R431): none before it has joined or heard a running root. -/
def stitchInfo (s : State) : StitchInfo :=
  let me := moduleNo s
  let joined := s.boot.joined
  let self : StitchInfo := ⟨true, true, joined && (liveAdverts s).isEmpty, me, 0, 0, 0, 0⟩
  match bestAdvert s with
  | none => if joined then self else ⟨false, false, false, 0, 0, 0, 0, 0⟩
  | some (pt, a) =>
    if joined ∧ ready s ∧ me ≤ a.root then self
    else
      let b := a.bound + a.theta.natAbs + 2
      ⟨joined && a.locked && decide (b ≤ 64), false, false, a.root, a.hops + 1, pt, b, a.theta⟩

/-! ## Time passes (R434, R438, R443) -/

/-- Slot x with the counters and the 64-byte header as they stand (R443). -/
def catchSnap (s : State) (x : Snap) : Snap :=
  let i := stitchInfo s
  { x with
    caught := true
    header := leBytes 8 x.sid ++ leBytes 8 x.t.toNat ++ leBytes 2 (moduleNo s) ++ leBytes 2 i.root ++
      [BitVec.ofNat 8 ((if i.locked then 1 else 0) + (if i.alone then 2 else 0))] ++ List.replicate 43 0
    counters := s.counts.filter (fun e => decide (rCounter 0 ≤ e.1) && decide (e.1 < rCounter 1536)) }

/-- The Stitch counter reads t; a pending snapshot whose T is reached catches the counters before anything else happens (R438). -/
def setNow (s : State) (t : DWord) : State :=
  (List.range 4).foldl (fun u k =>
    let x := snapOf u k
    if x.state = 1 ∧ !x.caught ∧ x.t.toNat ≤ t.toNat then setSnap u k (catchSnap u x) else u) { s with now := t }

/-- STITCH_LOST where a module that was locked after READY is no longer, or has lost every UP port (R436). -/
def noteLock (s t : State) : State :=
  let a := stitchInfo s
  let b := stitchInfo t
  stainIf (ready s && ready t && a.locked && (!b.locked || (!a.isRoot && (upPorts t).isEmpty))) t rObStain 0

/-- Store the advertisement of port pt. -/
def setAdvert (s : State) (pt : Nat) (a : Option Advert) : State :=
  { s with ob := { s.ob with adverts := tset (fun _ => none) s.ob.adverts pt a } }

/-- SYNC_PAIR_TIMER (R435). -/
def execSyncPairTimer (pt : Fin 16) (s : State) : Out :=
  let i := stitchInfo s
  runIf s (isUp s pt.val)
    (push s pt.val 0 (.sync pt.val i.root i.hops i.bound i.locked ((i.isRoot && ready s) || (bestAdvert s).isSome)))

/-- θ of a sync pair in 1/64 ns, corrected by the asymmetry (R435). -/
def Sync.offset (y : Sync) : Int := ((y.t2 - y.t1) - (y.t4 - y.t3)) / 2 - y.asym

/-- δ of a sync pair in 1/64 ns, corrected likewise (R435; notes/assumptions/52.md). -/
def Sync.delay (y : Sync) : Int := ((y.t4 - y.t1) - (y.t3 - y.t2)) / 2 - y.asym

/-- SYNC_FRAME (R436). -/
def execSyncFrame (pt : Fin 16) (y : Sync) (s : State) : Out :=
  .next (arriveVct s pt.val (fun t =>
    noteLock t (setAdvert t pt.val (some ⟨y.root.toNat, y.hops, y.bound, y.locked, y.running, t.now, Sync.offset y, Sync.delay y⟩))))

/-- ADVERT_EXPIRE (R436). -/
def execAdvertExpire (pt : Fin 16) (s : State) : Out :=
  .next (match tget (fun _ => none) s.ob.adverts pt.val with
    | some a => if a.at'.toNat + 3 * 10 ^ 6 ≤ s.now.toNat then noteLock s (setAdvert s pt.val none) else s
    | none => s)

end Sys2Proof.Machine
end

