-- ==== Sys2Proof/Machine/Ports.lean ====
section
/-! DEFINITION. Optical ports (spec 12 R381, R387-R395, R399, R400; 13 R427-R430): training, authentication, lanes, replay, what
happens when a port or a hop goes down. -/

namespace Sys2Proof.Machine

/-! ## States and outcomes (R399, R409, 13 R427, R429, R430) -/

/-- Store STATE and QREASON of port pt. -/
def setPortState (s : State) (pt st reason : Nat) : State := wfield (wfield s (rPort pt) 29 3 st) (rPort pt) 26 3 reason

/-- QREASON of port pt. -/
def portReason (s : State) (pt : Nat) : Nat := rfield s (rPort pt) 26 3

/-- Whether port pt has trained lanes. -/
def trained (s : State) (pt : Nat) : Bool := decide (2 ≤ portState s pt) && decide (portState s pt ≤ 4)

/-- TC_DISC_PORT with an outcome (13 R427, R433). -/
def discWord (s : State) (pt code : Nat) : Word :=
  match expected s pt with
  | none => BitVec.ofNat 32 (code * 2 ^ 28)
  | some (m, q) =>
    let h := if code = 2 then none else (portOf s pt).hello
    BitVec.ofNat 32 (code * 2 ^ 28 + ((h.map (fun x => x.2.1)).getD q) * 2 ^ 24 + ((h.map (fun x => x.1.toNat)).getD 0) * 2 ^ 12 + m)

/-- The outcome that port pt's state gives (13 R429); a port quarantined for another reason keeps its outcome. -/
def outcomeOf (s : State) (pt : Nat) : Nat :=
  let st := portState s pt
  if st = 5 then 2
  else if st = 3 then 0
  else if st = 4 then
    (if portReason s pt = 1 then 4 else if portReason s pt = 2 then 5 else if portReason s pt = 3 then 6 else rfield s (rDiscPort pt) 28 4)
  else if planned s pt then 3 else 1

/-- Rewrite port pt's outcome once the discovery window has closed; after READY a difference sets PLAN_DIFF (13 R429, R430). -/
def noteOutcome (s : State) (pt : Nat) : State :=
  if !s.boot.discClosed then s
  else
    let c := outcomeOf s pt
    let t := wreg s (rDiscPort pt) (discWord s pt c)
    stainIf (ready s && decide (3 ≤ c)) t rTcStain 0

/-! ## Replay (R388, R389) -/

/-- Send again every unacknowledged frame of port pt from `seq` onward (none: all); one resent 8 times exhausts replay. -/
def resend (s : State) (pt : Nat) (seq : Option (BitVec 16)) : State × Bool :=
  let x := portOf s pt
  let keep := match seq with
    | none => []
    | some q => if x.sent.any (fun e => e.seq == q) then x.sent.takeWhile (fun e => e.seq != q) else x.sent
  let again := (x.sent.drop keep.length).map (fun e => { e with times := e.times + 1 })
  let t := setPort s pt { x with sent := keep ++ again, lastTx := s.now }
  let u := again.foldl (fun u e => send u e.msg) t
  (addCnt (portCount u pt 7 again.length) (rPort pt + 0x28) again.length, again.any (fun e => decide (8 ≤ e.times)))

/-! ## A port or a hop goes down (R390, R391, 07 R234, 14 R455) -/

/-- The jobs of the module beyond a hop, as its last job lists on both ports gave them. -/
def darkJobs (s : State) (d : Nat) : List Word :=
  let l (pt : Nat) : List Word := tget (fun _ => []) s.ob.jobLists pt
  (l (2 * d) ++ l (2 * d + 1)).dedup

/-- Remote operations that `hit` picks end, as their routes are down (R404, 07 R213); what was not answered is undefined. -/
def loseOps (s : State) (hit : RemOp → Bool) : State :=
  (s.ol.ops.filter hit).foldl (fun t o =>
    let p := match job? t o.job with
      | some j => part t j
      | none => 0
    let u := if o.read then o.left.foldl (fun u e => freeFill u (wr p (o.la + e.1 - o.ro) e.2)) t else t
    finish u o.job (if o.stop then (stAborted, 0) else (stLink, o.dest.toNat)))
    { s with ol := { s.ol with ops := s.ol.ops.filter (fun o => !hit o) } }

/-- The hop in direction d is down: unacknowledged frames are lost, running operations over it fail, the dark module's jobs are
aborted. -/
def hopLost (s : State) (d : Nat) : State :=
  let s1 := setStain (setStain s (rOlStain (2 * d)) 8) (rOlStain (2 * d + 1)) 8
  let s2 := modPort s1 (2 * d) (fun x => { x with pairOut := [0, 0, 0, 0], pairIn := [0, 0, 0, 0], early := [], share := 0 })
  let s3 := (List.range 64).foldl (fun t g => match grpOf t g with
    | some x => if x.run.isSome && x.partners.any (fun m => routeDir t (entryModule m) == some d) then failRun t g 2 (beyond t d) else t
    | none => t) s2
  let s4 := loseOps s3 (fun o => routeDir s3 o.dest.toNat == some d)
  (darkJobs s4 d).foldl (fun t J => abortFrom t J s.now 5) s4

/-- Port pt leaves UP, or another state, for `st`: its credits are discarded and its unacknowledged frames go over its pair
partner, or are lost with the hop. -/
def portLeaves (s : State) (pt st reason : Nat) : State :=
  let x := portOf s pt
  let t := setPort (setPortState s pt st reason) pt { x with
    sent := [], wait := [], changes := [], credits := [0, 0, 0, 0], owed := [0, 0, 0, 0], downAt := s.now }
  if !isUp s pt then t
  else noteLock s (if isUp t (pairOf pt) then
      let q := pairOf pt
      let u := addCnt (portCount t q 7 x.sent.length) (rPort q + 0x28) x.sent.length
      (x.sent.map (fun e => (⟨e.vc, e.msg, false⟩ : Waiting)) ++ x.wait).foldl (fun v w => enqueue v q w) u
    else flushCasts (hopLost t (pt / 2)))

/-- Port pt becomes DOWN (R390): its lanes go dark. -/
def portDown (s : State) (pt : Nat) : State :=
  let t := portLeaves s pt 0 0
  let u := modPort t pt (fun x => { x with rxAct := 0, rxSpare := 0, txAct := 0, txSpare := 0 })
  setStain u (rOlStain pt) 3

/-- Port pt is quarantined for a reason (R399). -/
def quarantine (s : State) (pt reason : Nat) : State := noteOutcome (setStain (portLeaves s pt 4 reason) (rOlStain pt) 6) pt

/-- Lane n as a set. -/
def laneBit (n : Nat) : BitVec 18 := BitVec.ofNat 18 (2 ^ n)

/-- The n lowest lanes of a set. -/
def lowLanes (n : Nat) (x : BitVec 18) : BitVec 18 :=
  BitVec.ofNat 18 ((((List.range 18).filter (x.getLsbD ·)).take n).map (fun i => 2 ^ i)).sum

/-! ## Training and authentication (R381, R393, R395, R400) -/

/-- Whether port pt may train: its transmitters are on and it is neither disabled nor in use. -/
def mayTrain (s : State) (pt : Nat) : Bool := s.boot.litAt.isSome && portState s pt == 0

/-- Training of port pt begins; what its last partner said is forgotten. -/
def startTraining (s : State) (pt : Nat) : State :=
  setPortState (modPort s pt (fun x => { x with hello := none, auth := false })) pt 1 0

/-- LIGHT_RECEIVED (R381, R393). -/
def execLightReceived (pt : Fin 16) (s : State) : Out := runIf s (mayTrain s pt.val) (startTraining s pt.val)

/-- TRAINING_RETRY (R381). -/
def execTrainingRetry (pt : Fin 16) (s : State) : Out := runIf s (mayTrain s pt.val) (startTraining s pt.val)

/-- The identity seeds (13 R414). -/
def identitySeeds : List Byte :=
  shake256 96 (Config.identitySeed ++ ("LIASTIN-ID".toList.map (fun c => BitVec.ofNat 8 c.toNat)))
/-- The identity public key. -/
def identityKey : List Byte := Config.slhPublic256f identitySeeds
/-- The fingerprint of a public key. -/
def fingerprint (key : List Byte) : List Byte := shake256 16 key
/-- The context string of link transcripts (13 R422). -/
def linkContext : List Byte := "LIASTIN-LINK".toList.map (fun c => BitVec.ofNat 8 c.toNat)

/-- A fresh nonce: 32 free bytes (notes/assumptions/1.md). -/
def drawNonce (s : State) : BitVec 256 × State :=
  (BitVec.ofNat 256 (ofLe ((List.range 32).map (fun i => Config.freeByte (s.free + i)))), { s with free := s.free + 32 })

/-- The bytes of a hello (notes/assumptions/39.md). -/
def helloBytes (m q : Nat) (nonce : BitVec 256) (key : List Byte) : List Byte := leBytes 2 m ++ leBytes 1 q ++ leBytes 32 nonce.toNat ++ key

/-- The transcript of two hellos, each with module and port (R395). -/
def transcript (a b : Nat × Nat × List Byte) : List Byte :=
  if a.1 < b.1 ∨ (a.1 = b.1 ∧ a.2.1 ≤ b.2.1) then a.2.2 ++ b.2.2 else b.2.2 ++ a.2.2

/-- Port pt sends its hello and awaits its partner's (R395). -/
def sendHello (s : State) (pt : Nat) : State :=
  let d := drawNonce s
  let t := modPort d.2 pt (fun x => { x with nonce := d.1, hello := none, auth := false, lastTx := s.now })
  send t (.hello pt (BitVec.ofNat 12 (moduleNo s)) d.1 identityKey)

/-- TRAINING_COMPLETE (R381). -/
def execTrainingComplete (pt : Fin 16) (rx tx : BitVec 18) (s : State) : Out :=
  runIf s (portState s pt.val == 1)
    (if laneCount rx < 4 ∨ laneCount tx < 4 then
      modPort (setPortState s pt.val 0 0) pt.val (fun x => { x with downAt := s.now })
    else
      let act (x : BitVec 18) : BitVec 18 := lowLanes 16 x
      let t := modPort (setPortState s pt.val 2 0) pt.val (fun x => { x with
        rxAct := act rx, rxSpare := rx &&& ~~~ act rx, rxFail := ~~~ rx
        txAct := act tx, txSpare := tx &&& ~~~ act tx, txFail := ~~~ tx, lastRx := s.now })
      sendHello t pt.val)

/-- The transcript of port pt with the partner's hello. -/
def portTranscript (s : State) (pt : Nat) (mine : BitVec 256) (h : BitVec 12 × Nat × BitVec 256 × BitVec 512) : List Byte :=
  let m := moduleNo s
  transcript (m, pt, helloBytes m pt mine identityKey)
    (h.1.toNat, h.2.1, helloBytes h.1.toNat h.2.1 h.2.2.1 (leBytes 64 h.2.2.2.toNat))

/-- Port pt signs the transcript (R395). -/
def sendSignature (s : State) (pt : Nat) (mine : BitVec 256) (h : BitVec 12 × Nat × BitVec 256 × BitVec 512) : State :=
  send s (.signature pt (Config.slhSign256f identitySeeds (portTranscript s pt mine h) linkContext))

/-- HELLO (R395): a port that authenticates keeps it and signs; one that is UP or quarantined answers a partner that authenticates
again (notes/assumptions/40.md). -/
def execHello (pt : Fin 16) (m : BitVec 12) (port : Fin 16) (nonce : BitVec 256) (key : BitVec 512) (s : State) : Out :=
  let p := pt.val
  let h := (m, port.val, nonce, key)
  .next (if portState s p = 2 then
      sendSignature (modPort s p (fun x => { x with hello := some h, lastRx := s.now })) p (portOf s p).nonce h
    else if portState s p = 3 ∨ portState s p = 4 then
      let d := drawNonce s
      sendSignature (send d.2 (.hello p (BitVec.ofNat 12 (moduleNo s)) d.1 identityKey)) p d.1 h
    else s)

/-- Port pt becomes UP (R393, R395): its link starts anew, and it sends its job list (14 R455). -/
def portComesUp (s : State) (pt : Nat) : State :=
  let x := portOf s pt
  let t := setPort (setPortState s pt 3 0) pt { x with
    seq := 0, sent := [], wait := [], changes := [], credits := vcBuffers, expect := 0, owed := [0, 0, 0, 0], auth := true
    turn := 1, deficit := [0, 0, 0, 0], vcgUntil := 0
    lastRx := s.now, lastTx := s.now, wasUp := true }
  let u := noteOutcome (stainIf x.wasUp t (rOlStain pt) 0) pt
  push u pt 0 (.jobList pt (jobSet u))

/-- The reason for which a partner that said h fails the plan in force (13 R429). -/
def planFault (s : State) (pt : Nat) (h : BitVec 12 × Nat × BitVec 256 × BitVec 512) : Option Nat :=
  if !planned s pt || expected s pt != some (h.1.toNat, h.2.1) then some 1
  else if (planEntry s h.1.toNat).1 != fingerprint (leBytes 64 h.2.2.2.toNat) then some 2 else none

/-- AUTH_SIGNATURE (R395, R399, 13 R428, R429). -/
def execAuthSignature (pt : Fin 16) (sig : List Byte) (s : State) : Out :=
  .next (match (portOf s pt.val).hello with
    | none => s
    | some h =>
      if portState s pt.val ≠ 2 then s
      else if Config.slhVerify256f (leBytes 64 h.2.2.2.toNat) (portTranscript s pt.val (portOf s pt.val).nonce h) linkContext sig then
        let t := modPort s pt.val (fun x => { x with auth := true })
        match planFault t pt.val h with
        | some r => quarantine t pt.val r
        | none => portComesUp t pt.val
      else quarantine (setStain s (rOlStain pt.val) 7) pt.val 3)

/-- PORT_QUARANTINE (R399): a port that has trained is quarantined with reason 5. -/
def execPortQuarantine (pt : Fin 16) (s : State) : Out :=
  runIf s (ready s && (portState s pt.val == 2 || portState s pt.val == 3)) (quarantine s pt.val 5)

/-- PORT_RELEASE (R400). -/
def execPortRelease (pt : Fin 16) (s : State) : Out :=
  runIf s (ready s && portState s pt.val == 4) (sendHello (setPortState s pt.val 2 0) pt.val)

/-- PORT_DISABLE (R390). -/
def execPortDisable (pt : Fin 16) (s : State) : Out :=
  let p := pt.val
  runIf s (ready s)
    (let s1 := wreg s (rPort p + 4) 1
     if portState s p = 5 then s1
     else
       let t := if portState s p = 0 then s1 else portDown s1 p
       noteOutcome (setPortState t p 5 0) p)

/-- PORT_ENABLE (R393): the port may train again; one of a dimension of size 1 stays DISABLED (13 R427). -/
def execPortEnable (pt : Fin 16) (s : State) : Out :=
  let p := pt.val
  runIf s (ready s)
    (let s1 := wreg s (rPort p + 4) 0
     if portState s p = 5 ∧ portReal s p then
       setPortState (modPort s1 p (fun x => { x with downAt := s.now })) p 0 0
     else s1)

/-- PORT_SILENCE_TIMEOUT (R390, 13 R430): 2 µs without a frame make a port DOWN; a planned port DOWN for 2 µs is ABSENT. -/
def execPortSilenceTimeout (pt : Fin 16) (s : State) : Out :=
  let p := pt.val
  let x := portOf s p
  .next (if trained s p && decide (x.lastRx.toNat + 2000 ≤ s.now.toNat) then portDown s p
    else if ready s && portState s p == 0 && planned s p && decide (x.downAt.toNat + 2000 ≤ s.now.toNat) then noteOutcome s p
    else s)

/-! ## Lanes (R389) -/

/-- Lane ln of a direction of port pt fails (R389): a spare only leaves the spares; an active one starts a lane change, or makes the
port DOWN where fewer than 4 would remain. -/
def laneFail (s : State) (pt : Nat) (rx : Bool) (ln : Nat) : State :=
  let x := portOf s pt
  let b := laneBit ln
  let act := if rx then x.rxAct else x.txAct
  let spare := if rx then x.rxSpare else x.txSpare
  let y := if rx then { x with rxAct := act &&& ~~~ b, rxSpare := spare &&& ~~~ b, rxFail := x.rxFail ||| b }
    else { x with txAct := act &&& ~~~ b, txSpare := spare &&& ~~~ b, txFail := x.txFail ||| b }
  if !trained s pt || (act &&& b == 0 && spare &&& b == 0) then s
  else if act &&& b = 0 then setPort s pt y
  else if laneCount (act &&& ~~~ b) + laneCount spare < 4 then portDown (setPort s pt y) pt
  else
    let t := setPort s pt { y with changes := x.changes ++ [(rx, ln)] }
    if rx then send t (.laneNotice pt ln) else t

/-- LOSS_OF_LIGHT (R389, R390). -/
def execLossOfLight (pt : Fin 16) (ln : Fin 18) (s : State) : Out := .next (laneFail s pt.val true ln.val)
/-- LANE_BER_FAIL (R389). -/
def execLaneBerFail (pt : Fin 16) (ln : Fin 18) (s : State) : Out := .next (laneFail s pt.val true ln.val)
/-- LANE_CHANGE_NOTICE (R389): the partner's failed lane is a transmit lane here. -/
def execLaneChangeNotice (pt : Fin 16) (ln : Fin 18) (s : State) : Out := .next (laneFail s pt.val false ln.val)

/-- The lowest spare of a direction becomes active, where there is one (R389): LANE_SPARED, else LANE_DROPPED. -/
def laneSwap (s : State) (pt : Nat) (rx : Bool) : State :=
  let x := portOf s pt
  let spare := if rx then x.rxSpare else x.txSpare
  let n := lowLanes 1 spare
  if spare = 0 then setStain s (rOlStain pt) 2
  else
    let y := if rx then { x with rxAct := x.rxAct ||| n, rxSpare := spare &&& ~~~ n }
      else { x with txAct := x.txAct ||| n, txSpare := spare &&& ~~~ n }
    setStain (setPort s pt y) (rOlStain pt) 1

/-- Fewer than 4 active lanes of a direction remain. -/
def tooFew (x : Port) : Bool := decide (laneCount x.rxAct < 4) || decide (laneCount x.txAct < 4)

/-- LANE_CHANGE_DONE (R389): the change under way ends, and with the last one the port replays and sends what it held. -/
def execLaneChangeDone (pt : Fin 16) (s : State) : Out :=
  let p := pt.val
  .next (match (portOf s p).changes with
    | [] => s
    | c :: cs =>
      let t := portCount (laneSwap (modPort s p (fun x => { x with changes := cs })) p c.1) p 11 1
      if !cs.isEmpty then t
      else if tooFew (portOf t p) then portDown t p
      else
        let r := resend t p none
        if r.2 then portDown (setStain r.1 (rOlStain p) 4) p else flushWait r.1 p)

/-- LANE_LIGHT_RETURN (R389). -/
def execLaneLightReturn (pt : Fin 16) (ln : Fin 18) (good : Bool) (s : State) : Out :=
  let b := laneBit ln.val
  runIf s (good && trained s pt.val && (portOf s pt.val).rxFail.getLsbD ln.val)
    (modPort s pt.val (fun x => { x with rxFail := x.rxFail &&& ~~~ b, rxSpare := x.rxSpare ||| b }))

/-! ## Link control (R387, R388, R390) -/

/-- IDLE_FRAME_TIMER (R390). -/
def execIdleFrameTimer (pt : Fin 16) (s : State) : Out :=
  runIf s (trained s pt.val && decide ((portOf s pt.val).lastTx.toNat + 256 ≤ s.now.toNat))
    (send (modPort s pt.val (fun x => { x with lastTx := s.now })) (.idle pt.val))

/-- LINK_ACK_TIMER (R388). -/
def execLinkAckTimer (pt : Fin 16) (s : State) : Out :=
  runIf s (isUp s pt.val) (send (modPort s pt.val (fun x => { x with lastTx := s.now })) (.ack pt.val ((portOf s pt.val).expect - 1).toNat))

/-- CREDIT_RETURN_TIMER (R387): the credits owed are returned; those of VCG are withheld above VCG_LIMIT (R398). -/
def execCreditReturnTimer (pt : Fin 16) (s : State) : Out :=
  let x := portOf s pt.val
  let late := decide (s.now.toNat < x.vcgUntil)
  let due := if late then modAt x.owed 3 (fun _ => 0) else x.owed
  let t := modPort s pt.val (fun y => { y with owed := if late then [0, 0, 0, y.owed.getD 3 0] else [0, 0, 0, 0], lastTx := s.now })
  runIf s (isUp s pt.val && due.any (fun k => k != 0))
    ((due.zipIdx).foldl (fun u e => if e.1 = 0 then u else send u (.credits pt.val e.2 e.1)) t)

/-- LINK_ACK (R388). -/
def execLinkAck (pt : Fin 16) (seq : BitVec 16) (s : State) : Out :=
  let x := portOf s pt.val
  let left := if x.sent.any (fun e => e.seq == seq) then (x.sent.dropWhile (fun e => e.seq != seq)).drop 1 else x.sent
  runIf s (isUp s pt.val) (flushCasts (flushWait (setPort s pt.val { x with sent := left, lastRx := s.now }) pt.val))

/-- LINK_NAK (R388). -/
def execLinkNak (pt : Fin 16) (seq : BitVec 16) (s : State) : Out :=
  let r := resend (modPort s pt.val (fun x => { x with lastRx := s.now })) pt.val (some seq)
  runIf s (isUp s pt.val) (if r.2 then portDown (setStain r.1 (rOlStain pt.val) 4) pt.val else r.1)

/-- CREDIT_RETURN (R387). -/
def execCreditReturn (pt : Fin 16) (vc : Fin 4) (k : Nat) (s : State) : Out :=
  runIf s (isUp s pt.val)
    (flushWait (modPort s pt.val (fun x => { x with
      credits := modAt x.credits vc.val (fun c => min (vcBuffers.getD vc.val 0) (c + k)), lastRx := s.now })) pt.val)

/-- FRAME_CRC_FAIL (R382, R388). -/
def execFrameCrcFail (pt : Fin 16) (corrected bad : Nat) (s : State) : Out :=
  let p := pt.val
  let s1 := portCount (portCount s p 8 corrected) p 9 bad
  let s2 := addCnt (addCnt s1 (rPort p + 0x20) corrected) (rPort p + 0x38) bad
  runIf s (isUp s p) (send s2 (.nak p (portOf s p).expect.toNat))

end Sys2Proof.Machine
end

