-- ==== Sys2Proof/Machine/Remote.lean ====
section
/-! DEFINITION. Remote memory: windows, remote operations, remote peg additions, and the frames that arrive for them (spec 12 R383,
R385, R387, R396-R398, R401-R405; 07 R213, R243). -/

namespace Sys2Proof.Machine

/-! ## Windows (R402, R403) -/

/-- The software window with the id. -/
def winOf (s : State) (id : Nat) : Option Win := s.ol.wins.find? (fun w => w.id == id)

/-- Check 9 of WINDOW_OPEN (R402, R405). -/
def openErr (s : State) (j : Job) : Option Ending :=
  let size := j.fld 24 8
  let one := j.bits 41 2 1 == 1
  fields [a52 j 16, bad (!aligned (j.va 16) 4096) 16, bad (!aligned size 4096 || size == 0 || decide (2 ^ 44 < size)) 24,
    bad (j.fld 32 8 == 0) 32, bad (decide (j.fld 40 1 < 0x80) || (winOf s (j.fld 40 1)).isSome) 40, bad (j.bits 41 3 5 != 0) 41,
    if one then bad (j.bits 43 4 4 != 0) 43 else rsvd j 42 44, rsvd j 44 56]

/-- The window that WINDOW_OPEN j opens (R402). -/
def newWin (s : State) (j : Job) : Win :=
  let p := part s j
  let writes := j.bits 41 0 1 == 1
  let only := if j.bits 41 2 1 = 1 then some (BitVec.ofNat 12 (j.fld 42 2)) else none
  ⟨j.fld 40 1, p, j.va 16, j.fld 24 8, BitVec.ofNat 64 (j.fld 32 8), writes, j.bits 41 1 1 == 1, only⟩

/-- WINDOW_OPEN (R403). -/
def execWindowOpen (id : Nat) (s : State) : Out :=
  runOp s id 0x0A20 (fun j =>
    let p := part s j
    let writes := j.bits 41 0 1 == 1
    match firstErr [openErr s j, chk (writes && inRegion s p (j.va 16) (j.fld 24 8)) (stAccess, 0)] with
    | some e => finish s id e
    | none =>
      let w : Win := newWin s j
      finish { s with ol := { s.ol with wins := s.ol.wins ++ [w] } } id (stDone, 0))

/-- Check 9 of WINDOW_CLOSE (R403). -/
def closeErr (s : State) (j : Job) : Option Ending :=
  let p := part s j
  let mine := s.ol.wins.any (fun w => w.id == j.fld 40 1 && w.p == p)
  fields [rsvd j 16 40, bad (!mine) 40, rsvd j 41 56]

/-- WINDOW_CLOSE (R403): a frame accepted has landed within its own command, so it completes at once. -/
def execWindowClose (id : Nat) (s : State) : Out :=
  runOp s id 0x0A21 (fun j =>
    match closeErr s j with
    | some e => finish s id e
    | none => finish { s with ol := { s.ol with wins := s.ol.wins.filter (fun w => w.id != j.fld 40 1) } } id (stDone, 0))

/-! ## Checks of frames addressed to this module (R396, R397) -/

/-- The window of a group slot while its operation runs (07 R211): partition, base and size of the Spin window, or of the destination. -/
def grpWindow (x : Grp) : Option (Nat × Nat × Nat) :=
  x.run.map (fun r => match r.spin with
    | some y => (y.p, y.win.base, y.win.span false)
    | none => (x.p, r.dst, r.len))

/-- The first check of R397 that an access of n bytes fails, by code; `write`: else a read; `m`: the source module. No window allows a
write to a KV region (06 R171). -/
def windowErr (s : State) (window : Nat) (key : DWord) (m off n : Nat) (write : Bool) : Option Nat :=
  let keyed := (List.range 64).filterMap (fun g => match grpOf s g with
    | some x => if x.key = key then some x else none
    | none => none)
  let member (x : Grp) : Bool := x.members.any (fun e => entryModule e == m)
  if !ready s then some 1
  else if window = 0 then
    (if keyed.isEmpty then some 2 else if !keyed.any member then some 3 else if 2 ^ 19 < off + n then some 4 else some 5)
  else if window ≤ 0x40 then
    match grpOf s (window - 1) with
    | some x =>
      if x.run.isNone then some 1
      else if x.key ≠ key then some 2
      else if !x.partners.any (fun e => entryModule e == m) then some 3
      else if (grpWindow x).any (fun w => w.2.2 < off + n) then some 4
      else if write then none else some 5
    | none => some 1
  else if window < 0x80 then some 1
  else match winOf s window with
    | none => some 1
    | some w =>
      if w.key ≠ key then some 2
      else if w.only.any (fun o => o.toNat != m) then some 3
      else if w.size < off + n then some 4
      else if (if write then w.writes && !inRegion s w.p (w.base + off) n else w.reads) then none else some 5

/-- The bytes of this module that an access through a group's or a software window reaches. -/
def windowSpan (s : State) (window off n : Nat) (write : Bool) : List Span :=
  if 0 < window ∧ window ≤ 0x40 then
    match (grpOf s (window - 1)).bind grpWindow with
    | some w => [⟨w.1, w.2.1 + off, n, write⟩]
    | none => []
  else match winOf s window with
    | some w => [⟨w.p, w.base + off, n, write⟩]
    | none => []

/-- The soil mask of bytes in units of 64 (R383). -/
def frameSoil (s : State) (p a n : Nat) : DWord :=
  BitVec.ofNat 64 ((List.range (cdiv n 64)).map (fun u => if soiledAt s p (a + 64 * u) (min 64 (n - 64 * u)) then 2 ^ u else 0)).sum

/-- Write a frame's payload at address a of partition p with its soil. -/
def putPayload (s : State) (p a : Nat) (fr : Frame) : State := writeAt s p a fr.payload (fun i => fr.soil.getLsbD (i / 64))

/-! ## Remote operations (R404, R405) -/

/-- The frames of n bytes at remote offset o: offset and length, cut at every 4 KiB (R404); `fuel` bounds them. -/
def cuts : Nat → Nat → Nat → List (Nat × Nat)
  | 0, _, _ => []
  | fuel + 1, o, n =>
    if n = 0 then [] else
    let k := min n (4096 - o % 4096)
    (o, k) :: cuts fuel (o + k) (n - k)

/-- A frame of this module. -/
def ownFrame (s : State) (vc : Fin 4) (typ : Fin 16) (dest : Nat) (window off : Nat) (key : DWord) (op : Nat) : Frame :=
  ⟨vc, typ, 0, BitVec.ofNat 12 dest, BitVec.ofNat 12 (moduleNo s), BitVec.ofNat 8 window, BitVec.ofNat 44 off, 0, key, 0, 0, op, []⟩

/-- The remote operation with the number. -/
def remOp (s : State) (op : Nat) : Option RemOp := s.ol.ops.find? (fun o => o.op == op)

/-- Drop the remote operation with the number. -/
def dropRemOp (s : State) (op : Nat) : State := { s with ol := { s.ol with ops := s.ol.ops.filter (fun o => o.op != op) } }

/-- Add a remote operation; its number is the next one. -/
def addRemOp (s : State) (o : RemOp) : State := { s with ol := { s.ol with ops := s.ol.ops ++ [o], nextOp := s.ol.nextOp + 1 } }

/-- Check 9 of REMOTE_WRITE and REMOTE_READ (R402, R405). -/
def remoteErr (s : State) (j : Job) : Option Ending :=
  let n := j.fld 40 4
  let hole := (pagesIn s (part s j) (n / 4096 + 2) (j.va 16) (j.va 16 + n)).any (fun e => e.1.isNone)
  fields [a52 j 16, bad hole 16, bad (!aligned (j.fld 24 1) 64) 24, bad (j.bits 29 4 4 + 16 * j.bits 30 0 4 < 0x80) 29,
    bad (n == 0 || !aligned n 64) 40, rsvd j 44 56]

/-- A remote operation on this module's own windows: it is refused or moved at once. -/
def ownAccess (s : State) (j : Job) (write : Bool) (window off n : Nat) (key : DWord) : State :=
  let me := moduleNo s
  let p := part s j
  match windowErr s window key me off n write with
  | some c => finish s j.id (stAccess, c + me * 2 ^ 16)
  | none =>
    let far := windowSpan s window off n write
    withMem s j.id ([⟨p, j.va 16, n, !write⟩] ++ far) (fun t => match far with
      | [] => t
      | x :: _ =>
        let a := if write then (p, j.va 16) else (x.place, x.addr)
        let b := if write then (x.place, x.addr) else (p, j.va 16)
        let c := ownSource t a.1 a.2 n
        finish (putSource' t b.1 b.2 c) j.id (doneOf (c.soil.any id) 0))
where
  putSource' (s : State) (p a : Nat) (c : Contribution) : State := writeAt s p a c.data (fun i => c.soil.getD (i / 64) false)

/-- REMOTE_WRITE and REMOTE_READ (R404). -/
def remoteOp (s : State) (j : Job) (write : Bool) : State :=
  let p := part s j
  let n := j.fld 40 4
  let ref := j.fld 24 8
  let dest := ref / 2 ^ 52
  let window := ref / 2 ^ 44 % 256
  let off := ref % 2 ^ 44
  let key : DWord := BitVec.ofNat 64 (j.fld 32 8)
  match firstErr [remoteErr s j, if write then none else regionErr s [wr p (j.va 16) n]] with
  | some e => finish s j.id e
  | none =>
    if dest = moduleNo s then ownAccess s j write window off n key
    else if !reachable s dest then finish s j.id (stLink, dest)
    else withMem s j.id (if write then [rd p (j.va 16) n] else []) (fun t =>
      let cs := cuts (n / 4096 + 2) off n
      let op := t.ol.nextOp
      let dirty := write && soiledAt t p (j.va 16) n
      let u := keepRunning (addRemOp (ranOn t j.id 0x80 0 n) ⟨j.id, op, BitVec.ofNat 12 dest, !write, cs, j.va 16, off, dirty, false⟩) j.id
      cs.foldl (fun v c =>
        let a := j.va 16 + c.1 - off
        let f := ownFrame v 3 (if write then 2 else 3) dest window c.1 key op
        sendPlain v (if write then { f with payload := bytesAt v p a c.2, soil := frameSoil v p a c.2 } else { f with want := c.2 })) u)

/-- REMOTE_WRITE (R404). -/
def execRemoteWrite (id : Nat) (s : State) : Out := runOp s id 0x0A22 (fun j => remoteOp s j true)
/-- REMOTE_READ (R404). -/
def execRemoteRead (id : Nat) (s : State) : Out := runOp s id 0x0A23 (fun j => remoteOp s j false)

/-- Check 9 of REMOTE_PEG_ADD (07 R243). -/
def remotePegErr (s : State) (j : Job) : Option Ending :=
  let ref := j.fld 16 8
  let off := ref % 2 ^ 44
  fields [bad (decide (2 ^ 19 ≤ off) || off % 16 != 0) 16, bad (ref / 2 ^ 44 % 256 != 0) 21, bad (grpNamed s (part s j) (j.fld 32 2)).isNone 32,
    rsvd j 34 56]

/-- REMOTE_PEG_ADD (07 R213, R243, R244). -/
def execRemotePegAdd (id : Nat) (s : State) : Out :=
  runOp s id 0x080A (fun j =>
    let ref := j.fld 16 8
    let dest := ref / 2 ^ 52
    let off := ref % 2 ^ 44
    let v : DWord := BitVec.ofNat 64 (j.fld 24 8)
    let x := grpNamed s (part s j) (j.fld 32 2)
    match remotePegErr s j, x with
    | some e, _ => finish s id e
    | none, none => s
    | none, some (_, g) =>
      if !g.members.contains (dest + 4096 * (off / 2 ^ 16)) then finish s id (stAccess, 0)
      else if dest = moduleNo s then finish (addPeg s (off / 2 ^ 16) (off % 2 ^ 16 / 16) v) id (stDone, 0)
      else if !reachable s dest then finish s id (stLink, dest)
      else
        let op := s.ol.nextOp
        let f := ownFrame s 0 7 dest 0 off g.key op
        sendFrame (keepRunning (addRemOp s ⟨id, op, BitVec.ofNat 12 dest, false, [(off, 0)], 0, 0, false, false⟩) id) f
          (fun f => .pegAdd (BitVec.ofNat 12 dest) g.gid g.epoch f v))

/-! ## Frames that arrive (R385, R387, R388, R397-R399) -/

/-- The model's own number under which accesses of frames from port pt wait on pages. -/
def landJob (pt : Nat) : Nat := 2 ^ 64 + pt

/-- Count a rejected frame on port pt; more than REJECT_LIMIT in a Stitch millisecond quarantine the port (R398). -/
def rejectOn (s : State) (pt : Nat) : State :=
  let ms := s.now.toNat / 10 ^ 6
  let x := portOf s pt
  let n := if x.rejMs = ms then x.rejN + 1 else 1
  let t := setPort (countReject s pt) pt { x with rejMs := ms, rejN := n }
  let limit := rfield s (rPort pt + 8) 16 16
  if limit ≠ 0 ∧ limit < n ∧ isUp t pt then quarantine t pt 4 else t

/-- A frame fails check `code` of R397. -/
def rejectFrame (s : State) (pt : Nat) (fr : Frame) (code : Nat) : State :=
  let s1 := setStain s (rOlStain pt) 5
  let s2 := if fr.vc = 1 ∨ fr.vc = 2 ∨ fr.typ = 7 then refuseCe s1 else s1
  let s3 := if fr.vc = 3 then
      let f := ownFrame s2 3 5 fr.src.toNat fr.window.toNat fr.offset.toNat 0 fr.op
      sendFrame s2 f (fun f => .refusal 0 f code)
    else s2
  rejectOn s3 pt

/-- The answer to a frame: an acknowledgement (type 6) or a read response (type 4). -/
def answerFrame (s : State) (fr : Frame) (typ : Fin 16) (payload : List Byte) (soil : DWord) : State :=
  sendPlain s { ownFrame s fr.vc typ fr.src.toNat fr.window.toNat fr.offset.toNat 0 fr.op with payload := payload, soil := soil }

/-- A write lands, or a read is answered, through this module's window (R397, R403, R404). -/
def landWindow (s : State) (pt : Nat) (fr : Frame) (write : Bool) : State :=
  let n := if write then fr.payload.length else fr.want
  match windowErr s fr.window.toNat fr.key fr.src.toNat fr.offset.toNat n write with
  | some c => rejectFrame s pt fr c
  | none =>
    match windowSpan s fr.window.toNat fr.offset.toNat n write with
      | [] => s
      | x :: _ =>
        withMemOr s (landJob pt) [x] (fun _ _ => rejectFrame (dropWaits s (landJob pt)) pt fr 4) (fun t =>
          if fr.window.toNat ≤ 0x40 then touchGrp (putPayload t x.place x.addr fr) (fr.window.toNat - 1)
          else if write then answerFrame (putPayload t x.place x.addr fr) fr 6 [] 0
          else answerFrame t fr 4 (bytesAt t x.place x.addr n) (frameSoil t x.place x.addr n))

/-- The partition of the descriptor that runs remote operation o. -/
def opPart (s : State) (o : RemOp) : Nat := match job? s o.job with
  | some j => part s j
  | none => 0

/-- Remote operation o has one frame less to be answered; the last ends it (R404). -/
def answered (s : State) (o : RemOp) (off : Nat) (dirty : Bool) : State :=
  let o1 := { o with left := o.left.filter (fun e => e.1 != off), soiled := o.soiled || dirty }
  if o1.left.isEmpty then finish (dropRemOp s o.op) o.job (if o1.stop then (stAborted, 0) else doneOf o1.soiled 0)
  else { s with ol := { s.ol with ops := s.ol.ops.map (fun q => if q.op = o.op then o1 else q) } }

/-- A read response, a refusal or an acknowledgement reaches the operation that it belongs to (R404). -/
def landAnswer (s : State) (fr : Frame) (kind code : Nat) : State :=
  match remOp s fr.op with
  | none => s
  | some o =>
    let off := fr.offset.toNat
    if o.dest ≠ fr.src ∨ !o.left.any (fun e => e.1 == off) then s
    else if kind = 3 then
      (if o.stop then answered s o off false
       else finish (dropRemOp s o.op) o.job (stAccess, code + fr.src.toNat * 2 ^ 16))
    else if kind = 2 then
      let x := wr (opPart s o) (o.la + off - o.ro) fr.payload.length
      withMemOr s o.job [x] (fun k i => tierFail (dropRemOp s o.op) o.job [x] k i)
        (fun t => answered (putPayload t x.place x.addr fr) o off (fr.soil != 0))
    else answered s o off false

/-- A peg addition reaches this module (07 R213). -/
def landPegAdd (s : State) (pt : Nat) (e : Early) : State :=
  let off := e.fr.offset.toNat
  let p := off / 2 ^ 16
  if !ready s then rejectFrame s pt e.fr 1 else
  match (List.range 64).filterMap (fun g => (grpOf s g).bind (fun x => if x.gid = e.gid ∧ x.epoch = e.epoch then some x else none)) with
  | [] => rejectFrame s pt e.fr 2
  | xs =>
    if !xs.any (fun x => x.key == e.fr.key) then rejectFrame s pt e.fr 2
    else if !xs.any (fun x => x.members.any (fun m => entryModule m == e.fr.src.toNat)) then rejectFrame s pt e.fr 3
    else if 2 ^ 19 ≤ off ∨ off % 16 ≠ 0 then rejectFrame s pt e.fr 4
    else answerFrame (addPeg s p (off % 2 ^ 16 / 16) e.v) e.fr 6 [] 0

/-- A frame of the collective engine reaches this module (07 R208, R211, R212, R220, R230). -/
def landCe (s : State) (pt : Nat) (fr : Frame) (b : CeBody) : State :=
  match b with
  | .join q gid epoch hash => if ready s then landJoin s gid epoch (fr.src.toNat + 4096 * q.val) hash else s
  | .first h index sig =>
    (match firstCode s fr h index, ceSlot s h with
     | some c, _ => rejectFrame s pt fr c
     | none, some (g, x) => firstFrame s g x h.sender index sig
     | none, none => s)
  | .chunk h ch =>
    (match chunkCode s fr h ch, ceSlot s h with
     | some c, _ => rejectFrame s pt fr c
     | none, some (g, x) => (match x.run with
       | some r => withMemOr s r.job [chunkSpan x r ch] (fun _ _ => rejectFrame s pt fr 4) (fun t => landChunk t g x r h.sender ch)
       | none => s)
     | none, none => s)
  | .grant h d step =>
    (match grantCode s fr h d.val step, ceSlot s h with
     | some c, _ => rejectFrame s pt fr c
     | none, some (g, _) => landGrant s g d.val
     | none, none => s)

/-- A frame in its place is forwarded, or acted on (R385, R394, R397). Kinds: 0 write, 1 read request, 2 read response, 3 refusal, 4
acknowledgement, 5 peg addition, 6 a frame of the collective engine. -/
def deliverFrame (s : State) (pt : Nat) (e : Early) : State :=
  let fr := e.fr
  if fr.dest.toNat ≠ moduleNo s then
    let t := portCount s pt 5 1
    if e.kind = 3 then sendFrame t fr (fun f => .refusal 0 f e.code)
    else if e.kind = 5 then sendFrame t fr (fun f => .pegAdd f.dest e.gid e.epoch f e.v)
    else if e.kind = 6 then (match e.body with
      | some b => sendFrame t fr (fun f => .ce 0 f b)
      | none => t)
    else sendPlain t fr
  else if e.kind = 0 then landWindow s pt fr true
  else if e.kind = 1 then landWindow s pt fr false
  else if e.kind = 5 then landPegAdd s pt e
  else if e.kind = 6 then (match e.body with
    | some b => landCe s pt fr b
    | none => s)
  else landAnswer s fr e.kind e.code

/-- The bytes that a frame would read or write here, and the number under which it waits. -/
def frameSpans (s : State) (pt : Nat) (e : Early) : Nat × List Span :=
  let fr := e.fr
  if fr.dest.toNat ≠ moduleNo s then (landJob pt, [])
  else if e.kind = 0 then (landJob pt, windowSpan s fr.window.toNat fr.offset.toNat fr.payload.length true)
  else if e.kind = 1 then (landJob pt, windowSpan s fr.window.toNat fr.offset.toNat fr.want false)
  else if e.kind = 2 then
    match remOp s fr.op with
    | some o => (o.job, [wr (opPart s o) (o.la + fr.offset.toNat - o.ro) fr.payload.length])
    | none => (landJob pt, [])
  else match e.body with
    | some (.chunk h ch) => (match chunkCode s fr h ch, ceSlot s h with
      | none, some (_, x) => (match x.run with
        | some r => (r.job, [chunkSpan x r ch])
        | none => (landJob pt, []))
      | _, _ => (landJob pt, []))
    | _ => (landJob pt, [])

/-- Whether a frame here waits on a page, and the waits to note. -/
def frameWaits (s : State) (pt : Nat) (e : Early) : Option (List TierWait) :=
  let x := frameSpans s pt e
  match (tierSays s x.1 x.2).1 with
  | .wait ws => some ws
  | _ => none

/-- Frames of a VC of the hop that come next in pair sequence from `q` on, among those kept (R385); `fuel` bounds them. -/
def inTurn (l : List Early) (vc : Fin 4) : Nat → BitVec 16 → List Early
  | 0, _ => []
  | fuel + 1, q => match l.find? (fun e => e.fr.vc == vc && e.fr.pairSeq == q) with
    | some e => e :: inTurn l vc fuel (q + 1)
    | none => []

/-- Whether a frame stays in its buffer: a chunk or a grant for a member whose partition is suspended (07 R233). -/
def staysHeld (s : State) (e : Early) : Bool :=
  e.fr.dest.toNat == moduleNo s && (match e.body with
    | some (.chunk h _) | some (.grant h _ _) => (ceSlot s h).any (fun x => suspended s x.2.p)
    | _ => false)

/-- A frame's buffer on the port that it came on is free, and its credit is owed (R387); a frame of this module itself took none. -/
def freeBuffer (s : State) (e : Early) : State :=
  if e.fr.src.toNat = moduleNo s then s else modPort s e.pt (fun x => { x with owed := modAt x.owed e.fr.vc.val (· + 1) })

/-- A frame whose turn has come leaves its buffer and is delivered, or stays in it. -/
def takeFrame (s : State) (e : Early) : State :=
  if staysHeld s e then modPort s e.pt (fun x => { x with stalled := x.stalled ++ [e] })
  else deliverFrame (freeBuffer s e) e.pt e

/-- The payload rate of port pt in bytes for each ns (R383): of its active lanes, 0.8 TB/s raw less headers, CRC and FEC. -/
def portRate (s : State) (pt : Nat) : Rat := 800 * (4096 / 4132) * (514 / 544) * (laneCount (portOf s pt).rxAct : Rat) / 16

/-- VCG payload that port pt accepts uses up VCG_LIMIT for a while (R398); a limit of 16 sixteenths withholds nothing. -/
def limitVcg (s : State) (pt : Nat) (fr : Frame) : State :=
  let k := rfield s (rPort pt + 8) 0 5
  if fr.vc ≠ 3 ∨ 16 ≤ k then s
  else modPort s pt (fun x => { x with vcgUntil := max x.vcgUntil s.now.toNat + (fr.payload.length * 16 / (portRate s pt * k)).ceil.toNat })

/-- A frame arrives (R385, R387, R388, R399): out of link sequence it is discarded with a negative acknowledgement, without a credit it
is rejected, ahead of its pair sequence it is kept, else it and those kept behind it are taken. The row is not taken while one of them
waits on a page. -/
def arriveFrame (s : State) (e : Early) : State :=
  let pt := e.pt
  let x := portOf s pt
  let vc := e.fr.vc
  let even := pt / 2 * 2
  let early := (portOf s even).early
  let want := (portOf s even).pairIn.getD vc.val 0
  let kept (l : List Early) : Nat := (l.filter (fun f => f.pt == pt && f.fr.vc == vc)).length
  if portState s pt = 4 then countReject s pt
  else if !isUp s pt then s
  else if e.fr.linkSeq ≠ x.expect then
    (if (x.expect - e.fr.linkSeq).toNat ≤ 256 then s else send s (.nak pt x.expect.toNat))
  else
    let got := modPort s pt (fun x => { x with expect := x.expect + 1, lastRx := s.now })
    let took := limitVcg (portCount got pt 4 (e.fr.payload.length + (e.body.map ceBytes).getD 0)) pt e.fr
    if vcBuffers.getD vc.val 0 ≤ x.owed.getD vc.val 0 + kept early + kept x.stalled then rejectOn got pt
    else if e.fr.pairSeq ≠ want then
      (if (want - e.fr.pairSeq).toNat < 2 ^ 15 then freeBuffer took e
       else modPort took even (fun h => { h with early := h.early ++ [e] }))
    else
      let run := e :: inTurn early vc early.length (want + 1)
      let waits := (run.filter (fun f => !staysHeld s f)).filterMap (fun f => frameWaits s f.pt f)
      if !waits.isEmpty then addWaits s waits.flatten
      else
        run.foldl takeFrame (modPort took even (fun h => { h with
          early := h.early.filter (fun f => !run.contains f)
          pairIn := modAt h.pairIn vc.val (· + BitVec.ofNat 16 run.length) }))

/-- Frames that stayed in their buffers are taken once their partition runs and their pages are there (07 R233). -/
def takeHeld (s : State) : State :=
  (List.range 16).foldl (fun t pt =>
    let fs := (portOf t pt).stalled
    fs.foldl (fun u e => if !staysHeld u e && (frameWaits u e.pt e).isSome then modPort u pt (fun x => { x with stalled := x.stalled ++ [e] })
      else takeFrame u e) (modPort t pt (fun x => { x with stalled := [] }))) s

/-- The operations of partition p go on where they stopped (07 R233). -/
def resumeCe (s : State) (p : Nat) : State :=
  if suspended s p then s
  else (List.range 64).foldl (fun t g => match grpOf t g with
    | some x => (match x.run with
      | some r => if x.p ≠ p then t else if r.spin.isSome then pumpSpin t g else if r.stage ≠ 0 then pumpBarrier t g else t
      | none => t)
    | none => t) (takeHeld s)

/-- A write of w to HP_PART_CTRL(p) with what it lets go on (01 R20, 07 R233). -/
def partWrite (s : State) (p : Nat) (w : Word) : State := resumeCe (partCtrl s p w) p

/-- PART_SUSPEND (01 R20). -/
def execPartSuspend (p : Fin 8) (v : Word) (s : State) : Out := runIf s (ready s) (partWrite s p.val (v ||| 1))

/-- PART_RESUME (01 R20). -/
def execPartResume (p : Fin 8) (v : Word) (s : State) : Out := runIf s (ready s) (partWrite s p.val (v &&& 0xFFFFFFFE))

/-- A frame of the collective engine comes on port pt: one of this module itself, which left on no port, at once. -/
def arriveCe (s : State) (pt : Nat) (fr : Frame) (b : CeBody) : State :=
  let e : Early := ⟨pt, fr, 6, 0, 0, 0, 0, some b⟩
  if fr.src.toNat = moduleNo s ∧ fr.dest.toNat = moduleNo s then
    (if !staysHeld s e && (frameWaits s pt e).isSome then addWaits s ((frameWaits s pt e).getD []) else takeFrame s e)
  else arriveFrame s e

/-- JOIN_FRAME_RECEIVE (07 R208). -/
def execJoinFrameReceive (pt : Fin 16) (fr : Frame) (q : Fin 8) (g : GroupName) (hash : BitVec 128) (s : State) : Out :=
  .next (arriveCe s pt.val { fr with typ := 7 } (.join q g.gid g.epoch hash))
/-- COLL_FIRST_FRAME (07 R229, R230). -/
def execCollFirstFrame (pt : Fin 16) (fr : Frame) (h : CeHead) (index : Nat) (sig : Word) (s : State) : Out :=
  .next (arriveCe s pt.val { fr with typ := 2 } (.first h index sig))
/-- CHUNK_ARRIVAL (07 R211, R212). -/
def execChunkArrival (x : ChunkFrame) (s : State) : Out :=
  .next (arriveCe s x.pt.val { x.fr with typ := 2 } (.chunk x.head x.chunk))
/-- SPIN_SLOT_GRANT (07 R220). -/
def execSpinSlotGrant (x : GrantEnd) (dir : Fin 2) (step : Nat) (s : State) : Out :=
  .next (match x with
    | .give g => giveGrant s g.val dir.val step
    | .take pt fr h => arriveCe s pt.val { fr with typ := 2 } (.grant h dir step))

/-- FRAME_WRITE (R397). -/
def execFrameWrite (pt : Fin 16) (fr : Frame) (s : State) : Out := .next (arriveFrame s ⟨pt.val, { fr with typ := 2 }, 0, 0, 0, 0, 0, none⟩)
/-- FRAME_READ_REQUEST (R397). -/
def execFrameReadRequest (pt : Fin 16) (fr : Frame) (s : State) : Out := .next (arriveFrame s ⟨pt.val, { fr with typ := 3 }, 1, 0, 0, 0, 0, none⟩)
/-- FRAME_READ_RESPONSE (R404). -/
def execFrameReadResponse (pt : Fin 16) (fr : Frame) (s : State) : Out := .next (arriveFrame s ⟨pt.val, { fr with typ := 4 }, 2, 0, 0, 0, 0, none⟩)
/-- FRAME_REFUSAL (R404). -/
def execFrameRefusal (pt : Fin 16) (fr : Frame) (code : Byte) (s : State) : Out :=
  .next (arriveFrame s ⟨pt.val, { fr with typ := 5 }, 3, code.toNat, 0, 0, 0, none⟩)
/-- FRAME_ACKNOWLEDGEMENT (R404). -/
def execFrameAcknowledgement (pt : Fin 16) (fr : Frame) (s : State) : Out := .next (arriveFrame s ⟨pt.val, { fr with typ := 6 }, 4, 0, 0, 0, 0, none⟩)
/-- REMOTE_PEG_ADD_FRAME (07 R213). -/
def execRemotePegAddFrame (pt : Fin 16) (fr : Frame) (gid : BitVec 16) (epoch : Word) (v : DWord) (s : State) : Out :=
  .next (arriveFrame s ⟨pt.val, { fr with typ := 7 }, 5, 0, gid, epoch, v, none⟩)

end Sys2Proof.Machine
end

