-- ==== Sys2Proof/Machine/Boot.lean ====
section
/-! DEFINITION. Boot, identity, the wiring plan and joining the time base (spec 13). -/

namespace Sys2Proof.Machine

/-! ## Boot states (R412, R420, R486) -/

/-- Enter a boot state. -/
def setBoot (s : State) (st : Nat) : State := wfield s rBootStatus 28 4 st

/-- A failed check (R420): ERROR and DETAIL, BOOT_FAILED, the next state. -/
def bootError (s : State) (code detail st : Nat) : State :=
  setStain (setBoot (wfield (wfield s rBootStatus 16 8 code) rBootStatus 0 16 (sat 65535 detail)) st) rTcStain 2

/-- Every port goes dark: nothing that it held is left (R392, 12 R408). -/
def portsDark (s : State) : State :=
  (List.range 16).foldl (fun t pt => setPort (setPortState t pt 0 0) pt port0) { s with boot := { s.boot with litAt := none } }

/-- The boot stops in FAILED with its ports dark. -/
def bootFail (s : State) (code detail : Nat) : State := portsDark (bootError s code detail 8)

/-- Whether any port's outcome is a difference (R429). -/
def anyDiff (s : State) : Bool := (List.range 16).any (fun pt => decide (3 ≤ rfield s (rDiscPort pt) 28 4))

/-- READY, once HBM is trained, the discovery window has closed and the counter is locked or alone (R421, R430). -/
def tryReady (s : State) : State :=
  if bootState s = 6 ∧ s.boot.hbmDone ∧ s.boot.discClosed ∧ s.boot.joined then stainIf (anyDiff s) (setBoot s 7) rTcStain 0 else s

/-- BOOT_START (R412): PWR_GOOD is asserted and PERST_N deasserted; the Stitch counter starts from 0. -/
def execBootStart (s : State) : Out :=
  runIf s (s.pw.pwrGood && s.pw.perst) { s with now := 0, pw := { s.pw with perst := false } }

/-- Whether a boot runs. -/
def booting (s : State) : Bool := s.pw.pwrGood && !s.pw.perst

/-- STRAPS_DONE (R12, R413). -/
def execStrapsDone (raw : BitVec 13) (s : State) : Out :=
  let n := raw.toNat
  let odd := ((List.range 13).filter (raw.getLsbD ·)).length % 2 == 1
  runIf s (booting s && bootState s == 0)
    (if odd then setBoot (wreg s rStraps (BitVec.ofNat 32 (3 * 2 ^ 30 + n % 4096 * 2 ^ 16 + n))) 1
     else portsDark (bootError (wreg s rStraps (BitVec.ofNat 32 (2 ^ 31 + n))) 1 n 9))

/-- GO (R415, R420): the write also gives COMMIT_SVN its value. -/
def execGo (v : Word) (s : State) : Out :=
  let t := wreg s rBootCtrl (v &&& 2)
  runIf s (booting s) (if bootState s = 1 then setBoot (wfield (wfield t rBootStatus 16 8 0) rBootStatus 0 16 0) 2 else t)

/-! ## The firmware image (R416, R417) -/

/-- Bytes o to o + n - 1 of a list, as a number. -/
def numOf (bs : List Byte) (o n : Nat) : Nat := ofLe ((bs.drop o).take n)

/-- The first byte of a list that is not 0 from offset a up to b. -/
def firstSet (bs : List Byte) (a b : Nat) : Option Nat :=
  ((((bs.take b).drop a).zipIdx a).find? (fun e => e.1 != 0)).map (fun e => e.2)

/-- Bytes of an image's signature. -/
def sigBytes : Nat := 29792

/-- The lowest byte of an image that breaks R416. -/
def imageFormat (img : List Byte) (len : Nat) : Option Nat :=
  let n := numOf img 6 2
  let sec (i : Nat) : Nat × Nat × Nat := (numOf img (256 + 16 * i) 1, numOf img (260 + 16 * i) 4, numOf img (264 + 16 * i) 4)
  let secs := (List.range (min n 16)).map sec
  let tops := len - sigBytes
  ([bad (numOf img 0 4 != 0x5746544C) 0, bad (numOf img 4 2 != 1) 4,
    bad (n == 0 || decide (16 < n) || !([1, 2, 3].all (fun k => secs.any (fun e => e.1 == k)))) 6,
    bad (len != numOf img 8 4 || decide (len < 4096) || decide (2 ^ 26 < len) || decide (len < sigBytes)) 8,
    bad (decide (64 < numOf img 12 4)) 12, bad (decide (numOf img 12 4 < numOf img 16 4)) 16, bad (decide (3 < numOf img 20 1)) 20,
    firstSet img 21 24, firstSet img 96 256, firstSet img (256 + 16 * min n 16) 512] ++
  (List.range (min n 16)).flatMap (fun i =>
    let o := 256 + 16 * i
    let e := sec i
    [bad (e.1 == 0 || decide (5 < e.1)) o, firstSet img (o + 1) (o + 4),
      bad (decide (e.2.1 < 512) || decide (tops < e.2.1 + e.2.2) || (secs.take i).any (fun f => overlap f.2.1 f.2.2 e.2.1 e.2.2)) (o + 4)])
  ).filterMap id |>.min?

/-- The public key of an image. -/
def imageKey (img : List Byte) : List Byte := (img.drop 24).take 64

/-- The error and detail of an image that fails R417. -/
def imageErr (s : State) (img : List Byte) (len : Nat) : Option (Nat × Nat) :=
  let k := numOf img 20 1
  let d : Digest := BitVec.ofNat 512 (ofLe (shake256 64 (imageKey img)))
  let ctx : List Byte := "LIASTIN-FW".toList.map (fun c => BitVec.ofNat 8 c.toNat)
  let fused := s.boot.fuseSvn.toNat % 128
  match imageFormat img len with
  | some o => some (3, o)
  | none =>
    if Config.keyDigest (Fin.ofNat 4 k) ≠ d ∨ bitOf s.boot.fuseSvn.toNat (8 + k) then some (4, k)
    else if !Config.slhVerify256s (imageKey img) (img.take (len - sigBytes)) ctx (img.drop (len - sigBytes)) then some (5, 0)
    else if numOf img 12 4 < fused then some (6, fused) else none

/-- The lowest byte of a boot record that breaks R418 or R419. -/
def recordErr (r : List Byte) : Option Nat :=
  let t := numOf r 16 2
  ([bad (numOf r 0 2 != 1) 0, firstSet r 2 8, bad (t % 256 == 255) 16,
    bad (bitsOf t 8 4 == 15 || decide (3 ≤ ((List.range 4).filter (fun i => bitOf t (12 + i))).length)) 17,
    firstSet r 18 64]).filterMap id |>.min?

/-! ## The wiring plan (R425, R426, R428) -/

/-- Whether a plan breaks the format of R425. -/
def planFormat (b : List Byte) : Bool :=
  let nu := numOf b 6 1
  let nv := numOf b 7 1
  numOf b 0 4 != 0x5057544C || numOf b 4 2 != 1 || nu == 0 || decide (8 < nu) || nv == 0 || decide (16 < nv) ||
  b.length != 64 + 1024 * nu * nv || (firstSet b 16 64).isSome ||
  (List.range (32 * nu * nv)).any (fun m =>
    let o := 64 + 32 * m
    decide (1 < numOf b (o + 16) 1) || (firstSet b (o + 17) (o + 20)).isSome || (firstSet b (o + 22) (o + 32)).isSome)

/-- The check code of a refused plan (R426). -/
def planErr (s : State) (b : List Byte) : Option Nat :=
  let m := moduleNo s
  let o := 64 + 32 * m
  if planFormat b then some 1
  else if 32 * numOf b 6 1 * numOf b 7 1 ≤ m then some 2
  else if numOf b (o + 16) 1 = 0 then some 3
  else if (b.drop o).take 16 ≠ fingerprint identityKey then some 4 else none

/-- Store measurement m (R423). -/
def measure (s : State) (m : Nat) (bs : List Byte) : State :=
  let d := shake256 64 bs
  (List.range 16).foldl (fun t w => wreg t (rMeas m + 4 * w) (BitVec.ofNat 32 (numOf d (4 * w) 4))) s

/-- M4: NumVFs, then the partitions' dies (R423). -/
def measurePart (s : State) : State :=
  measure s 4 (leBytes 1 s.hp.numVfs ++ (List.range 8).flatMap (fun p => leBytes 1 (diesOf s p)))

/-- Put a plan in force, measured as M2. -/
def setPlan (s : State) (b : List Byte) : State := measure { s with boot := { s.boot with plan := some ⟨b⟩ } } 2 b

/-- Ports of a dimension of size 1 are DISABLED, and no longer where the plan gives the dimension more (R427, 12 R407). -/
def sizePort (s : State) (pt : Nat) : State :=
  if portReal s pt then
    (if portState s pt = 5 ∧ rfield s (rPort pt + 4) 0 1 = 0 then setPortState s pt 0 0 else s)
  else if portState s pt = 5 then s
  else setPortState (if portState s pt = 0 then s else portDown s pt) pt 5 0

/-- Port pt is held against a new plan (R428, R429). -/
def reevaluate (s : State) (pt : Nat) : State :=
  let t := sizePort s pt
  if isUp t pt then
    match (portOf t pt).hello.bind (planFault t pt) with
    | some r => quarantine t pt r
    | none => noteOutcome t pt
  else noteOutcome t pt

/-- Whether a PLAN_LOAD that began before j still runs (R428). -/
def plansBefore (s : State) (j : Job) : Bool :=
  s.hp.jobs.any (fun k => k.opcode == 0x0A30 && k.phase == .checked && decide (k.order < j.order))

/-- PLAN_LOAD (R428, R432); it waits behind an earlier one and while host memory is out of reach. -/
def execPlanLoad (id : Nat) (plan : Option (List Byte)) (s : State) : Out :=
  runOp s id 0x0A30 (fun j =>
    match rsvd j 28 56 with
    | some o => finish s id (fieldErr o)
    | none =>
      if !hostOpen s (fnOfRing s j.ring) || plansBefore s j then markWaits s id
      else match plan with
        | none => finish s id (fieldErr 16)
        | some b =>
          let s1 := count s 1477 b.length
          if b.length ≠ j.fld 24 4 ∨ (planErr s b).isSome then finish s1 id (fieldErr 16)
          else finish ((List.range 16).foldl reevaluate (setPlan s1 b)) id (stDone, 0))

/-! ## VERIFY to READY (R412, R419-R421, R486) -/

/-- What the host returned of an input of n bytes; none: it failed. -/
def inputOf (x : Option (List Byte)) (n : Nat) : Option (List Byte) := x.bind (fun b => if b.length = n then some b else none)

/-- BOOT_INPUTS_FETCHED (R415-R420, R423, R426). -/
def execBootInputsFetched (image record plan : Option (List Byte)) (s : State) : Out :=
  let len := (rreg s rImgLen).toNat
  let noRec := rreg s rRecAddr == 0 && rreg s (rRecAddr + 4) == 0
  let rec' := if noRec then some (List.replicate 64 0) else inputOf record 64
  runIf s (booting s && bootState s == 2)
    (match inputOf image len, rec', inputOf plan (rreg s rPlanLen).toNat with
     | none, _, _ => bootError s 2 1 1
     | _, none, _ => bootError s 2 2 1
     | _, _, none => bootError s 2 3 1
     | some i, some r, some b =>
       match imageErr s i len with
       | some (c, d) => setStain (bootError s c d 1) rTcStain 1
       | none =>
         let fused := s.boot.fuseSvn.toNat % 128
         let s1 := if rfield s rBootCtrl 1 1 = 1 ∧ fused < numOf i 16 4 then
             { s with boot := { s.boot with fuseSvn := putBits s.boot.fuseSvn 0 7 (numOf i 16 4) } } else s
         match if noRec then none else recordErr r, planErr s b with
         | some o, _ => bootError s1 7 o 1
         | none, some c => bootError s1 8 c 1
         | none, none =>
           let s2 := { s1 with boot := { s1.boot with
             imageSvn := numOf i 12 4, imageFloor := numOf i 16 4, buildId := BitVec.ofNat 64 (numOf i 88 8), record := r, image := i } }
           let s3 := measurePart (measure (measure (measure s2 0 Config.bootRom) 1 i) 3 r)
           setBoot (setPlan s3 b) 3)

/-- The first core of a set in service among `count` cores from `base` on, counting from number i and wrapping (R419). -/
def dutyCore (live base count i : Nat) : Option Nat :=
  ((List.range count).map (fun k => base + (i + k) % count)).find? (bitOf live)

/-- The scheduler core of die d, and the link core of link die d (R419). -/
def schedulerOf (s : State) (d : Nat) : Option Nat := dutyCore (rfield s rThimble 0 16) 0 8 d
def linkCoreOf (s : State) (d : Nat) : Option Nat := dutyCore (rfield s rThimble 0 16) 8 4 d
/-- The hub cores, which share the hub's duties (R419). -/
def hubCores (s : State) : List Nat := ((List.range 4).map (12 + ·)).filter (bitOf (rfield s rThimble 0 16))

/-- The cores that a section of a kind goes to (R416): scheduler, link and hub cores in service, the carrier's controllers. -/
def sectionCores (live kind : Nat) : List Nat :=
  if kind = 5 then (List.range 4).map (16 + ·)
  else ((List.range 16).filter (fun n => (if n < 8 then kind == 1 else if n < 12 then kind == 2 else kind == 3 || kind == 4))).filter (bitOf live)

/-- What LOAD places of an image in the memories of cores in service (R419). -/
def loadSections (img : List Byte) (live : Nat) : List Loaded :=
  (List.range (numOf img 6 2)).flatMap (fun i =>
    let o := 256 + 16 * i
    (sectionCores live (numOf img o 1)).map (fun c => ⟨c, numOf img (o + 12) 4, (img.drop (numOf img (o + 4) 4)).take (numOf img (o + 8) 4)⟩))

/-- BOOT_LOAD_DONE (R419, R486): sections are placed, cores start, counters count, transmitters turn on; a stack known to have failed ends the boot. -/
def execBootLoadDone (s : State) : Out :=
  let r := s.boot.record
  let t := numOf r 16 2
  runIf s (booting s && bootState s == 3)
    (if s.boot.hbmFail ≠ 0 then bootFail s 9 s.boot.hbmFail.toNat
     else
       let s1 := wreg s rThimble (BitVec.ofNat 32 (t * 2 ^ 16 + (65535 - t)))
       let s2 := { s1 with
         boot := { s1.boot with
           retired := BitVec.ofNat 64 (numOf r 8 8)
           litAt := some s1.now
           image := []
           loaded := loadSections s1.boot.image (65535 - t) }
         ob := { s1.ob with counting := true } }
       (List.range 16).foldl sizePort (setBoot s2 4))

/-- Whether BRINGUP is over (R486): every port that is not DISABLED has trained, or 10 ms have passed since LOAD completed. -/
def bringupOver (s : State) : Bool :=
  (List.range 16).all (fun pt => decide (2 ≤ portState s pt)) || s.boot.litAt.any (fun t => decide (t.toNat + 10 ^ 7 ≤ s.now.toNat))

/-- BRINGUP_DONE (R486). -/
def execBringupDone (s : State) : Out := runIf s (bootState s == 4 && bringupOver s) (setBoot s 5)

/-- HBM_TRAINING_DONE (R420, R421, R486). -/
def execHbmTrainingDone (x : Training) (s : State) : Out :=
  let failed := x.failed
  let st := bootState s
  let t := (x.spares.take 12).zipIdx.foldl (fun t e => wfield t (rHm e.2) 16 8 e.1.toNat) s
  runIf s (booting s && !s.boot.hbmDone && s.boot.hbmFail == 0 && decide (st ≤ 6))
    (if failed ≠ 0 then
       (if st ≤ 3 then { t with boot := { t.boot with hbmFail := failed } } else bootFail t 9 failed.toNat)
     else tryReady { t with boot := { t.boot with hbmDone := true } })

/-- SELFTEST_DONE (R420). -/
def execSelftestDone (failure : Option (Bool × Fin 16)) (s : State) : Out :=
  .next (match failure with
    | none => s
    | some (thimble, n) =>
      if booting s && decide (bootState s ≤ 6) then bootFail s 0x0A ((if thimble then 256 else 0) + n.val) else s)

/-- Whether every planned port is UP (R429). -/
def plannedUp (s : State) : Bool := (List.range 16).all (fun pt => !planned s pt || isUp s pt)

/-- DISCOVERY_WINDOW_CLOSE (R429, R486): the window closes and ports get their outcomes; once no port is training or authenticating, the
boot enters JOIN. -/
def execDiscoveryWindowClose (s : State) : Out :=
  let past := match s.boot.litAt with
    | some t => decide (t.toNat + rfield s rDiscCfg 0 16 * 10 ^ 6 ≤ s.now.toNat)
    | none => false
  runIf s (bootState s == 5 && (s.boot.discClosed || past || plannedUp s))
    (let t := if s.boot.discClosed then s else
       (List.range 16).foldl noteOutcome { s with boot := { s.boot with discClosed := true } }
     if (List.range 16).any (fun pt => portState t pt == 1 || portState t pt == 2) then t
     else setBoot { t with boot := { t.boot with joinAt := t.now } } 6)

/-! ## Joining (R431) -/

/-- STITCH_LOCK (R431): the counter steps once. -/
def execStitchLock (t : DWord) (s : State) : Out :=
  let step : Int := ((t.toNat : Int) - s.now.toNat) * 64
  let adverts := s.ob.adverts.map (fun e => (e.1, e.2.map (fun a => { a with at' := t, theta := a.theta - step })))
  runIf s (bootState s == 6 && !s.boot.joined && (bestAdvert s).isSome)
    (tryReady (setNow { s with boot := { s.boot with joined := true }, ob := { s.ob with adverts := adverts } } t))

/-- JOIN_TIMEOUT (R431): without an UP port, or after 100 ms, the module declares itself alone. -/
def execJoinTimeout (s : State) : Out :=
  runIf s (bootState s == 6 && !s.boot.joined && ((upPorts s).isEmpty || decide (s.boot.joinAt.toNat + 10 ^ 8 ≤ s.now.toNat)))
    (tryReady (setStain { s with boot := { s.boot with joined := true } } rTcStain 3))

/-! ## Attestation (R422-R424) -/

/-- The body of a report for the function that issued descriptor j (R424). -/
def reportBody (s : State) (j : Job) : List Byte :=
  let i := stitchInfo s
  let p := partOfRing s j.ring
  let key := match p with
    | some q => (keyOf s q).isSome
    | none => false
  let bit (b : Bool) (k : Nat) : Nat := if b then 2 ^ k else 0
  let meas := (List.range 5).flatMap (fun m => (List.range 16).flatMap (fun w => leBytes 4 (rreg s (rMeas m + 4 * w)).toNat))
  let ports := ((List.range 16).map (fun pt => portState s pt * 2 ^ (4 * pt))).sum
  leBytes 2 1 ++ leBytes 2 512 ++ leBytes 2 (moduleNo s) ++ leBytes 1 (p.getD 255) ++
  leBytes 1 (bit i.locked 0 + bit i.alone 1 + bit (anyDiff s) 2 + bit key 3) ++ leBytes 8 s.now.toNat ++ leBytes 32 (j.fld 24 32) ++
  (identityKey ++ List.replicate 64 0).take 64 ++ meas ++ leBytes 4 (s.boot.fuseSvn.toNat % 128) ++ leBytes 4 s.boot.imageSvn ++
  leBytes 8 s.boot.buildId.toNat ++ leBytes 8 s.boot.retired.toNat ++ leBytes 2 (rfield s rThimble 16 16) ++ leBytes 2 0 ++
  leBytes 8 ports ++ List.replicate 44 0

/-- A report: its body and the 49,856 bytes of its signature. -/
def report (s : State) (j : Job) : List Byte :=
  let b := reportBody s j
  let ctx : List Byte := "LIASTIN-ATTEST".toList.map (fun c => BitVec.ofNat 8 c.toNat)
  b ++ (Config.slhSign256f identitySeeds b ctx ++ List.replicate 49856 0).take 49856

/-- ATTEST (R424, R432); it waits while host memory is out of reach. -/
def execAttest (id : Nat) (s : State) : Out :=
  runOp s id 0x0A31 (fun j =>
    let f := fnOfRing s j.ring
    if !aligned (j.fld 16 8) 64 then finish s id (fieldErr 16)
    else if !hostOpen s f then markWaits s id
    else
      let t := measurePart s
      finish (hostPut t f (j.fld 16 8) (report t j) false) id (stDone, 0))

end Sys2Proof.Machine
end

