-- ==== Sys2Proof/Machine/Observe.lean ====
section
/-! DEFINITION. Snapshots, tags, the Stain log, Fray, darns and job aborts of spec 14. -/

namespace Sys2Proof.Machine

/-! ## Snapshots (R443-R445) -/

/-- SNAPSHOT (R443-R445): it ends when the slot that it triggered as it began has latched. -/
def execSnapshot (id : Nat) (s : State) : Out :=
  runOp s id 0x0B00 (fun j =>
    match snapshotErr j j.beginAt with
    | some e => finish s id e
    | none => if (snapOf s (j.fld 24 2 % 4)).jobs.contains id then keepRunning s id else finish s id (fieldErr 24))

/-- SNAPSHOT_LATCH (R443): at T the slot becomes VALID and the descriptors that wait for it end. -/
def execSnapshotLatch (k : Fin 4) (s : State) : Out :=
  let x := snapOf s k.val
  let y := if x.caught then x else catchSnap s x
  runIf s (x.state == 1 && decide (x.t.toNat ≤ s.now.toNat))
    (x.jobs.foldl (fun u id => finish u id (stDone, 0)) (setSnap s k.val { y with state := 2, jobs := [] }))

/-- SNAPSHOT_TRIGGER (R444, R445). -/
def execSnapshotTrigger (pt : Fin 16) (origin : BitVec 12) (num : Word) (t : DWord) (sid : BitVec 16) (s : State) : Out :=
  let n := sid.toNat
  .next (takeCast s pt.val origin num (.snapshot t n) (fun u =>
    let x := snapOf u (n % 4)
    if snapClash x n t then setStain u rObStain 3
    else if x.state ≠ 0 ∧ x.sid = n ∧ x.t = t then u
    else if t.toNat ≤ u.now.toNat then setStain (setSnap u (n % 4) ⟨3, n, t, [], false, [], []⟩) rObStain 2
    else addTrigger u n t []))

/-- The 12,288 counter bytes of a slot. -/
def snapBytes (x : Snap) : List Byte := (List.range 1536).flatMap (fun i => leBytes 8 (tget dw0 x.counters (rCounter i)).toNat)

/-- Check 9 of SNAPSHOT_READ (R459). -/
def snapshotReadErr (s : State) (j : Job) : Option Ending :=
  let x := snapOf s (j.fld 24 1 % 4)
  fields [bad (!aligned (j.fld 16 8) 64) 16, bad (j.bits 24 2 6 != 0 || x.state != 2) 24, rsvd j 25 56]

/-- SNAPSHOT_READ (R443, R459); it waits while host memory is out of reach. -/
def execSnapshotRead (id : Nat) (s : State) : Out :=
  runOp s id 0x0B01 (fun j =>
    let x := snapOf s (j.fld 24 1 % 4)
    let f := fnOfRing s j.ring
    match snapshotReadErr s j with
    | some e => finish s id e
    | none => if hostOpen s f then finish (hostPut s f (j.fld 16 8) (x.header ++ snapBytes x) false) id (stDone, 0) else markWaits s id)

/-! ## Tags and the Stain log (R441, R442, R447) -/

/-- Check 9 of TAG_DRAIN (R458). -/
def tagDrainErr (j : Job) : Option Ending :=
  let n := j.fld 24 2
  fields [bad (!aligned (j.fld 16 8) 64) 16, bad (n == 0 || decide (1024 < n)) 24, rsvd j 26 56]

/-- TAG_DRAIN (R442, R458); it waits while host memory is out of reach. -/
def execTagDrain (id : Nat) (s : State) : Out :=
  runOp s id 0x0B02 (fun j =>
    let n := j.fld 24 2
    let f := fnOfRing s j.ring
    match tagDrainErr j with
    | some e => finish s id e
    | none =>
      if !hostOpen s f then markWaits s id
      else
        let rs := (s.ob.tags.filter (·.done)).take n
        let t := hostPut s f (j.fld 16 8) (leBytes 8 rs.length ++ rs.flatMap (·.bytes)) false
        finish { t with ob := { t.ob with tags := t.ob.tags.filter (fun r => !rs.contains r) } } id (stDone, 0))

/-- OB_TAG_CFG_WRITE (R441, R460): a seed of 0 reads 1; the sequence starts from the seed. -/
def execObTagCfgWrite (v : Word) (s : State) : Out :=
  let seed := if bitsOf v.toNat 16 16 = 0 then 1 else bitsOf v.toNat 16 16
  let t := wreg s rTagCfg (putBits v 16 16 seed)
  runIf s (ready s) { t with ob := { t.ob with lfsr := BitVec.ofNat 32 seed } }

/-- STAIN_LOG_CLEAR (R447). -/
def execStainLogClear (s : State) : Out := runIf s (ready s) { s with ob := { s.ob with log := [], overflow := false } }

/-! ## Fray (R448-R450, 15 R480) -/

/-- What an EEPROM byte that nothing has written holds (15 R480): what manufacture wrote, as far as the spec states it. -/
def eeprom0 (a : Nat) : Byte :=
  let model : List Byte := "LT9X-768-LC".toList.map (fun c => BitVec.ofNat 8 c.toNat)
  if 0x9000 ≤ a then 0
  else if a < 5 then ([0x46, 0x46, 0x52, 0x55, 1] : List Byte).getD a 0
  else if 0x40 ≤ a ∧ a < 0x50 then model.getD (a - 0x40) 0
  else if 0x100 ≤ a ∧ a < 0x140 then identityKey.getD (a - 0x100) 0
  else if 0x140 ≤ a ∧ a < 0x150 then (fingerprint identityKey).getD (a - 0x140) 0
  else if 0x150 ≤ a ∧ a < 0x160 then Config.eepromFactory (a - 0x100)
  else if 0x160 ≤ a ∧ a < 0x170 then model.getD (a - 0x160) 0
  else if 0x170 ≤ a ∧ a < 0x178 then Config.eepromFactory (a - 0x110)
  else Config.eepromFactory a

/-- Store EEPROM bytes. -/
def putEeprom (s : State) (a : Nat) (bs : List Byte) : State := { s with pw := { s.pw with eeprom := tsetMany eeprom0 s.pw.eeprom a bs } }

/-- Where the wear area keeps unit u (15 R480): a header with the age in hours, then 90 samples (notes/assumptions/119.md). -/
def wearBase (u : Nat) : Nat := 0x9000 + 424 * u

/-- The hours of age that the EEPROM keeps of unit u. -/
def wearHours (s : State) (u : Nat) : Nat := ofLe (tgetMany eeprom0 s.pw.eeprom (wearBase u) 4)

/-- Where unit u's sample of a day lies. -/
def wearSlot (u day : Nat) : Nat := wearBase u + 64 + 4 * (day % 90)

/-- Unit u's age in hours, and what is kept of the last `days` days of its wear, oldest first, as kept with the part (R450). -/
def frayHistory (s : State) (u days : Nat) : Nat × List Nat :=
  if u = 36 then (s.ob.carrierHours + s.ob.hours, s.ob.carrierFray.drop (s.ob.carrierFray.length - days))
  else if !s.pw.stby then (0, [])
  else
    let last := wearHours s u / 24
    (wearHours s u + s.ob.hours, ((List.range (min days (last + 1))).map (fun i =>
      ofLe (tgetMany eeprom0 s.pw.eeprom (wearSlot u (last - i)) 4))).reverse)

/-- The days until the least-squares line through daily samples reaches a million; none: it never rises (R448; notes/assumptions/53.md). -/
def fitDays (ys : List Nat) : Option Nat :=
  let n : Int := ys.length
  let sy : Int := ys.sum
  let si := n * (n - 1) / 2
  let sxy : Int := ((ys.zipIdx.map (fun e => e.1 * e.2)).sum : Nat)
  let num := n * sxy - si * sy
  let den := n * ((n - 1) * n * (2 * n - 1) / 6) - si * si
  if num ≤ 0 then none else some (((10 ^ 6 * n - sy) * 2 * den - num * n * (n - 1)) / (2 * n * num)).toNat

/-- The days that the power law leaves a compute die of an age in hours at a wear in millionths (R448). -/
def powerDays (hours wear : Nat) : Option Nat :=
  if wear = 0 then none else some ((hours * 10 ^ 30 - hours * wear ^ 5) / (24 * wear ^ 5))

/-- The predicted days that unit u has left at a wear in millionths of its allowance; none: less than 7 days of history (R448, R449). -/
def lifeOf (s : State) (u wear : Nat) : Option Nat :=
  let h := frayHistory s u (if 24 ≤ u ∧ u < 36 then 90 else 30)
  if h.1 < 7 * 24 then none else some (((if u < 8 then powerDays h.1 wear else fitDays h.2).map (sat 65534)).getD 65534)

/-- The grade at a wear in per mille and a predicted life (R449). -/
def frayGrade (wear : Nat) (days : Option Nat) : Nat :=
  let d := days.getD 65535
  if 1000 ≤ wear ∨ d < 30 then 2 else if d < 180 then 1 else 0

/-- A measured loss in millionths of the unit's allowance (R448). -/
def FrayMeasure.wear (m : FrayMeasure) : Nat :=
  if m.unit.val < 8 then m.loss * 10 ^ 6 / 60000 else if m.unit.val < 24 then m.loss * 10 ^ 6 / 500000 else m.loss * 10 ^ 6 / max 1 m.all

/-- The carrier's wear in millionths: the initial spares lost, of the 980 per mille above the read-only point (R448, 09 R296). -/
def carrierWear (s : State) : Nat := (1000 - rfield s rDtStatus 0 10) * 10 ^ 6 / 980

/-- Fray reports unit u at a wear in millionths (R448, R449). -/
def noteFray (s : State) (u wear : Nat) : State :=
  let r := rFray u
  let days := lifeOf s u wear
  let g := frayGrade (wear / 1000) days
  let t := { s with ob := { s.ob with wear := tset (fun _ => 0) s.ob.wear u wear } }
  let t := wreg (wreg t r (BitVec.ofNat 32 (g * 2 ^ 30 + sat 1000 (wear / 1000)))) (r + 4) (BitVec.ofNat 32 (days.getD 65535))
  let changed := g != rfield s r 30 2
  stainIf (changed && g == 2) (stainIf (changed && g == 1) t rObStain 4) rObStain 5

/-- FRAY_EVALUATE (R448): firmware runs it once an hour. -/
def execFrayEvaluate (ms : List FrayMeasure) (s : State) : Out :=
  let t := ms.foldl (fun u m => noteFray u m.unit.val (FrayMeasure.wear m)) { s with ob := { s.ob with hours := s.ob.hours + 1 } }
  runIf s s.ob.counting (if deepReady s then noteFray t 36 (carrierWear t) else t)

/-- Write a day's Fray sample of unit u in the wear area (R450, 15 R480). -/
def writeWear (s : State) (u : Nat) : State :=
  let age := wearHours s u + s.ob.hours
  putEeprom (putEeprom s (wearBase u) (leBytes 4 age)) (wearSlot u (age / 24)) (leBytes 4 (sat (2 ^ 32 - 1) (tget (fun _ => 0) s.ob.wear u)))

/-- Write the Fray histories (R450): of units 0 to 35 into the EEPROM while it has power, of unit 36 on the carrier. -/
def writeFray (s : State) : State :=
  let t := if s.pw.stby then (List.range 36).foldl writeWear s else s
  let h := t.ob.carrierFray ++ [tget (fun _ => 0) s.ob.wear 36]
  let u := if deepReady s then { t with ob := { t.ob with
    carrierHours := t.ob.carrierHours + s.ob.hours, carrierFray := h.drop (h.length - 90) } } else t
  { u with ob := { u.ob with hours := 0 } }

/-- FRAY_HISTORY_WRITE (R450). -/
def execFrayHistoryWrite (s : State) : Out := runIf s s.ob.counting (writeFray s)

/-! ## Darns (R451-R453) -/

/-- A darn is refused or fails (R451, R452). -/
def darnFail (s : State) (id code : Nat) : State := finish (setStain s rObStain 1) id (stFirmware, code)

/-- The descriptors that run on core c and draw no tickets: those that a retirement waits for or stops. -/
def coreJobs (s : State) (c : Nat) : List Job :=
  s.hp.jobs.filter (fun j => j.engine == c && j.phase == .running && j.opcode != 0x0501 && j.opcode != 0x0A12)

/-- A forced retirement stops descriptor j of core c (R451). -/
def stopOnCore (s : State) (c : Nat) (j : Job) : State :=
  if j.opcode = 0x0100 then (queuesOf c).foldl (fun t q => stopQueue t q (· == j.id) (stFirmware, 6)) s
  else finish (abandon (dropWaits s j.id) j).1 j.id (stFirmware, 6)

/-- Whether core c is the only core in service of some partition. -/
def lastCore (s : State) (c : Nat) : Bool :=
  (List.range 8).any (fun p => (coresOf s p).filter (fun k => !s.boot.retired.getLsbD k) == [c])

/-- Core c takes no further descriptor; its tickets are re-issued and its iterations pass
on; it keeps its number while a ring of its partition names a job. -/
def retireCore (s : State) (c : Nat) : State :=
  let b : BitVec 64 := BitVec.ofNat 64 (2 ^ c)
  settleCores (passShares (reissueTickets { s with boot := { s.boot with retired := s.boot.retired ||| b, keepNum := s.boot.keepNum ||| b } } c) c)

/-- Whether a RETIRE_CORE of core c still waits for the descriptors that run there. -/
def retiring (s : State) (c : Nat) : Bool :=
  s.hp.jobs.any (fun j => j.opcode == 0x0B10 && j.phase == .running && j.fld 16 1 == c)

/-- Check 9 of RETIRE_CORE (R451). -/
def retireCoreErr (j : Job) : Option Ending :=
  let c := j.fld 16 1
  fields [bad (decide (63 < c)) 16, bad (j.bits 17 1 7 != 0) 17, rsvd j 18 56]

/-- RETIRE_CORE (R451-R453). -/
def execRetireCore (id : Nat) (s : State) : Out :=
  runOp s id 0x0B10 (fun j =>
    let c := j.fld 16 1
    match retireCoreErr j with
    | some e => finish s id e
    | none =>
      if retiring s c then darnFail s id 4
      else if s.boot.retired.getLsbD c then finish s id (stDone, 1)
      else if lastCore s c then darnFail s id 2
      else
        let t := retireCore s c
        if j.bits 17 0 1 = 1 then finish ((coreJobs t c).foldl (fun u k => stopOnCore u c k) t) id (stDone, 0)
        else if (coreJobs t c).isEmpty then finish t id (stDone, 0)
        else keepRunning t id)

/-- Whether the Thimble cores of a set meet the minimums of 13 R419. -/
def thimblesOk (x : Nat) : Bool :=
  decide (bitsOf x 0 8 ≠ 0) && decide (bitsOf x 8 4 ≠ 0) && decide (2 ≤ ((List.range 4).filter (fun i => bitOf x (12 + i))).length)

/-- Check 9 of RETIRE_THIMBLE (R451). -/
def retireThimbleErr (j : Job) : Option Ending :=
  let n := j.fld 16 1
  fields [bad (decide (15 < n)) 16, rsvd j 17 56]

/-- RETIRE_THIMBLE (R451, 13 R419). -/
def execRetireThimble (id : Nat) (s : State) : Out :=
  runOp s id 0x0B11 (fun j =>
    let n := j.fld 16 1
    let live := rfield s rThimble 0 16
    match retireThimbleErr j with
    | some e => finish s id e
    | none =>
      if !bitOf live n then finish s id (stDone, 1)
      else if !thimblesOk (live - 2 ^ n) then darnFail s id 2
      else finish (wfield s rThimble 0 16 (live - 2 ^ n)) id (stDone, 0))

/-- A page leaves a row for another place in Tier 1: its physical address is a free value (notes/assumptions/1.md). -/
def movePage (s : State) (e : Fin 8 × Nat) : State :=
  match pageOf s e.1.val e.2 with
  | none => s
  | some g =>
    let d := drawWord s
    setPage d.2 e.1.val e.2 (some { g with frame := d.1 })

/-- Check 9 of HBM_ROW (R451). -/
def hbmRowErr (j : Job) : Option Ending :=
  fields [bad (decide (11 < j.fld 16 1)) 16, bad (decide (31 < j.fld 17 1)) 17, bad (decide (63 < j.fld 18 1)) 18,
      rsvd j 19 20, rsvd j 24 56]

/-- HBM_ROW (R451-R453). -/
def execHbmRow (id : Nat) (spares : Nat) (took : Bool) (pages : List (Fin 8 × Nat)) (s : State) : Out :=
  runOp s id 0x0B12 (fun j =>
    let row := (j.fld 16 1, j.fld 17 1, j.fld 18 1, j.fld 20 4)
    match hbmRowErr j with
    | some e => finish s id e
    | none =>
      if s.tm.rows.contains row then finish s id (stDone, 1)
      else if spares = 0 then darnFail s id 1
      else if !took then darnFail s id 5
      else
        let t := pages.foldl movePage { s with tm := { s.tm with rows := s.tm.rows ++ [row] } }
        finish (wfield t (rHm (j.fld 16 1)) 16 8 (sat 255 (spares - 1))) id (stDone, 0))

/-- Check 9 of SRAM_REMAP (R451). -/
def sramRemapErr (j : Job) : Option Ending :=
  fields [bad (decide (7 < j.fld 16 1)) 16, rsvd j 17 24, rsvd j 32 56]

/-- SRAM_REMAP (R451): the unit's bytes and their soil move with it. -/
def execSramRemap (id : Nat) (spares : Nat) (took : Bool) (s : State) : Out :=
  runOp s id 0x0B13 (fun j =>
    let unit := (j.fld 16 1, j.fld 24 8 / 64)
    match sramRemapErr j with
    | some e => finish s id e
    | none =>
      if 2 ^ 31 ≤ j.fld 24 8 then darnFail s id 3
      else if s.tm.remaps.contains unit then finish s id (stDone, 1)
      else if spares = 0 then darnFail s id 1
      else if !took then darnFail s id 5
      else finish { s with tm := { s.tm with remaps := s.tm.remaps ++ [unit] } } id (stDone, 0))

/-- Check 9 of FLASH_BLOCK (R451). -/
def flashBlockErr (j : Job) : Option Ending :=
  fields [bad (decide (31 < j.fld 16 1)) 16, rsvd j 17 20, rsvd j 24 56]

/-- FLASH_BLOCK (R451-R453, 09 R296). -/
def execFlashBlock (id : Nat) (took : Bool) (s : State) : Out :=
  runOp s id 0x0B14 (fun j =>
    let block := (j.fld 16 1, j.fld 20 4)
    match flashBlockErr j with
    | some e => finish s id e
    | none =>
      if !deepReady s then darnFail s id 3
      else if s.tm.blocks.contains block then finish s id (stDone, 1)
      else if !took then darnFail s id 5
      else
        let t := setStain (addCnt s rRetired 1) rDtStain 2
        finish { t with tm := { t.tm with blocks := t.tm.blocks ++ [block] } } id (stDone, 0))

/-- Check 9 of RETIRE_LANE (R451). -/
def retireLaneErr (j : Job) : Option Ending :=
  let pt := j.fld 16 1
  let ln := j.fld 17 1
  fields [bad (decide (15 < pt)) 16, bad (decide (17 < ln)) 17, bad (j.bits 18 1 7 != 0) 18, rsvd j 19 56]

/-- RETIRE_LANE (R451, 12 R389): a transmit lane is retired by notice to the partner. -/
def execRetireLane (id : Nat) (s : State) : Out :=
  runOp s id 0x0B15 (fun j =>
    let pt := j.fld 16 1
    let ln := j.fld 17 1
    let tx := j.bits 18 0 1 == 1
    let x := portOf s pt
    let left := if tx then laneCount x.txAct + laneCount x.txSpare else laneCount x.rxAct + laneCount x.rxSpare
    match retireLaneErr j with
    | some e => finish s id e
    | none =>
      if !trained s pt then darnFail s id 3
      else if (if tx then x.txFail else x.rxFail).getLsbD ln then finish s id (stDone, 1)
      else if left ≤ 4 then darnFail s id 1
      else
        let t := laneFail s pt (!tx) ln
        finish (if tx then send t (.laneNotice pt ln) else t) id (stDone, 0))

/-! ## Job aborts (R454-R456) -/

/-- JOB_ABORT (R454, R458). -/
def execJobAbort (id : Nat) (s : State) : Out :=
  runOp s id 0x0B03 (fun j =>
    match fields [rsvd j 20 56] with
    | some e => finish s id e
    | none =>
      let t := abortFrom s (BitVec.ofNat 32 (j.fld 16 4)) j.beginAt 1
      match job? t id with
      | some k => if k.phase = .decided then t else finish t id (stDone, 0)
      | none => t)

/-- JOB_ABORT_RECEIVE (R456). -/
def execJobAbortReceive (pt : Fin 16) (origin : BitVec 12) (num : Word) (j : Word) (ta : DWord) (cause : Fin 16) (s : State) : Out :=
  .next (takeCast s pt.val origin num (.abort j ta cause.val) (fun u => abortLocal u j ta cause.val origin.toNat))

/-- JOB_LIST_RECEIVE (R455). -/
def execJobListReceive (pt : Fin 16) (jobs : List Word) (s : State) : Out :=
  .next (arriveVct s pt.val (fun u => { u with ob := { u.ob with jobLists := tset (fun _ => []) u.ob.jobLists pt.val (jobs.take 512) } }))

end Sys2Proof.Machine
end

