-- ==== Sys2Proof/Machine/Resets.lean ====
section
/-! DEFINITION. Resets and what happens on the host port (spec 00 R7, R8; 01 R14-R19, R46-R48, R488; 13 R410): what each reset kind
keeps. -/

namespace Sys2Proof.Machine

/-- The extension slots of the KEY_LOAD descriptors that `f` picks are overwritten with zeros, where host memory can be reached (08 R284). -/
def wipeKeys (s : State) (f : Job → Bool) : State :=
  (s.hp.jobs.filter (fun j => f j && j.opcode == 0x070B && j.extAddr != 0 && hostOpen s (fnOfRing s j.ring))).foldl (fun t j =>
    hostPut t (fnOfRing s j.ring) j.extAddr (List.replicate 64 0) false) s

/-! ## Whole-module resets (00 R7, R8, 13 R410) -/

/-- Whether a register outlives a reset of a kind: Stain registers all but a cold one (00 R8), the host port's global and partition
registers the module reset command (01 R24). -/
def keepsReg (k : ResetKind) (off : Nat) : Bool :=
  match k with
  | .cold => false
  | .warm => (stainAt off).isSome
  | .command => (stainAt off).isSome || off == rLink || off == rGrace || (decide (rPartCfg 0 ≤ off) && decide (off < rPartCfg 8))

/-- The module after a reset of a kind (13 R410): at the start of a boot, with what the kind keeps. What has left the module, the
commands that wait and the model's own counters are no part of it. The module reset command keeps the MSI-X table with the
configuration space (DESIGN CHOICE, notes/assumptions/153.md). -/
def resetModule (k : ResetKind) (s : State) : State :=
  let hp := match k with
    | .command => { hpReset with
        msix := s.hp.msix, numVfs := s.hp.numVfs, vfOn := s.hp.vfOn, own := s.hp.own, bme := s.hp.bme, stall := s.hp.stall
        linkUp := s.hp.linkUp, downAt := s.hp.downAt, newDies := s.hp.newDies, bar4 := s.hp.bar4 }
    | _ => hpReset
  let s0 := if k = .command then wipeKeys s (fun _ => true) else s
  let ob := { obReset with
    log := if k = .cold then [] else s.ob.log
    overflow := k != .cold && s.ob.overflow
    carrierHours := s.ob.carrierHours
    carrierFray := s.ob.carrierFray }
  { State.reset with
    pending := s.pending
    free := s.free
    nextId := s.nextId
    out := s0.out
    regs := s.regs.filter (fun e => keepsReg k e.1)
    hp := hp
    boot := { bootReset with fuseSvn := s.boot.fuseSvn }
    ob := ob
    pw := { s.pw with caps := [], loweredAt := 0, lower := false }
    tm := { tmReset with
      ckpts := s.tm.ckpts, deep := s.tm.deep, deepNext := s.tm.deepNext, rows := s.tm.rows, blocks := s.tm.blocks } }

/-- Latch a cause in the telemetry device's FAULT register while it has power (15 R482). -/
def latchFault (s : State) (b : Nat) : State :=
  if s.pw.stby then { s with pw := { s.pw with fault := s.pw.fault ||| BitVec.ofNat 16 (2 ^ b) } } else s

/-- COLD_RESET (00 R7, 15 R466): the rails rise and PWR_GOOD with them, unless a rail fails. -/
def execColdReset (railFail : Bool) (s : State) : Out :=
  let t := resetModule .cold s
  let u := { t with pw := { t.pw with pwrEn := true, pwrGood := !railFail, perst := true } }
  .next (if railFail then latchFault u 5 else u)

/-- PERST_ASSERT (00 R7): a warm reset; the boot begins when PERST_N is deasserted. -/
def execPerstAssert (s : State) : Out :=
  let t := resetModule .warm s
  runIf s (booting s) { t with pw := { t.pw with perst := true } }

/-- MODULE_RESET_COMMAND (00 R7, 13 R433): accepted in every state but SAFE (13 R413). -/
def execModuleResetCommand (v : Word) (s : State) : Out :=
  runIf s (booting s && bootState s != 9 && bitsOf v.toNat 0 16 == 0xD1A5) (resetModule .command s)

/-! ## Partition resets (01 R19, R46-R48) -/

/-- Discard the descriptors that `f` picks: none completes, and nothing waits for them. -/
def discardJobs (s : State) (f : Job → Bool) : State :=
  let hit (id : Nat) : Bool := s.hp.jobs.any (fun j => j.id == id && f j)
  let t := wipeKeys s f
  let gone := (s.ol.ops.filter (fun o => hit o.job)).map (fun o => o.op)
  let lost (m : Msg) : Bool := m.header.any (fun fr =>
    fr.src.toNat == moduleNo s && (fr.typ == 2 || fr.typ == 3) && fr.vc == 3 && gone.contains fr.op)
  { t with
    hp := { s.hp with jobs := s.hp.jobs.filter (fun j => !f j) }
    ob := { s.ob with
      tags := s.ob.tags.filter (fun t => t.done || !hit t.id)
      snaps := s.ob.snaps.map (fun e => (e.1, { e.2 with jobs := e.2.jobs.filter (fun i => !hit i) })) }
    pw := { s.pw with caps := s.pw.caps.map (fun c => if c.job.any hit then { c with job := none } else c) }
    ol := { s.ol with
      ops := s.ol.ops.filter (fun o => !hit o.job)
      ports := s.ol.ports.map (fun e => (e.1, { e.2 with wait := e.2.wait.filter (fun w => !lost w.msg) })) }
    tm := { s.tm with
      waits := s.tm.waits.filter (fun w => !hit w.job)
      leaves := s.tm.leaves.filter (fun w => !hit w.job)
      shots := s.tm.shots.filter (fun x => !hit x.job)
      bound := s.tm.bound.filter (fun e => !hit e.1) }
    se := { s.se with found := s.se.found.filter (fun e => !hit e.1) } }

/-- Reset the rings of function f: their descriptors and held completions are discarded, the messages owed, and what was latched of
their register pairs (00 R5). -/
def resetRings (s : State) (f : Nat) : State :=
  let mine (n : Nat) : Bool := ringOwner s.hp.own n == some f
  let t := discardJobs s (fun j => mine j.ring)
  let pair (off : Nat) : Bool := decide (rRing 0 ≤ off) && decide (off < rRing 512) && mine ((off - rRing 0) / 0x40)
  { t with hp := { t.hp with
    latches := tdrop t.hp.latches (fun k => pair (k % 2 ^ 32))
    rings := tdrop t.hp.rings mine
    owed := t.hp.owed.filter (fun g => vecOwner t.hp.own g != f) } }

/-- Whether a key of memory lies in partition p's unified range. -/
def inPlace (p : Nat) (k : Nat) : Bool := k / 2 ^ 52 == p

/-- Memory, objects and what builds on them, of partition p (06 R203, 08 R285, R290, 09 R320); its dies' cache lines go. -/
def resetMemory (s : State) (p : Nat) : State :=
  let ds := partDies s p
  { s with tm := { s.tm with
    mem := tdrop s.tm.mem (inPlace p)
    soil := tdrop s.tm.soil (fun k => inPlace p (k * 64))
    nans := tdrop s.tm.nans (inPlace p)
    pages := tdrop s.tm.pages (inPlace p)
    holds := tdrop s.tm.holds (inPlace p)
    objs := s.tm.objs.filter (fun o => o.p != p)
    regions := s.tm.regions.filter (fun r => r.p != p)
    waits := s.tm.waits.filter (fun w => w.p != p)
    keys := tset (fun _ => none) s.tm.keys p none
    pats := tset (fun _ => pat0) s.tm.pats p pat0
    shots := s.tm.shots.filter (fun x => x.p != p)
    bound := s.tm.bound.filter (fun e => e.2.p != p)
    badNodes := s.tm.badNodes.filter (fun e => e.1 != p)
    leaves := s.tm.leaves.filter (fun w => w.p != p)
    cache := tdrop s.tm.cache (fun k => ds.contains (k / 2 ^ 32))
    indexes := s.tm.indexes.filter (fun x => x.p != p)
    searches := s.tm.searches.filter (fun y => y.p != p) } }

/-- The registers and counts of partition p that its reset clears (04 R132, 06 R204, 08 R290, 11 R379). -/
def partRegs (p : Nat) : List Nat := [rTmPart p + 0x10, rTmPart p + 0x14, rPattern p, rTpLoad p, rFnLoad p]

/-- Whether the pair at offset off belongs to partition p: its latches go (00 R5). -/
def partPair (s : State) (p off : Nat) : Bool :=
  (decide (rPeg p 0 ≤ off) && decide (off < rPeg (p + 1) 0)) || off == rTpValid p || off == rTmPart p + 0x10 ||
  off == rTmPart p + 0x20 || off == rPatternHits p || (queuesOfPart s p).any (fun q => off == queueBlock q + 8)

/-- Engines, programs, tickets, pegs, groups, windows and registers of partition p (03 R106, 04 R131, 05 R168, 07 R247, 10 R351,
11 R379, 12 R408). -/
def resetEngines (s : State) (p : Nat) : State :=
  let ds := partDies s p
  let t := (queuesOfPart s p).foldl clearQueue s
  { t with
    regs := tdrop t.regs (fun o => (partRegs p).contains o)
    counts := tdrop t.counts (fun o => o == rPatternHits p)
    mx := tdrop t.mx (fun k => ds.contains (k / 32))
    fn := tdrop t.fn (fun k => k / 32 == p)
    fnBad := tdrop t.fnBad (fun k => ds.contains (k / 256 / 8))
    tp := ⟨tdrop t.tp.slots (fun k => k / 64 == p), tdrop t.tp.tickets (fun k => k / 256 == p), t.tp.shares.filter (fun x => x.p != p)⟩
    hp := { t.hp with pegs := tdrop t.hp.pegs (fun k => k / 4096 == p) }
    ol := { t.ol with wins := t.ol.wins.filter (fun w => w.p != p) }
    ce := { t.ce with groups := t.ce.groups.filter (fun e => !e.2.any (fun g => g.p == p)) } }

/-- A partition reset of partition p, whose owning function (if any) is f: RESETTING reads 1. -/
def resetPart (s : State) (p : Nat) (f : Option Nat) : State :=
  let lat := tdrop s.hp.latches (fun k => partPair s p (k % 2 ^ 32))
  let t := match f with
    | some k => resetRings { s with hp := { s.hp with latches := lat } } k
    | none => { s with hp := { s.hp with latches := lat } }
  wfield (noteSpill (grantContexts (resetMemory (resetEngines t p) p))) (rPartStatus p) 2 1 1

/-- The jobs that enabled rings of the functions that `f` picks name. -/
def jobsOf (s : State) (f : Nat → Bool) : List Word :=
  ((s.hp.rings.filter (fun e => e.2.enabled && e.2.job != 0 && (ringOwner s.hp.own e.1).any f)).map (fun e => e.2.job)).dedup

/-- The reset of function f's rings and partition without what it aborts elsewhere. -/
def resetFunction (s : State) (f : Nat) : State :=
  match partOf s.hp.own f with
  | some p => resetPart s p (some f)
  | none => resetRings s f

/-- Reset functions: the jobs that their enabled rings name are aborted machine-wide first (01 R47, 14 R454). -/
def resetFunctions (s : State) (fs : List Nat) : State :=
  settleCores (noteJobs (fs.foldl resetFunction ((jobsOf s (fs.contains ·)).foldl (fun t J => abortFrom t J s.now 6) s)))

/-- PARTITION_RESET (01 R25, R46, R47): a function-level reset; one of the PF resets every function. The function's configuration
space follows PCIe (notes/assumptions/6.md). -/
def execPartitionReset (f : Fin 9) (s : State) : Out :=
  let fs := if f.val = 0 then List.range (s.hp.own + 1) else [f.val]
  let s2 := resetFunctions s fs
  let mine (g : Nat) : Bool := fs.contains (vecOwner s.hp.own g)
  let s3 := { s2 with hp := { s2.hp with
    msix := tdrop s2.hp.msix mine
    bme := if f.val = 0 then 0 else s2.hp.bme &&& ~~~ BitVec.ofNat 9 (2 ^ f.val)
    numVfs := if f.val = 0 then 0 else s2.hp.numVfs
    vfOn := f.val != 0 && s2.hp.vfOn
    own := if f.val = 0 then 0 else s2.hp.own
    bar4 := if f.val = 0 then [] else tdel s2.hp.bar4 f.val } }
  runIf s (booting s && present s f.val) s3

/-- PARTITION_RESET_DONE (01 R19, R48): RESETTING reads 0, and a new die set applies. -/
def execPartitionResetDone (p : Fin 8) (s : State) : Out :=
  let t := wfield s (rPartStatus p.val) 2 1 0
  runIf s (rfield s (rPartStatus p.val) 2 1 == 1)
    (match tget (fun _ => none) s.hp.newDies p.val with
     | some d => wfield { t with hp := { t.hp with newDies := tdel t.hp.newDies p.val } } (rPartCfg p.val) 0 8 d
     | none => t)

/-- Whether a die set has one of the shapes of 01 R15. -/
def diesOk (d : Nat) : Bool :=
  [0, 1, 2, 4, 8, 16, 32, 64, 128, 3, 12, 48, 192, 15, 240, 255].contains d

/-- The die set of partition p once a reset under way has ended. -/
def diesSoon (s : State) (p : Nat) : Nat := (tget (fun _ => none) s.hp.newDies p).getD (diesOf s p)

/-- PART_CFG_WRITE (01 R15, R18, R19). A write while a change of die set is under way is compared with the die set to come (DESIGN
CHOICE, notes/assumptions/14.md). -/
def execPartCfgWrite (p : Fin 8) (v : Word) (s : State) : Out :=
  let d := bitsOf v.toNat 0 8
  let own := partOwner s.hp.own p.val
  let clash := (List.range 8).any (fun q => q != p.val && (d &&& (diesSoon s q ||| diesOf s q)) != 0)
  let busy := match own with
    | some f => (List.range 512).any (fun n => ringOwner s.hp.own n == some f && !ringIdle s n)
    | none => false
  let ok := wfield s (rPartStatus p.val) 3 1 0
  let leaving := (partDies s p.val).filter (fun k => !bitOf d k)
  runIf s (ready s)
    (if !diesOk d || clash || (d != diesSoon s p.val && busy) then wfield s (rPartStatus p.val) 3 1 1
     else if d = diesSoon s p.val then ok
     else
       let t := resetPart (leaving.foldl flushPool ok) p.val own
       { t with hp := { t.hp with newDies := tset (fun _ => none) t.hp.newDies p.val (some d) } })

/-! ## The PCIe link and the host (01 R24, R46, R488) -/

/-- PCIE_HOT_RESET (01 R46, R488): configuration space returns to defaults; ownership stands. -/
def execPcieHotReset (s : State) : Out :=
  runIf s (booting s && s.hp.linkUp)
    (setStain { s with hp := { s.hp with bme := 0, numVfs := 0, vfOn := false, bar4 := [] } } rHpStain 1)

/-- VF_ENABLE (01 R14, R16, R488): with another NumVFs than the one whose ownership is in force after a Hot Reset, the former VFs
are reset first. MSI-X entries keep what the PF wrote to them (DESIGN CHOICE, notes/assumptions/15.md). -/
def execVfEnable (v : Fin 9) (s : State) : Out :=
  let after := s.hp.numVfs != s.hp.own
  let t := if after ∧ v.val ≠ s.hp.own then resetFunctions s ((List.range s.hp.own).map (· + 1)) else s
  runIf s (booting s && s.hp.linkUp && !(after && v.val == 0))
    { t with hp := { t.hp with numVfs := v.val, vfOn := v.val != 0, own := v.val, bme := t.hp.bme &&& 1 } }

/-- PCIE_LINK_DOWN (01 R24, R46, 13 R420). -/
def execPcieLinkDown (s : State) : Out :=
  let t := setStain (wfield { s with hp := { s.hp with linkUp := false, stall := false, downAt := some s.now } } rLink 9 1 0) rHpStain 2
  runIf s (booting s && s.hp.linkUp) (if bootState s = 2 then bootError t 2 1 1 else t)

/-- PCIE_LINK_UP (01 R24, R46): what the training reached shows; messages owed are sent. -/
def execPcieLinkUp (speed : Fin 16) (width : Fin 32) (flit : Bool) (s : State) : Out :=
  let w := speed.val + 16 * width.val + 512 + (if flit then 1024 else 0)
  runIf s (booting s && !s.hp.linkUp)
    (sendOwed (wreg { s with hp := { s.hp with linkUp := true, downAt := none } } rLink (BitVec.ofNat 32 w)))

/-- HOST_GRACE_EXPIRE (01 R46, R47, 14 R454): a surprise link-down aborts the jobs of the enabled rings. -/
def execHostGraceExpire (s : State) : Out :=
  .next (match s.hp.downAt with
    | none => s
    | some t0 =>
      if t0.toNat + rfield s rGrace 0 16 * 10 ^ 6 ≤ s.now.toNat then
        let t := setStain { s with hp := { s.hp with downAt := none } } rHpStain 3
        (jobsOf t (fun _ => true)).foldl (fun u J => abortFrom u J s.now 4) t
      else s)

/-- HOST_STALL_BEGIN (01 R46). -/
def execHostStallBegin (s : State) : Out :=
  runIf s (booting s && s.hp.linkUp && !s.hp.stall) (setStain { s with hp := { s.hp with stall := true } } rHpStain 0)

/-- HOST_STALL_RETRY (01 R46). -/
def execHostStallRetry (works : Bool) (s : State) : Out :=
  runIf s (s.hp.stall && works) (sendOwed { s with hp := { s.hp with stall := false } })

/-- BUS_MASTER_ENABLE (01 R46): DMA works again for the function; a host stall ends at its next retry (HOST_STALL_RETRY). -/
def execBusMasterEnable (f : Fin 9) (s : State) : Out :=
  let b := BitVec.ofNat 9 (2 ^ f.val)
  runIf s (booting s && s.hp.linkUp && present s f.val && !s.hp.bme.getLsbD f.val)
    (sendOwed { s with hp := { s.hp with bme := s.hp.bme ||| b } })

end Sys2Proof.Machine
end

