-- ==== Sys2Proof/Machine/Power.lean ====
section
/-! DEFINITION. Rails, the power cap, thermal limits, the telemetry device and the FRU EEPROM (spec 15). -/

namespace Sys2Proof.Machine

/-! ## Caps (R468-R471) -/

/-- The cap in force, in steps of 25 W: IN_FORCE once an event has set it (notes/assumptions/117.md). -/
def capOf (s : State) : Nat :=
  let f := rfield s rPwrStatus 16 7
  if f = 0 then min (rfield s rPwrCap 0 7) s.pw.sysLimit else f

/-- The cap in force becomes k steps, clamped by the system limit (R469, R470). -/
def setCap (s : State) (k : Nat) : State :=
  let c := min k s.pw.sysLimit
  wfield (if c < capOf s then { s with pw := { s.pw with loweredAt := s.now } } else s) rPwrStatus 16 7 c

/-- TC_PWR_CAP_WRITE (R470, R485): a field with a value outside its range is ignored. -/
def execTcPwrCapWrite (v : Word) (s : State) : Out :=
  let ceil := bitsOf v.toNat 8 8
  let k := bitsOf v.toNat 0 7
  let t := if 120 ≤ ceil ∧ ceil ≤ 160 then wfield s rPwrCap 8 8 ceil else s
  runIf s (booting s) (if 36 ≤ k ∧ k ≤ 72 then setCap (wfield t rPwrCap 0 7 (min k s.pw.sysLimit)) k else t)

/-- A scheduled cap is held; of nine the one with the latest T, and of those the last come, is dropped (R470). -/
def holdCap (s : State) (x : SchedCap) : State :=
  let l := s.pw.caps ++ [x]
  let last := (l.map (fun c => c.t.toNat)).foldl max 0
  if l.length ≤ 8 then { s with pw := { s.pw with caps := l } }
  else
    let r := l.reverse
    setStain { s with pw := { s.pw with caps := (r.eraseP (fun c => c.t.toNat == last)).reverse } } rPwrStain 2

/-- Check 9 of POWER_CAP (R470, R471). -/
def powerCapErr (j : Job) : Option Ending :=
  let k := j.fld 16 1
  let t := j.fld 24 8
  let wide := j.bits 17 0 1 == 1
  fields [bad (decide (k < 36) || decide (72 < k)) 16, bad (j.bits 17 1 7 != 0) 17, rsvd j 18 24,
      bad ((wide && t == 0) || (t != 0 && decide (t ≤ j.beginAt.toNat))) 24, rsvd j 32 56]

/-- POWER_CAP (R470, R471): at once, or held until T. -/
def execPowerCap (id : Nat) (s : State) : Out :=
  runOp s id 0x0B04 (fun j =>
    let k := j.fld 16 1
    let t := j.fld 24 8
    let wide := j.bits 17 0 1 == 1
    match powerCapErr j with
    | some e => finish s id e
    | none =>
      if t = 0 then finish (setCap s k) id (stDone, if s.pw.sysLimit < k then 1 else 0)
      else
        let u := keepRunning (holdCap s ⟨BitVec.ofNat 64 t, k, some id⟩) id
        if wide then originate u (.cap k (BitVec.ofNat 64 t)) else u)

/-- SCHEDULED_CAP_DUE (R470): the caps of the earliest T reached apply, the lowest of them; their descriptors end. -/
def execScheduledCapDue (s : State) : Out :=
  .next (match (s.pw.caps.map (fun c => c.t.toNat)).min? with
    | none => s
    | some t =>
      if s.now.toNat < t then s
      else
        let due := s.pw.caps.filter (fun c => c.t.toNat == t)
        let k := (due.map (fun c => c.steps)).foldl min 127
        let u := setCap { s with pw := { s.pw with caps := s.pw.caps.filter (fun c => c.t.toNat != t) } } k
        due.foldl (fun v c => match c.job with
          | some id => finish v id (stDone, if s.pw.sysLimit < c.steps then 1 else 0)
          | none => v) u)

/-- POWER_CAP_BROADCAST (R470): one that arrives at or after its T applies on arrival. -/
def execPowerCapBroadcast (pt : Fin 16) (origin : BitVec 12) (num : Word) (cap : Nat) (t : DWord) (s : State) : Out :=
  .next (takeCast s pt.val origin num (.cap cap t) (fun u =>
    if t.toNat ≤ u.now.toNat then setStain (setCap u cap) rPwrStain 1 else holdCap u ⟨t, cap, none⟩))

/-- SYS_LIMIT_POLL (R469): firmware reads SYS_LIMIT and clamps the cap in force. -/
def execSysLimitPoll (s : State) : Out :=
  runIf s (s.ob.counting && s.pw.stby) (setCap (wfield s rPwrStatus 23 7 s.pw.sysLimit) (capOf s))

/-! ## Rails and samples (R461-R464, R468, R473, R474) -/

/-- A row of the rate table (R463): the rail in mV; rates in M steps/s, typical at 40, 70 and 105 °C junction, and guaranteed. -/
structure RateRow where
  mv : Nat
  typical : List Nat
  least : Nat
  deriving DecidableEq, Repr

/-- The rate table of R463. -/
def rateTable : List RateRow :=
  [⟨600, [1950, 1900, 1840], 1670⟩, ⟨640, [2220, 2160, 2090], 1890⟩, ⟨680, [2460, 2390, 2320], 2100⟩,
   ⟨720, [2680, 2600, 2520], 2280⟩, ⟨760, [2890, 2810, 2720], 2470⟩, ⟨800, [3100, 3010, 2920], 2640⟩]

/-- The rate that every part keeps at a rail of mv up to 105 °C, in M steps/s rounded up: between rows, the line between them (R463). -/
def leastRate (mv : Nat) : Nat :=
  let i := min 4 ((mv - 600) / 40)
  let a := rateTable.getD i ⟨600, [], 1670⟩
  let b := rateTable.getD (i + 1) ⟨800, [], 2640⟩
  a.least + cdiv ((b.least - a.least) * (mv - a.mv)) 40

/-- Rail r in mV: 0.60 V from power-up (R466). -/
def railMv (s : State) (r : Nat) : Nat :=
  let m := rfield s (rRail r) 0 10
  if m = 0 then 600 else m

/-- Whether rail r feeds a die of no owned partition, which rests at 0.60 V (R462). -/
def resting (s : State) (r : Nat) : Bool :=
  decide (r < 8) && !((List.range 8).any (fun p => (partOwner s.hp.own p).isSome && bitOf (diesOf s p) r))

/-- Where firmware steers rail r, in mV: the ceiling, or 0.60 V before LOAD has completed, for a resting die, and while the last sample
asks for less (R462, R464, R466, R468, R474; notes/assumptions/116.md). -/
def railTarget (s : State) (r : Nat) : Nat :=
  if !s.ob.counting || s.pw.lower || resting s r then 600 else 5 * rfield s rPwrCap 8 8

/-- RAIL_STEP (R462): 5 mV toward the target. -/
def execRailStep (r : Fin 10) (s : State) : Out :=
  let m := railMv s r.val
  let t := railTarget s r.val
  runIf s (s.pw.pwrGood && m != t) (wfield s (rRail r.val) 0 10 (if m < t then m + 5 else m - 5))

/-- TC_TEMP(i) after a reading (R485). -/
def noteTemp (s : State) (i : Nat) (v : Int) : State :=
  let old := sgn 8 (rfield s (rTemp i) 8 8)
  wreg s (rTemp i) (BitVec.ofNat 32 (unsgn 8 (max old v) * 256 + unsgn 8 v))

/-- Whether every rail stands at 0.60 V. -/
def atMinimum (s : State) : Bool := (List.range 10).all (fun r => railMv s r == 600)

/-- Die r's rate as a sample gives it: never below what R463 guarantees up to 105 °C (notes/assumptions/55.md). -/
def rateOf (s : State) (x : PowerSample) (r : Nat) : Nat :=
  if x.temps.getD r 0 ≤ 105 then max (x.rates.getD r 0) (leastRate (railMv s r)) else x.rates.getD r 0

/-- The energies and handshakes of a sample count (14 R440). -/
def noteEnergy (s : State) (x : PowerSample) : State :=
  let t := (x.energies.take 13).zipIdx.foldl (fun t e => count t (1488 + e.2) e.1) s
  (x.monitors.take 8).zipIdx.foldl (fun t e => count t (1501 + e.2) e.1) t

/-- What a sample shows in the registers and the telemetry device. -/
def noteSample (s : State) (x : PowerSample) : State :=
  let s1 := (x.temps.take 17).zipIdx.foldl (fun t e => noteTemp t e.2 e.1) s
  let s2 := (x.stackTemps.take 12).zipIdx.foldl (fun t e => wfield t (rHm e.2) 8 8 (unsgn 8 e.1)) s1
  let s3 := (List.range 10).foldl (fun t r =>
    wfield (wfield t (rRail r) 0 10 (railMv t r)) (rRail r) 16 12 (if r < 8 then sat 4095 (rateOf t x r) else 0)) s2
  let s4 := wreg s3 rPwrInput (BitVec.ofNat 32 (x.iin.toNat * 2 ^ 16 + x.vin.toNat))
  let s5 := if x.window then wfield s4 rPwrStatus 0 11 (sat 2047 x.watts) else s4
  if s.pw.stby then { s5 with pw := { s5.pw with
    vin := x.vin, iin := x.iin, pin := if x.window then BitVec.ofNat 16 (sat 65535 x.watts) else s5.pw.pin } } else s5

/-- Whether the window that now ends is bound by the cap: it began 10 ms after the cap was last lowered (R468). -/
def windowBound (s : State) : Bool := decide (s.pw.loweredAt.toNat + 10 ^ 7 + 10 ^ 6 ≤ s.now.toNat / 10 ^ 6 * 10 ^ 6)

/-- POWER_SAMPLE (R468, R473, R474): what the sample shows, and whether firmware lowers or raises the rails next. -/
def execPowerSample (x : PowerSample) (s : State) : Out :=
  let t := noteSample (noteEnergy s x) x
  let cap := 25 * capOf s
  let hot := (x.temps.take 15).any (fun v => decide (105 < v)) || x.stackTemps.any (fun v => decide (95 < v))
  let excess := decide (cap < x.watts) || decide (1800 < x.watts)
  let below := (List.range 10).any (fun r => decide (railMv t r < 5 * rfield s rPwrCap 8 8))
  let capping := excess || (rfield s rPwrStatus 31 1 == 1 && below)
  let u := wfield (wfield t rPwrStatus 31 1 (if capping then 1 else 0)) rPwrStatus 30 1 (if hot then 1 else 0)
  let v := stainIf (x.window && decide (cap < x.watts) && atMinimum t && windowBound s) u rPwrStain 0
  let w := stainIf (decide (40 < x.temps.getD 15 0)) (stainIf hot v rPwrStain 3) rPwrStain 4
  runIf s s.ob.counting { w with pw := { w.pw with lower := excess || hot } }

/-! ## Stops and faults (R465, R467, R475, R476) -/

/-- Every package rail is off and PWR_GOOD low: nothing in the package is left, and nothing runs. -/
def powerOff (s : State) : State :=
  let t := resetModule .cold s
  { t with pw := { t.pw with pwrGood := false } }

/-- PWR_EN_DEASSERT (R467, R475): an orderly stop, which writes the Fray histories while the input stands at 46 V or more. -/
def execPwrEnDeassert (s : State) : Out :=
  let ok := s.ob.counting && (s.pw.vin == 0 || decide (4600 ≤ s.pw.vin.toNat))
  let t := if s.pw.pwrGood then powerOff (if ok then writeFray s else s) else s
  .next { t with pw := { t.pw with pwrEn := false, thermtrip := false } }

/-- The FAULT bit of an input fault (R482). -/
def InputFault.bit : InputFault → Nat
  | .undervoltage => 2
  | .overvoltage => 3
  | .overcurrent => 4
  | .rail => 5

/-- INPUT_FAULT_SHUTDOWN (R465). -/
def execInputFaultShutdown (k : InputFault) (s : State) : Out :=
  runIf s s.pw.pwrGood (latchFault (powerOff s) (InputFault.bit k))

/-- INPUT_POWER_LOSS (R467): no orderly stop; nothing is written. -/
def execInputPowerLoss (s : State) : Out := runIf s s.pw.pwrGood (powerOff s)

/-- VIN_LOW (R465). -/
def execVinLow (s : State) : Out := runIf s s.pw.pwrGood (setStain s rPwrStain 5)

/-- THERMTRIP (R475). -/
def execThermtrip (s : State) : Out :=
  let t := latchFault (powerOff s) 0
  runIf s s.pw.pwrGood { t with pw := { t.pw with thermtrip := true } }

/-- LEAK_DETECT (R476): the sensor runs on standby power. -/
def execLeakDetect (s : State) : Out :=
  let t := latchFault { s with pw := { s.pw with leak := true } } 1
  runIf s s.pw.stby (stainIf s.pw.pwrGood t rPwrStain 6)

/-! ## Telemetry device and EEPROM (R480-R482) -/

/-- SYS_LIMIT_WRITE (R482). -/
def execSysLimitWrite (v : BitVec 16) (s : State) : Out :=
  runIf s s.pw.stby
    (if 36 ≤ v.toNat ∧ v.toNat ≤ 72 then { s with pw := { s.pw with sysLimit := v.toNat } } else emit s .nack)

/-- FAULT_CLEAR (R482). -/
def execFaultClear (v : BitVec 16) (s : State) : Out :=
  runIf s s.pw.stby { s with pw := { s.pw with fault := s.pw.fault &&& ~~~ v } }

/-- I2C_EEPROM_WRITE (R480, R481): firmware writes the wear area, the system its own; any other write is refused whole. -/
def execI2cEepromWrite (firmware : Bool) (addr : BitVec 16) (bs : List Byte) (s : State) : Out :=
  let a := addr.toNat
  let z := a + bs.length
  let mine := if firmware then decide (0x9000 ≤ a) && decide (z ≤ 0xD000) else decide (0xD000 ≤ a) && decide (z ≤ 0x10000)
  runIf s s.pw.stby (if mine then putEeprom s a bs else emit s .nack)

/-- STANDBY_POWER_LOSS (R476, R482): the telemetry device loses its contents and the leak sensor falls silent. -/
def execStandbyPowerLoss (s : State) : Out :=
  runIf s s.pw.stby { s with pw := { s.pw with stby := false, leak := false, vin := 0, iin := 0, pin := 0, sysLimit := 72, fault := 0 } }

/-- STANDBY_POWER_RETURN (R482). -/
def execStandbyPowerReturn (s : State) : Out :=
  runIf s (!s.pw.stby) { s with pw := { s.pw with stby := true, sysLimit := 72, fault := 0x40 } }

end Sys2Proof.Machine
end

