-- ==== Sys2Proof/Machine/Views.lean ====
section
/-! DEFINITION. What every register reads (00 R5, 01 R21-R25, 13 R411 and the register tables of every chapter): registers that State
does not hold as such are computed from what it does hold. Write-only and reserved fields read 0. -/

namespace Sys2Proof.Machine

/-- A field of a register: value v at bit lo, of len bits. -/
def fieldAt (lo len v : Nat) : Nat := v % 2 ^ len * 2 ^ lo

/-- A one-bit field. -/
def flagAt (lo : Nat) (b : Bool) : Nat := if b then 2 ^ lo else 0

/-- The number whose bit i is set where `f` holds, for i below n. -/
def bitsWhere (n : Nat) (f : Nat → Bool) : Nat := ((List.range n).map (fun i => flagAt i (f i))).sum

/-- The low 32 bits of a number. -/
def wordOf (v : Nat) : Word := BitVec.ofNat 32 v

/-! ## 64-bit pairs (00 R5) -/

/-- The value of the pair whose _LO register lies at off (an offset of the PF's BAR0). -/
def pairValue (s : State) (off : Nat) : DWord :=
  let two : DWord := BitVec.ofNat 64 ((rreg s off).toNat + 2 ^ 32 * (rreg s (off + 4)).toNat)
  if isCount off then cnt s off
  else if off = rStitch then s.now
  else match inst (rRing 0) 0x40 512 off with
  | some n => (ringOf s n).cmdBase
  | none => match inst (rRing 0 + 8) 0x40 512 off with
    | some n => (ringOf s n).cplBase
    | none => match inst (rPeg 0 0) 0x10 32768 off with
      | some k => tget dw0 s.hp.pegs k
      | none => match inst (rTpValid 0) 0x10 8 off with
        | some p => BitVec.ofNat 64 (bitsWhere 64 (fun k => tpValid s p k))
        | none => match inst (rTmPart 0 + 0x20) 0x40 8 off with
          | some p => ((keyOf s p).map (·.id)).getD 0
          | none => match inst (rSnap 0 + 4) 0x10 4 off with
            | some k => (snapOf s k).t
            | none => match inst (rStainLog 0) 0x10 64 off with
              | some i => ((s.ob.log[i]?).map (·.time)).getD 0
              | none => two

/-! ## Host port (01 R22-R25, R45) -/

/-- Ring n's register at offset o. -/
def ringView (s : State) (n o : Nat) : Word :=
  let r := ringOf s n
  if o = 0x10 then r.cfg else if o = 0x14 then r.ctrl else if o = 0x18 then r.job else if o = 0x1C then r.nextSeq
  else if o = 0x20 then
    wordOf (flagAt 31 (ringIdle s n) + flagAt 30 r.halted + fieldAt 16 9 (inFlight s n) + fieldAt 0 16 r.cmdHead)
  else if o = 0x24 then wordOf (fieldAt 17 9 r.held.length + flagAt 16 r.phase + fieldAt 0 16 r.cplTail)
  else if o = 0x28 then r.err else 0

/-- HP_PART_STATUS(p). -/
def partStatus (s : State) (p : Nat) : Word :=
  wordOf ((rreg s (rPartStatus p)).toNat + flagAt 1 (quiet s p) + flagAt 0 (diesOf s p != 0 && (partOwner s.hp.own p).isSome))

/-- Word w of MSI-X table entry g; the pending bits of 32 vectors. -/
def msixView (s : State) (g w : Nat) : Word :=
  let m := msixOf s g
  if w = 0 then wordOf (m.addr.toNat % 2 ^ 32) else if w = 1 then wordOf (m.addr.toNat / 2 ^ 32) else if w = 2 then m.data
  else wordOf (flagAt 0 m.mask)

/-- A host port register of the PF. -/
def hpView (s : State) (off : Nat) : Word :=
  let n := vecCount s.hp.own 0
  if rRing 0 ≤ off ∧ off < rRing 512 then ringView s ((off - rRing 0) / 0x40) ((off - rRing 0) % 0x40)
  else if 0x2000 ≤ off ∧ off < 0x4000 then (if (off - 0x2000) / 16 < n then msixView s ((off - 0x2000) / 16) (off % 16 / 4) else 0)
  else if 0x4000 ≤ off ∧ off < 0x4040 then
    wordOf (bitsWhere 32 (fun i => decide ((off - 0x4000) * 8 + i < n) && (msixOf s ((off - 0x4000) * 8 + i)).pend))
  else match inst (rPartStatus 0) 0x10 8 off with
  | some p => partStatus s p
  | none => if off < rPartCfg 8 then rreg s off else 0

/-! ## TC and the compute dies (03 R107, 04 R132, 05 R169, 08 R292, 11 R379, 13 R433, 15 R485) -/

/-- A TC register. -/
def tcView (s : State) (off : Nat) : Word :=
  if off = rFuseSvn then s.boot.fuseSvn
  else if off = rPwrStatus then rreg s off ||| wordOf (fieldAt 12 4 s.pw.caps.length)
  else match inst (rTpStatus 0) 0x10 8 off with
  | some p =>
    let policy := if diesOf s p = 0 ∨ (partOwner s.hp.own p).isNone then 0 else fillPolicy s p
    let runs := (s.hp.jobs.filter (fun j => j.opcode == 0x0A12 && j.phase == .running && partOfRing s j.ring == some p)).length
    wordOf (fieldAt 24 2 policy + fieldAt 0 9 runs)
  | none => rreg s off

/-- The partition whose dies hold die d, where it is owned. -/
def dieOwner (s : State) (d : Nat) : Option Nat :=
  (List.range 8).find? (fun p => (partOwner s.hp.own p).isSome && bitOf (diesOf s p) d)

/-- The descriptors of an opcode that have begun on core c, named in byte `at'`, and are not decided. -/
def runningOn (s : State) (c op at' : Nat) (f : Job → Bool) : List Job :=
  s.hp.jobs.filter (fun k => k.opcode == op && (k.phase == .checked || k.phase == .running) && coreAt s (part s k) (k.fld at' 1) == some c && f k)

/-- A register of core c at offset o (03 R107). -/
def coreView (s : State) (c o : Nat) : Word :=
  let x := arrOf s c (o / 0x20)
  if o < 0x80 ∧ o % 0x20 = 0 then
    let level := if x.flight.isEmpty then x.level else 8
    let drains := runningOn s c 0x0202 41 (fun k => bitOf (k.fld 40 1) (o / 0x20))
    wordOf (flagAt 31 (!x.flight.isEmpty || !x.queue.isEmpty || !drains.isEmpty) +
      flagAt 30 (x.flight.isEmpty && x.level != 0 && !(x.level == 8 && !x.queue.isEmpty)) + fieldAt 26 4 level +
      fieldAt 24 2 (match x.held with
        | none => 0
        | some t => if t.wide then 2 else 1) +
      flagAt 23 x.shadow.isSome + flagAt 22 x.chain + fieldAt 0 9 x.flight.length)
  else if o < 0x80 ∧ o % 0x20 = 4 then wordOf (fieldAt 0 12 x.cols.length)
  else if o = 0x100 then
    let own := dieOwner s (c / 8)
    let dead := s.boot.retired.getLsbD c
    let number := match own with
      | some p => (coresOf s p).findIdx (· == c)
      | none => 0
    wordOf (fieldAt 8 6 (if dead && !s.boot.keepNum.getLsbD c then 0 else number) + flagAt 5 own.isSome + fieldAt 2 3 (own.getD 0) +
      flagAt 1 dead + flagAt 0 (own.isSome && !dead))
  else if o = 0x104 then rreg s (rMxStain c)
  else if o = 0x400 then
    (match runningOn s c 0x0300 47 (fun _ => true) with
     | k :: _ => wordOf (flagAt 31 true + fieldAt 16 5 (k.fld 45 1))
     | [] => 0)
  else 0

/-- What core c's Press pipeline runs (05 R169): its operation, and whether it is a priority part; none: nothing. -/
def pressRuns (s : State) (c : Nat) : Option (Nat × Bool) :=
  if (prioStreams s).any (fun j => (prioCores s j).contains c) then some (1, true)
  else
    let ops : List (Nat × Nat × Nat) := [(0x0500, 55, 1), (0x0504, 55, 2), (0x0505, 55, 4), (0x0606, 55, 4), (0x0503, 55, 5), (0x0507, 46, 6)]
    match ops.find? (fun e => !(runningOn s c e.1 e.2.1 (fun k => e.1 != 0x0500 || k.bits 2 4 1 == 0 || k.demoted)).isEmpty) with
    | some e => some (e.2.2, false)
    | none =>
      if s.hp.jobs.any (fun k => k.opcode == 0x0502 && k.phase == .checked && coreAt s (part s k) (k.fmt 48) == some c) then some (3, false)
      else if s.tp.tickets.any (fun e => (e.2.job.bind (job? s)).any (fun k => k.opcode == 0x0501) && e.2.out.any (fun x => x.1 == c))
      then some (7, false) else none

/-- SC_POOL_STATUS(d) (08 R292). -/
def poolView (s : State) (d : Nat) : Word :=
  let used := (((allPages s).filter (fun e => e.2.2.tier == 0 && e.2.2.die == d)).map (fun e => e.2.2.size)).sum
  let all := tget (fun _ => 0) s.tm.split d * 2 ^ 27
  wordOf (fieldAt 30 2 (rfield s (rPoolStatus d) 30 2) + fieldAt 16 11 (cdiv used (2 ^ 20)) + fieldAt 0 11 ((all - used) / 2 ^ 20))

/-- A register of FN, PR or SC. -/
def unitView (s : State) (off : Nat) : Word :=
  if off = rPrPriority then wordOf (fieldAt 0 3 (prioStreams s).length)
  else match inst (rFnValid 0) 0x10 8 off with
  | some p => wordOf (bitsWhere 32 (fun k => progValid s p k))
  | none => match inst (rFnStatus 0) 0x10 64 off with
  | some c =>
    (match ([0x0400, 0x0401, 0x0402, 0x0403, 0x0404].flatMap (fun op => runningOn s c op 43 (fun _ => true))) with
     | k :: _ => wordOf (flagAt 31 true + fieldAt 16 8 (k.fld 40 1))
     | [] => 0)
  | none => match inst (rPrStatus 0) 0x10 64 off with
  | some c => (match pressRuns s c with
    | some r => wordOf (flagAt 31 true + fieldAt 28 3 r.1 + flagAt 27 r.2)
    | none => 0)
  | none => match inst (rPoolStatus 0) 0x10 8 off with
    | some d => poolView s d
    | none => match inst (rTicketStatus 0) 0x10 8 off with
      | some p =>
        let used (a b : Nat) : Nat := ((List.range b).filter (fun k => decide (a ≤ k) && (ticketOf s p k).job.isSome)).length
        wordOf (fieldAt 16 9 (used 240 256) + fieldAt 0 8 (used 0 240))
      | none => rreg s off

/-! ## Tiers, carrier, streams (06 R204, 08 R291-R293, 09 R321, 10 R352) -/

/-- A tier register of partition p at offset o. -/
def tmPartView (s : State) (p o : Nat) : Word :=
  if o = 0x04 then wordOf (fieldAt 0 20 (cdiv (t1Used s p) (2 ^ 20)))
  else if o = 0x0C then wordOf (fieldAt 0 16 (t2Used s p / 2 ^ 30))
  else if o = 0x18 then wordOf (flagAt 31 (keyOf s p).isSome)
  else if o = 0x1C then wordOf (fieldAt 0 20 (s.tm.objs.filter (fun x => x.p == p)).length)
  else if o = 0x28 then wordOf (flagAt 31 (s.hp.jobs.any (fun j => (j.opcode == 0x0707 || j.opcode == 0x0708) &&
    (j.phase == .checked || j.phase == .running) && partOfRing s j.ring == some p)) + fieldAt 0 9 (ckptsOf s p).length)
  else rreg s (rTmPart p + o)

/-- A pattern register of partition p at offset o (06 R204). -/
def patternView (s : State) (p o : Nat) : Word :=
  let x := patsOf s p
  if o = 4 then wordOf (flagAt 31 x.shadow.isSome + flagAt 30 x.drain.isSome + fieldAt 24 5 ((x.cur.map (·.cap)).getD 0) +
    fieldAt 0 16 ((x.cur.map (·.gen.toNat)).getD 0))
  else if o = 8 then wordOf (fieldAt 0 23 (((x.cur.map (·.entries)).getD []).filter (fun e => e.2.refs != 0)).length)
  else rreg s (rPattern p + o)

/-- SE_Q_STATUS of queue q (10 R352). -/
def queueView (s : State) (q : Nat) : Word :=
  let x := queueOf s q
  let die := if q < 1024 then some (q / 128) else if q < 1280 then some ((q - 1024) / 32) else none
  let own := match die with
    | some d => dieOwner s d
    | none => if (partOwner s.hp.own ((q - 1280) / 8)).isSome then some ((q - 1280) / 8) else none
  let run (f : Arming → Nat) : Nat := (x.run.map f).getD 0
  wordOf (flagAt 31 x.run.isSome + flagAt 30 x.pend.isSome + flagAt 29 (x.run.any (·.two)) + flagAt 28 (x.full.any (fun n => n % 2 == 1)) +
    flagAt 27 (x.full.any (fun n => n % 2 == 0)) + fieldAt 26 1 x.next + fieldAt 23 3 (run (·.prio)) + fieldAt 20 3 (own.getD 0) +
    flagAt 19 own.isSome + fieldAt 8 9 (issuedOf s q).length + fieldAt 0 8 (run (fun a => a.limit - 1)))

/-- The channel that holds parity for the stripe last written (08 R282, 09 R321), of 31 data pages of 16 KiB of Deep logical space; none
without a carrier in service. -/
def lastStripe (s : State) : Option Nat :=
  if deepReady s ∧ 1024 < s.tm.deepNext then some ((16 * s.tm.deepNext - 1) / (31 * 16384) % 32) else none

/-- A DT or TM register. -/
def tierView (s : State) (off : Nat) : Word :=
  if off = rDtStatus then wordOf ((rreg s off).toNat + fieldAt 16 8 s.tm.indexes.length)
  else if off = rTmStatus then wordOf ((rreg s off).toNat + fieldAt 0 10 ((tier1Bytes - t1Total s) / 2 ^ 30))
  else if rTmPart 0 ≤ off ∧ off < rTmPart 8 then tmPartView s ((off - rTmPart 0) / 0x40) ((off - rTmPart 0) % 0x40)
  else if rPattern 0 ≤ off ∧ off < rPattern 8 then patternView s ((off - rPattern 0) / 0x20) ((off - rPattern 0) % 0x20)
  else match inst (rDtChan 0) 4 32 off with
  | some f => wordOf ((rreg s off).toNat + flagAt 30 (lastStripe s == some f) + fieldAt 0 9 (ctxUsed s f))
  | none => rreg s off

/-- A stream register. -/
def seView (s : State) (off : Nat) : Word :=
  match inst (rSeCore 0 0) 0x40 1024 off with
  | some q => queueView s q
  | none => match inst (rSeDie 0 0) 0x40 256 off with
    | some q => queueView s (1024 + q)
    | none => match inst (rSeHub 0) 0x40 64 off with
      | some q => queueView s (1280 + q)
      | none => rreg s off

/-! ## Ports, groups, observation (07 R247, 12 R409, 14 R460) -/

/-- A register of port pt at offset o. -/
def portView (s : State) (pt o : Nat) : Word :=
  let x := portOf s pt
  if o = 0 then wordOf (fieldAt 26 6 (rfield s (rPort pt) 26 6) + fieldAt 21 5 (laneCount x.txAct) + fieldAt 16 5 (laneCount x.rxAct) +
    fieldAt 14 2 (sat 2 (laneCount x.txSpare)) + fieldAt 12 2 (sat 2 (laneCount x.rxSpare)) + flagAt 11 (isUp s (pairOf pt)))
  else if o = 0x0C then (x.rxFail ||| x.txFail).setWidth 32
  else if o = 0x10 then wordOf (flagAt 31 x.hello.isSome + flagAt 30 x.auth + fieldAt 12 4 ((x.hello.map (fun h => h.2.1)).getD 0) +
    fieldAt 0 12 ((x.hello.map (fun h => h.1.toNat)).getD 0))
  else if o = 0x18 then (x.rxAct ||| x.txAct).setWidth 32
  else rreg s (rPort pt + o)

/-- A register of group slot g at offset o. -/
def groupView (s : State) (g o : Nat) : Word :=
  match grpOf s g with
  | none => 0
  | some x =>
    let st := if x.joining.isSome then 3 else if x.broken.isSome then 2 else if x.run.isSome then 1 else 0
    if o = 0 then wordOf (2 ^ 31 + fieldAt 29 2 st + fieldAt 26 3 x.p + fieldAt 12 12 x.index + fieldAt 0 12 (x.members.length - 1))
    else if o = 4 then x.gid.setWidth 32 else if o = 8 then x.epoch else wordOf (fieldAt 0 32 x.next)

/-- OB_STAIN_SUMMARY (14 R446): bit k while any Stain bit of kind k is set. -/
def stainSummary (s : State) : Nat :=
  bitsWhere 14 (fun k => s.regs.any (fun e => e.2 != 0 && (match stainAt e.1 with
    | some (i, _, _) => i == k
    | none => false)))

/-- Whether ALERT_N is asserted (14 R446). -/
def alert (s : State) : Bool := stainSummary s &&& (rreg s rAlertMask).toNat != 0

/-! ## Pins (15 R477, R479) -/

/-- What the interfaces of a fitted module show (R479): the levels of the pins, whether the I²C devices answer, whether the ports may be
lit, whether the PCIe link is up. -/
structure Pins where
  prsntN : Bool
  pwrGood : Bool
  alertN : Bool
  thermtripN : Bool
  leakN : Bool
  i2c : Bool
  lit : Bool
  pcie : Bool
  deriving DecidableEq, Repr

/-- The pins as they stand (R479). -/
def pinsOf (s : State) : Pins :=
  ⟨false, s.pw.pwrGood, !(s.pw.pwrGood && alert s), !s.pw.thermtrip, !s.pw.leak, s.pw.stby, s.boot.litAt.isSome,
    s.pw.pwrGood && !s.pw.perst && s.hp.linkUp⟩

/-- An OB register. -/
def obView (s : State) (off : Nat) : Word :=
  let i := stitchInfo s
  if off = rStitchStatus then wordOf (flagAt 31 i.locked + flagAt 30 i.isRoot + flagAt 29 i.alone + fieldAt 24 5 i.hops +
    fieldAt 20 4 i.parent + fieldAt 12 8 (sat 255 i.bound) + fieldAt 0 12 i.root)
  else if off = rStitchOffset then wordOf (unsgn 32 (i.theta * 1000 / 64))
  else if off = rTagStatus then wordOf (fieldAt 0 11 (s.ob.tags.filter (·.done)).length)
  else if off = rSummary then wordOf (stainSummary s)
  else if off = rLogCtrl then wordOf (flagAt 31 s.ob.overflow + fieldAt 0 7 s.ob.log.length)
  else match inst (rSnap 0) 0x10 4 off with
  | some k => wordOf (fieldAt 30 2 (snapOf s k).state + fieldAt 0 16 (snapOf s k).sid)
  | none => match inst (rStainLog 0 + 8) 0x10 64 off with
    | some n => (match s.ob.log[n]? with
      | some e => wordOf (fieldAt 24 8 e.kind + fieldAt 16 8 e.inst + fieldAt 8 8 e.bit)
      | none => 0)
    | none => rreg s off

/-! ## The whole map (00 R5, 01 R21, R22, 13 R411) -/

/-- Whether a register reads its value although the module is not READY (13 R411): the TC block, the host port's registers and MSI-X
tables, Stain registers, the Stain log. -/
def readsEarly (off : Nat) : Bool :=
  (decide (rBootStatus ≤ off) && decide (off < 0x200000)) || decide (off < rBootStatus) || (stainAt off).isSome || off == rLogCtrl ||
  (decide (rStainLog 0 ≤ off) && decide (off < rStainLog 64))

/-- A 32-bit register that is no half of a pair. -/
def plainView (s : State) (off : Nat) : Word :=
  if off < rBootStatus then hpView s off
  else if off < 0x200000 then tcView s off
  else if off < rDrySpin then coreView s ((off - rCore 0) / 0x2000) ((off - rCore 0) % 0x2000)
  else if off < 0x600000 then unitView s off
  else match inst (rHm 0) 0x10000 12 off with
  | some _ => wordOf (flagAt 31 s.boot.hbmDone + (rreg s off).toNat)
  | none =>
    if off < rSeCore 0 0 then tierView s off
    else if off < rPort 0 then seView s off
    else match inst (rWinOpen 0) 4 4 off with
    | some i => wordOf (bitsWhere 32 (fun b => s.ol.wins.any (fun w => w.id == 0x80 + 32 * i + b)))
    | none =>
      if off = rVcWeights then rreg s off
      else if off < rGroup 0 then portView s ((off - rPort 0) / 0x10000) ((off - rPort 0) % 0x10000)
      else if off < rGroup 64 then groupView s ((off - rGroup 0) / 0x10) (off % 0x10)
      else if off < rStitch then rreg s off
      else obView s off

/-- What the register at `off` of the PF's BAR0 reads; a _HI register reads the present high half (00 R5). -/
def readReg (s : State) (off : Nat) : Word :=
  if !ready s && !readsEarly off then regReset off
  else if isPairLo off then wordOf ((pairValue s off).toNat % 2 ^ 32)
  else if 4 ≤ off ∧ isPairLo (off - 4) then wordOf ((pairValue s (off - 4)).toNat / 2 ^ 32)
  else plainView s off

/-- The offset in the PF's BAR0 of what function f reaches at offset `off` of its own BAR0 (01 R21); none: nothing is there. -/
def barOffset (s : State) (f off : Nat) : Option Nat :=
  if !inBar s f 0 off then none
  else if f = 0 then some off
  else if !present s f then none
  else if off = 0 then some (rPartStatus (f - 1))
  else if 0x1000 ≤ off ∧ off < 0x1000 + 56 * 0x40 then some (rRing (ringBase f) + (off - 0x1000))
  else if 0x2000 ≤ off ∧ off < 0x2000 + 56 * 16 then some (0x2000 + 16 * vecBase s.hp.own f + (off - 0x2000))
  else if 0x10000 ≤ off ∧ off < 0x20000 then some (rPeg (f - 1) 0 + (off - 0x10000))
  else none

/-- PAIR_LO_READ (00 R5): function f reads a _LO register; the high half is latched for it. -/
def execPairLoRead (f : Fin 9) (off : Word) (s : State) : Out :=
  .next (match barOffset s f.val off.toNat with
    | none => s
    | some o =>
      if isPairLo o && booting s then
        let v := if !ready s && !readsEarly o then (regReset o).toNat + 2 ^ 32 * (regReset (o + 4)).toNat else (pairValue s o).toNat
        let t := { s with hp := { s.hp with latches := tset (fun _ => none) s.hp.latches (f.val * 2 ^ 32 + o) (some (wordOf (v / 2 ^ 32))) } }
        emit t (.regData f.val off.toNat (wordOf (v % 2 ^ 32)))
      else s)

/-- What function f reads at offset `off` of its BAR0: a _HI register reads its latched half once _LO has been read (00 R5). -/
def readBar (s : State) (f off : Nat) : Word :=
  match barOffset s f off with
  | none => if f ≠ 0 ∧ present s f ∧ 0x3000 ≤ off ∧ off < 0x3008 then
      wordOf (bitsWhere 32 (fun i => decide ((off - 0x3000) * 8 + i < 56) &&
        (msixOf s (vecBase s.hp.own f + (off - 0x3000) * 8 + i)).pend)) else 0
  | some o =>
    if f ≠ 0 ∧ 0x2000 ≤ o ∧ o < 0x4000 then msixView s ((o - 0x2000) / 16) (o % 16 / 4) else
    match tget (fun _ => none) s.hp.latches (f * 2 ^ 32 + (o - 4)) with
    | some w => if 4 ≤ o ∧ isPairLo (o - 4) then w else readReg s o
    | none => readReg s o

end Sys2Proof.Machine
end

