-- ==== Sys2Proof/Machine/Complete.lean ====
section
/-! DEFINITION. How a descriptor ends and completes (01 R31, R42-R44): DESCRIPTOR_COMPLETE. -/

namespace Sys2Proof.Machine

/-- How running descriptor j ends that a job abort may have met (01 R47): DONE, or JOB_ABORTED. -/
def laterEnd (j : Job) : Ending := if j.status = stAborted then (stAborted, 0) else (stDone, 0)

/-- Descriptor j, running, ends where what it waited for has come: a free or a truncate whose references are gone (08 R489, 06 R180), a
prefetch (08 R272), records and tombstones written (09 R303, R304), a search (09 R306), an unload (04 R125, 11 R367), a layer-pipeline run (11 R369), a destroyed group (07
R210), a Spin (07 R222), a core's retirement (14 R451); where a route went down elsewhere, the operation over it ends (07 R213, R234, 12
R404). Other operations are ended by the command that decides them. -/
def endRunning (s : State) (j : Job) : State :=
  let id := j.id
  let op := j.opcode
  let p := part s j
  if op = 0x0603 ∨ op = 0x0701 ∨ op = 0x0901 then
    (match freeDue s id with
     | some o => finish (releaseObj s o.p o.id) id (laterEnd j)
     | none => s)
  else if op = 0x0602 then
    (match truncateDue s id with
     | some e => finish (truncateEnd s id e) id (laterEnd j)
     | none => s)
  else if op = 0x0703 then prefetchEnd s j
  else if op = 0x0902 ∨ op = 0x0903 then finish (closeNumbers s p j.obj id false) id (j.status, j.detail.toNat)
  else if op = 0x0904 then
    (match searchDue s id with
     | some x => endSearch s j x
     | none => s)
  else if op = 0x0A11 then (if unloadDue s j then finish (setTpSlot s p (j.bits 24 0 6) none) id (laterEnd j) else s)
  else if op = 0x0A12 then endTpRun s j
  else if op = 0x0406 then
    (if unloadsNow s p (j.bits 24 0 5) j then finish (setProg s p (j.bits 24 0 5) none) id (laterEnd j) else s)
  else if op = 0x0801 then
    (match destroyDue s id with
     | some g => finish (destroyGrp s g) id (laterEnd j)
     | none => s)
  else if 0x0802 ≤ op ∧ op ≤ 0x0809 then
    (match grpWhere s (fun x => x.run.any (fun r => r.job == id)) with
     | some (g, _) => endSpin (checkRoutes (takeHeld s) g) id
     | none => s)
  else if op = 0x0A22 ∨ op = 0x0A23 ∨ op = 0x080A then loseOps s (fun o => o.job == id && !reachable s o.dest.toNat)
  else if op = 0x0B10 then (if (coreJobs s (j.fld 16 1)).isEmpty then finish s id (laterEnd j) else s)
  else s

/-- DESCRIPTOR_COMPLETE (01 R43): a descriptor whose work has ended is decided, if it was not, and completes. -/
def execDescriptorComplete (id : Nat) (s : State) : Out :=
  .next (match job? s id with
    | none => s
    | some j =>
      let t := if j.phase = .running then endRunning s j else s
      match job? t id with
      | some k => if mayComplete t k then completeJob t k else t
      | none => t)

end Sys2Proof.Machine
end

