-- ==== Sys2Proof/Machine/Bus.lean ====
section
/-! DEFINITION. REGISTER_WRITE (00 R6, 01 R21, R22, 13 R411): a write by a function at an offset of its BAR0. A register whose write has
a command of its own has the effect of that command. -/

namespace Sys2Proof.Machine

/-- What a meaning leaves, where it answers a next state. -/
def stateOf (s : State) (o : Out) : State := match o with
  | .next t => t
  | _ => s

/-- A write by the field rules of 00 R6 alone. -/
def plainWrite (s : State) (off : Nat) (v : Word) : State := wreg s off (regWritten off (rreg s off) v)

/-- A write to CE_LAG_CFG (07 R231): the totals of the present lag window go on in the window of the new length that now runs. -/
def lagCfgWrite (s : State) (v : Word) : State :=
  let t := plainWrite s rLagCfg v
  let w := s.now.toNat / lagSpan t
  if lagSpan t = lagSpan s then t
  else { t with ce := { t.ce with lag := (t.ce.lag.filter (fun e => e.1 == s.now.toNat / lagSpan s)).map (fun e => (w, e.2)), window := w } }

/-- A write to entry g of the MSI-X table, word w (01 R22, R45). -/
def msixWrite (s : State) (g w : Nat) (v : Word) : State :=
  let m := msixOf s g
  if w = 0 then setMsix s g { m with addr := BitVec.ofNat 64 (m.addr.toNat / 2 ^ 32 * 2 ^ 32 + v.toNat / 4 * 4) }
  else if w = 1 then setMsix s g { m with addr := BitVec.ofNat 64 (v.toNat * 2 ^ 32 + m.addr.toNat % 2 ^ 32) }
  else if w = 2 then setMsix s g { m with data := v }
  else if v.getLsbD 0 then setMsix s g { m with mask := true } else unmask s g

/-- A write to OL_PORT_CTRL of port pt (12 R409): DISABLE first, then QUARANTINE, then RELEASE. -/
def portCtrlWrite (s : State) (pt : Fin 16) (v : Word) : State :=
  let t := stateOf s (if v.getLsbD 0 then execPortDisable pt s else execPortEnable pt s)
  let u := if v.getLsbD 1 then stateOf t (execPortQuarantine pt t) else t
  if v.getLsbD 2 then stateOf u (execPortRelease pt u) else u

/-- A write to the host port's registers, by function f. -/
def hpWrite (f : Fin 9) (o : Nat) (v : Word) (s : State) : State :=
  let n := (o - rRing 0) / 0x40
  let k := (o - rPeg 0 0) / 0x10
  let g := (o - 0x2000) / 16
  if rRing 0 ≤ o ∧ o < rRing 512 then
    if o % 0x40 = 0x14 then
      stateOf s (if v.getLsbD 0 then execRingEnable f (Fin.ofNat 512 n) v s else execRingDisable f (Fin.ofNat 512 n) v s)
    else if ready s && mayRing s f.val n then ringReg s n (o % 0x40) v else s
  else if rPeg 0 0 ≤ o then
    (if o % 16 = 8 then stateOf s (execPegWindowAdd f (Fin.ofNat 8 (k / 4096)) (Fin.ofNat 4096 k) v s) else s)
  else if 0x2000 ≤ o ∧ o < 0x4000 then (if f.val ≠ 0 ∨ g < vecCount s.hp.own 0 then msixWrite s g (o % 16 / 4) v else s)
  else if f.val ≠ 0 ∨ !ready s then s
  else match inst (rPartCfg 0) 0x10 8 o with
  | some p => stateOf s (execPartCfgWrite (Fin.ofNat 8 p) v s)
  | none => match inst (rPartCtrl 0) 0x10 8 o with
    | some p => partWrite s p v
    | none => plainWrite s o v

/-- A write of the PF to a block other than the host port: the TC block takes it in every boot state, the others only when the module is
READY (13 R411). -/
def blockWrite (o : Nat) (v : Word) (s : State) : State :=
  if o = rBootCtrl then (if v.getLsbD 0 then stateOf s (execGo v s) else plainWrite s o v)
  else if o = rModuleReset then stateOf s (execModuleResetCommand v s)
  else if o = rPwrCap then stateOf s (execTcPwrCapWrite v s)
  else if o < 0x200000 then plainWrite s o v
  else if !ready s then s
  else if o = rLagCfg then lagCfgWrite s v
  else if o = rTagCfg then stateOf s (execObTagCfgWrite v s)
  else if o = rLogCtrl then (if v.getLsbD 7 then stateOf s (execStainLogClear s) else s)
  else match inst (rPoolCfg 0) 0x10 8 o with
  | some d => stateOf s (execScPoolCfgWrite (Fin.ofNat 8 d) v s)
  | none => match inst (rPort 0 + 4) 0x10000 16 o with
    | some pt => portCtrlWrite s (Fin.ofNat 16 pt) v
    | none => plainWrite s o v

/-- REGISTER_WRITE (00 R6). -/
def execRegisterWrite (f : Fin 9) (off : Word) (v : Word) (s : State) : Out :=
  .next (match barOffset s f.val off.toNat with
    | none => s
    | some o => if !booting s || o % 4 != 0 then s else if o < rBootStatus then hpWrite f o v s else blockWrite o v s)

end Sys2Proof.Machine
end

