-- ==== Sys2Proof/Machine/Dispatch.lean ====
section
/-! DEFINITION. What each command does to everything but the queue: one arm per command, each a direct call of its meaning. -/

namespace Sys2Proof.Machine

/-- The effect of a command (the row's cut: on everything but the queue). -/
def exec (i : Instr) (s : State) : Host.Outcome State Fault Refusal :=
  match i with
  | .registerWrite f off v => Sys2Proof.Machine.execRegisterWrite f off v s
  | .partCfgWrite p v => Sys2Proof.Machine.execPartCfgWrite p v s
  | .partSuspend p v => Sys2Proof.Machine.execPartSuspend p v s
  | .partResume p v => Sys2Proof.Machine.execPartResume p v s
  | .partFlush p => Sys2Proof.Machine.execPartFlush p s
  | .partHeldFlush p => Sys2Proof.Machine.execPartHeldFlush p s
  | .ringEnable f n v => Sys2Proof.Machine.execRingEnable f n v s
  | .ringDisable f n v => Sys2Proof.Machine.execRingDisable f n v s
  | .hpDbCmdTail f page v => Sys2Proof.Machine.execHpDbCmdTail f page v s
  | .hpDbCplHead f page v => Sys2Proof.Machine.execHpDbCplHead f page v s
  | .pegWindowAdd f p k v => Sys2Proof.Machine.execPegWindowAdd f p k v s
  | .msixUnmask f vec => Sys2Proof.Machine.execMsixUnmask f vec s
  | .descriptorFetch slot => Sys2Proof.Machine.execDescriptorFetch slot s
  | .descriptorFetchFail => Sys2Proof.Machine.execDescriptorFetchFail s
  | .descriptorBegin n => Sys2Proof.Machine.execDescriptorBegin n s
  | .descriptorComplete id => Sys2Proof.Machine.execDescriptorComplete id s
  | .heldCompletionWrite n => Sys2Proof.Machine.execHeldCompletionWrite n s
  | .coalTimeExpire n => Sys2Proof.Machine.execCoalTimeExpire n s
  | .nop id => Sys2Proof.Machine.execNop id s
  | .pegAdd id => Sys2Proof.Machine.execPegAdd id s
  | .pegSet id => Sys2Proof.Machine.execPegSet id s
  | .hostWrite id => Sys2Proof.Machine.execHostWrite id s
  | .tpLoad id => Sys2Proof.Machine.execTpLoad id s
  | .tpUnload id => Sys2Proof.Machine.execTpUnload id s
  | .tpRun id => Sys2Proof.Machine.execTpRun id s
  | .ticketRead id => Sys2Proof.Machine.execTicketRead id s
  | .ticketReset id => Sys2Proof.Machine.execTicketReset id s
  | .ticketDraw p k c => Sys2Proof.Machine.execTicketDraw p k c s
  | .ticketComplete p k c t gen => Sys2Proof.Machine.execTicketComplete p k c t gen s
  | .windowOpen id => Sys2Proof.Machine.execWindowOpen id s
  | .windowClose id => Sys2Proof.Machine.execWindowClose id s
  | .remoteWrite id => Sys2Proof.Machine.execRemoteWrite id s
  | .remoteRead id => Sys2Proof.Machine.execRemoteRead id s
  | .planLoad id plan => Sys2Proof.Machine.execPlanLoad id plan s
  | .attest id => Sys2Proof.Machine.execAttest id s
  | .hold id => Sys2Proof.Machine.execHold id s
  | .product id => Sys2Proof.Machine.execProduct id s
  | .productIssue c a => Sys2Proof.Machine.execProductIssue c a s
  | .productLanding c a => Sys2Proof.Machine.execProductLanding c a s
  | .drain id => Sys2Proof.Machine.execDrain id s
  | .drySpin id => Sys2Proof.Machine.execDrySpin id s
  | .dryspinRampStep c a => Sys2Proof.Machine.execDryspinRampStep c a s
  | .needle id => Sys2Proof.Machine.execNeedle id s
  | .apply id => Sys2Proof.Machine.execApply id s
  | .gate id => Sys2Proof.Machine.execGate id s
  | .stats id => Sys2Proof.Machine.execStats id s
  | .norm id => Sys2Proof.Machine.execNorm id s
  | .softmax id => Sys2Proof.Machine.execSoftmax id s
  | .loadProgram id => Sys2Proof.Machine.execLoadProgram id s
  | .unloadProgram id => Sys2Proof.Machine.execUnloadProgram id s
  | .press id => Sys2Proof.Machine.execPress id s
  | .decodeBatch id => Sys2Proof.Machine.execDecodeBatch id s
  | .pressBackward id => Sys2Proof.Machine.execPressBackward id s
  | .finish id => Sys2Proof.Machine.execFinish id s
  | .pleat id => Sys2Proof.Machine.execPleat id s
  | .bound id => Sys2Proof.Machine.execBound id s
  | .pressGradDrain id => Sys2Proof.Machine.execPressGradDrain id s
  | .kvCreate id => Sys2Proof.Machine.execKvCreate id s
  | .kvAppend id => Sys2Proof.Machine.execKvAppend id s
  | .kvAppendComplete id => Sys2Proof.Machine.execKvAppendComplete id s
  | .kvTruncate id => Sys2Proof.Machine.execKvTruncate id s
  | .kvFree id => Sys2Proof.Machine.execKvFree id s
  | .kvAttach id => Sys2Proof.Machine.execKvAttach id s
  | .kvPublish id => Sys2Proof.Machine.execKvPublish id s
  | .recallBound id => Sys2Proof.Machine.execRecallBound id s
  | .recallSelect id => Sys2Proof.Machine.execRecallSelect id s
  | .recallClose id => Sys2Proof.Machine.execRecallClose id s
  | .patternRebuild id => Sys2Proof.Machine.execPatternRebuild id s
  | .generationSwitch t => Sys2Proof.Machine.execGenerationSwitch t s
  | .generationDrained t => Sys2Proof.Machine.execGenerationDrained t s
  | .objCreate id => Sys2Proof.Machine.execObjCreate id s
  | .objFree id => Sys2Proof.Machine.execObjFree id s
  | .objPolicy id => Sys2Proof.Machine.execObjPolicy id s
  | .prefetch id => Sys2Proof.Machine.execPrefetch id s
  | .release id => Sys2Proof.Machine.execRelease id s
  | .writeBack id => Sys2Proof.Machine.execWriteBack id s
  | .evict id => Sys2Proof.Machine.execEvict id s
  | .checkpoint id => Sys2Proof.Machine.execCheckpoint id s
  | .restore id => Sys2Proof.Machine.execRestore id s
  | .checkpointDrop id => Sys2Proof.Machine.execCheckpointDrop id s
  | .catalog id => Sys2Proof.Machine.execCatalog id s
  | .keyLoad id => Sys2Proof.Machine.execKeyLoad id s
  | .query id => Sys2Proof.Machine.execQuery id s
  | .tierFaultResolved p va => Sys2Proof.Machine.execTierFaultResolved p va s
  | .spillEvict p => Sys2Proof.Machine.execSpillEvict p s
  | .pageFetchDone p va x => Sys2Proof.Machine.execPageFetchDone p va x s
  | .frameWriteDone p va => Sys2Proof.Machine.execFrameWriteDone p va s
  | .hbmPatrolScrub st ce ue late => Sys2Proof.Machine.execHbmPatrolScrub st ce ue late s
  | .sramScrub d ce cores units x => Sys2Proof.Machine.execSramScrub d ce cores units x s
  | .scPoolCfgWrite d v => Sys2Proof.Machine.execScPoolCfgWrite d v s
  | .poolSplitDone d => Sys2Proof.Machine.execPoolSplitDone d s
  | .groupCreate id => Sys2Proof.Machine.execGroupCreate id s
  | .groupDestroy id => Sys2Proof.Machine.execGroupDestroy id s
  | .spin id => Sys2Proof.Machine.execSpin id s
  | .allReduce id srcs => Sys2Proof.Machine.execAllReduce id srcs s
  | .reduce id srcs => Sys2Proof.Machine.execReduce id srcs s
  | .reduceScatter id srcs => Sys2Proof.Machine.execReduceScatter id srcs s
  | .allGather id srcs => Sys2Proof.Machine.execAllGather id srcs s
  | .broadcast id srcs => Sys2Proof.Machine.execBroadcast id srcs s
  | .seqReduce id srcs => Sys2Proof.Machine.execSeqReduce id srcs s
  | .barrier id => Sys2Proof.Machine.execBarrier id s
  | .remotePegAdd id => Sys2Proof.Machine.execRemotePegAdd id s
  | .joinFrameReceive pt fr q g hash => Sys2Proof.Machine.execJoinFrameReceive pt fr q g hash s
  | .collFirstFrame pt fr h index sig => Sys2Proof.Machine.execCollFirstFrame pt fr h index sig s
  | .chunkArrival x => Sys2Proof.Machine.execChunkArrival x s
  | .spinSlotGrant x dir step => Sys2Proof.Machine.execSpinSlotGrant x dir step s
  | .mismatchNotice pt origin num x => Sys2Proof.Machine.execMismatchNotice pt origin num x s
  | .timeoutNotice pt origin num x => Sys2Proof.Machine.execTimeoutNotice pt origin num x s
  | .lostNotice pt origin num x => Sys2Proof.Machine.execLostNotice pt origin num x s
  | .groupWatchdogExpire g => Sys2Proof.Machine.execGroupWatchdogExpire g s
  | .lagWindowEnd w => Sys2Proof.Machine.execLagWindowEnd w s
  | .idxCreate id => Sys2Proof.Machine.execIdxCreate id s
  | .idxFree id => Sys2Proof.Machine.execIdxFree id s
  | .insert id => Sys2Proof.Machine.execInsert id s
  | .delete id => Sys2Proof.Machine.execDelete id s
  | .search id => Sys2Proof.Machine.execSearch id s
  | .merge id => Sys2Proof.Machine.execMerge id s
  | .sortPageArrival ch x => Sys2Proof.Machine.execSortPageArrival ch x s
  | .carrierReady controllers x => Sys2Proof.Machine.execCarrierReady controllers x s
  | .carrierLinkFail removed => Sys2Proof.Machine.execCarrierLinkFail removed s
  | .arm id => Sys2Proof.Machine.execArm id s
  | .swap id => Sys2Proof.Machine.execSwap id s
  | .halfReset id => Sys2Proof.Machine.execHalfReset id s
  | .transferIssue e => Sys2Proof.Machine.execTransferIssue e s
  | .transferLanded q k host poison => Sys2Proof.Machine.execTransferLanded q k host poison s
  | .mergeHoldExpire q => Sys2Proof.Machine.execMergeHoldExpire q s
  | .snapshot id => Sys2Proof.Machine.execSnapshot id s
  | .snapshotLatch k => Sys2Proof.Machine.execSnapshotLatch k s
  | .snapshotRead id => Sys2Proof.Machine.execSnapshotRead id s
  | .tagDrain id => Sys2Proof.Machine.execTagDrain id s
  | .jobAbort id => Sys2Proof.Machine.execJobAbort id s
  | .powerCap id => Sys2Proof.Machine.execPowerCap id s
  | .retireCore id => Sys2Proof.Machine.execRetireCore id s
  | .retireThimble id => Sys2Proof.Machine.execRetireThimble id s
  | .hbmRow id spares took pages => Sys2Proof.Machine.execHbmRow id spares took pages s
  | .sramRemap id spares took => Sys2Proof.Machine.execSramRemap id spares took s
  | .flashBlock id took => Sys2Proof.Machine.execFlashBlock id took s
  | .retireLane id => Sys2Proof.Machine.execRetireLane id s
  | .obTagCfgWrite v => Sys2Proof.Machine.execObTagCfgWrite v s
  | .stainLogClear => Sys2Proof.Machine.execStainLogClear s
  | .frayEvaluate ms => Sys2Proof.Machine.execFrayEvaluate ms s
  | .frayHistoryWrite => Sys2Proof.Machine.execFrayHistoryWrite s
  | .portDisable pt => Sys2Proof.Machine.execPortDisable pt s
  | .portEnable pt => Sys2Proof.Machine.execPortEnable pt s
  | .portQuarantine pt => Sys2Proof.Machine.execPortQuarantine pt s
  | .portRelease pt => Sys2Proof.Machine.execPortRelease pt s
  | .lightReceived pt => Sys2Proof.Machine.execLightReceived pt s
  | .trainingComplete pt rx tx => Sys2Proof.Machine.execTrainingComplete pt rx tx s
  | .trainingRetry pt => Sys2Proof.Machine.execTrainingRetry pt s
  | .hello pt m port nonce key => Sys2Proof.Machine.execHello pt m port nonce key s
  | .authSignature pt sig => Sys2Proof.Machine.execAuthSignature pt sig s
  | .lossOfLight pt ln => Sys2Proof.Machine.execLossOfLight pt ln s
  | .laneBerFail pt ln => Sys2Proof.Machine.execLaneBerFail pt ln s
  | .laneChangeDone pt => Sys2Proof.Machine.execLaneChangeDone pt s
  | .portSilenceTimeout pt => Sys2Proof.Machine.execPortSilenceTimeout pt s
  | .idleFrameTimer pt => Sys2Proof.Machine.execIdleFrameTimer pt s
  | .linkAckTimer pt => Sys2Proof.Machine.execLinkAckTimer pt s
  | .creditReturnTimer pt => Sys2Proof.Machine.execCreditReturnTimer pt s
  | .linkAck pt seq => Sys2Proof.Machine.execLinkAck pt seq s
  | .linkNak pt seq => Sys2Proof.Machine.execLinkNak pt seq s
  | .creditReturn pt vc k => Sys2Proof.Machine.execCreditReturn pt vc k s
  | .frameCrcFail pt corrected bad => Sys2Proof.Machine.execFrameCrcFail pt corrected bad s
  | .frameWrite pt fr => Sys2Proof.Machine.execFrameWrite pt fr s
  | .frameReadRequest pt fr => Sys2Proof.Machine.execFrameReadRequest pt fr s
  | .frameReadResponse pt fr => Sys2Proof.Machine.execFrameReadResponse pt fr s
  | .frameRefusal pt fr code => Sys2Proof.Machine.execFrameRefusal pt fr code s
  | .frameAcknowledgement pt fr => Sys2Proof.Machine.execFrameAcknowledgement pt fr s
  | .remotePegAddFrame pt fr gid epoch v => Sys2Proof.Machine.execRemotePegAddFrame pt fr gid epoch v s
  | .jobListReceive pt jobs => Sys2Proof.Machine.execJobListReceive pt jobs s
  | .jobAbortReceive pt origin num j ta cause => Sys2Proof.Machine.execJobAbortReceive pt origin num j ta cause s
  | .snapshotTrigger pt origin num t sid => Sys2Proof.Machine.execSnapshotTrigger pt origin num t sid s
  | .powerCapBroadcast pt origin num cap t => Sys2Proof.Machine.execPowerCapBroadcast pt origin num cap t s
  | .syncPairTimer pt => Sys2Proof.Machine.execSyncPairTimer pt s
  | .syncFrame pt y => Sys2Proof.Machine.execSyncFrame pt y s
  | .advertExpire pt => Sys2Proof.Machine.execAdvertExpire pt s
  | .stitchLock t => Sys2Proof.Machine.execStitchLock t s
  | .joinTimeout => Sys2Proof.Machine.execJoinTimeout s
  | .coldReset railFail => Sys2Proof.Machine.execColdReset railFail s
  | .perstAssert => Sys2Proof.Machine.execPerstAssert s
  | .moduleResetCommand v => Sys2Proof.Machine.execModuleResetCommand v s
  | .partitionReset f => Sys2Proof.Machine.execPartitionReset f s
  | .partitionResetDone p => Sys2Proof.Machine.execPartitionResetDone p s
  | .pcieHotReset => Sys2Proof.Machine.execPcieHotReset s
  | .vfEnable v => Sys2Proof.Machine.execVfEnable v s
  | .pcieLinkDown => Sys2Proof.Machine.execPcieLinkDown s
  | .pcieLinkUp speed width flit => Sys2Proof.Machine.execPcieLinkUp speed width flit s
  | .hostGraceExpire => Sys2Proof.Machine.execHostGraceExpire s
  | .hostStallBegin => Sys2Proof.Machine.execHostStallBegin s
  | .hostStallRetry works => Sys2Proof.Machine.execHostStallRetry works s
  | .busMasterEnable f => Sys2Proof.Machine.execBusMasterEnable f s
  | .pwrEnDeassert => Sys2Proof.Machine.execPwrEnDeassert s
  | .inputFaultShutdown k => Sys2Proof.Machine.execInputFaultShutdown k s
  | .vinLow => Sys2Proof.Machine.execVinLow s
  | .thermtrip => Sys2Proof.Machine.execThermtrip s
  | .leakDetect => Sys2Proof.Machine.execLeakDetect s
  | .powerSample x => Sys2Proof.Machine.execPowerSample x s
  | .railStep r => Sys2Proof.Machine.execRailStep r s
  | .sysLimitPoll => Sys2Proof.Machine.execSysLimitPoll s
  | .tcPwrCapWrite v => Sys2Proof.Machine.execTcPwrCapWrite v s
  | .scheduledCapDue => Sys2Proof.Machine.execScheduledCapDue s
  | .sysLimitWrite v => Sys2Proof.Machine.execSysLimitWrite v s
  | .faultClear v => Sys2Proof.Machine.execFaultClear v s
  | .i2cEepromWrite firmware addr bs => Sys2Proof.Machine.execI2cEepromWrite firmware addr bs s
  | .bootStart => Sys2Proof.Machine.execBootStart s
  | .strapsDone raw => Sys2Proof.Machine.execStrapsDone raw s
  | .go v => Sys2Proof.Machine.execGo v s
  | .bootInputsFetched image record plan => Sys2Proof.Machine.execBootInputsFetched image record plan s
  | .bootLoadDone => Sys2Proof.Machine.execBootLoadDone s
  | .bringupDone => Sys2Proof.Machine.execBringupDone s
  | .hbmTrainingDone x => Sys2Proof.Machine.execHbmTrainingDone x s
  | .discoveryWindowClose => Sys2Proof.Machine.execDiscoveryWindowClose s
  | .pairLoRead f off => Sys2Proof.Machine.execPairLoRead f off s
  | .bar4Read f off len => Sys2Proof.Machine.execBar4Read f off len s
  | .bar4Write f off bs poison => Sys2Proof.Machine.execBar4Write f off bs poison s
  | .laneLightReturn pt ln good => Sys2Proof.Machine.execLaneLightReturn pt ln good s
  | .laneChangeNotice pt ln => Sys2Proof.Machine.execLaneChangeNotice pt ln s
  | .selftestDone failure => Sys2Proof.Machine.execSelftestDone failure s
  | .standbyPowerLoss => Sys2Proof.Machine.execStandbyPowerLoss s
  | .standbyPowerReturn => Sys2Proof.Machine.execStandbyPowerReturn s
  | .inputPowerLoss => Sys2Proof.Machine.execInputPowerLoss s
  | .garbageCollection retired x => Sys2Proof.Machine.execGarbageCollection retired x s
  | .carrierLinkRetrain => Sys2Proof.Machine.execCarrierLinkRetrain s

end Sys2Proof.Machine
end

