-- ==== Sys2Proof/Machine/Stalls.lean ====
section
/-! DEFINITION. Time passes: stall times by cause (spec 10 R341, R343, 14 R440, R442), lag totals (07 R231), credit waits (12 R387). -/

namespace Sys2Proof.Machine

/-! Causes in table order (10 R343): 0 TIER_WAIT, 1 WEIGHT_LATE, 2 INPUT_LATE, 3 PEER_WAIT, 4 LINK_CREDIT, 5 HAZARD_DRAIN, 6 ACC_FULL, 7
THROTTLE, 8 PEG_WAIT. Engines: core c's array a is 8 c + a, its Needle unit 8 c + 4, function unit 8 c + 5, Press pipeline 8 c + 6,
stream engine 8 c + 7; die d's stream engine is 512 + d, the collective engine 520, the hub's stream engine 521. -/

/-- The first of an engine's nine stall counters (14 R440). -/
def stallBase (u : Nat) : Nat := if u < 512 then 16 * (u / 8) else if u < 520 then 1024 + 16 * (u - 512) else if u = 520 then 1456 else 1465

/-- The bits of an array mask. -/
def maskOf (j : Job) : Nat :=
  match j.opcode with
  | 0x0200 => j.bits 38 0 4
  | 0x0201 => j.bits 54 0 4
  | 0x0202 => j.bits 40 0 4
  | 0x0203 => j.bits 21 0 4
  | _ => 0

/-- The engines that hold descriptor j once it is delivered (10 R343). -/
def enginesOf (s : State) (j : Job) : List Nat :=
  let cls := j.opcode / 256
  if cls = 1 then
    (match queueNamed s j with
     | some q => [if engineOf q < 64 then 8 * engineOf q + 7 else if engineOf q < 72 then 512 + (engineOf q - 64) else 521]
     | none => [])
  else if 0x0802 ≤ j.opcode ∧ j.opcode ≤ 0x0809 then [520]
  else match j.coreNo.bind (coreAt s (part s j)) with
    | none => []
    | some c =>
      if cls = 2 then ((List.range 4).filter (bitOf (maskOf j))).map (fun a => 8 * c + a)
      else if cls = 3 then [8 * c + 4]
      else if cls = 4 then [8 * c + 5]
      else if cls = 5 ∨ cls = 6 then [8 * c + 6] else []

/-- Whether peg i of partition p is the signal peg or the half peg of a running or pending weight arming of the partition (10 R341). -/
def weightPeg (s : State) (p i : Nat) : Bool :=
  s.se.queues.any (fun e => [e.2.run, e.2.pend].any (fun a => match a with
    | some a => a.weight && a.p == p && ((a.two && a.halfPeg == i) ||
        (job? s a.job).any (fun k => k.bits 11 7 1 == 1 && k.bits 10 0 12 == i))
    | none => false))

/-- Whether descriptor j is the next of its ring and its wait peg has not come. -/
def waitsPeg (s : State) (j : Job) : Bool :=
  j.phase == .fetched && (nextJob s j.ring).any (fun k => k.id == j.id) && j.bits 9 7 1 == 1 &&
  decide ((pegOf s (part s j) (j.bits 8 0 12)).toNat < j.fld 56 8)

/-- What the running operation of slot x waits for: partner module and cause, one for each step that waits (07 R220, R223, R231). -/
def runWaits (s : State) (x : Grp) (r : CollRun) : List (Nat × Nat) :=
  let P := x.members.length
  let mine (m : Msg) : Option Nat := match m with
    | .ce _ fr (.chunk h _) | .ce _ fr (.first h _ _) | .ce _ fr (.grant h _ _) =>
      if h.gid = x.gid ∧ h.epoch = x.epoch ∧ h.sender = x.index then some fr.dest.toNat else none
    | _ => none
  let credit := ((List.range 16).flatMap (fun pt => (portOf s pt).wait.filterMap (fun e => mine e.msg))).dedup.map (fun m => (m, 4))
  let peers : List (Nat × Nat) := match r.spin with
    | some y => [0, 1].flatMap (fun d =>
        let n := spinSteps P d * y.win.chunks
        let q := y.sent.getD d 0
        let k := q / y.win.chunks + 1
        let here := k = 1 || (y.got.getD d []).contains (k - 1, q % y.win.chunks)
        (if n ≠ 0 ∧ (y.signalled.getD d 0 < n ∨ y.envs.length < P) then [(x.module (upstream P x.index d), 3)] else []) ++
        (if q < n ∧ y.envs.length = P ∧ here ∧ y.allowed.getD d 0 < k then [(x.module (downstream P x.index d), 4)] else []))
    | none =>
      if r.stage ≠ 0 then
        (match (patternRounds P x.index)[r.stage - 1]? with
         | some e => (e.2.2.filter (fun i => !r.rounds.contains (i, e.1))).map (fun i => (x.module i, 3))
         | none => [])
      else ((if P = 1 then [] else if (job? s r.job).any (fun j => logDepth x (collOf j P)) then patternIdx P x.index
        else ([(x.index + 1) % P, (x.index + P - 1) % P]).dedup).filter (fun i => !r.heard.contains i)).map (fun i => (x.module i, 3))
  if suspended s x.p then [] else peers ++ credit

/-- The first cause that holds of a product at the head of its array's queue (03 R90, R91, R93). -/
def productCause (s : State) (j : Job) (c a : Nat) : Option Nat :=
  let x := arrOf s c a
  match x.queue.head? with
  | none => none
  | some p =>
    if p.job ≠ j.id then none
    else if !p.ready then some 2
    else if drainAhead s c a p.job then some 6
    else if drySpinOn s && x.flight.isEmpty && (decide (x.level < 4) || x.rising) then some 7 else none

/-- The cause under which engine u makes no progress on descriptor j, if any: the first in table order (10 R343). A
descriptor of class 0x06 that waits, waits for a page, a context, a draining generation or a copy. -/
def stallOf (s : State) (j : Job) (u : Nat) : Option Nat :=
  let begun := j.phase == .checked || j.phase == .running
  if begun && (s.tm.waits.any (fun w => w.job == j.id) || s.tm.leaves.any (fun w => w.job == j.id) ||
    (j.opcode / 256 == 6 && j.phase == .checked && j.waits)) then some 0
  else if waitsPeg s j then some (if weightPeg s (part s j) (j.bits 8 0 12) then 1 else 8)
  else if u = 520 ∧ begun then
    (match grpWhere s (fun x => x.run.any (fun r => r.job == j.id)) with
     | some (_, x) => ((x.run.map (runWaits s x)).getD []).map (fun e => e.2) |>.min?
     | none => if j.phase = .checked then some 3 else none)
  else if j.opcode = 0x0201 ∧ begun then productCause s j (u / 8) (u % 8)
  else if j.opcode = 0x0202 ∧ j.phase = .checked ∧ j.waits then some 5
  else if j.opcode = 0x0100 ∧ j.parked then some 6
  else none

/-- The descriptors that an engine holds with what each waits for, by engine: those begun, and those that wait on their peg. -/
def heldBy (s : State) : List (Nat × Nat × Option Nat) :=
  (s.hp.jobs.filter (fun j => j.phase == .checked || j.phase == .running || waitsPeg s j)).flatMap (fun j =>
    (enginesOf s j).map (fun u => (u, j.id, stallOf s j u)))

/-- The engines that stall, with the cause that the time counts under: every descriptor that the engine holds waits. -/
def stalled (s : State) : List (Nat × Nat) :=
  let l := heldBy s
  ((l.map (fun e => e.1)).dedup).filterMap (fun u =>
    let mine := (l.filter (fun e => e.1 == u)).map (fun e => e.2.2)
    if mine.all (fun c => c.isSome) then (mine.filterMap id).min?.map (fun k => (u, k)) else none)

/-- Count one nanosecond under each cause that holds: by engine, by descriptor, by partner, by port. -/
def accrue (s : State) : State :=
  let l := heldBy s
  let w := s.now.toNat / lagSpan s
  let peers := s.ce.groups.flatMap (fun e => match e.2 with
    | some x => ((x.run.map (runWaits s x)).getD []).map (fun m => m.1)
    | none => [])
  let t := (stalled s).foldl (fun u e => count u (stallBase e.1 + e.2) 1) s
  let t1 := (List.range 16).foldl (fun u pt =>
    let x := portOf u pt
    if x.wait.any (fun e => x.credits.getD e.vc 0 == 0) then portCount u pt 6 1 else u) t
  let lag := peers.foldl (fun q m =>
    if q.any (fun e => e.1 == w && e.2.1 == m) then q.map (fun e => if e.1 = w ∧ e.2.1 = m then (w, m, e.2.2 + 1) else e)
    else q ++ [(w, m, 1)]) t1.ce.lag
  { t1 with
    hp := { t1.hp with jobs := t1.hp.jobs.map (fun j => match (l.filterMap (fun e => if e.2.1 = j.id then e.2.2 else none)).min? with
      | some k => { j with stalls := tset (fun _ => 0) j.stalls k (tget (fun _ => 0) j.stalls k + 1) }
      | none => j) }
    ce := { t1.ce with lag := lag } }

/-- One nanosecond of Stitch time passes (14 R434, R438; notes/assumptions/12.md). -/
def tick (s : State) : State := setNow (accrue s) (s.now + 1)

end Sys2Proof.Machine
end

