-- ==== Sys2Proof/Safety.lean ====
section
/-! DEFINITION. The terms in which claims are stated: the parts of the state and what it is for one to stay, how a descriptor
stands after a command, the canonical form of memory. -/

namespace Sys2Proof.Machine

/-- The canonical form of memory: addresses strictly rising, no entry that reads as an unlisted address does. -/
abbrev Memory.wf (m : Tab Byte) : Prop := Tab.wf byte0 m

/-- The parts of the state, each of them one field or a few that belong together. -/
inductive Part where
  | pending | free | nextId | now | out | regs | counts
  /-- The host port: rings, descriptors, pegs, latched high halves, MSI-X vectors, messages owed, the functions and the PCIe link. -/
  | rings | jobs | pegs | latches | msix | owed | link
  | boot
  /-- Observation: the counting flag, adverts, the tag sequence, tag records, snapshots, the Stain log, aborts, job lists, Fray. -/
  | counting | adverts | lfsr | tags | snaps | log | aborts | jobLists | fray
  /-- Power: scheduled caps, pins with the telemetry, the EEPROM. -/
  | caps | pins | eeprom
  /-- The tiers: bytes, soil, gradient marks, pages, holds, objects, KV regions, waits, keys, patterns, checkpoints, what running
  checkpoints captured, the Deep tier's bytes, bad copies of page-table nodes, cache lines, pool splits, indexes, searches with leaf
  evaluations, the rest. -/
  | mem | soil | nans | pages | holds | objs | regions | waits | keys | pats | ckpts | shots | deep | nodes | cache | split | indexes
  | searches | media
  | arrays | programs | tileProgs | tickets
  /-- The stream engines: queues, and transfers with what goes with them. -/
  | queues | transfers
  /-- Links: ports, windows, remote operations, broadcasts. -/
  | ports | wins | ops | casts
  /-- The collective engine: groups, stashed joins. -/
  | groups | joins
  deriving DecidableEq, Repr

/-- Part p is in t what it is in s. -/
def Part.same (s t : State) : Part → Prop
  | .pending => t.pending = s.pending
  | .free => t.free = s.free
  | .nextId => t.nextId = s.nextId
  | .now => t.now = s.now
  | .out => t.out = s.out
  | .regs => t.regs = s.regs
  | .counts => t.counts = s.counts
  | .rings => t.hp.rings = s.hp.rings
  | .jobs => t.hp.jobs = s.hp.jobs ∧ t.hp.begun = s.hp.begun
  | .pegs => t.hp.pegs = s.hp.pegs
  | .latches => t.hp.latches = s.hp.latches
  | .msix => t.hp.msix = s.hp.msix
  | .owed => t.hp.owed = s.hp.owed
  | .link => t.hp.numVfs = s.hp.numVfs ∧ t.hp.vfOn = s.hp.vfOn ∧ t.hp.own = s.hp.own ∧ t.hp.bme = s.hp.bme ∧
      t.hp.stall = s.hp.stall ∧ t.hp.linkUp = s.hp.linkUp ∧ t.hp.downAt = s.hp.downAt ∧ t.hp.newDies = s.hp.newDies ∧
      t.hp.lastRing = s.hp.lastRing ∧ t.hp.bar4 = s.hp.bar4
  | .boot => t.boot = s.boot
  | .counting => t.ob.counting = s.ob.counting
  | .adverts => t.ob.adverts = s.ob.adverts
  | .lfsr => t.ob.lfsr = s.ob.lfsr
  | .tags => t.ob.tags = s.ob.tags
  | .snaps => t.ob.snaps = s.ob.snaps
  | .log => t.ob.log = s.ob.log ∧ t.ob.overflow = s.ob.overflow
  | .aborts => t.ob.aborts = s.ob.aborts
  | .jobLists => t.ob.jobLists = s.ob.jobLists ∧ t.ob.sentJobs = s.ob.sentJobs
  | .fray => t.ob.hours = s.ob.hours ∧ t.ob.carrierHours = s.ob.carrierHours ∧ t.ob.carrierFray = s.ob.carrierFray ∧
      t.ob.wear = s.ob.wear
  | .caps => t.pw.caps = s.pw.caps ∧ t.pw.loweredAt = s.pw.loweredAt
  | .pins => t.pw.pwrEn = s.pw.pwrEn ∧ t.pw.pwrGood = s.pw.pwrGood ∧ t.pw.perst = s.pw.perst ∧ t.pw.thermtrip = s.pw.thermtrip ∧
      t.pw.leak = s.pw.leak ∧ t.pw.stby = s.pw.stby ∧ t.pw.vin = s.pw.vin ∧ t.pw.iin = s.pw.iin ∧ t.pw.pin = s.pw.pin ∧
      t.pw.sysLimit = s.pw.sysLimit ∧ t.pw.fault = s.pw.fault ∧ t.pw.lower = s.pw.lower
  | .eeprom => t.pw.eeprom = s.pw.eeprom
  | .mem => t.tm.mem = s.tm.mem
  | .soil => t.tm.soil = s.tm.soil
  | .nans => t.tm.nans = s.tm.nans
  | .pages => t.tm.pages = s.tm.pages
  | .holds => t.tm.holds = s.tm.holds
  | .objs => t.tm.objs = s.tm.objs
  | .regions => t.tm.regions = s.tm.regions
  | .waits => t.tm.waits = s.tm.waits
  | .keys => t.tm.keys = s.tm.keys
  | .pats => t.tm.pats = s.tm.pats
  | .ckpts => t.tm.ckpts = s.tm.ckpts
  | .shots => t.tm.shots = s.tm.shots
  | .deep => t.tm.deep = s.tm.deep ∧ t.tm.deepNext = s.tm.deepNext
  | .nodes => t.tm.badNodes = s.tm.badNodes
  | .cache => t.tm.cache = s.tm.cache
  | .split => t.tm.split = s.tm.split
  | .indexes => t.tm.indexes = s.tm.indexes
  | .searches => t.tm.searches = s.tm.searches ∧ t.tm.leaves = s.tm.leaves ∧ t.tm.asks = s.tm.asks ∧ t.tm.bound = s.tm.bound
  | .media => t.tm.wasReady = s.tm.wasReady ∧ t.tm.blocks = s.tm.blocks ∧ t.tm.rows = s.tm.rows ∧ t.tm.remaps = s.tm.remaps
  | .arrays => t.mx = s.mx
  | .programs => t.fn = s.fn ∧ t.fnBad = s.fnBad
  | .tileProgs => t.tp.slots = s.tp.slots ∧ t.tp.shares = s.tp.shares
  | .tickets => t.tp.tickets = s.tp.tickets
  | .queues => t.se.queues = s.se.queues ∧ t.se.found = s.se.found
  | .transfers => t.se.groups = s.se.groups ∧ t.se.nextGroup = s.se.nextGroup ∧ t.se.last = s.se.last
  | .ports => t.ol.ports = s.ol.ports
  | .wins => t.ol.wins = s.ol.wins
  | .ops => t.ol.ops = s.ol.ops
  | .casts => t.ol.seen = s.ol.seen ∧ t.ol.cast = s.ol.cast ∧ t.ol.nextOp = s.ol.nextOp ∧ t.ol.casts = s.ol.casts
  | .groups => t.ce.groups = s.ce.groups ∧ t.ce.gone = s.ce.gone ∧ t.ce.lag = s.ce.lag ∧ t.ce.window = s.ce.window
  | .joins => t.ce.joins = s.ce.joins

/-- No part but those listed differs between s and t. -/
def OnlyParts (ps : List Part) (s t : State) : Prop := ∀ p, p ∉ ps → Part.same s t p

/-- What every operation that reads or writes through the tiers may change: its descriptor, bytes with their soil and gradient marks, the
pages that it touches or backs, in the pattern store too, what it captures for a running checkpoint, cache lines, page-table nodes found
bad, waits, free values, and the Stain bits and counts of tier faults. -/
def tierParts : List Part := [.jobs, .mem, .soil, .nans, .pages, .pats, .shots, .cache, .nodes, .waits, .free, .regs, .log, .counts]

/-- What a job abort or a hop that goes down may reach beside `tierParts`: every engine in which a descriptor may stand (01 R47). -/
def abortParts : List Part := tierParts ++ [.out, .rings, .snaps, .aborts, .caps, .holds, .regions, .indexes, .searches, .arrays,
  .tileProgs, .tickets, .queues, .transfers, .ports, .ops, .casts, .groups]

/-- What no reset and no loss of power reaches: the commands that wait, the model's own counters, the EEPROM. -/
def resetKeeps : List Part := [.pending, .free, .nextId, .eeprom]

/-- Every access of descriptor id to the spans takes place at once: no page is in Tier 2, and those not backed fit (08 R256, R273). -/
def CanAccess (s : State) (id : Nat) (xs : List Span) : Prop := ∃ new, tierSays s id xs = (.go, new)

/-- Every byte of memory outside the spans, by the address numbers of `akey`, reads in t as in s. -/
def BytesOutside (xs : List Span) (s t : State) : Prop :=
  ∀ k a, (∀ x ∈ xs, ¬ (akey x.place x.addr ≤ akey k a ∧ akey k a < akey x.place x.addr + x.len)) → byteAt t k a = byteAt s k a

/-- Descriptor id is decided in t with this status and detail. -/
def Decided (t : State) (id status detail : Nat) : Prop :=
  ∃ j, job? t id = some j ∧ j.phase = .decided ∧ j.status = status ∧ j.detail = BitVec.ofNat 32 detail

/-- Descriptor id is decided in t as done, with or without soil. -/
def Completes (t : State) (id : Nat) : Prop := ∃ d, Decided t id stDone d ∨ Decided t id stDoneSoiled d

/-- Descriptor id runs in t: its work goes on after the command. -/
def Runs (t : State) (id : Nat) : Prop := ∃ j, job? t id = some j ∧ j.phase = .running

/-- Every descriptor but id is in t what it is in s. -/
def OtherJobs (id : Nat) (s t : State) : Prop := ∀ k, k ≠ id → job? t k = job? s k

/-- A frame for this module reaches port pt in its place: the port is UP, the link and pair sequences are those expected, a buffer of its
VC is free and no frame of the hop waits in a buffer (12 R385, R387, R388). -/
def Arrives (s : State) (pt : Nat) (fr : Frame) : Prop :=
  isUp s pt = true ∧ fr.linkSeq = (portOf s pt).expect ∧ (portOf s pt).owed.getD fr.vc.val 0 < vcBuffers.getD fr.vc.val 0 ∧
  (portOf s pt).stalled = [] ∧
  fr.pairSeq = (portOf s (pt / 2 * 2)).pairIn.getD fr.vc.val 0 ∧ (portOf s (pt / 2 * 2)).early = [] ∧ fr.dest.toNat = moduleNo s

/-- A frame of member h.sender for the group that is the module's only one, in slot g, arrives in its place: the group's key, module and
partner agree, and its partition is not suspended (07 R211, R233). -/
def ArrivesCe (s : State) (pt : Nat) (fr : Frame) (h : CeHead) (g : Nat) (x : Grp) : Prop :=
  Arrives s pt fr ∧ s.ce.groups = [(g, some x)] ∧ x.gid = h.gid ∧ x.epoch = h.epoch ∧ x.index = h.target ∧ x.key = fr.key ∧
  x.module h.sender = fr.src.toNat ∧ (partnerIdx x.members.length x.index).contains h.sender = true ∧ suspended s x.p = false

/-- Every register but those at the listed offsets reads in t as stored in s. -/
def OtherRegs (offs : List Nat) (s t : State) : Prop := ∀ o, o ∉ offs → rreg t o = rreg s o

end Sys2Proof.Machine
end

