-- ==== Sys2Proof/Certificates/Slice0/Obligations.lean ====
section
/-! DEFINITION. The statements about this model, for the provers. Each docstring says what is stated and what of the spec it rests on. -/

open Sys2Proof Sys2Proof.Machine

/-- A step performs the command at the front of the queue. For every command c and state s with c in front, the step is exec
of c on s with the queue's rest. (00_scope.md, 01_commands.md; notes/assumptions/12.md) -/
def Obligations.StepRunsFrontCommand : Prop :=
  ∀ (c : Instr) (cs : List Instr) (s : State), s.pending = c :: cs → step s = exec c { s with pending := cs }

/-- With no command waiting a step lets one nanosecond pass. On an empty queue the step answers a state whose Stitch counter
is one higher and that differs beside it only in the snapshots caught at their time, in the counters, in the stall times of
descriptors and in what waiting steps of groups add up: every group is as it was, and every descriptor but for its stall
times. That an idle step is a nanosecond is the model's choice (notes/assumptions/12.md). (14_health.md R434, R438;
notes/assumptions/12.md) -/
def Obligations.IdleStepPassesTime : Prop :=
  ∀ s : State, s.pending = [] → ∃ t, step s = .next t ∧ t.now = s.now + 1 ∧ t.ce.groups = s.ce.groups ∧
    (∀ n j, job? s n = some j → ∃ x, job? t n = some { j with stalls := x }) ∧ OnlyParts [.now, .snaps, .counts, .jobs, .groups] s t

/-- What a cold reset leaves. After a cold reset the boot state is STRAPS, no Stain bit is set, every ring is disabled with
its pointers 0 and its phase bit 1, every peg is 0, memory is in its canonical form and every byte of it reads 0, there is no
object, no descriptor, no program, no window and no group, and HP_PART_CFG(0).DIES is FFh. That memory reads 0 is the model's
choice where no object covers it (notes/assumptions/3.md). (01_commands.md R25, R38; 13_bringup.md R410, R412; 08_tiers.md
R256, R290; 14_health.md R460) -/
def Obligations.ResetState : Prop :=
  bootState State.reset = 0 ∧ Memory.wf State.reset.tm.mem ∧
  (∀ off ∈ stainRegs, rreg State.reset off = 0) ∧
  (∀ n, (ringOf State.reset n).enabled = false ∧ (ringOf State.reset n).cmdHead = 0 ∧ (ringOf State.reset n).cmdTail = 0 ∧
    (ringOf State.reset n).cplTail = 0 ∧ (ringOf State.reset n).cplHead = 0 ∧ (ringOf State.reset n).phase = true) ∧
  (∀ p i, pegOf State.reset p i = 0) ∧ (∀ k a, byteAt State.reset k a = 0) ∧ diesOf State.reset 0 = 0xFF ∧
  State.reset.pending = [] ∧ State.reset.hp.jobs = [] ∧ State.reset.tm.objs = [] ∧ State.reset.fn = [] ∧
  State.reset.ol.wins = [] ∧ State.reset.ce.groups = []

/-- No command touches the commands that wait. Whatever the command and the state, where exec answers a next state its queue
is the one before. (00_scope.md; 01_commands.md) -/
def Obligations.CommandsKeepTheQueue : Prop :=
  ∀ (c : Instr) (s t : State), exec c s = .next t → t.pending = s.pending

/-- Every step keeps the canonical form of memory. From every state whose memory lists its addresses strictly rising and no
byte that reads as an unlisted one does, every step, whatever command it performs, answers a state whose memory has that
form. (08_tiers.md R250, R256; notes/assumptions/3.md) -/
def Obligations.MemoryStaysCanonical : Prop :=
  ∀ s t : State, Memory.wf s.tm.mem → step s = .next t → Memory.wf t.tm.mem

/-- REGISTER_WRITE to a Stain register clears the bits written as 1. A write of the PF to a Stain register, while the module
boots for the TC block and once it is READY for the others, clears exactly the defined bits that are written as 1, and
changes no other register and nothing else. (00_scope.md R6; 13_bringup.md R411; 14_health.md R446) -/
def Obligations.StainClearsByWritingOne : Prop :=
  ∀ (off v : Word) (s : State) (k i n : Nat), stainAt off.toNat = some (k, i, n) → booting s = true →
    (ready s = true ∨ (rBootStatus ≤ off.toNat ∧ off.toNat < 0x200000)) →
    ∃ t, exec (.registerWrite 0 off v) s = .next t ∧
      rreg t off.toNat = rreg s off.toNat &&& ~~~ (v &&& BitVec.ofNat 32 (2 ^ n - 1)) ∧
      OtherRegs [off.toNat] s t ∧ OnlyParts [.regs] s t

/-- Partitions are suspended, resumed and flushed, and take a die set or refuse it with CFG_ERR. In a READY module
PART_SUSPEND without FLUSH sets SUSPEND of its partition and changes no other register; PART_RESUME, where no frame stands
held and no group of the partition runs an operation, clears SUSPEND and a held flush and leaves every port; PART_FLUSH of a
partition that is suspended with nothing running, and PART_HELD_FLUSH of one that holds a flush once nothing runs, decide
every fetched descriptor of the partition that has not begun with SUSPENDED and leave every other descriptor, and the flush
is no longer held. In a READY module a write of an allowed die set that no other partition holds and that differs from the
partition's, while every ring of its owner is idle, begins the partition's reset: RESETTING reads 1, CFG_ERR 0, the new die
set waits, every peg of the partition is 0 and its memory reads 0. The die set it already has clears CFG_ERR and changes
nothing else. A set of no allowed shape, or held in part by another partition, sets CFG_ERR and changes nothing else.
(01_commands.md R15, R18, R19, R20; 07_spin_collectives.md R233) -/
def Obligations.PartitionControl : Prop :=
  (∀ (p : Fin 8) (v : Word) (s : State), ready s = true → v.getLsbD 1 = false →
    ∃ t, exec (.partSuspend p v) s = .next t ∧ suspended t p.val = true ∧ OtherRegs [rPartCtrl p.val] s t ∧
      OnlyParts [.regs] s t) ∧
  (∀ (p : Fin 8) (v : Word) (s : State), ready s = true → (∀ n, n < 16 → (portOf s n).stalled = []) →
    (∀ g x, g < 64 → grpOf s g = some x → x.p = p.val → x.run = none) →
    ∃ t, exec (.partResume p v) s = .next t ∧ suspended t p.val = false ∧ rfield t (rPartStatus p.val) 4 1 = 0 ∧
      (∀ n, portOf t n = portOf s n) ∧ OtherRegs [rPartCtrl p.val, rPartStatus p.val] s t ∧
      OnlyParts [.regs, .groups, .ports] s t) ∧
  (∀ (p : Fin 8) (s : State), ready s = true → quiet s p.val = true →
    ∃ t, exec (.partFlush p) s = .next t ∧ suspended t p.val = true ∧ rfield t (rPartStatus p.val) 4 1 = 0 ∧
      (∀ n j, job? s n = some j → partOfRing s j.ring = some p.val → j.phase = .fetched → Decided t n stSuspended 0) ∧
      (∀ n j, job? s n = some j → (partOfRing s j.ring ≠ some p.val ∨ j.phase ≠ .fetched) → job? t n = some j) ∧
      OtherRegs [rPartCtrl p.val, rPartStatus p.val] s t ∧ OnlyParts [.regs, .jobs] s t) ∧
  (∀ (p : Fin 8) (s : State), rfield s (rPartStatus p.val) 4 1 = 1 → quiet s p.val = true →
    ∃ t, exec (.partHeldFlush p) s = .next t ∧ rfield t (rPartStatus p.val) 4 1 = 0 ∧
      (∀ n j, job? s n = some j → partOfRing s j.ring = some p.val → j.phase = .fetched → Decided t n stSuspended 0) ∧
      (∀ n j, job? s n = some j → (partOfRing s j.ring ≠ some p.val ∨ j.phase ≠ .fetched) → job? t n = some j) ∧
      OtherRegs [rPartStatus p.val] s t ∧ OnlyParts [.regs, .jobs] s t) ∧
  (∀ (p : Fin 8) (v : Word) (s : State), ready s = true → diesOk (bitsOf v.toNat 0 8) = true →
    (∀ q, q < 8 → q ≠ p.val → bitsOf v.toNat 0 8 &&& (diesSoon s q ||| diesOf s q) = 0) →
    bitsOf v.toNat 0 8 ≠ diesSoon s p.val →
    (∀ f n, n < 512 → partOwner s.hp.own p.val = some f → ringOwner s.hp.own n = some f → ringIdle s n = true) →
    ∃ t, exec (.partCfgWrite p v) s = .next t ∧ rfield t (rPartStatus p.val) 2 1 = 1 ∧ rfield t (rPartStatus p.val) 3 1 = 0 ∧
      tget (fun _ => none) t.hp.newDies p.val = some (bitsOf v.toNat 0 8) ∧
      (∀ i, i < 4096 → pegOf t p.val i = 0) ∧ (∀ a, a < 2 ^ 52 → byteAt t p.val a = 0)) ∧
  (∀ (p : Fin 8) (v : Word) (s : State), ready s = true → diesOk (bitsOf v.toNat 0 8) = true →
    (∀ q, q < 8 → q ≠ p.val → bitsOf v.toNat 0 8 &&& (diesSoon s q ||| diesOf s q) = 0) →
    bitsOf v.toNat 0 8 = diesSoon s p.val →
    ∃ t, exec (.partCfgWrite p v) s = .next t ∧ rfield t (rPartStatus p.val) 3 1 = 0 ∧ OtherRegs [rPartStatus p.val] s t ∧
      OnlyParts [.regs] s t) ∧
  (∀ (p : Fin 8) (v : Word) (s : State), ready s = true →
    (diesOk (bitsOf v.toNat 0 8) = false ∨
      ∃ q, q < 8 ∧ q ≠ p.val ∧ bitsOf v.toNat 0 8 &&& (diesSoon s q ||| diesOf s q) ≠ 0) →
    ∃ t, exec (.partCfgWrite p v) s = .next t ∧ rfield t (rPartStatus p.val) 3 1 = 1 ∧ OtherRegs [rPartStatus p.val] s t ∧
      OnlyParts [.regs] s t)

/-- RING_ENABLE starts an idle ring with an allowed configuration; RING_DISABLE leaves its pointers and descriptors. In a
READY module, a RING_ENABLE by the PF or the ring's owner, of a disabled and idle ring whose CFG is allowed, enables the ring
with both heads and both tails 0, the phase bit 1 and no halt; with a CFG that is not allowed, or a ring that is not idle,
the ring stays disabled and its error register takes bit 3. Every other ring stays; beside the rings only the job lists that
go to neighbours change. In a READY module a RING_DISABLE by the PF or the ring's owner clears ENABLE, takes the coalescing
fields of the value written, and leaves the ring's pointers, its held completions, its descriptors and every other ring.
(01_commands.md R25, R26, R27) -/
def Obligations.RingsStartAndStop : Prop :=
  (∀ (f : Fin 9) (n : Fin 512) (v : Word) (s : State), ready s = true → mayRing s f.val n.val = true →
    (ringOf s n.val).enabled = false → ringCfgOk s n.val (ringOf s n.val) = true → ringIdle s n.val = true →
    ∃ t, exec (.ringEnable f n v) s = .next t ∧ (ringOf t n.val).enabled = true ∧ (ringOf t n.val).cmdHead = 0 ∧
      (ringOf t n.val).cmdTail = 0 ∧ (ringOf t n.val).cplHead = 0 ∧ (ringOf t n.val).cplTail = 0 ∧
      (ringOf t n.val).phase = true ∧ (ringOf t n.val).halted = false ∧ (ringOf t n.val).cfg = (ringOf s n.val).cfg ∧
      (∀ m, m ≠ n.val → ringOf t m = ringOf s m) ∧ OnlyParts [.rings, .jobLists, .ports, .counts, .out] s t) ∧
  (∀ (f : Fin 9) (n : Fin 512) (v : Word) (s : State), ready s = true → mayRing s f.val n.val = true →
    (ringOf s n.val).enabled = false → (ringCfgOk s n.val (ringOf s n.val) = false ∨ ringIdle s n.val = false) →
    ∃ t, exec (.ringEnable f n v) s = .next t ∧ (ringOf t n.val).enabled = false ∧
      (ringOf t n.val).err = (ringOf s n.val).err ||| 8 ∧ (∀ m, m ≠ n.val → ringOf t m = ringOf s m) ∧ OnlyParts [.rings] s t) ∧
  (∀ (f : Fin 9) (n : Fin 512) (v : Word) (s : State), ready s = true → mayRing s f.val n.val = true →
    ∃ t, exec (.ringDisable f n v) s = .next t ∧ ringOf t n.val = { ringOf s n.val with ctrl := v &&& 0xFFFFFF00 } ∧
      (ringOf t n.val).enabled = false ∧
      (∀ m, m ≠ n.val → ringOf t m = ringOf s m) ∧ OnlyParts [.rings, .jobLists, .ports, .counts, .out] s t)

/-- The doorbells set the command tail and the completion head of the ring behind their page, within the ring's size. Page n
of the PF's BAR2 reaches ring n, page j of a present VF's BAR2 the VF's local ring j, and its pages 56 to 63 no ring. In a
READY module a doorbell on a page whose ring is enabled, by a function that may write the ring, sets the command tail, or the
completion head, to bits 15:0 of the value where that is below the ring's size, and nothing else changes. At or above the
size the pointer stays, bit 1 of the ring's error register and bit 4 of the host port's Stain register are set. On a page
without a ring nothing changes. (01_commands.md R21, R28) -/
def Obligations.DoorbellsMoveTailAndHead : Prop :=
  (∀ (g : Fin 512) (s : State), bar2Ring s 0 g.val = some g.val) ∧
  (∀ (f : Fin 9) (g : Fin 512) (s : State), f ≠ 0 → present s f.val = true →
    bar2Ring s f.val g.val = if g.val < 56 then some (ringBase f.val + g.val) else none) ∧
  (∀ (f : Fin 9) (g : Fin 512) (v : Word) (s : State), bar2Ring s f.val g.val = none →
    exec (.hpDbCmdTail f g v) s = .next s ∧ exec (.hpDbCplHead f g v) s = .next s) ∧
  (∀ (f : Fin 9) (g : Fin 512) (n : Nat) (v : Word) (s : State), ready s = true → bar2Ring s f.val g.val = some n →
    mayRing s f.val n = true → (ringOf s n).enabled = true → bitsOf v.toNat 0 16 < (ringOf s n).cmdSize →
    ∃ t, exec (.hpDbCmdTail f g v) s = .next t ∧ ringOf t n = { ringOf s n with cmdTail := bitsOf v.toNat 0 16 } ∧
      (∀ m, m ≠ n → ringOf t m = ringOf s m) ∧ OnlyParts [.rings] s t) ∧
  (∀ (f : Fin 9) (g : Fin 512) (n : Nat) (v : Word) (s : State), ready s = true → bar2Ring s f.val g.val = some n →
    mayRing s f.val n = true → (ringOf s n).enabled = true → bitsOf v.toNat 0 16 < (ringOf s n).cplSize →
    ∃ t, exec (.hpDbCplHead f g v) s = .next t ∧ ringOf t n = { ringOf s n with cplHead := bitsOf v.toNat 0 16 } ∧
      (∀ m, m ≠ n → ringOf t m = ringOf s m) ∧ OnlyParts [.rings] s t) ∧
  (∀ (f : Fin 9) (g : Fin 512) (n : Nat) (v : Word) (s : State), ready s = true → bar2Ring s f.val g.val = some n →
    mayRing s f.val n = true → (ringOf s n).enabled = true → (ringOf s n).cmdSize ≤ bitsOf v.toNat 0 16 →
    ∃ t, exec (.hpDbCmdTail f g v) s = .next t ∧ ringOf t n = { ringOf s n with err := (ringOf s n).err ||| 2 } ∧
      bitOf (rreg t rHpStain).toNat 4 = true ∧ OnlyParts [.rings, .regs, .log] s t) ∧
  (∀ (f : Fin 9) (g : Fin 512) (n : Nat) (v : Word) (s : State), ready s = true → bar2Ring s f.val g.val = some n →
    mayRing s f.val n = true → (ringOf s n).enabled = true → (ringOf s n).cplSize ≤ bitsOf v.toNat 0 16 →
    ∃ t, exec (.hpDbCplHead f g v) s = .next t ∧ ringOf t n = { ringOf s n with err := (ringOf s n).err ||| 2 } ∧
      bitOf (rreg t rHpStain).toNat 4 = true ∧ OnlyParts [.rings, .regs, .log] s t)

/-- A write to the peg window and PEG_ADD add to a peg modulo 2^64, PEG_SET sets it. A write to the peg window of a READY
module, by the PF or the function of the partition, adds its zero-extended 32 bits to the peg modulo 2^64. PEG_ADD adds its
64-bit value to the peg that its descriptor names and PEG_SET sets it to the value, and each ends DONE. Every other peg and
every other descriptor stays, and nothing else changes. With an offending field the descriptor ends BAD_DESCRIPTOR and no peg
changes. (01_commands.md R38, R40, R41) -/
def Obligations.PegsAddAndSet : Prop :=
  (∀ (f : Fin 9) (p : Fin 8) (i : Fin 4096) (v : Word) (s : State), ready s = true →
    (f = 0 ∨ (present s f.val = true ∧ partOf s.hp.own f.val = some p.val)) →
    ∃ t, exec (.pegWindowAdd f p i v) s = .next t ∧ pegOf t p.val i.val = pegOf s p.val i.val + v.setWidth 64 ∧
      (∀ q k, k < 4096 → (q ≠ p.val ∨ k ≠ i.val) → pegOf t q k = pegOf s q k) ∧ OnlyParts [.pegs] s t) ∧
  (∀ (n : Nat) (s : State) (j : Job), opJob s n 0x0A01 = some j → pegFields s j = none →
    ∃ t, exec (.pegAdd n) s = .next t ∧ Decided t n stDone 0 ∧ OtherJobs n s t ∧
      pegOf t (pegPart s j).1 (j.bits 16 0 12) = pegOf s (pegPart s j).1 (j.bits 16 0 12) + BitVec.ofNat 64 (j.fld 24 8) ∧
      (∀ q k, k < 4096 → (q ≠ (pegPart s j).1 ∨ k ≠ j.bits 16 0 12) → pegOf t q k = pegOf s q k) ∧
      OnlyParts [.pegs, .jobs] s t) ∧
  (∀ (n : Nat) (s : State) (j : Job), opJob s n 0x0A02 = some j → pegFields s j = none →
    ∃ t, exec (.pegSet n) s = .next t ∧ Decided t n stDone 0 ∧ OtherJobs n s t ∧
      pegOf t (pegPart s j).1 (j.bits 16 0 12) = BitVec.ofNat 64 (j.fld 24 8) ∧
      (∀ q k, k < 4096 → (q ≠ (pegPart s j).1 ∨ k ≠ j.bits 16 0 12) → pegOf t q k = pegOf s q k) ∧
      OnlyParts [.pegs, .jobs] s t) ∧
  (∀ (n : Nat) (s : State) (j : Job) (e : Ending), pegFields s j = some e →
    (opJob s n 0x0A01 = some j → ∃ t, exec (.pegAdd n) s = .next t ∧ Decided t n e.1 e.2 ∧ OtherJobs n s t ∧
      OnlyParts [.jobs] s t) ∧
    (opJob s n 0x0A02 = some j → ∃ t, exec (.pegSet n) s = .next t ∧ Decided t n e.1 e.2 ∧ OtherJobs n s t ∧
      OnlyParts [.jobs] s t))

/-- NOP ends DONE; HOST_WRITE writes 8 bytes to host memory and ends DONE. A NOP whose reserved bytes 16 to 55 are 0 ends
DONE and changes nothing else. A HOST_WRITE whose reserved bytes are 0 and whose address is 8-byte aligned sends the 8 bytes
of its value, lowest first, to that address of its function's host memory where the function can reach it, and ends DONE;
where it cannot, the descriptor waits, begun, and nothing else changes. (01_commands.md R41, R46) -/
def Obligations.NopAndHostWrite : Prop :=
  (∀ (n : Nat) (s : State) (j : Job), opJob s n 0x0A00 = some j → rsvd j 16 56 = none →
    ∃ t, exec (.nop n) s = .next t ∧ Decided t n stDone 0 ∧ OtherJobs n s t ∧ OnlyParts [.jobs] s t) ∧
  (∀ (n : Nat) (s : State) (j : Job), opJob s n 0x0A03 = some j → rsvd j 16 24 = none → rsvd j 40 56 = none →
    j.fld 24 8 % 8 = 0 → hostOpen s (fnOfRing s j.ring) = true →
    ∃ t, exec (.hostWrite n) s = .next t ∧ Decided t n stDone 0 ∧ OtherJobs n s t ∧
      t.out = s.out ++ [.hostWrite (fnOfRing s j.ring) (j.fld 24 8) (leBytes 8 (j.fld 32 8)) false] ∧
      OnlyParts [.jobs, .out, .counts] s t) ∧
  (∀ (n : Nat) (s : State) (j : Job), opJob s n 0x0A03 = some j → rsvd j 16 24 = none → rsvd j 40 56 = none →
    j.fld 24 8 % 8 = 0 → hostOpen s (fnOfRing s j.ring) = false →
    ∃ t, exec (.hostWrite n) s = .next t ∧ job? t n = some { j with waits := true } ∧ OtherJobs n s t ∧ OnlyParts [.jobs] s t)

/-- DESCRIPTOR_FETCH takes the next ring's slot; DESCRIPTOR_FETCH_FAIL halts the ring. Where a ring has a slot to fetch, the
ring whose turn it is reads its next slot and its head advances by one modulo the ring's size. A descriptor's own slot
becomes a new descriptor of the ring, behind all others, fetched and not begun, that waits for an extension exactly where its
chain flag says so; an extension goes to the descriptor that waits for it. A fetch that fails halts the ring and sets bit 2
of its error register and bit 5 of the host port's Stain register. (01_commands.md R30, R31, R33, R36; 14_health.md R441) -/
def Obligations.DescriptorFetchTakesSlot : Prop :=
  (∀ (slot : Slot) (s : State) (n : Nat), nextRing s = some n → wantsExt s n = none →
    ∃ t j, exec (.descriptorFetch slot) s = .next t ∧ t.hp.jobs = s.hp.jobs ++ [j] ∧ j.id = s.nextId ∧ j.ring = n ∧ j.raw = slot ∧
      j.phase = .fetched ∧ j.ext = none ∧ j.needExt = slot.getLsbD 19 ∧ j.fetchAt = s.now ∧ t.nextId = s.nextId + 1 ∧
      (ringOf t n).cmdHead = ((ringOf s n).cmdHead + 1) % (ringOf s n).cmdSize ∧
      (∀ m, m ≠ n → ringOf t m = ringOf s m) ∧ OnlyParts [.jobs, .rings, .link, .lfsr, .tags, .counts, .nextId] s t) ∧
  (∀ (slot : Slot) (s : State) (n : Nat) (j : Job), nextRing s = some n → wantsExt s n = some j → job? s j.id = some j →
    ∃ t k, exec (.descriptorFetch slot) s = .next t ∧ job? t j.id = some k ∧ k.ext = some slot ∧ k.needExt = false ∧
      k.raw = j.raw ∧ k.phase = j.phase ∧ OtherJobs j.id s t ∧
      (ringOf t n).cmdHead = ((ringOf s n).cmdHead + 1) % (ringOf s n).cmdSize ∧
      (∀ m, m ≠ n → ringOf t m = ringOf s m) ∧ OnlyParts [.jobs, .rings, .link, .counts] s t) ∧
  (∀ (s : State) (n : Nat), nextRing s = some n →
    ∃ t, exec .descriptorFetchFail s = .next t ∧ ringOf t n = { ringOf s n with halted := true, err := (ringOf s n).err ||| 4 } ∧
      bitOf (rreg t rHpStain).toNat 5 = true ∧ (∀ m, m ≠ n → ringOf t m = ringOf s m) ∧
      OnlyParts [.jobs, .rings, .link, .tags, .regs, .log] s t)

/-- DESCRIPTOR_BEGIN checks the next descriptor of a ring and begins it, ends it, or halts the ring. Where the next
descriptor of a ring may begin and carries the ring's next sequence number, the number advances by one; where no check of its
header and of the issuing function finds an error the descriptor stands begun, with its time, its place in the order of begin
and the visible lengths that it found, and otherwise it ends with the first error. Beside the descriptor and its ring, a
begin changes only what a CHECKPOINT, a SEARCH, a MERGE, a SWAP or a SNAPSHOT takes or triggers as it begins. With another
sequence number the ring halts, and it and every later fetched descriptor of the ring end BAD_DESCRIPTOR with SEQUENCE.
(01_commands.md R31, R32, R37; 00_scope.md R10) -/
def Obligations.DescriptorBeginChecks : Prop :=
  (∀ (n : Fin 512) (s : State) (j : Job), nextJob s n.val = some j → job? s j.id = some j → mayBegin s j = true →
    j.seq = (ringOf s n.val).nextSeq.toNat → headerErr j = none → accessErr s j = none →
    ∃ t, exec (.descriptorBegin n) s = .next t ∧ t.hp.begun = s.hp.begun + 1 ∧
      job? t j.id = some { j with
        phase := .checked, beginAt := s.now, order := s.hp.begun + 1, seen := seenNow s n.val, demoted := demotes s j } ∧
      OtherJobs j.id s t ∧ ringOf t n.val = { ringOf s n.val with nextSeq := (ringOf s n.val).nextSeq + 1 } ∧
      OnlyParts [.jobs, .rings, .shots, .searches, .queues, .snaps, .regs, .log, .casts, .ports, .out, .counts] s t ∧
      (j.opcode ∉ [0x0707, 0x0904, 0x0905, 0x0101, 0x0B00] → OnlyParts [.jobs, .rings] s t)) ∧
  (∀ (n : Fin 512) (s : State) (j : Job) (e : Ending), nextJob s n.val = some j → job? s j.id = some j → mayBegin s j = true →
    j.seq = (ringOf s n.val).nextSeq.toNat → (headerErr j = some e ∨ headerErr j = none ∧ accessErr s j = some e) →
    ∃ t, exec (.descriptorBegin n) s = .next t ∧ Decided t j.id e.1 e.2 ∧ OtherJobs j.id s t ∧
      ringOf t n.val = { ringOf s n.val with nextSeq := (ringOf s n.val).nextSeq + 1 } ∧ OnlyParts [.jobs, .rings] s t) ∧
  (∀ (n : Fin 512) (s : State) (j : Job), nextJob s n.val = some j → mayBegin s j = true →
    j.seq ≠ (ringOf s n.val).nextSeq.toNat →
    ∃ t, exec (.descriptorBegin n) s = .next t ∧
      ringOf t n.val = { ringOf s n.val with halted := true, err := (ringOf s n.val).err ||| 1 } ∧
      (∀ m k, job? s m = some k → k.ring = n.val → j.id ≤ k.id → k.phase = .fetched → Decided t m stBad 0x0408) ∧
      (∀ m k, job? s m = some k → (k.ring ≠ n.val ∨ k.id < j.id ∨ k.phase ≠ .fetched) → job? t m = some k) ∧
      bitOf (rreg t rHpStain).toNat 6 = true ∧ OnlyParts [.jobs, .rings, .regs, .log] s t)

/-- A held completion is written in order; coalescing and unmasking raise the vector. HELD_COMPLETION_WRITE writes the oldest
held entry of a ring whose completion ring has room and whose function can reach host memory: 16 bytes at the slot of the
completion tail with the ring's phase bit; the tail advances by one and, past the last slot, returns to 0 with the phase bit
inverted. COAL_TIME_EXPIRE of a ring with entries older than its coalescing time begins their count anew. MSIX_UNMASK clears
the mask and the pending bit of a vector; a pending one is sent where host memory is open to its function. (01_commands.md
R42, R44, R45) -/
def Obligations.CompletionEntries : Prop :=
  (∀ (n : Fin 512) (s : State) (e : Entry) (es : List Entry), (ringOf s n.val).held = e :: es →
    hostOpen s (fnOfRing s n.val) = true → cplFull (ringOf s n.val) = false →
    ∃ t o, exec (.heldCompletionWrite n) s = .next t ∧ (ringOf t n.val).held = es ∧
      t.out = s.out ++ Output.hostWrite (fnOfRing s n.val) ((ringOf s n.val).cplBase.toNat + 16 * (ringOf s n.val).cplTail)
        (entryBytes e (ringOf s n.val).phase) false :: o ∧
      (ringOf t n.val).cplTail =
        (if (ringOf s n.val).cplTail + 1 = (ringOf s n.val).cplSize then 0 else (ringOf s n.val).cplTail + 1) ∧
      (ringOf t n.val).phase =
        (if (ringOf s n.val).cplTail + 1 = (ringOf s n.val).cplSize then !(ringOf s n.val).phase else (ringOf s n.val).phase) ∧
      (∀ m, m ≠ n.val → ringOf t m = ringOf s m) ∧ OnlyParts [.rings, .out, .counts, .msix, .owed] s t) ∧
  (∀ (n : Fin 512) (s : State), bitsOf (ringOf s n.val).ctrl.toNat 16 16 ≠ 0 → (ringOf s n.val).since ≠ 0 →
    (ringOf s n.val).firstAt.toNat + 1000 * bitsOf (ringOf s n.val).ctrl.toNat 16 16 ≤ s.now.toNat →
    (msixOf s (vecBase s.hp.own (fnOfRing s n.val) + (ringOf s n.val).vector)).mask = true →
    ∃ t, exec (.coalTimeExpire n) s = .next t ∧ ringOf t n.val = { ringOf s n.val with since := 0, firstAt := 0 } ∧
      (msixOf t (vecBase s.hp.own (fnOfRing s n.val) + (ringOf s n.val).vector)).pend = true ∧ OnlyParts [.rings, .msix] s t) ∧
  (∀ (f : Fin 9) (vec : Fin 512) (s : State) (g : Nat), vecOf s f.val vec.val = some g → (msixOf s g).pend = false →
    ∃ t, exec (.msixUnmask f vec) s = .next t ∧ msixOf t g = { msixOf s g with mask := false, pend := false } ∧
      (∀ h, h ≠ g → msixOf t h = msixOf s h) ∧ OnlyParts [.msix] s t) ∧
  (∀ (f : Fin 9) (vec : Fin 512) (s : State) (g : Nat), vecOf s f.val vec.val = some g → (msixOf s g).pend = true →
    hostOpen s (vecOwner s.hp.own g) = true →
    ∃ t, exec (.msixUnmask f vec) s = .next t ∧ msixOf t g = { msixOf s g with mask := false, pend := false } ∧
      t.out = s.out ++ [.msix (vecOwner s.hp.own g) g (msixOf s g).addr (msixOf s g).data] ∧ OnlyParts [.msix, .out] s t)

/-- DESCRIPTOR_COMPLETE ends a decided descriptor: its signal peg, then its entry written or held. A decided descriptor that
may complete leaves the module. Where it ended DONE or DONE_SOILED and asks for it, its signal peg is one higher; every other
peg stays. Its entry is written to host memory at the completion tail where its function can reach host memory, nothing is
held and the completion ring has room; otherwise it joins the end of the ring's held entries. (01_commands.md R38, R42, R43,
R44) -/
def Obligations.DescriptorCompletes : Prop :=
  ∀ (n : Nat) (s : State) (j : Job), job? s n = some j → mayComplete s j = true →
    ∃ t, exec (.descriptorComplete n) s = .next t ∧ job? t n = none ∧ OtherJobs n s t ∧
      (∀ p, partOfRing s j.ring = some p → (j.status = stDone ∨ j.status = stDoneSoiled) → j.bits 11 7 1 = 1 →
        pegOf t p (j.bits 10 0 12) = pegOf s p (j.bits 10 0 12) + 1 ∧
        ∀ q k, k < 4096 → (q ≠ p ∨ k ≠ j.bits 10 0 12) → pegOf t q k = pegOf s q k) ∧
      ((partOfRing s j.ring = none ∨ (j.status ≠ stDone ∧ j.status ≠ stDoneSoiled) ∨ j.bits 11 7 1 = 0) →
        t.hp.pegs = s.hp.pegs) ∧
      (hostOpen s (fnOfRing s j.ring) = true → (ringOf s j.ring).held = [] → cplFull (ringOf s j.ring) = false →
        (ringOf t j.ring).held = [] ∧
        ∃ a b, t.out = s.out ++ a ++ Output.hostWrite (fnOfRing s j.ring)
          ((ringOf s j.ring).cplBase.toNat + 16 * (ringOf s j.ring).cplTail) (entryBytes (entryOf j) (ringOf s j.ring).phase) false :: b) ∧
      ((hostOpen s (fnOfRing s j.ring) = false ∨ (ringOf s j.ring).held ≠ [] ∨ cplFull (ringOf s j.ring) = true) →
        ringOf t j.ring = { ringOf s j.ring with held :=
          (ringOf s j.ring).held ++ [{ entryOf j with shut := !hostOpen s (fnOfRing s j.ring) }] }) ∧
      (∀ m, m ≠ j.ring → ringOf t m = ringOf s m)

/-- The peg window: ADD adds, VALUE reads and latches, nothing else is written. For each peg of each partition, in a READY
module: a write by the PF at offset 8 of the peg's 16 bytes adds its 32-bit unsigned value to the peg and changes nothing
else; a write at any other offset changes nothing; a read of VALUE_LO answers the low half and latches the high half, which
VALUE_HI then reads. (01_commands.md R40) -/
def Obligations.PegWindowOffsets : Prop :=
  ∀ (p : Fin 8) (i : Fin 4096) (v : Word) (s : State), ready s = true → booting s = true →
    (∃ t, exec (.registerWrite 0 (BitVec.ofNat 32 (rPeg p.val i.val + 8)) v) s = .next t ∧
      pegOf t p.val i.val = pegOf s p.val i.val + v.setWidth 64 ∧
      (∀ q k, k < 4096 → (q ≠ p.val ∨ k ≠ i.val) → pegOf t q k = pegOf s q k) ∧ OnlyParts [.pegs] s t) ∧
    (∀ o, o < 16 → o ≠ 8 → exec (.registerWrite 0 (BitVec.ofNat 32 (rPeg p.val i.val + o)) v) s = .next s) ∧
    (∃ t, exec (.pairLoRead 0 (BitVec.ofNat 32 (rPeg p.val i.val))) s = .next t ∧
      t.out = s.out ++ [.regData 0 (rPeg p.val i.val) (BitVec.ofNat 32 ((pegOf s p.val i.val).toNat % 2 ^ 32))] ∧
      readBar t 0 (rPeg p.val i.val + 4) = BitVec.ofNat 32 ((pegOf s p.val i.val).toNat / 2 ^ 32) ∧ OnlyParts [.out, .latches] s t)

/-- A descriptor waits for its wait peg, and signals its signal peg when it completes well. A descriptor with wait enable
whose wait peg is below its threshold is not begun: DESCRIPTOR_BEGIN changes nothing. One with signal enable that completes
with DONE or DONE_SOILED adds 1 to its signal peg, modulo 2^64; with another status, or without signal enable, no peg
changes. (01_commands.md R38) -/
def Obligations.WaitAndSignalPegs : Prop :=
  (∀ (n : Fin 512) (s : State) (j : Job) (p : Nat), nextJob s n.val = some j → partOfRing s j.ring = some p → j.bits 9 7 1 = 1 →
    (pegOf s p (j.bits 8 0 12)).toNat < j.fld 56 8 → exec (.descriptorBegin n) s = .next s) ∧
  (∀ (n : Nat) (s : State) (j : Job) (p : Nat), job? s n = some j → mayComplete s j = true → partOfRing s j.ring = some p →
    ∃ t, exec (.descriptorComplete n) s = .next t ∧ job? t n = none ∧
      (((j.status = stDone ∨ j.status = stDoneSoiled) ∧ j.bits 11 7 1 = 1) →
        pegOf t p (j.bits 10 0 12) = pegOf s p (j.bits 10 0 12) + 1 ∧
        ∀ q k, k < 4096 → (q ≠ p ∨ k ≠ j.bits 10 0 12) → pegOf t q k = pegOf s q k) ∧
      (((j.status ≠ stDone ∧ j.status ≠ stDoneSoiled) ∨ j.bits 11 7 1 = 0) → t.hp.pegs = s.hp.pegs))

/-- Every command answers a next state in every state. No command ends in a fault or a refusal, whatever the state: one that
the state does not admit leaves the state as it is, which is the model's choice (notes/assumptions/10.md), and every other
one has its effect. (00_scope.md; 01_commands.md; notes/assumptions/10.md) -/
def Obligations.NoCommandStops : Prop :=
  ∀ (c : Instr) (s : State), ∃ t, exec c s = .next t

/-- PAIR_LO_READ answers the low half and latches the high half. While the module is READY, a read by a function of the low
register of a 64-bit pair that its BAR0 reaches answers the low 32 bits of the pair's value and latches the high 32 bits for
that function; no other latch changes, and nothing else. (00_scope.md R5) -/
def Obligations.PairReadsLatchHigh : Prop :=
  ∀ (f : Fin 9) (off : Word) (s : State) (o : Nat), ready s = true → booting s = true → barOffset s f.val off.toNat = some o →
    isPairLo o = true →
    ∃ t, exec (.pairLoRead f off) s = .next t ∧
      t.out = s.out ++ [.regData f.val off.toNat (BitVec.ofNat 32 ((pairValue s o).toNat % 2 ^ 32))] ∧
      tget (fun _ => none) t.hp.latches (f.val * 2 ^ 32 + o) = some (BitVec.ofNat 32 ((pairValue s o).toNat / 2 ^ 32)) ∧
      (∀ k, k ≠ f.val * 2 ^ 32 + o → tget (fun _ => none) t.hp.latches k = tget (fun _ => none) s.hp.latches k) ∧
      OnlyParts [.out, .latches] s t

/-- BAR4 reads and writes its function's partition, or aborts. In a READY module a BAR4_READ whose bytes all lie in objects
and not only in Tier 2 answers exactly the bytes that memory holds there, with whether one is soiled, and leaves memory; one
that does not sets bit 7 of the host port's Stain register and answers an abort. A BAR4_WRITE to such bytes outside KV
regions whose pages are backed stores exactly its bytes there and leaves every other byte of memory; one that lies nowhere
sets bit 7 and stores nothing. (01_commands.md R23; 06_kv_cache.md R171; 08_tiers.md R256) -/
def Obligations.Bar4ReachesMemory : Prop :=
  (∀ (f : Fin 9) (off len p va : Nat) (s : State), ready s = true → barAt s f.val off = some (p, va) → barOk s p va len = true → 0 < len →
    ∃ t, exec (.bar4Read f off len) s = .next t ∧ t.out = s.out ++ [.barData f.val (bytesAt s p va len) (soiledAt s p va len)] ∧
      BytesOutside [] s t ∧ OnlyParts [.out, .regs, .log, .counts, .pages, .pats, .shots, .cache, .nodes] s t) ∧
  (∀ (f : Fin 9) (off len p va : Nat) (s : State), ready s = true → barAt s f.val off = some (p, va) → barOk s p va len = false →
    ∃ t, exec (.bar4Read f off len) s = .next t ∧ t.out = s.out ++ [.barAbort f.val] ∧
      bitOf (rreg t rHpStain).toNat 7 = true ∧ BytesOutside [] s t ∧ OnlyParts [.out, .regs, .log] s t) ∧
  (∀ (f : Fin 9) (off p va : Nat) (bs : List Byte) (poison : Bool) (s : State), ready s = true → barAt s f.val off = some (p, va) →
    barOk s p va bs.length = true → inRegion s p va bs.length = false →
    (∀ e ∈ pagesIn s p (bs.length / 4096 + 2) va (va + bs.length), ownPage s p e.2.1 ≠ none) →
    ∃ t, exec (.bar4Write f off bs poison) s = .next t ∧ bytesAt t p va bs.length = bs ∧
      BytesOutside [wr p va bs.length] s t ∧
      OnlyParts [.free, .regs, .log, .counts, .mem, .soil, .nans, .pages, .pats, .shots, .cache, .nodes] s t) ∧
  (∀ (f : Fin 9) (off : Nat) (bs : List Byte) (poison : Bool) (s : State), ready s = true → barAt s f.val off = none →
    ∃ t, exec (.bar4Write f off bs poison) s = .next t ∧ bitOf (rreg t rHpStain).toNat 7 = true ∧ BytesOutside [] s t ∧
      OnlyParts [.regs, .log] s t)

/-- What the cold reset, the warm reset and the module reset command keep and clear. A cold reset clears every register to
its reset value, every count, every descriptor, every object, every byte of memory and the boot's progress. A warm reset and
the module reset command do so but for the Stain registers, which keep their values; the command also keeps the host port's
link, grace and partition configuration registers. The fuses, the EEPROM and what the Deep carrier holds stay in each; the
command also keeps the PCIe link and NumVFs. The warm reset ends the boot until its pin is deasserted. After the command the
module boots anew from STRAPS. (00_scope.md R7, R8; 13_bringup.md R410, R433; 14_health.md R446) -/
def Obligations.WhatEachResetKeeps : Prop :=
  (∀ (s : State), ∃ t, exec (.coldReset false) s = .next t ∧ t.regs = [] ∧ t.counts = [] ∧ t.hp.jobs = [] ∧ t.tm.objs = [] ∧
    (∀ k a, byteAt t k a = 0) ∧ t.boot = { State.reset.boot with fuseSvn := s.boot.fuseSvn } ∧ t.pw.eeprom = s.pw.eeprom ∧
    t.tm.ckpts = s.tm.ckpts ∧ t.tm.deep = s.tm.deep ∧ t.pw.pwrGood = true ∧ t.pw.perst = true ∧ bootState t = 0) ∧
  (∀ (s : State), booting s = true →
    ∃ t, exec .perstAssert s = .next t ∧ (∀ off, (stainAt off).isSome = true → rreg t off = rreg s off) ∧
      (∀ off, stainAt off = none → rreg t off = regReset off) ∧ t.counts = [] ∧ t.hp.jobs = [] ∧ t.tm.objs = [] ∧
      (∀ k a, byteAt t k a = 0) ∧ t.boot = { State.reset.boot with fuseSvn := s.boot.fuseSvn } ∧ t.pw.eeprom = s.pw.eeprom ∧
      t.tm.ckpts = s.tm.ckpts ∧ t.tm.deep = s.tm.deep ∧ t.pw.perst = true ∧ booting t = false) ∧
  (∀ (v : Word) (s : State), booting s = true → bootState s ≠ 9 → bitsOf v.toNat 0 16 = 0xD1A5 →
    ∃ t, exec (.moduleResetCommand v) s = .next t ∧
      (∀ off, ((stainAt off).isSome = true ∨ off = rLink ∨ off = rGrace ∨ rPartCfg 0 ≤ off ∧ off < rPartCfg 8) → rreg t off = rreg s off) ∧
      (∀ off, stainAt off = none → off ≠ rLink → off ≠ rGrace → (off < rPartCfg 0 ∨ rPartCfg 8 ≤ off) → rreg t off = regReset off) ∧
      t.counts = [] ∧ t.hp.jobs = [] ∧ t.tm.objs = [] ∧ (∀ k a, byteAt t k a = 0) ∧
      t.boot = { State.reset.boot with fuseSvn := s.boot.fuseSvn } ∧ t.pw.eeprom = s.pw.eeprom ∧ bootState t = 0 ∧ booting t = true ∧
      t.tm.ckpts = s.tm.ckpts ∧ t.tm.deep = s.tm.deep ∧ t.hp.linkUp = s.hp.linkUp ∧ t.hp.numVfs = s.hp.numVfs)

/-- A partition reset clears its rings, pegs and memory; its end lets a new die set apply. PARTITION_RESET by a function that
answers resets the rings, pegs, memory, objects and descriptors of its partition, and of every partition where the PF issues
it; RESETTING of each reads 1. PARTITION_RESET_DONE of a partition that is RESETTING clears it; the die set that waits
applies. (01_commands.md R19, R25, R46, R47, R48; 08_tiers.md R285, R290) -/
def Obligations.PartitionResetClears : Prop :=
  (∀ (f : Fin 9) (s : State), booting s = true → present s f.val = true →
    ∃ t, exec (.partitionReset f) s = .next t ∧
      (∀ g p, (g = f.val ∨ f = 0) → partOf s.hp.own g = some p → p < 8 →
        rfield t (rPartStatus p) 2 1 = 1 ∧ (∀ i, i < 4096 → pegOf t p i = 0) ∧ (∀ a, a < 2 ^ 52 → byteAt t p a = 0) ∧
        t.tm.objs.all (fun o => o.p != p) = true ∧ keyOf t p = none) ∧
      (∀ g n, (g = f.val ∨ f = 0) → g ≤ s.hp.own → ringOwner s.hp.own n = some g →
        ringOf t n = ring0 ∧ t.hp.jobs.all (fun j => j.ring != n) = true)) ∧
  (∀ (p : Fin 8) (s : State), rfield s (rPartStatus p.val) 2 1 = 1 →
    ∃ t, exec (.partitionResetDone p) s = .next t ∧ rfield t (rPartStatus p.val) 2 1 = 0 ∧
      (∀ d, d < 256 → tget (fun _ => none) s.hp.newDies p.val = some d → diesOf t p.val = d) ∧
      (tget (fun _ => none) s.hp.newDies p.val = none → diesOf t p.val = diesOf s p.val) ∧
      OtherRegs [rPartStatus p.val, rPartCfg p.val] s t ∧ OnlyParts [.regs, .link] s t)

/-- What the PCIe link, a hot reset, VF_ENABLE, bus mastering, a host stall and the grace period do. A hot reset clears
NumVFs, VF Enable and every bus master bit and sets bit 1 of the host port's Stain register; ownership stands. VF_ENABLE with
the ownership in force gives the functions NumVFs. A link that goes down clears UP and a stall and sets bit 2; one that comes
up shows speed, width and flit mode. Bus mastering enabled lets its function reach host memory again unless a stall runs,
which it does not end. A stall begins only on a link that is up and sets bit 0 of the host port's Stain register; a retry
that works ends it. Once HOST_GRACE has passed since the link went down, the grace period ends with bit 3 set; where no
enabled ring of an owned function names a job nothing else changes. (01_commands.md R14, R16, R24, R46, R47, R488;
13_bringup.md R420; 14_health.md R454) -/
def Obligations.PcieAndHostStalls : Prop :=
  (∀ (s : State), booting s = true → s.hp.linkUp = true →
    ∃ t, exec .pcieHotReset s = .next t ∧ t.hp.numVfs = 0 ∧ t.hp.vfOn = false ∧ t.hp.bme = 0 ∧ t.hp.own = s.hp.own ∧
      bitOf (rreg t rHpStain).toNat 1 = true ∧ OtherRegs [rHpStain] s t ∧ OnlyParts [.link, .regs, .log] s t) ∧
  (∀ (v : Fin 9) (s : State), booting s = true → s.hp.linkUp = true → s.hp.numVfs = s.hp.own →
    ∃ t, exec (.vfEnable v) s = .next t ∧ t.hp.numVfs = v.val ∧ t.hp.own = v.val ∧ (t.hp.vfOn = true ↔ v ≠ 0) ∧
      t.hp.bme = (s.hp.bme &&& 1) ∧ OnlyParts [.link] s t) ∧
  (∀ (s : State), booting s = true → s.hp.linkUp = true → bootState s ≠ 2 →
    ∃ t, exec .pcieLinkDown s = .next t ∧ t.hp.linkUp = false ∧ t.hp.stall = false ∧ t.hp.downAt = some s.now ∧
      rfield t rLink 9 1 = 0 ∧ bitOf (rreg t rHpStain).toNat 2 = true ∧ OtherRegs [rLink, rHpStain] s t ∧
      OnlyParts [.link, .regs, .log] s t) ∧
  (∀ (speed : Fin 16) (width : Fin 32) (flit : Bool) (s : State), booting s = true → s.hp.linkUp = false →
    ∃ t, exec (.pcieLinkUp speed width flit) s = .next t ∧ t.hp.linkUp = true ∧ t.hp.downAt = none ∧
      rfield t rLink 0 4 = speed.val ∧ rfield t rLink 4 5 = width.val ∧ rfield t rLink 9 1 = 1 ∧
      rfield t rLink 10 1 = (if flit then 1 else 0) ∧ OtherRegs [rLink] s t ∧ OnlyParts [.link, .regs, .out, .msix, .owed] s t) ∧
  (∀ (f : Fin 9) (s : State), booting s = true → s.hp.linkUp = true → present s f.val = true → s.hp.bme.getLsbD f.val = false →
    ∃ t, exec (.busMasterEnable f) s = .next t ∧ t.hp.bme.getLsbD f.val = true ∧ t.hp.stall = s.hp.stall ∧
      (s.hp.stall = false → hostOpen t f.val = true) ∧
      OnlyParts [.link, .out, .msix, .owed] s t) ∧
  (∀ (s : State), booting s = true → s.hp.linkUp = true → s.hp.stall = false →
    ∃ t, exec .hostStallBegin s = .next t ∧ t.hp.stall = true ∧ bitOf (rreg t rHpStain).toNat 0 = true ∧ OtherRegs [rHpStain] s t ∧
      OnlyParts [.link, .regs, .log] s t) ∧
  (∀ (s : State), s.hp.stall = true →
    ∃ t, exec (.hostStallRetry true) s = .next t ∧ t.hp.stall = false ∧ OnlyParts [.link, .out, .msix, .owed] s t) ∧
  (∀ (s : State) (t0 : DWord), s.hp.downAt = some t0 → t0.toNat + rfield s rGrace 0 16 * 10 ^ 6 ≤ s.now.toNat →
    jobsOf s (fun _ => true) = [] →
    ∃ t, exec .hostGraceExpire s = .next t ∧ t.hp.downAt = none ∧ bitOf (rreg t rHpStain).toNat 3 = true ∧ OtherRegs [rHpStain] s t ∧
      OnlyParts [.link, .regs, .log] s t) ∧
  (∀ (s : State) (t0 : DWord), s.hp.downAt = some t0 → t0.toNat + rfield s rGrace 0 16 * 10 ^ 6 ≤ s.now.toNat →
    ∃ t, exec .hostGraceExpire s = .next t ∧ t.hp.downAt = none ∧ OnlyParts (.link :: abortParts) s t)

/-- BOOT_START, STRAPS_DONE and GO. With power good and its reset asserted, BOOT_START lets the boot run and starts the
Stitch counter from 0. In STRAPS, 13 strap bits of odd parity take the boot to WAIT with the module number and VALID and the
parity flag in TC_STRAPS; of even parity they end it in SAFE with error 1. In WAIT a GO takes the boot to VERIFY, with no
error and with the value's COMMIT_SVN. (00_scope.md R12; 13_bringup.md R412, R413, R415, R420) -/
def Obligations.BootStraps : Prop :=
  (∀ (s : State), s.pw.pwrGood = true → s.pw.perst = true →
    ∃ t, exec .bootStart s = .next t ∧ booting t = true ∧ t.now = 0 ∧ OnlyParts [.now, .pins] s t) ∧
  (∀ (raw : BitVec 13) (s : State), booting s = true → bootState s = 0 →
    ((List.range 13).filter (raw.getLsbD ·)).length % 2 = 1 →
    ∃ t, exec (.strapsDone raw) s = .next t ∧ bootState t = 1 ∧ moduleNo t = raw.toNat % 4096 ∧ rfield t rStraps 0 13 = raw.toNat ∧
      OtherRegs [rBootStatus, rStraps] s t ∧ OnlyParts [.regs] s t) ∧
  (∀ (raw : BitVec 13) (s : State), booting s = true → bootState s = 0 →
    ((List.range 13).filter (raw.getLsbD ·)).length % 2 = 0 →
    ∃ t, exec (.strapsDone raw) s = .next t ∧ bootState t = 9 ∧ rfield t rBootStatus 16 8 = 1 ∧ rfield t rBootStatus 0 16 = raw.toNat ∧
      bitOf (rreg t rTcStain).toNat 2 = true ∧ OnlyParts [.regs, .log, .ports, .boot] s t) ∧
  (∀ (v : Word) (s : State), booting s = true → bootState s = 1 →
    ∃ t, exec (.go v) s = .next t ∧ bootState t = 2 ∧ rfield t rBootStatus 16 8 = 0 ∧ rfield t rBootStatus 0 16 = 0 ∧
      rreg t rBootCtrl = v &&& 2 ∧ OtherRegs [rBootStatus, rBootCtrl] s t ∧ OnlyParts [.regs] s t)

/-- BOOT_INPUTS_FETCHED checks the image, the record and the plan. In VERIFY, an image of its stated length that passes every
check, with a boot record and a plan that do, takes the boot to LOAD: the image, its version, floor and build and the record
are kept and the plan is in force. An input that could not be read sends the boot back to WAIT with error 2 and which one in
its detail; an image that fails with error 3, 4, 5 or 6 does so with that error, and bits 1 and 2 of the TC block's Stain
register are set. (13_bringup.md R415, R416, R417, R418, R419, R420, R423, R426) -/
def Obligations.BootVerifies : Prop :=
  (∀ (img rec plan : List Byte) (s : State), booting s = true → bootState s = 2 → img.length = (rreg s rImgLen).toNat →
    rec.length = 64 → (rreg s rRecAddr ≠ 0 ∨ rreg s (rRecAddr + 4) ≠ 0) → plan.length = (rreg s rPlanLen).toNat →
    imageErr s img (rreg s rImgLen).toNat = none → recordErr rec = none → planErr s plan = none →
    ∃ t, exec (.bootInputsFetched (some img) (some rec) (some plan)) s = .next t ∧ bootState t = 3 ∧
      t.boot.plan = some ⟨plan⟩ ∧ t.boot.image = img ∧ t.boot.record = rec ∧ t.boot.imageSvn = numOf img 12 4 ∧ t.boot.imageFloor = numOf img 16 4 ∧
      t.boot.buildId = BitVec.ofNat 64 (numOf img 88 8) ∧ t.boot.retired = s.boot.retired ∧
      (t.boot.fuseSvn = s.boot.fuseSvn ∨ rfield s rBootCtrl 1 1 = 1) ∧ OnlyParts [.regs, .boot] s t) ∧
  (∀ (rec plan : Option (List Byte)) (s : State), booting s = true → bootState s = 2 →
    ∃ t, exec (.bootInputsFetched none rec plan) s = .next t ∧ bootState t = 1 ∧ rfield t rBootStatus 16 8 = 2 ∧
      rfield t rBootStatus 0 16 = 1 ∧ bitOf (rreg t rTcStain).toNat 2 = true ∧ t.boot = s.boot ∧ OnlyParts [.regs, .log] s t) ∧
  (∀ (img rec plan : List Byte) (s : State) (c d : Nat), booting s = true → bootState s = 2 → img.length = (rreg s rImgLen).toNat →
    rec.length = 64 → (rreg s rRecAddr ≠ 0 ∨ rreg s (rRecAddr + 4) ≠ 0) → plan.length = (rreg s rPlanLen).toNat →
    imageErr s img (rreg s rImgLen).toNat = some (c, d) → c < 256 →
    ∃ t, exec (.bootInputsFetched (some img) (some rec) (some plan)) s = .next t ∧ bootState t = 1 ∧ rfield t rBootStatus 16 8 = c ∧
      bitOf (rreg t rTcStain).toNat 1 = true ∧ bitOf (rreg t rTcStain).toNat 2 = true ∧ t.boot = s.boot ∧
      OnlyParts [.regs, .log] s t)

/-- BOOT_LOAD_DONE to READY: LOAD, BRINGUP, HBM training, self-test, the discovery window and joining. In LOAD with no stack
known to have failed BOOT_LOAD_DONE takes the boot to BRINGUP: the image's sections lie in the memories of their cores in
service, the counters count from then on and the transmitters are on. Once every port has trained or is DISABLED, or 10 ms
after LOAD, BRINGUP_DONE takes it to DISCOVERY. HBM_TRAINING_DONE without a failure notes it, and each stack's spare rows,
before READY; with one after LOAD the boot ends FAILED with error 9, and a failed self-test ends it with error 10. In
DISCOVERY with the window closed and no port training or authenticating, DISCOVERY_WINDOW_CLOSE takes the boot to JOIN. In
JOIN, not yet joined, with a running root heard, STITCH_LOCK sets the Stitch counter to its value; with no port UP,
JOIN_TIMEOUT declares the module alone and sets bit 3 of the TC block's Stain register. Either way the module has joined, and
it becomes READY where HBM is trained and the discovery window has closed, and stays in JOIN otherwise. (13_bringup.md R412,
R419, R420, R421, R430, R431, R486; 14_health.md R436, R439) -/
def Obligations.BootLoadsAndJoins : Prop :=
  (∀ (s : State), booting s = true → bootState s = 3 → s.boot.hbmFail = 0 →
    (∀ pt, pt < 16 → portReal s pt = true ∧ portState s pt ≠ 5) →
    ∃ t, exec .bootLoadDone s = .next t ∧ bootState t = 4 ∧ t.ob.counting = true ∧ t.boot.litAt = some s.now ∧
      t.boot.retired = BitVec.ofNat 64 (numOf s.boot.record 8 8) ∧
      t.boot.loaded = loadSections s.boot.image (65535 - numOf s.boot.record 16 2) ∧ OtherRegs [rBootStatus, rThimble] s t ∧
      OnlyParts [.regs, .boot, .counting] s t) ∧
  (∀ (s : State), bootState s = 4 →
    ((∀ pt, pt < 16 → 2 ≤ portState s pt) ∨ ∃ t0, s.boot.litAt = some t0 ∧ t0.toNat + 10 ^ 7 ≤ s.now.toNat) →
    ∃ t, exec .bringupDone s = .next t ∧ bootState t = 5 ∧ OtherRegs [rBootStatus] s t ∧ OnlyParts [.regs] s t) ∧
  (∀ (spares : List (BitVec 8)) (s : State), booting s = true → s.boot.hbmDone = false → s.boot.hbmFail = 0 → bootState s < 6 →
    ∃ t, exec (.hbmTrainingDone ⟨0, spares⟩) s = .next t ∧ t.boot.hbmDone = true ∧ bootState t = bootState s ∧
      (∀ k n, k < 12 → spares[k]? = some n → rfield t (rHm k) 16 8 = n.toNat) ∧ OnlyParts [.boot, .regs] s t) ∧
  (∀ (failed : BitVec 12) (spares : List (BitVec 8)) (s : State), booting s = true → s.boot.hbmDone = false → s.boot.hbmFail = 0 → failed ≠ 0 →
    3 < bootState s → bootState s ≤ 6 →
    ∃ t, exec (.hbmTrainingDone ⟨failed, spares⟩) s = .next t ∧ bootState t = 8 ∧ rfield t rBootStatus 16 8 = 9 ∧
      rfield t rBootStatus 0 16 = failed.toNat ∧ OnlyParts [.regs, .log, .ports, .boot] s t) ∧
  (∀ (thimble : Bool) (n : Fin 16) (s : State), booting s = true → bootState s ≤ 6 →
    ∃ t, exec (.selftestDone (some (thimble, n))) s = .next t ∧ bootState t = 8 ∧ rfield t rBootStatus 16 8 = 10 ∧
      rfield t rBootStatus 0 16 = (if thimble then 256 else 0) + n.val ∧ OnlyParts [.regs, .log, .ports, .boot] s t) ∧
  (∀ (s : State), bootState s = 5 → s.boot.discClosed = true → (∀ pt, pt < 16 → portState s pt ≠ 1 ∧ portState s pt ≠ 2) →
    ∃ t, exec .discoveryWindowClose s = .next t ∧ bootState t = 6 ∧ t.boot.joinAt = s.now ∧ OtherRegs [rBootStatus] s t ∧
      OnlyParts [.regs, .boot] s t) ∧
  (∀ (v : DWord) (s : State), bootState s = 6 → s.boot.joined = false → (bestAdvert s).isSome = true →
    ∃ t, exec (.stitchLock v) s = .next t ∧ t.now = v ∧ t.boot.joined = true ∧
      bootState t = (if s.boot.hbmDone = true ∧ s.boot.discClosed = true then 7 else 6) ∧
      OnlyParts [.now, .regs, .boot, .adverts, .snaps, .log] s t) ∧
  (∀ (s : State), bootState s = 6 → s.boot.joined = false → upPorts s = [] →
    ∃ t, exec .joinTimeout s = .next t ∧ t.boot.joined = true ∧ bitOf (rreg t rTcStain).toNat 3 = true ∧
      bootState t = (if s.boot.hbmDone = true ∧ s.boot.discClosed = true then 7 else 6) ∧ OnlyParts [.regs, .boot, .log] s t)

/-- PLAN_LOAD puts a plan in force; ATTEST writes a signed report. PLAN_LOAD with the reserved bytes 0, host memory open, no
earlier PLAN_LOAD running and a plan of its stated length that passes R426, while every port is DOWN or DISABLED, ends DONE
with that plan in force; with a plan that fails it ends BAD_DESCRIPTOR at byte 16 and the plan stays. ATTEST of an address of
64-byte alignment writes the report, of its body and the 49,856 bytes of its signature, to that address of host memory and
ends DONE. Behind an earlier PLAN_LOAD, and while host memory is out of reach, a PLAN_LOAD waits, and nothing else changes.
(13_bringup.md R422, R423, R424, R426, R428, R432) -/
def Obligations.PlanAndAttestation : Prop :=
  (∀ (n : Nat) (s : State) (j : Job) (b : List Byte), opJob s n 0x0A30 = some j → rsvd j 28 56 = none →
    hostOpen s (fnOfRing s j.ring) = true → plansBefore s j = false → b.length = j.fld 24 4 → planErr s b = none →
    (∀ pt, pt < 16 → portState s pt = 0 ∨ portState s pt = 5) →
    ∃ t, exec (.planLoad n (some b)) s = .next t ∧ Decided t n stDone 0 ∧ OtherJobs n s t ∧ t.boot.plan = some ⟨b⟩ ∧
      OnlyParts [.jobs, .boot, .regs, .log, .counts, .ports] s t) ∧
  (∀ (n : Nat) (s : State) (j : Job) (b : List Byte), opJob s n 0x0A30 = some j → rsvd j 28 56 = none →
    hostOpen s (fnOfRing s j.ring) = true → plansBefore s j = false → (b.length ≠ j.fld 24 4 ∨ (planErr s b).isSome = true) →
    ∃ t, exec (.planLoad n (some b)) s = .next t ∧ Decided t n stBad (0x09 + 256 * 16) ∧ OtherJobs n s t ∧
      OnlyParts [.jobs, .counts] s t) ∧
  (∀ (n : Nat) (b : Option (List Byte)) (s : State) (j : Job), opJob s n 0x0A30 = some j → rsvd j 28 56 = none →
    (hostOpen s (fnOfRing s j.ring) = false ∨ plansBefore s j = true) →
    ∃ t, exec (.planLoad n b) s = .next t ∧ job? t n = some { j with waits := true } ∧ OtherJobs n s t ∧ OnlyParts [.jobs] s t) ∧
  (∀ (n : Nat) (s : State) (j : Job), opJob s n 0x0A31 = some j → j.fld 16 8 % 64 = 0 → hostOpen s (fnOfRing s j.ring) = true →
    ∃ t r, exec (.attest n) s = .next t ∧ Decided t n stDone 0 ∧ OtherJobs n s t ∧ r.length = 512 + 49856 ∧
      r = report (measurePart s) j ∧
      t.out = s.out ++ [.hostWrite (fnOfRing s j.ring) (j.fld 16 8) r false] ∧ OnlyParts [.jobs, .out, .regs, .counts] s t)

/-- How the commands of a port move its state. A port that is DOWN with its transmitters on begins training on light or on a
retry. Training with at least 4 lanes in each direction makes it AUTHENTICATING, with up to 16 active lanes and the rest
spare, and sends its hello; with fewer it is DOWN. PORT_DISABLE of a DOWN port makes it DISABLED, PORT_ENABLE of a DISABLED
port of a dimension of size 2 or more makes it DOWN. PORT_QUARANTINE of an authenticating port quarantines it with reason 5,
PORT_RELEASE of a quarantined one lets it authenticate anew. Every other port keeps its state. (12_links.md R381, R390, R393,
R395, R399, R400, R409; 13_bringup.md R427, R428, R429) -/
def Obligations.PortStates : Prop :=
  (∀ (pt : Fin 16) (s : State), mayTrain s pt.val = true →
    (∃ t, exec (.lightReceived pt) s = .next t ∧ portState t pt.val = 1 ∧ OtherRegs [rPort pt.val] s t ∧ OnlyParts [.regs, .ports] s t) ∧
    (∃ t, exec (.trainingRetry pt) s = .next t ∧ portState t pt.val = 1 ∧ OtherRegs [rPort pt.val] s t ∧ OnlyParts [.regs, .ports] s t)) ∧
  (∀ (pt : Fin 16) (rx tx : BitVec 18) (s : State), portState s pt.val = 1 → 4 ≤ laneCount rx → 4 ≤ laneCount tx →
    ∃ t, exec (.trainingComplete pt rx tx) s = .next t ∧ portState t pt.val = 2 ∧ (portOf t pt.val).rxAct = lowLanes 16 rx ∧
      (portOf t pt.val).txAct = lowLanes 16 tx ∧ (portOf t pt.val).rxSpare = rx &&& ~~~ lowLanes 16 rx ∧
      (portOf t pt.val).txSpare = tx &&& ~~~ lowLanes 16 tx ∧
      t.out = s.out ++ [.net (.hello pt.val (BitVec.ofNat 12 (moduleNo s)) (portOf t pt.val).nonce identityKey)] ∧
      (∀ q, q ≠ pt.val → portOf t q = portOf s q) ∧ OtherRegs [rPort pt.val] s t ∧ OnlyParts [.free, .out, .regs, .ports] s t) ∧
  (∀ (pt : Fin 16) (rx tx : BitVec 18) (s : State), portState s pt.val = 1 → (laneCount rx < 4 ∨ laneCount tx < 4) →
    ∃ t, exec (.trainingComplete pt rx tx) s = .next t ∧ portState t pt.val = 0 ∧ OtherRegs [rPort pt.val] s t ∧
      OnlyParts [.regs, .ports] s t) ∧
  (∀ (pt : Fin 16) (s : State), ready s = true → portState s pt.val = 0 →
    ∃ t, exec (.portDisable pt) s = .next t ∧ portState t pt.val = 5 ∧ rreg t (rPort pt.val + 4) = 1 ∧ OnlyParts [.regs, .log] s t) ∧
  (∀ (pt : Fin 16) (s : State), ready s = true → portState s pt.val = 5 → portReal s pt.val = true →
    ∃ t, exec (.portEnable pt) s = .next t ∧ portState t pt.val = 0 ∧ rreg t (rPort pt.val + 4) = 0 ∧
      OtherRegs [rPort pt.val, rPort pt.val + 4] s t ∧ OnlyParts [.regs, .ports] s t) ∧
  (∀ (pt : Fin 16) (s : State), ready s = true → portState s pt.val = 2 →
    ∃ t, exec (.portQuarantine pt) s = .next t ∧ portState t pt.val = 4 ∧ portReason t pt.val = 5 ∧
      bitOf (rreg t (rOlStain pt.val)).toNat 6 = true ∧ OnlyParts [.regs, .log, .ports] s t) ∧
  (∀ (pt : Fin 16) (s : State), ready s = true → portState s pt.val = 4 →
    ∃ t, exec (.portRelease pt) s = .next t ∧ portState t pt.val = 2 ∧ (portOf t pt.val).hello = none ∧
      t.out = s.out ++ [.net (.hello pt.val (BitVec.ofNat 12 (moduleNo s)) (portOf t pt.val).nonce identityKey)] ∧
      OtherRegs [rPort pt.val] s t ∧ OnlyParts [.free, .out, .regs, .ports] s t)

/-- HELLO and AUTH_SIGNATURE authenticate a partner. A hello that reaches an authenticating port is kept and answered by the
module's signature over the transcript. A signature that verifies, of the partner that the plan expects, makes the port UP;
one of another partner quarantines it with the reason that the plan gives; one that does not verify sets bit 7 of the port's
Stain register and quarantines the port with reason 3. (12_links.md R395, R399; 13_bringup.md R422, R428, R429) -/
def Obligations.PortAuthentication : Prop :=
  (∀ (pt : Fin 16) (m : BitVec 12) (port : Fin 16) (nonce : BitVec 256) (key : BitVec 512) (s : State), portState s pt.val = 2 →
    ∃ t, exec (.hello pt m port nonce key) s = .next t ∧ (portOf t pt.val).hello = some (m, port.val, nonce, key) ∧
      (portOf t pt.val).nonce = (portOf s pt.val).nonce ∧
      t.out = s.out ++ [.net (.signature pt.val (Config.slhSign256f identitySeeds
        (portTranscript s pt.val (portOf s pt.val).nonce (m, port.val, nonce, key)) linkContext))] ∧
      OnlyParts [.out, .ports] s t) ∧
  (∀ (pt : Fin 16) (sig : List Byte) (s : State) (h : BitVec 12 × Nat × BitVec 256 × BitVec 512), portState s pt.val = 2 →
    (portOf s pt.val).hello = some h →
    Config.slhVerify256f (leBytes 64 h.2.2.2.toNat) (portTranscript s pt.val (portOf s pt.val).nonce h) linkContext sig = true →
    planFault s pt.val h = none →
    ∃ t, exec (.authSignature pt sig) s = .next t ∧ portState t pt.val = 3 ∧ (portOf t pt.val).auth = true ∧
      (∀ q, q ≠ pt.val → portOf t q = portOf s q) ∧ OnlyParts [.regs, .log, .ports, .out, .counts] s t) ∧
  (∀ (pt : Fin 16) (sig : List Byte) (s : State) (h : BitVec 12 × Nat × BitVec 256 × BitVec 512) (r : Nat), portState s pt.val = 2 →
    (portOf s pt.val).hello = some h →
    Config.slhVerify256f (leBytes 64 h.2.2.2.toNat) (portTranscript s pt.val (portOf s pt.val).nonce h) linkContext sig = true →
    planFault s pt.val h = some r →
    ∃ t, exec (.authSignature pt sig) s = .next t ∧ portState t pt.val = 4 ∧ portReason t pt.val = r ∧
      bitOf (rreg t (rOlStain pt.val)).toNat 6 = true ∧ OnlyParts [.regs, .log, .ports] s t) ∧
  (∀ (pt : Fin 16) (sig : List Byte) (s : State) (h : BitVec 12 × Nat × BitVec 256 × BitVec 512), portState s pt.val = 2 →
    (portOf s pt.val).hello = some h →
    Config.slhVerify256f (leBytes 64 h.2.2.2.toNat) (portTranscript s pt.val (portOf s pt.val).nonce h) linkContext sig = false →
    ∃ t, exec (.authSignature pt sig) s = .next t ∧ portState t pt.val = 4 ∧ portReason t pt.val = 3 ∧
      bitOf (rreg t (rOlStain pt.val)).toNat 6 = true ∧ bitOf (rreg t (rOlStain pt.val)).toNat 7 = true ∧
      OnlyParts [.regs, .log, .ports] s t)

/-- Lanes fail, change and return; a silent port goes DOWN. A receive lane that fails among the spares only leaves them; an
active one, where 4 lanes remain, starts a lane change and tells the partner. A partner's notice does the same to a transmit
lane, without a notice. While others wait, LANE_CHANGE_DONE ends the change under way: the lowest spare becomes active, or
the lane is dropped. A failed lane whose light is good again becomes a spare. A quarantined port that has heard nothing for 2
µs goes DOWN with its lanes dark; a planned one that has been DOWN that long has the outcome 3 once the window has closed.
(12_links.md R389, R390; 13_bringup.md R429, R430) -/
def Obligations.PortLanes : Prop :=
  (∀ (pt : Fin 16) (ln : Fin 18) (s : State), trained s pt.val = true → (portOf s pt.val).rxAct &&& laneBit ln.val = 0 →
    (portOf s pt.val).rxSpare &&& laneBit ln.val ≠ 0 →
    ∃ t, exec (.lossOfLight pt ln) s = .next t ∧ exec (.laneBerFail pt ln) s = .next t ∧
      (portOf t pt.val).rxSpare = (portOf s pt.val).rxSpare &&& ~~~ laneBit ln.val ∧
      (portOf t pt.val).rxFail = (portOf s pt.val).rxFail ||| laneBit ln.val ∧ (portOf t pt.val).changes = (portOf s pt.val).changes ∧
      (∀ q, q ≠ pt.val → portOf t q = portOf s q) ∧ OnlyParts [.ports] s t) ∧
  (∀ (pt : Fin 16) (ln : Fin 18) (s : State), trained s pt.val = true → (portOf s pt.val).rxAct &&& laneBit ln.val ≠ 0 →
    4 ≤ laneCount ((portOf s pt.val).rxAct &&& ~~~ laneBit ln.val) + laneCount (portOf s pt.val).rxSpare →
    ∃ t, exec (.lossOfLight pt ln) s = .next t ∧ exec (.laneBerFail pt ln) s = .next t ∧
      (portOf t pt.val).rxAct = (portOf s pt.val).rxAct &&& ~~~ laneBit ln.val ∧
      (portOf t pt.val).changes = (portOf s pt.val).changes ++ [(true, ln.val)] ∧
      t.out = s.out ++ [.net (.laneNotice pt.val ln.val)] ∧ OnlyParts [.ports, .out] s t) ∧
  (∀ (pt : Fin 16) (ln : Fin 18) (s : State), trained s pt.val = true → (portOf s pt.val).txAct &&& laneBit ln.val ≠ 0 →
    4 ≤ laneCount ((portOf s pt.val).txAct &&& ~~~ laneBit ln.val) + laneCount (portOf s pt.val).txSpare →
    ∃ t, exec (.laneChangeNotice pt ln) s = .next t ∧ (portOf t pt.val).txAct = (portOf s pt.val).txAct &&& ~~~ laneBit ln.val ∧
      (portOf t pt.val).changes = (portOf s pt.val).changes ++ [(false, ln.val)] ∧ OnlyParts [.ports] s t) ∧
  (∀ (pt : Fin 16) (s : State) (c d : Bool × Nat) (cs : List (Bool × Nat)), (portOf s pt.val).changes = c :: d :: cs →
    (c.1 = true → (portOf s pt.val).rxSpare ≠ 0) → (c.1 = false → (portOf s pt.val).txSpare ≠ 0) →
    ∃ t, exec (.laneChangeDone pt) s = .next t ∧ (portOf t pt.val).changes = d :: cs ∧
      (c.1 = true → (portOf t pt.val).rxAct = (portOf s pt.val).rxAct ||| lowLanes 1 (portOf s pt.val).rxSpare) ∧
      (c.1 = false → (portOf t pt.val).txAct = (portOf s pt.val).txAct ||| lowLanes 1 (portOf s pt.val).txSpare) ∧
      bitOf (rreg t (rOlStain pt.val)).toNat 1 = true ∧ OnlyParts [.ports, .regs, .log, .counts] s t) ∧
  (∀ (pt : Fin 16) (ln : Fin 18) (s : State), trained s pt.val = true → (portOf s pt.val).rxFail.getLsbD ln.val = true →
    ∃ t, exec (.laneLightReturn pt ln true) s = .next t ∧
      (portOf t pt.val).rxFail = (portOf s pt.val).rxFail &&& ~~~ laneBit ln.val ∧
      (portOf t pt.val).rxSpare = (portOf s pt.val).rxSpare ||| laneBit ln.val ∧ OnlyParts [.ports] s t) ∧
  (∀ (pt : Fin 16) (s : State), portState s pt.val = 4 → (portOf s pt.val).lastRx.toNat + 2000 ≤ s.now.toNat →
    ∃ t, exec (.portSilenceTimeout pt) s = .next t ∧ portState t pt.val = 0 ∧ (portOf t pt.val).rxAct = 0 ∧ (portOf t pt.val).txAct = 0 ∧
      bitOf (rreg t (rOlStain pt.val)).toNat 3 = true ∧ OnlyParts [.regs, .log, .ports] s t) ∧
  (∀ (pt : Fin 16) (s : State), ready s = true → portState s pt.val = 0 → planned s pt.val = true → s.boot.discClosed = true →
    (portOf s pt.val).downAt.toNat + 2000 ≤ s.now.toNat →
    ∃ t, exec (.portSilenceTimeout pt) s = .next t ∧ rreg t (rDiscPort pt.val) = discWord s pt.val 3 ∧
      ((portOf s pt.val).hello = none → rfield t (rDiscPort pt.val) 28 4 = 3) ∧ bitOf (rreg t rTcStain).toNat 0 = true ∧
      OtherRegs [rDiscPort pt.val, rTcStain] s t ∧ OnlyParts [.regs, .log] s t)

/-- Idle frames, acknowledgements, credits and replay of an UP port. An idle timer sends an idle frame on a trained port that
has sent nothing for 256 ns; an acknowledgement timer acknowledges the last frame taken; a credit timer returns every credit
owed, one message a VC, while VCG_LIMIT withholds none. An acknowledgement drops the frames up to the one that it names from
the replay buffer; a negative one sends that frame and all later ones again; a credit return adds to the credits of its VC,
up to the capacity. A frame that fails its CRC is counted and answered by a negative acknowledgement. (12_links.md R382,
R387, R388, R390) -/
def Obligations.LinkControl : Prop :=
  (∀ (pt : Fin 16) (s : State), trained s pt.val = true → (portOf s pt.val).lastTx.toNat + 256 ≤ s.now.toNat →
    ∃ t, exec (.idleFrameTimer pt) s = .next t ∧ t.out = s.out ++ [.net (.idle pt.val)] ∧ (portOf t pt.val).lastTx = s.now ∧
      OnlyParts [.out, .ports] s t) ∧
  (∀ (pt : Fin 16) (s : State), isUp s pt.val = true →
    ∃ t, exec (.linkAckTimer pt) s = .next t ∧ t.out = s.out ++ [.net (.ack pt.val ((portOf s pt.val).expect - 1).toNat)] ∧
      OnlyParts [.out, .ports] s t) ∧
  (∀ (pt : Fin 16) (s : State), isUp s pt.val = true → (portOf s pt.val).owed.any (fun k => k != 0) = true →
    (portOf s pt.val).vcgUntil ≤ s.now.toNat →
    ∃ t, exec (.creditReturnTimer pt) s = .next t ∧ (portOf t pt.val).owed = [0, 0, 0, 0] ∧
      t.out = s.out ++ (((portOf s pt.val).owed.zipIdx).filter (fun e => e.1 != 0)).map (fun e => .net (.credits pt.val e.2 e.1)) ∧
      OnlyParts [.out, .ports] s t) ∧
  (∀ (pt : Fin 16) (q : BitVec 16) (s : State), isUp s pt.val = true → (portOf s pt.val).wait = [] → s.ol.casts = [] →
    (portOf s pt.val).sent.any (fun e => e.seq == q) = true →
    ∃ t, exec (.linkAck pt q) s = .next t ∧
      (portOf t pt.val).sent = ((portOf s pt.val).sent.dropWhile (fun e => e.seq != q)).drop 1 ∧ OnlyParts [.ports] s t) ∧
  (∀ (pt : Fin 16) (q : BitVec 16) (s : State), isUp s pt.val = true → (portOf s pt.val).sent.any (fun e => e.seq == q) = true →
    (portOf s pt.val).sent.all (fun e => decide (e.times < 7)) = true →
    ∃ t, exec (.linkNak pt q) s = .next t ∧
      t.out = s.out ++ ((portOf s pt.val).sent.dropWhile (fun e => e.seq != q)).map (fun e => .net e.msg) ∧
      (portOf t pt.val).sent.map (fun e => e.seq) = (portOf s pt.val).sent.map (fun e => e.seq) ∧
      OnlyParts [.ports, .out, .counts] s t) ∧
  (∀ (pt : Fin 16) (vc : Fin 4) (k : Nat) (s : State), isUp s pt.val = true → (portOf s pt.val).wait = [] →
    vc.val < (portOf s pt.val).credits.length →
    ∃ t, exec (.creditReturn pt vc k) s = .next t ∧
      (portOf t pt.val).credits.getD vc.val 0 = min (vcBuffers.getD vc.val 0) ((portOf s pt.val).credits.getD vc.val 0 + k) ∧
      OnlyParts [.ports] s t) ∧
  (∀ (pt : Fin 16) (corrected bad : Nat) (s : State), isUp s pt.val = true →
    ∃ t, exec (.frameCrcFail pt corrected bad) s = .next t ∧
      cnt t (rPort pt.val + 0x20) = cnt s (rPort pt.val + 0x20) + BitVec.ofNat 64 corrected ∧
      cnt t (rPort pt.val + 0x38) = cnt s (rPort pt.val + 0x38) + BitVec.ofNat 64 bad ∧
      t.out = s.out ++ [.net (.nak pt.val (portOf s pt.val).expect.toNat)] ∧ OnlyParts [.out, .counts] s t)

/-- Windows open and close; remote operations begin, and act at once on this module itself. WINDOW_OPEN whose checks pass
adds its window and ends DONE; WINDOW_CLOSE of a window of the partition drops it and ends DONE. A REMOTE_WRITE or
REMOTE_READ of a module that can be reached begins its operation, cut at every 4 KiB of the remote side, with the next
operation number; a REMOTE_PEG_ADD of a group's member does so too, with one frame. A remote write or read of this module
itself that its window admits moves the bytes at once and completes; a peg addition to itself adds to the peg and ends DONE.
(12_links.md R402, R403, R404, R405; 07_spin_collectives.md R213, R243) -/
def Obligations.WindowsAndRemoteOperations : Prop :=
  (∀ (n : Nat) (s : State) (j : Job), opJob s n 0x0A20 = some j → openErr s j = none →
    (j.bits 41 0 1 = 1 → inRegion s (part s j) (j.va 16) (j.fld 24 8) = false) →
    ∃ t, exec (.windowOpen n) s = .next t ∧ Decided t n stDone 0 ∧ OtherJobs n s t ∧ t.ol.wins = s.ol.wins ++ [newWin s j] ∧
      OnlyParts [.jobs, .wins] s t) ∧
  (∀ (n : Nat) (s : State) (j : Job), opJob s n 0x0A21 = some j → closeErr s j = none →
    ∃ t, exec (.windowClose n) s = .next t ∧ Decided t n stDone 0 ∧ OtherJobs n s t ∧
      t.ol.wins = s.ol.wins.filter (fun w => w.id != j.fld 40 1) ∧ OnlyParts [.jobs, .wins] s t) ∧
  (∀ (n : Nat) (s : State) (j : Job), opJob s n 0x0A22 = some j → remoteErr s j = none → j.fld 24 8 / 2 ^ 52 ≠ moduleNo s →
    reachable s (j.fld 24 8 / 2 ^ 52) = true → CanAccess s n [rd (part s j) (j.va 16) (j.fld 40 4)] →
    ∃ t, exec (.remoteWrite n) s = .next t ∧ Runs t n ∧ OtherJobs n s t ∧ t.ol.nextOp = s.ol.nextOp + 1 ∧
      t.ol.ops = s.ol.ops ++ [⟨n, s.ol.nextOp, BitVec.ofNat 12 (j.fld 24 8 / 2 ^ 52), false,
        cuts (j.fld 40 4 / 4096 + 2) (j.fld 24 8 % 2 ^ 44) (j.fld 40 4), j.va 16, j.fld 24 8 % 2 ^ 44,
        soiledAt s (part s j) (j.va 16) (j.fld 40 4), false⟩] ∧
      BytesOutside [] s t ∧ OnlyParts (tierParts.append [.out, .ports, .ops, .casts]) s t) ∧
  (∀ (n : Nat) (s : State) (j : Job), opJob s n 0x0A23 = some j → remoteErr s j = none →
    regionErr s [wr (part s j) (j.va 16) (j.fld 40 4)] = none → j.fld 24 8 / 2 ^ 52 ≠ moduleNo s →
    reachable s (j.fld 24 8 / 2 ^ 52) = true →
    ∃ t, exec (.remoteRead n) s = .next t ∧ Runs t n ∧ OtherJobs n s t ∧ t.ol.nextOp = s.ol.nextOp + 1 ∧
      t.ol.ops = s.ol.ops ++ [⟨n, s.ol.nextOp, BitVec.ofNat 12 (j.fld 24 8 / 2 ^ 52), true,
        cuts (j.fld 40 4 / 4096 + 2) (j.fld 24 8 % 2 ^ 44) (j.fld 40 4), j.va 16, j.fld 24 8 % 2 ^ 44, false, false⟩] ∧
      BytesOutside [] s t ∧ OnlyParts (tierParts.append [.out, .ports, .ops, .casts]) s t) ∧
  (∀ (n : Nat) (s : State) (j : Job) (w : Win), opJob s n 0x0A22 = some j → remoteErr s j = none → j.fld 24 8 / 2 ^ 52 = moduleNo s →
    winOf s (j.fld 24 8 / 2 ^ 44 % 256) = some w →
    windowErr s (j.fld 24 8 / 2 ^ 44 % 256) (BitVec.ofNat 64 (j.fld 32 8)) (moduleNo s) (j.fld 24 8 % 2 ^ 44) (j.fld 40 4) true = none →
    CanAccess s n [⟨part s j, j.va 16, j.fld 40 4, false⟩, ⟨w.p, w.base + j.fld 24 8 % 2 ^ 44, j.fld 40 4, true⟩] →
    ∃ t, exec (.remoteWrite n) s = .next t ∧ Completes t n ∧ OtherJobs n s t ∧
      bytesAt t w.p (w.base + j.fld 24 8 % 2 ^ 44) (j.fld 40 4) = bytesAt s (part s j) (j.va 16) (j.fld 40 4) ∧
      BytesOutside [wr w.p (w.base + j.fld 24 8 % 2 ^ 44) (j.fld 40 4)] s t ∧ OnlyParts tierParts s t) ∧
  (∀ (n : Nat) (s : State) (j : Job) (w : Win), opJob s n 0x0A23 = some j → remoteErr s j = none →
    regionErr s [wr (part s j) (j.va 16) (j.fld 40 4)] = none → j.fld 24 8 / 2 ^ 52 = moduleNo s →
    winOf s (j.fld 24 8 / 2 ^ 44 % 256) = some w →
    windowErr s (j.fld 24 8 / 2 ^ 44 % 256) (BitVec.ofNat 64 (j.fld 32 8)) (moduleNo s) (j.fld 24 8 % 2 ^ 44) (j.fld 40 4) false = none →
    CanAccess s n [⟨part s j, j.va 16, j.fld 40 4, true⟩, ⟨w.p, w.base + j.fld 24 8 % 2 ^ 44, j.fld 40 4, false⟩] →
    ∃ t, exec (.remoteRead n) s = .next t ∧ Completes t n ∧ OtherJobs n s t ∧
      bytesAt t (part s j) (j.va 16) (j.fld 40 4) = bytesAt s w.p (w.base + j.fld 24 8 % 2 ^ 44) (j.fld 40 4) ∧
      BytesOutside [wr (part s j) (j.va 16) (j.fld 40 4)] s t ∧ OnlyParts tierParts s t) ∧
  (∀ (n : Nat) (s : State) (j : Job) (g : Nat) (x : Grp), opJob s n 0x080A = some j → remotePegErr s j = none →
    grpNamed s (part s j) (j.fld 32 2) = some (g, x) →
    x.members.contains (j.fld 16 8 / 2 ^ 52 + 4096 * (j.fld 16 8 % 2 ^ 44 / 2 ^ 16)) = true → j.fld 16 8 / 2 ^ 52 ≠ moduleNo s →
    reachable s (j.fld 16 8 / 2 ^ 52) = true →
    ∃ t, exec (.remotePegAdd n) s = .next t ∧ Runs t n ∧ OtherJobs n s t ∧ t.ol.nextOp = s.ol.nextOp + 1 ∧
      t.ol.ops = s.ol.ops ++ [⟨n, s.ol.nextOp, BitVec.ofNat 12 (j.fld 16 8 / 2 ^ 52), false, [(j.fld 16 8 % 2 ^ 44, 0)], 0, 0, false, false⟩] ∧
      OnlyParts [.out, .counts, .jobs, .ports, .ops, .casts] s t) ∧
  (∀ (n : Nat) (s : State) (j : Job) (g : Nat) (x : Grp), opJob s n 0x080A = some j → remotePegErr s j = none →
    grpNamed s (part s j) (j.fld 32 2) = some (g, x) →
    x.members.contains (j.fld 16 8 / 2 ^ 52 + 4096 * (j.fld 16 8 % 2 ^ 44 / 2 ^ 16)) = true → j.fld 16 8 / 2 ^ 52 = moduleNo s →
    ∃ t, exec (.remotePegAdd n) s = .next t ∧ Decided t n stDone 0 ∧ OtherJobs n s t ∧
      pegOf t (j.fld 16 8 % 2 ^ 44 / 2 ^ 16) (j.fld 16 8 % 2 ^ 44 % 2 ^ 16 / 16) =
        pegOf s (j.fld 16 8 % 2 ^ 44 / 2 ^ 16) (j.fld 16 8 % 2 ^ 44 % 2 ^ 16 / 16) + BitVec.ofNat 64 (j.fld 24 8) ∧
      OnlyParts [.jobs, .pegs] s t)

/-- What a frame in its place does when it reaches the module it is addressed to. A write that its software window admits
stores exactly its payload there; a read request that its window admits leaves memory and is answered with the bytes that the
window holds; a peg addition of a member of a group adds to its peg. The last read response of an operation stores its
payload and completes it, and so does the last acknowledgement; a refusal ends it ACCESS_DENIED with the code and the module
that refused. (12_links.md R385, R387, R397, R403, R404; 07_spin_collectives.md R213) -/
def Obligations.FramesLand : Prop :=
  (∀ (pt : Fin 16) (fr : Frame) (s : State) (w : Win), Arrives s pt.val fr → winOf s fr.window.toNat = some w → 0x80 ≤ fr.window.toNat →
    windowErr s fr.window.toNat fr.key fr.src.toNat fr.offset.toNat fr.payload.length true = none →
    CanAccess s (landJob pt.val) [wr w.p (w.base + fr.offset.toNat) fr.payload.length] →
    ∃ t, exec (.frameWrite pt fr) s = .next t ∧ bytesAt t w.p (w.base + fr.offset.toNat) fr.payload.length = fr.payload ∧
      BytesOutside [wr w.p (w.base + fr.offset.toNat) fr.payload.length] s t ∧
      OnlyParts (tierParts.append [.out, .ports]) s t) ∧
  (∀ (pt : Fin 16) (fr : Frame) (s : State) (w : Win), Arrives s pt.val fr → winOf s fr.window.toNat = some w → 0x80 ≤ fr.window.toNat →
    windowErr s fr.window.toNat fr.key fr.src.toNat fr.offset.toNat fr.want false = none →
    CanAccess s (landJob pt.val) [rd w.p (w.base + fr.offset.toNat) fr.want] →
    ∃ t u, exec (.frameReadRequest pt fr) s = .next t ∧ BytesOutside [] s t ∧
      t = answerFrame u { fr with typ := 3 } 4 (bytesAt s w.p (w.base + fr.offset.toNat) fr.want)
        (frameSoil s w.p (w.base + fr.offset.toNat) fr.want) ∧
      OnlyParts (tierParts.append [.ports]) s u) ∧
  (∀ (pt : Fin 16) (fr : Frame) (s : State) (o : RemOp) (j : Job) (k : Nat), Arrives s pt.val fr → remOp s fr.op = some o → o.dest = fr.src →
    o.left = [(fr.offset.toNat, k)] → o.stop = false → job? s o.job = some j →
    CanAccess s o.job [wr (part s j) (o.la + fr.offset.toNat - o.ro) fr.payload.length] →
    ∃ t, exec (.frameReadResponse pt fr) s = .next t ∧ Completes t o.job ∧ OtherJobs o.job s t ∧
      bytesAt t (part s j) (o.la + fr.offset.toNat - o.ro) fr.payload.length = fr.payload ∧
      t.ol.ops = s.ol.ops.filter (fun q => q.op != fr.op) ∧
      BytesOutside [wr (part s j) (o.la + fr.offset.toNat - o.ro) fr.payload.length] s t ∧
      OnlyParts (tierParts.append [.ports, .ops]) s t) ∧
  (∀ (pt : Fin 16) (fr : Frame) (code : Byte) (s : State) (o : RemOp) (j : Job) (k : Nat), Arrives s pt.val fr → remOp s fr.op = some o →
    o.dest = fr.src → o.left = [(fr.offset.toNat, k)] → o.stop = false → job? s o.job = some j →
    ∃ t, exec (.frameRefusal pt fr code) s = .next t ∧ Decided t o.job stAccess (code.toNat + fr.src.toNat * 2 ^ 16) ∧ OtherJobs o.job s t ∧
      t.ol.ops = s.ol.ops.filter (fun q => q.op != fr.op) ∧ OnlyParts [.jobs, .counts, .ports, .ops] s t) ∧
  (∀ (pt : Fin 16) (fr : Frame) (s : State) (o : RemOp) (j : Job) (k : Nat), Arrives s pt.val fr → remOp s fr.op = some o → o.dest = fr.src →
    o.left = [(fr.offset.toNat, k)] → o.stop = false → job? s o.job = some j →
    ∃ t, exec (.frameAcknowledgement pt fr) s = .next t ∧ Completes t o.job ∧ OtherJobs o.job s t ∧
      t.ol.ops = s.ol.ops.filter (fun q => q.op != fr.op) ∧ OnlyParts [.jobs, .counts, .ports, .ops] s t) ∧
  (∀ (pt : Fin 16) (fr : Frame) (gid : BitVec 16) (epoch : Word) (v : DWord) (s : State) (g : Nat) (x : Grp), Arrives s pt.val fr →
    ready s = true → g < 64 → grpOf s g = some x → x.gid = gid → x.epoch = epoch → x.key = fr.key →
    x.members.any (fun m => entryModule m == fr.src.toNat) = true → fr.offset.toNat < 2 ^ 19 → fr.offset.toNat % 16 = 0 →
    ∃ t, exec (.remotePegAddFrame pt fr gid epoch v) s = .next t ∧
      pegOf t (fr.offset.toNat / 2 ^ 16) (fr.offset.toNat % 2 ^ 16 / 16) =
        pegOf s (fr.offset.toNat / 2 ^ 16) (fr.offset.toNat % 2 ^ 16 / 16) + v ∧
      OnlyParts [.pegs, .out, .counts, .ports] s t)

/-- What a new broadcast does when it reaches an UP port within its credit. A notice of a mismatch, a timeout or a loss about
the running operation of a group whose ring names no job ends it with COLL_MISMATCH, COLL_TIMEOUT or COLL_MEMBER_LOST and the
module named, and the group is broken. A snapshot trigger whose time is to come arms its empty slot; a late one leaves it
LATE and sets bit 2 of the observation block's Stain register. A scheduled cap is held until its time. A job abort halts
every ring that it names and shows its job. A job list is kept for its port. (12_links.md R394; 07_spin_collectives.md R230,
R232, R234, R235; 14_health.md R444, R445, R455, R456; 15_module.md R470) -/
def Obligations.BroadcastsAct : Prop :=
  (∀ (pt : Fin 16) (origin : BitVec 12) (num : Word) (x : Notice) (s : State) (g : Nat) (y : Grp) (r : CollRun) (j : Job),
    isUp s pt.val = true → (portOf s pt.val).owed.getD 0 0 < 32 → noteCast s origin num ≠ none → g < 64 → s.ce.groups = [(g, some y)] → y.gid = x.gid → y.epoch = x.epoch →
    y.run = some r → r.index = x.index → job? s r.job = some j → (ringOf s j.ring).job = 0 →
    (∃ t z, exec (.mismatchNotice pt origin num x) s = .next t ∧ Decided t r.job stMismatch x.module.toNat ∧ OtherJobs r.job s t ∧
      grpOf t g = some z ∧ z.run = none ∧ z.broken = some x.module.toNat) ∧
    (∃ t z, exec (.timeoutNotice pt origin num x) s = .next t ∧ Decided t r.job stTimeout x.module.toNat ∧ OtherJobs r.job s t ∧
      grpOf t g = some z ∧ z.run = none ∧ z.broken = some x.module.toNat) ∧
    (∃ t z, exec (.lostNotice pt origin num x) s = .next t ∧ Decided t r.job stMemberLost x.module.toNat ∧ OtherJobs r.job s t ∧
      grpOf t g = some z ∧ z.run = none ∧ z.broken = some x.module.toNat)) ∧
  (∀ (pt : Fin 16) (origin : BitVec 12) (num : Word) (v : DWord) (sid : BitVec 16) (s : State), isUp s pt.val = true → (portOf s pt.val).owed.getD 0 0 < 32 →
    noteCast s origin num ≠ none → (snapOf s (sid.toNat % 4)).state = 0 → s.now.toNat < v.toNat →
    ∃ t, exec (.snapshotTrigger pt origin num v sid) s = .next t ∧ snapOf t (sid.toNat % 4) = ⟨1, sid.toNat, v, [], false, [], []⟩ ∧
      (∀ k, k ≠ sid.toNat % 4 → snapOf t k = snapOf s k) ∧ OnlyParts [.snaps, .out, .counts, .ports, .casts] s t) ∧
  (∀ (pt : Fin 16) (origin : BitVec 12) (num : Word) (v : DWord) (sid : BitVec 16) (s : State), isUp s pt.val = true → (portOf s pt.val).owed.getD 0 0 < 32 →
    noteCast s origin num ≠ none → (snapOf s (sid.toNat % 4)).state = 0 → v.toNat ≤ s.now.toNat →
    ∃ t, exec (.snapshotTrigger pt origin num v sid) s = .next t ∧ (snapOf t (sid.toNat % 4)).state = 3 ∧
      bitOf (rreg t rObStain).toNat 2 = true ∧ OnlyParts [.snaps, .out, .counts, .ports, .casts, .regs, .log] s t) ∧
  (∀ (pt : Fin 16) (origin : BitVec 12) (num : Word) (cap : Nat) (v : DWord) (s : State), isUp s pt.val = true → (portOf s pt.val).owed.getD 0 0 < 32 →
    noteCast s origin num ≠ none → s.now.toNat < v.toNat → s.pw.caps.length < 8 →
    ∃ t, exec (.powerCapBroadcast pt origin num cap v) s = .next t ∧ t.pw.caps = s.pw.caps ++ [⟨v, cap, none⟩] ∧
      OnlyParts [.caps, .out, .counts, .ports, .casts] s t) ∧
  (∀ (pt : Fin 16) (origin : BitVec 12) (num : Word) (J : Word) (ta : DWord) (cause : Fin 16) (s : State), isUp s pt.val = true → (portOf s pt.val).owed.getD 0 0 < 32 →
    noteCast s origin num ≠ none → J ≠ 0 → s.ob.aborts.contains (J, ta) = false →
    s.hp.rings.any (fun e => (ringOf s e.1).job == J && decide ((ringOf s e.1).jobAt.toNat < ta.toNat)) = true →
    ∃ t, exec (.jobAbortReceive pt origin num J ta cause) s = .next t ∧
      (∀ e ∈ s.hp.rings, (ringOf s e.1).job = J → (ringOf s e.1).jobAt.toNat < ta.toNat → (ringOf t e.1).halted = true) ∧
      rreg t rAbortJob = J ∧ bitOf (rreg t rObStain).toNat 6 = true ∧ OnlyParts abortParts s t) ∧
  (∀ (pt : Fin 16) (jobs : List Word) (s : State), isUp s pt.val = true → (portOf s pt.val).owed.getD 0 0 < 32 →
    ∃ t, exec (.jobListReceive pt jobs) s = .next t ∧ tget (fun _ => []) t.ob.jobLists pt.val = jobs.take 512 ∧
      (∀ k, k ≠ pt.val → tget (fun _ => []) t.ob.jobLists k = tget (fun _ => []) s.ob.jobLists k) ∧
      OnlyParts [.jobLists, .ports] s t)

/-- A group forms as its partners join, fails by its watchdog, and is destroyed. GROUP_CREATE of a list whose only member is
this one ends DONE with its index; of one with partners that can all be reached, none of which has joined yet, it takes a
slot and waits. A join frame of a group that the module neither has nor has destroyed is kept; the last join frame of a group
that is being created, with the same list hash, completes the creation. A creation whose watchdog runs out ends COLL_TIMEOUT
and its slot is free. GROUP_DESTROY without a running operation frees the slot at once and ends DONE; else it waits.
(07_spin_collectives.md R206, R208, R210, R239; 07_spin_collectives.md R209, R230, R232) -/
def Obligations.GroupsFormAndEnd : Prop :=
  (∀ (n : Nat) (s : State) (j : Job) (g : Nat), opJob s n 0x0800 = some j → createErr j = none →
    CanAccess s n [rd (part s j) (j.va 16) (2 * j.bits 24 0 13)] → badMembers s (newGroup s j) = false →
    (List.range 64).find? (fun g => (grpOf s g).isNone) = some g → (newGroup s j).partners = [] →
    ∃ t, exec (.groupCreate n) s = .next t ∧ Decided t n stDone (newGroup s j).index ∧ OtherJobs n s t ∧
      grpOf t g = some { newGroup s j with joining := none } ∧ (∀ k, k ≠ g → grpOf t k = grpOf s k) ∧
      OnlyParts (.groups :: tierParts) s t) ∧
  (∀ (n : Nat) (s : State) (j : Job) (g : Nat), opJob s n 0x0800 = some j → createErr j = none →
    CanAccess s n [rd (part s j) (j.va 16) (2 * j.bits 24 0 13)] → badMembers s (newGroup s j) = false →
    (List.range 64).find? (fun g => (grpOf s g).isNone) = some g → (newGroup s j).partners ≠ [] →
    (∀ m ∈ (newGroup s j).partners, reachable s (entryModule m) = true) →
    (∀ e ∈ s.ce.joins, e.1 ≠ (newGroup s j).gid ∨ e.2.1 ≠ (newGroup s j).epoch) →
    ∃ t, exec (.groupCreate n) s = .next t ∧ Runs t n ∧ OtherJobs n s t ∧ grpOf t g = some (newGroup s j) ∧
      (∀ k, k ≠ g → grpOf t k = grpOf s k) ∧ OnlyParts (tierParts.append [.groups, .out, .ports]) s t) ∧
  (∀ (pt : Fin 16) (fr : Frame) (gid : BitVec 16) (epoch : Word) (q : Fin 8) (hash : BitVec 128) (s : State), Arrives s pt.val fr →
    ready s = true → s.ce.groups = [] → s.ce.gone.contains (gid, epoch) = false →
    ∃ t, exec (.joinFrameReceive pt fr q ⟨gid, epoch⟩ hash) s = .next t ∧ (gid, epoch, fr.src.toNat + 4096 * q.val, hash) ∈ t.ce.joins ∧
      (∀ e ∈ s.ce.joins, (e.1 ≠ gid ∨ e.2.1 ≠ epoch ∨ e.2.2.1 ≠ fr.src.toNat + 4096 * q.val) → e ∈ t.ce.joins) ∧
      OnlyParts [.joins, .ports, .counts] s t) ∧
  (∀ (pt : Fin 16) (fr : Frame) (gid : BitVec 16) (epoch : Word) (q : Fin 8) (hash : BitVec 128) (s : State) (g id : Nat) (x : Grp) (j : Job),
    Arrives s pt.val fr → ready s = true → g < 64 → s.ce.groups = [(g, some x)] → x.gid = gid → x.epoch = epoch → x.joining = some id → job? s id = some j →
    x.partners = [fr.src.toNat + 4096 * q.val] → x.hash = hash →
    ∃ t, exec (.joinFrameReceive pt fr q ⟨gid, epoch⟩ hash) s = .next t ∧ Decided t id stDone x.index ∧ OtherJobs id s t ∧
      grpOf t g = some { x with joined := x.partners, joining := none } ∧
      OnlyParts [.joins, .groups, .jobs, .ports, .counts] s t) ∧
  (∀ (g : Fin 64) (s : State) (x : Grp) (id : Nat) (j : Job), grpOf s g.val = some x → watchOut s x = true → x.joining = some id →
    job? s id = some j →
    ∃ t d, exec (.groupWatchdogExpire g) s = .next t ∧ Decided t id stTimeout d ∧ OtherJobs id s t ∧ grpOf t g.val = none ∧
      bitOf (rreg t rCeStain).toNat 3 = true ∧ OnlyParts [.groups, .joins, .jobs, .regs, .log] s t) ∧
  (∀ (n : Nat) (s : State) (j : Job) (g : Nat) (y : Grp), opJob s n 0x0801 = some j → destroyErr s j = none →
    grpNamed s (part s j) (j.fld 16 2) = some (g, y) → grpOf s g = some y → y.run = none →
    ∃ t, exec (.groupDestroy n) s = .next t ∧ Decided t n stDone 0 ∧ OtherJobs n s t ∧ grpOf t g = none ∧
      (∀ k, k ≠ g → grpOf t k = grpOf s k) ∧ OnlyParts [.groups, .joins, .jobs] s t) ∧
  (∀ (n : Nat) (s : State) (j : Job) (g : Nat) (y : Grp), opJob s n 0x0801 = some j → destroyErr s j = none →
    grpNamed s (part s j) (j.fld 16 2) = some (g, y) → y.run.isSome = true →
    ∃ t, exec (.groupDestroy n) s = .next t ∧ Runs t n ∧ OtherJobs n s t ∧ grpOf t g = some { y with leaving := some n } ∧
      OnlyParts [.groups, .jobs] s t)

/-- A running collective completes once every member's contribution is there. ALL_REDUCE, REDUCE, REDUCE_SCATTER, ALL_GATHER,
BROADCAST and SEQ_REDUCE, running in their group, write the value that all contributions give this member to its destination
and complete, and leave every byte outside it; BARRIER completes once the frames of every round of the all-reduce pattern
have come, and leaves memory. Either way the group has no running operation left. (07_spin_collectives.md R209, R223, R224,
R226, R227, R245, R246) -/
def Obligations.CollectivesComplete : Prop :=
  (∀ (n op : Nat) (c : List Contribution → Instr) (srcs : List Contribution) (s : State) (j : Job) (g : Nat) (x : Grp) (r : CollRun),
    (op, c) ∈ [(0x0803, Instr.allReduce n), (0x0804, Instr.reduce n), (0x0805, Instr.reduceScatter n), (0x0806, Instr.allGather n),
      (0x0807, Instr.broadcast n), (0x0808, Instr.seqReduce n)] →
    job? s n = some j → j.opcode = op → j.phase = .running → grpWhere s (fun x => x.run.any (fun r => r.job == n)) = some (g, x) →
    grpOf s g = some x → x.run = some r → r.spin = none → r.dst = (collOf j x.members.length).dst →
    r.len = (collOf j x.members.length).dstBytes x.index → suspended s x.p = false →
    allGiven (collOf j x.members.length) x.members.length (srcs.set x.index r.mine) = true →
    CanAccess s n (if r.len = 0 then [] else [wr x.p r.dst (collOf j x.members.length).db]) →
    ∃ t y, exec (c srcs) s = .next t ∧ Completes t n ∧ OtherJobs n s t ∧ grpOf t g = some y ∧ y.run = none ∧
      (r.len ≠ 0 → bytesAt t x.p r.dst (collOut (collOf j x.members.length) (srcs.set x.index r.mine) x.index).bytes.length =
        (collOut (collOf j x.members.length) (srcs.set x.index r.mine) x.index).bytes) ∧
      BytesOutside (if r.len = 0 then [] else
        [wr x.p r.dst (collOut (collOf j x.members.length) (srcs.set x.index r.mine) x.index).bytes.length]) s t ∧
      OnlyParts (tierParts.append [.groups, .pegs, .out, .ports]) s t) ∧
  (∀ (n : Nat) (s : State) (j : Job) (g : Nat) (x : Grp) (r : CollRun),
    job? s n = some j → j.opcode = 0x0809 → j.phase = .running → grpWhere s (fun x => x.run.any (fun r => r.job == n)) = some (g, x) →
    grpOf s g = some x → x.run = some r → r.spin = none → suspended s x.p = false →
    r.stage ≤ (patternRounds x.members.length x.index).length →
    (patternRounds x.members.length x.index).all (fun e => e.2.2.all (fun i => r.rounds.contains (i, e.1))) = true →
    ∃ t y, exec (.barrier n) s = .next t ∧ Decided t n stDone 8 ∧ OtherJobs n s t ∧ grpOf t g = some y ∧ y.run = none ∧
      OnlyParts [.groups, .jobs, .counts, .out, .ports] s t)

/-- A collective whose checks pass takes its group's next index and runs. A collective of a group that is neither running nor
broken, whose partners can all be reached and have sent no first frame of it yet, takes the group's next collective index,
sends its signature and runs until the other members' contributions are there. A first frame of the running operation whose
signature agrees marks its sender as heard; one of an operation to come is kept. The end of a lag window latches the partner
of the largest total and that total. (07_spin_collectives.md R209, R211, R229, R230, R231, R240) -/
def Obligations.CollectivesBegin : Prop :=
  (∀ (n op : Nat) (c : Instr) (s : State) (j : Job) (g : Nat) (y : Grp),
    (op, c) ∈ [(0x0803, Instr.allReduce n []), (0x0804, Instr.reduce n []), (0x0805, Instr.reduceScatter n []),
      (0x0806, Instr.allGather n []), (0x0807, Instr.broadcast n []), (0x0808, Instr.seqReduce n [])] →
    job? s n = some j → j.opcode = op → j.phase = .checked → grpNamed s (part s j) (j.fld 38 2) = some (g, y) → g < 64 →
    grpOf s g = some y → collErr s j (some (g, y)) = none → awaitsTurn s j (j.fld 38 2) y = false → y.broken = none → y.firsts = [] → 2 ≤ y.members.length →
    grpWhere s (fun x => x.run.any (fun r => r.job == n)) = none → (∀ m ∈ y.partners, reachable s (entryModule m) = true) →
    CanAccess s n ((if (collOf j y.members.length).srcBytes y.index = 0 then [] else
        [rd (part s j) (collOf j y.members.length).src ((collOf j y.members.length).srcBytes y.index)]) ++
      (if (collOf j y.members.length).dstBytes y.index = 0 then [] else
        [wr (part s j) (collOf j y.members.length).dst ((collOf j y.members.length).dstBytes y.index)])) →
    ∃ t z r, exec c s = .next t ∧ Runs t n ∧ OtherJobs n s t ∧ grpOf t g = some z ∧ z.next = y.next + 1 ∧ z.run = some r ∧ r.job = n ∧
      r.index = y.next ∧ BytesOutside [] s t ∧ OnlyParts (tierParts.append [.groups, .out, .ports]) s t) ∧
  (∀ (pt : Fin 16) (fr : Frame) (h : CeHead) (index : Nat) (sig : Word) (s : State) (g : Nat) (x : Grp) (r : CollRun),
    ArrivesCe s pt.val fr h g x → x.broken = none → x.run = some r → r.index = index → r.sig = sig →
    ∃ t z y, exec (.collFirstFrame pt fr h index sig) s = .next t ∧ grpOf t g = some z ∧ z.run = some y ∧ h.sender ∈ y.heard ∧
      y.job = r.job ∧ z.watch = s.now ∧ OnlyParts [.groups, .ports, .counts] s t) ∧
  (∀ (pt : Fin 16) (fr : Frame) (h : CeHead) (index : Nat) (sig : Word) (s : State) (g : Nat) (x : Grp),
    ArrivesCe s pt.val fr h g x → x.broken = none → x.run = none → x.next ≤ index →
    ∃ t, exec (.collFirstFrame pt fr h index sig) s = .next t ∧
      grpOf t g = some { x with firsts := x.firsts ++ [(h.sender, index, sig)] } ∧ OnlyParts [.groups, .ports, .counts] s t) ∧
  (∀ (s : State) (w m v : Nat), ready s = true → s.ce.window ≤ w → (w + 1) * lagSpan s ≤ s.now.toNat → laggard s w = some (m, v) →
    ∃ t, exec (.lagWindowEnd w) s = .next t ∧ rreg t rLaggard = BitVec.ofNat 32 (2 ^ 31 + m) ∧ cnt t rLaggardWait = BitVec.ofNat 64 v ∧
      t.ce.window = w + 1 ∧ OtherRegs [rLaggard] s t ∧ OnlyParts [.regs, .counts, .groups] s t)

/-- A Spin begins, chunks land where they belong, slots are granted. SPIN of a group in which it is its turn and which is not
broken, whose partners can be reached and have sent no first frame yet, runs over its window and adds 1 to its envelope peg.
A chunk of a collective's destination that the running operation takes is stored at its place and noted; a shard's envelopes
that a running Spin takes are stored at theirs, are noted and add 1 to its envelope peg; a Spin's chunk is noted as arrived.
A grant due, with the slot released and the step sent and acknowledged, is given and noted; a grant that arrives allows one
step more. (07_spin_collectives.md R212, R215, R217, R218, R219, R220, R221, R227, R242) -/
def Obligations.SpinsAndChunks : Prop :=
  (∀ (n : Nat) (s : State) (j : Job) (o : Obj) (r : Region) (g : Nat) (x : Grp), opJob s n 0x0802 = some j → spinErr s j = none →
    objNamed s (part s j) j.obj n = some o → spinRegion s j = some r → grpNamed s (part s j) (j.fld 28 2) = some (g, x) → g < 64 →
    grpOf s g = some x → awaitsTurn s j (j.fld 28 2) x = false → x.broken = none → x.firsts = [] →
    (∀ m ∈ x.partners, reachable s (entryModule m) = true) → CanAccess s n (spinSpans s j o r x) →
    ∃ t z c y, exec (.spin n) s = .next t ∧ Runs t n ∧ OtherJobs n s t ∧ grpOf t g = some z ∧ z.next = x.next + 1 ∧ z.run = some c ∧
      c.job = n ∧ c.spin = some y ∧ y.win = spinWindow j o r x ∧
      pegOf t (part s j) (j.fld 36 2 % 2 ^ 12) = pegOf s (part s j) (j.fld 36 2 % 2 ^ 12) + 1 ∧
      OnlyParts (tierParts.append [.groups, .out, .ports, .pegs, .holds]) s t) ∧
  (∀ (pt : Fin 16) (fr : Frame) (h : CeHead) (ch : Chunk) (s : State) (g : Nat) (x : Grp) (r : CollRun), ArrivesCe s pt.val fr h g x →
    x.run = some r → r.spin = none → ch.dir.val = 2 → collTakes x r h.sender ch = true → CanAccess s r.job [chunkSpan x r ch] →
    ∃ t z y, exec (.chunkArrival ⟨pt, fr, h, ch⟩) s = .next t ∧ bytesAt t x.p (r.dst + ch.index * 2 ^ r.chunk) ch.data.length = ch.data ∧
      BytesOutside [chunkSpan x r ch] s t ∧ grpOf t g = some z ∧ z.run = some y ∧ y.chunks = r.chunks ++ [ch.index] ∧
      OnlyParts (tierParts.append [.groups, .pegs, .ports]) s t) ∧
  (∀ (pt : Fin 16) (fr : Frame) (h : CeHead) (ch : Chunk) (s : State) (g : Nat) (x : Grp) (r : CollRun) (y : SpinRun),
    ArrivesCe s pt.val fr h g x → x.run = some r → r.spin = some y → ch.env = true → spinTakes x y h.sender ch = true →
    CanAccess s r.job [chunkSpan x r ch] →
    ∃ t z c w, exec (.chunkArrival ⟨pt, fr, h, ch⟩) s = .next t ∧ BytesOutside [chunkSpan x r ch] s t ∧
      bytesAt t (chunkSpan x r ch).place (chunkSpan x r ch).addr ch.data.length = ch.data ∧ grpOf t g = some z ∧ z.run = some c ∧
      c.spin = some w ∧ w.envs = y.envs ++ [spinShard x.members.length x.index ch.dir.val ch.step] ∧
      pegOf t y.p y.envPeg = pegOf s y.p y.envPeg + 1 ∧
      OnlyParts (tierParts.append [.groups, .pegs, .out, .ports]) s t) ∧
  (∀ (pt : Fin 16) (fr : Frame) (h : CeHead) (ch : Chunk) (s : State) (g : Nat) (x : Grp) (r : CollRun) (y : SpinRun),
    ArrivesCe s pt.val fr h g x → x.run = some r → r.spin = some y → ch.env = false → spinTakes x y h.sender ch = true →
    CanAccess s r.job [chunkSpan x r ch] → ch.dir.val < y.got.length →
    ∃ t z c w, exec (.chunkArrival ⟨pt, fr, h, ch⟩) s = .next t ∧ grpOf t g = some z ∧ z.run = some c ∧ c.spin = some w ∧
      (ch.step, ch.index) ∈ w.got.getD ch.dir.val [] ∧
      OnlyParts (tierParts.append [.groups, .pegs, .out, .ports]) s t) ∧
  (∀ (g : Fin 64) (dir : Fin 2) (s : State) (x : Grp) (r : CollRun) (y : SpinRun), spinAt s g.val = some (x, r, y) →
    y.granted.getD dir.val 0 + 3 ≤ spinSteps x.members.length dir.val →
    (y.granted.getD dir.val 0 + 1) * y.win.chunks ≤ (pegOf s y.p (y.relPeg.getD dir.val 0) - y.rel0.getD dir.val 0).toNat →
    (y.granted.getD dir.val 0 + 2) * y.win.chunks ≤ y.sent.getD dir.val 0 →
    unacked s x (fun ch => ch.dir.val == dir.val && !ch.env && ch.step == y.granted.getD dir.val 0 + 2) = false →
    suspended s x.p = false →
    ∃ t z c w, exec (.spinSlotGrant (.give g) dir (y.granted.getD dir.val 0 + 3)) s = .next t ∧ spinAt t g.val = some (z, c, w) ∧
      w.granted = y.granted.set dir.val (y.granted.getD dir.val 0 + 1) ∧ OnlyParts [.groups, .out, .ports, .counts] s t) ∧
  (∀ (pt : Fin 16) (fr : Frame) (h : CeHead) (dir : Fin 2) (s : State) (g : Nat) (x : Grp) (r : CollRun) (y : SpinRun),
    ArrivesCe s pt.val fr h g x → x.run = some r → r.spin = some y → h.sender = downstream x.members.length x.index dir.val →
    ∃ t z c w, exec (.spinSlotGrant (.take pt fr h) dir (y.allowed.getD dir.val 0 + 1)) s = .next t ∧ spinAt t g = some (z, c, w) ∧
      w.allowed = modAt y.allowed dir.val (· + 1) ∧ OnlyParts [.groups, .out, .ports, .counts] s t)

/-- Snapshots, tag records, the Stain log and job aborts. A SNAPSHOT of a time to come without broadcast triggers its slot as
it begins and then waits, or is refused where the slot holds another; SNAPSHOT_LATCH at that time makes the slot VALID and
ends its descriptor DONE. SNAPSHOT_READ of a VALID slot writes its 64-byte header and its counters to host memory; TAG_DRAIN
writes up to N completed tag records after their number, and drops them. A JOB_ABORT of a job that no ring names ends DONE. A
write of the tag configuration takes a seed of 0 as 1 and starts the sequence from it; STAIN_LOG_CLEAR empties the log.
(14_health.md R441, R442, R443, R444, R445, R447, R454, R458, R459, R460) -/
def Obligations.SnapshotsTagsAborts : Prop :=
  (∀ (n : Fin 512) (s : State) (j : Job), nextJob s n.val = some j → mayBegin s j = true → j.seq = (ringOf s n.val).nextSeq.toNat →
    headerErr j = none → accessErr s j = none → j.opcode = 0x0B00 → snapshotErr j s.now = none → j.bits 26 0 1 = 0 →
    (snapOf s (j.fld 24 2 % 4)).state ≠ 1 →
    ∃ t, exec (.descriptorBegin n) s = .next t ∧
      snapOf t (j.fld 24 2 % 4) = ⟨1, j.fld 24 2, BitVec.ofNat 64 (j.fld 16 8), [j.id], false, [], []⟩ ∧
      (∀ k, k ≠ j.fld 24 2 % 4 → snapOf t k = snapOf s k) ∧ OnlyParts [.jobs, .rings, .snaps] s t) ∧
  (∀ (n : Nat) (s : State) (j : Job), opJob s n 0x0B00 = some j → snapshotErr j j.beginAt = none →
    (snapOf s (j.fld 24 2 % 4)).jobs.contains n = true →
    ∃ t, exec (.snapshot n) s = .next t ∧ Runs t n ∧ OtherJobs n s t ∧ OnlyParts [.jobs] s t) ∧
  (∀ (n : Nat) (s : State) (j : Job), opJob s n 0x0B00 = some j → snapshotErr j j.beginAt = none →
    (snapOf s (j.fld 24 2 % 4)).jobs.contains n = false →
    ∃ t, exec (.snapshot n) s = .next t ∧ Decided t n stBad (0x09 + 256 * 24) ∧ OtherJobs n s t ∧ OnlyParts [.jobs] s t) ∧
  (∀ (k : Fin 4) (s : State) (n : Nat) (j : Job), (snapOf s k.val).state = 1 → (snapOf s k.val).t.toNat ≤ s.now.toNat →
    (snapOf s k.val).jobs = [n] → job? s n = some j →
    ∃ t, exec (.snapshotLatch k) s = .next t ∧ (snapOf t k.val).state = 2 ∧ (snapOf t k.val).jobs = [] ∧ Decided t n stDone 0 ∧
      OtherJobs n s t ∧ (∀ m, m ≠ k.val → snapOf t m = snapOf s m) ∧ OnlyParts [.jobs, .snaps] s t) ∧
  (∀ (n : Nat) (s : State) (j : Job), opJob s n 0x0B01 = some j → snapshotReadErr s j = none → hostOpen s (fnOfRing s j.ring) = true →
    ∃ t, exec (.snapshotRead n) s = .next t ∧ Decided t n stDone 0 ∧ OtherJobs n s t ∧
      t.out = s.out ++ [.hostWrite (fnOfRing s j.ring) (j.fld 16 8)
        ((snapOf s (j.fld 24 1 % 4)).header ++ snapBytes (snapOf s (j.fld 24 1 % 4))) false] ∧ OnlyParts [.jobs, .out, .counts] s t) ∧
  (∀ (n : Nat) (s : State) (j : Job), opJob s n 0x0B02 = some j → tagDrainErr j = none → hostOpen s (fnOfRing s j.ring) = true →
    ∃ t, exec (.tagDrain n) s = .next t ∧ Decided t n stDone 0 ∧ OtherJobs n s t ∧
      t.out = s.out ++ [.hostWrite (fnOfRing s j.ring) (j.fld 16 8)
        (leBytes 8 ((s.ob.tags.filter (·.done)).take (j.fld 24 2)).length ++
          ((s.ob.tags.filter (·.done)).take (j.fld 24 2)).flatMap (·.bytes)) false] ∧
      t.ob.tags = s.ob.tags.filter (fun r => !((s.ob.tags.filter (·.done)).take (j.fld 24 2)).contains r) ∧
      OnlyParts [.jobs, .out, .counts, .tags] s t) ∧
  (∀ (n : Nat) (s : State) (j : Job), opJob s n 0x0B03 = some j → rsvd j 20 56 = none → j.fld 16 4 ≠ 0 →
    s.hp.rings.any (fun e => (ringOf s e.1).job.toNat == j.fld 16 4) = false →
    ∃ t, exec (.jobAbort n) s = .next t ∧ Decided t n stDone 0 ∧ OtherJobs n s t ∧
      OnlyParts [.jobs, .out, .counts, .ports, .casts] s t) ∧
  (∀ (v : Word) (s : State), ready s = true →
    ∃ t, exec (.obTagCfgWrite v) s = .next t ∧ rfield t rTagCfg 0 16 = bitsOf v.toNat 0 16 ∧
      rfield t rTagCfg 16 16 = (if bitsOf v.toNat 16 16 = 0 then 1 else bitsOf v.toNat 16 16) ∧
      t.ob.lfsr.toNat = rfield t rTagCfg 16 16 ∧ OtherRegs [rTagCfg] s t ∧ OnlyParts [.regs, .lfsr] s t) ∧
  (∀ (s : State), ready s = true →
    ∃ t, exec .stainLogClear s = .next t ∧ t.ob.log = [] ∧ t.ob.overflow = false ∧ OnlyParts [.log] s t)

/-- Sync pairs, advertisements and their expiry. A sync pair timer on an UP port sends what the module knows of its root,
hops, bound and lock, or holds it for want of a credit. A sync frame on an UP port stores the advertisement of that port with
its arrival time, its offset and its path delay; an advertisement 3 ms old is dropped. No other port's advertisement changes.
(14_health.md R434, R435, R436) -/
def Obligations.StitchAdverts : Prop :=
  (∀ (pt : Fin 16) (s : State), isUp s pt.val = true →
    ∃ t, exec (.syncPairTimer pt) s = .next t ∧ OnlyParts [.out, .counts, .ports] s t ∧
      t = push s pt.val 0 (.sync pt.val (stitchInfo s).root (stitchInfo s).hops (stitchInfo s).bound (stitchInfo s).locked
        (((stitchInfo s).isRoot && ready s) || (bestAdvert s).isSome))) ∧
  (∀ (pt : Fin 16) (y : Sync) (s : State), isUp s pt.val = true → (portOf s pt.val).owed.getD 0 0 < 32 →
    ∃ t, exec (.syncFrame pt y) s = .next t ∧
      tget (fun _ => none) t.ob.adverts pt.val = some ⟨y.root.toNat, y.hops, y.bound, y.locked, y.running, s.now, Sync.offset y, Sync.delay y⟩ ∧
      (∀ q, q ≠ pt.val → tget (fun _ => none) t.ob.adverts q = tget (fun _ => none) s.ob.adverts q) ∧
      OtherRegs [rObStain] s t ∧ OnlyParts [.adverts, .ports, .regs, .log] s t) ∧
  (∀ (pt : Fin 16) (s : State) (a : Advert), tget (fun _ => none) s.ob.adverts pt.val = some a →
    a.at'.toNat + 3 * 10 ^ 6 ≤ s.now.toNat →
    ∃ t, exec (.advertExpire pt) s = .next t ∧ tget (fun _ => none) t.ob.adverts pt.val = none ∧
      (∀ q, q ≠ pt.val → tget (fun _ => none) t.ob.adverts q = tget (fun _ => none) s.ob.adverts q) ∧
      OtherRegs [rObStain] s t ∧ OnlyParts [.adverts, .regs, .log] s t)

/-- FRAY_EVALUATE gives a unit the grade of its measure. For one measured unit, FRAY_EVALUATE while the counters count writes
its wear in per mille, at most 1000, its grade and its predicted days to its two Fray registers, 65,535 for a unit with less
than 7 days of history; the grade is 2 exactly where wear is 1000 or more or fewer than 30 days remain, else 1 where fewer
than 180 remain, else 0. Bits 4 and 5 of the observation block's Stain register are set where the grade changes to 1 and to
2. Nothing else changes but the carrier's unit where the carrier is ready. (14_health.md R449) -/
def Obligations.FrayGrades : Prop :=
  ∀ (m : FrayMeasure) (s : State) (w : Nat) (days : Option Nat), s.ob.counting = true → w = FrayMeasure.wear m →
    days = lifeOf { s with ob := { s.ob with hours := s.ob.hours + 1 } } m.unit.val w →
    ∃ t, exec (.frayEvaluate [m]) s = .next t ∧ tget (fun _ => 0) t.ob.wear m.unit.val = w ∧
      rfield t (rFray m.unit.val) 30 2 =
        (if 1000 ≤ w / 1000 ∨ days.getD 65535 < 30 then 2 else if days.getD 65535 < 180 then 1 else 0) ∧
      rfield t (rFray m.unit.val) 0 10 = min (w / 1000) 1000 ∧
      (rreg t (rFray m.unit.val + 4)).toNat = days.getD 65535 ∧
      (∀ d, (frayHistory { s with ob := { s.ob with hours := s.ob.hours + 1 } } m.unit.val d).1 < 7 * 24 → days = none) ∧
      (rfield s (rFray m.unit.val) 30 2 ≠ 2 → (1000 ≤ w / 1000 ∨ days.getD 65535 < 30) → bitOf (rreg t rObStain).toNat 5 = true) ∧
      (rfield s (rFray m.unit.val) 30 2 ≠ 1 → w / 1000 < 1000 → 30 ≤ days.getD 65535 → days.getD 65535 < 180 →
        bitOf (rreg t rObStain).toNat 4 = true) ∧
      OtherRegs ([rFray m.unit.val, rFray m.unit.val + 4, rObStain] ++
        (if deepReady s = true then [rFray 36, rFray 36 + 4] else [])) s t ∧ OnlyParts [.regs, .log, .fray] s t

/-- Retirements of cores, Thimble cores, HBM rows, SRAM units, flash blocks and lanes. A retirement whose fields are valid
takes its unit out of service and ends DONE: a core on which nothing runs and that is not the last of a partition, a Thimble
core whose fellows meet the minimums, an HBM row and an SRAM unit with a spare that takes, a flash block on a ready carrier,
a transmit lane that is a spare of a trained port that keeps more than 4. One already retired ends DONE with detail 1;
without a spare it ends FIRMWARE with detail 1 and sets bit 1 of the observation block's Stain register. (14_health.md R451,
R452, R453; 13_bringup.md R419; 12_links.md R389) -/
def Obligations.RetirementsEnd : Prop :=
  (∀ (n : Nat) (s : State) (j : Job), opJob s n 0x0B10 = some j → retireCoreErr j = none → retiring s (j.fld 16 1) = false →
    s.boot.retired.getLsbD (j.fld 16 1) = false → lastCore s (j.fld 16 1) = false → j.bits 17 0 1 = 0 →
    coreJobs (retireCore s (j.fld 16 1)) (j.fld 16 1) = [] →
    ∃ t, exec (.retireCore n) s = .next t ∧ Decided t n stDone 0 ∧ OtherJobs n (retireCore s (j.fld 16 1)) t ∧
      t.boot.retired = s.boot.retired ||| BitVec.ofNat 64 (2 ^ j.fld 16 1)) ∧
  (∀ (n : Nat) (s : State) (j : Job), opJob s n 0x0B10 = some j → retireCoreErr j = none → retiring s (j.fld 16 1) = false →
    s.boot.retired.getLsbD (j.fld 16 1) = true →
    ∃ t, exec (.retireCore n) s = .next t ∧ Decided t n stDone 1 ∧ OtherJobs n s t ∧ OnlyParts [.jobs] s t) ∧
  (∀ (n : Nat) (s : State) (j : Job), opJob s n 0x0B11 = some j → retireThimbleErr j = none →
    bitOf (rfield s rThimble 0 16) (j.fld 16 1) = true → thimblesOk (rfield s rThimble 0 16 - 2 ^ j.fld 16 1) = true →
    ∃ t, exec (.retireThimble n) s = .next t ∧ Decided t n stDone 0 ∧ OtherJobs n s t ∧
      rfield t rThimble 0 16 = rfield s rThimble 0 16 - 2 ^ j.fld 16 1 ∧ OtherRegs [rThimble] s t ∧ OnlyParts [.jobs, .regs] s t) ∧
  (∀ (n : Nat) (s : State) (j : Job), opJob s n 0x0B11 = some j → retireThimbleErr j = none →
    bitOf (rfield s rThimble 0 16) (j.fld 16 1) = true → thimblesOk (rfield s rThimble 0 16 - 2 ^ j.fld 16 1) = false →
    ∃ t, exec (.retireThimble n) s = .next t ∧ Decided t n stFirmware 2 ∧ OtherJobs n s t ∧ bitOf (rreg t rObStain).toNat 1 = true ∧
      OtherRegs [rObStain] s t ∧ OnlyParts [.jobs, .regs, .log] s t) ∧
  (∀ (n spares : Nat) (pages : List (Fin 8 × Nat)) (s : State) (j : Job), opJob s n 0x0B12 = some j → hbmRowErr j = none →
    s.tm.rows.contains (j.fld 16 1, j.fld 17 1, j.fld 18 1, j.fld 20 4) = false → 0 < spares →
    ∃ t, exec (.hbmRow n spares true pages) s = .next t ∧ Decided t n stDone 0 ∧ OtherJobs n s t ∧
      t.tm.rows = s.tm.rows ++ [(j.fld 16 1, j.fld 17 1, j.fld 18 1, j.fld 20 4)] ∧
      rfield t (rHm (j.fld 16 1)) 16 8 = min (spares - 1) 255 ∧ BytesOutside [] s t ∧
      OnlyParts [.free, .regs, .jobs, .pages, .pats, .media] s t) ∧
  (∀ (n : Nat) (took : Bool) (pages : List (Fin 8 × Nat)) (s : State) (j : Job), opJob s n 0x0B12 = some j → hbmRowErr j = none →
    s.tm.rows.contains (j.fld 16 1, j.fld 17 1, j.fld 18 1, j.fld 20 4) = false →
    ∃ t, exec (.hbmRow n 0 took pages) s = .next t ∧ Decided t n stFirmware 1 ∧ OtherJobs n s t ∧
      bitOf (rreg t rObStain).toNat 1 = true ∧ OnlyParts [.jobs, .regs, .log] s t) ∧
  (∀ (n spares : Nat) (s : State) (j : Job), opJob s n 0x0B13 = some j → sramRemapErr j = none → j.fld 24 8 < 2 ^ 31 →
    s.tm.remaps.contains (j.fld 16 1, j.fld 24 8 / 64) = false → 0 < spares →
    ∃ t, exec (.sramRemap n spares true) s = .next t ∧ Decided t n stDone 0 ∧ OtherJobs n s t ∧
      t.tm.remaps = s.tm.remaps ++ [(j.fld 16 1, j.fld 24 8 / 64)] ∧ OnlyParts [.jobs, .media] s t) ∧
  (∀ (n : Nat) (s : State) (j : Job), opJob s n 0x0B14 = some j → flashBlockErr j = none → deepReady s = true →
    s.tm.blocks.contains (j.fld 16 1, j.fld 20 4) = false →
    ∃ t, exec (.flashBlock n true) s = .next t ∧ Decided t n stDone 0 ∧ OtherJobs n s t ∧
      t.tm.blocks = s.tm.blocks ++ [(j.fld 16 1, j.fld 20 4)] ∧ cnt t rRetired = cnt s rRetired + 1 ∧
      bitOf (rreg t rDtStain).toNat 2 = true ∧ OnlyParts [.jobs, .media, .counts, .regs, .log] s t) ∧
  (∀ (n : Nat) (s : State) (j : Job), opJob s n 0x0B15 = some j → retireLaneErr j = none → trained s (j.fld 16 1) = true →
    j.bits 18 0 1 = 1 → (portOf s (j.fld 16 1)).txFail.getLsbD (j.fld 17 1) = false →
    (portOf s (j.fld 16 1)).txAct &&& laneBit (j.fld 17 1) = 0 → (portOf s (j.fld 16 1)).txSpare &&& laneBit (j.fld 17 1) ≠ 0 →
    4 < laneCount (portOf s (j.fld 16 1)).txAct + laneCount (portOf s (j.fld 16 1)).txSpare →
    ∃ t, exec (.retireLane n) s = .next t ∧ Decided t n stDone 0 ∧ OtherJobs n s t ∧
      (portOf t (j.fld 16 1)).txFail = (portOf s (j.fld 16 1)).txFail ||| laneBit (j.fld 17 1) ∧
      t.out = s.out ++ [.net (.laneNotice (j.fld 16 1) (j.fld 17 1))] ∧ OnlyParts [.jobs, .ports, .out] s t)

/-- Caps, rails and samples. A write of a cap between 36 and 72 steps and POWER_CAP without a time put it in force at once,
clamped by the system limit; POWER_CAP with a time to come holds it, and SCHEDULED_CAP_DUE applies the caps of the earliest
time reached and ends their descriptors. SYS_LIMIT_POLL clamps the cap in force. A rail away from its target moves 5 mV
toward it. A sample shows input voltage and current, and asks for less power where it exceeds the cap or a limit of
temperature. A low input sets bit 5 of the power block's Stain register. (15_module.md R462, R464, R465, R468, R469, R470,
R471, R482, R485) -/
def Obligations.PowerCapsAndRails : Prop :=
  (∀ (v : Word) (s : State), booting s = true → 36 ≤ bitsOf v.toNat 0 7 → bitsOf v.toNat 0 7 ≤ 72 → s.pw.sysLimit < 128 →
    ∃ t, exec (.tcPwrCapWrite v) s = .next t ∧ rfield t rPwrStatus 16 7 = min (bitsOf v.toNat 0 7) s.pw.sysLimit ∧
      rfield t rPwrCap 0 7 = min (bitsOf v.toNat 0 7) s.pw.sysLimit ∧
      rfield t rPwrCap 8 8 = (if 120 ≤ bitsOf v.toNat 8 8 ∧ bitsOf v.toNat 8 8 ≤ 160 then bitsOf v.toNat 8 8 else rfield s rPwrCap 8 8) ∧
      OtherRegs [rPwrCap, rPwrStatus] s t ∧ OnlyParts [.regs, .caps] s t) ∧
  (∀ (n : Nat) (s : State) (j : Job), opJob s n 0x0B04 = some j → powerCapErr j = none → j.fld 24 8 = 0 → s.pw.sysLimit < 128 →
    ∃ t, exec (.powerCap n) s = .next t ∧ Decided t n stDone (if s.pw.sysLimit < j.fld 16 1 then 1 else 0) ∧ OtherJobs n s t ∧
      rfield t rPwrStatus 16 7 = min (j.fld 16 1) s.pw.sysLimit ∧ OtherRegs [rPwrStatus] s t ∧ OnlyParts [.jobs, .regs, .caps] s t) ∧
  (∀ (n : Nat) (s : State) (j : Job), opJob s n 0x0B04 = some j → powerCapErr j = none → j.fld 24 8 ≠ 0 → j.bits 17 0 1 = 0 →
    s.pw.caps.length < 8 →
    ∃ t, exec (.powerCap n) s = .next t ∧ Runs t n ∧ OtherJobs n s t ∧
      t.pw.caps = s.pw.caps ++ [⟨BitVec.ofNat 64 (j.fld 24 8), j.fld 16 1, some n⟩] ∧ OnlyParts [.jobs, .caps] s t) ∧
  (∀ (s : State) (c : SchedCap) (n : Nat) (j : Job), s.pw.caps = [c] → c.t.toNat ≤ s.now.toNat → c.job = some n → job? s n = some j →
    s.pw.sysLimit < 128 → c.steps < 127 →
    ∃ t, exec .scheduledCapDue s = .next t ∧ t.pw.caps = [] ∧ rfield t rPwrStatus 16 7 = min c.steps s.pw.sysLimit ∧
      Decided t n stDone (if s.pw.sysLimit < c.steps then 1 else 0) ∧ OtherJobs n s t ∧ OtherRegs [rPwrStatus] s t ∧
      OnlyParts [.jobs, .regs, .caps] s t) ∧
  (∀ (s : State), s.ob.counting = true → s.pw.stby = true → s.pw.sysLimit < 128 →
    ∃ t, exec .sysLimitPoll s = .next t ∧ rfield t rPwrStatus 16 7 ≤ s.pw.sysLimit ∧ rfield t rPwrStatus 23 7 = s.pw.sysLimit ∧
      OtherRegs [rPwrStatus] s t ∧ OnlyParts [.regs, .caps] s t) ∧
  (∀ (r : Fin 10) (s : State), s.pw.pwrGood = true → railMv s r.val ≠ railTarget s r.val → railMv s r.val + 5 < 1024 → 5 < railMv s r.val →
    ∃ t, exec (.railStep r) s = .next t ∧
      railMv t r.val = (if railMv s r.val < railTarget s r.val then railMv s r.val + 5 else railMv s r.val - 5) ∧
      OtherRegs [rRail r.val] s t ∧ OnlyParts [.regs] s t) ∧
  (∀ (x : PowerSample) (s : State), s.ob.counting = true →
    ∃ t, exec (.powerSample x) s = .next t ∧ rreg t rPwrInput = BitVec.ofNat 32 (x.iin.toNat * 2 ^ 16 + x.vin.toNat) ∧
      (25 * capOf s < x.watts → t.pw.lower = true) ∧ (s.pw.stby = true → t.pw.vin = x.vin ∧ t.pw.iin = x.iin) ∧
      OnlyParts [.regs, .log, .pins, .counts] s t) ∧
  (∀ (s : State), s.pw.pwrGood = true →
    ∃ t, exec .vinLow s = .next t ∧ bitOf (rreg t rPwrStain).toNat 5 = true ∧ OtherRegs [rPwrStain] s t ∧ OnlyParts [.regs, .log] s t)

/-- Stops, faults, the telemetry device and the EEPROM. When the package loses power, by deasserted enable, input fault,
input loss or thermal trip, nothing of the boot, the memory or the descriptors is left and power good is low; an input fault
and a trip latch their cause while standby power is present, and only an orderly stop writes the EEPROM. A leak latches its
cause. The telemetry device takes a system limit between 36 and 72 steps, clears the fault bits written as 1, loses its
contents with standby power and shows bit 6 when it returns. Each writer of the EEPROM reaches its own area, byte by byte.
The Fray histories are written while the counters count. (15_module.md R465, R467, R475, R476, R480, R481, R482; 14_health.md
R450) -/
def Obligations.PowerLossAndStandby : Prop :=
  (∀ (s : State), s.pw.pwrGood = true →
    ∃ t, exec .pwrEnDeassert s = .next t ∧ t.pw.pwrEn = false ∧ t.pw.pwrGood = false ∧ t.hp.jobs = [] ∧ t.tm.objs = [] ∧
      (∀ k a, byteAt t k a = 0) ∧ t.regs = []) ∧
  (∀ (k : InputFault) (s : State), s.pw.pwrGood = true → s.pw.stby = true →
    ∃ t, exec (.inputFaultShutdown k) s = .next t ∧ t.pw.pwrGood = false ∧ t.pw.fault = s.pw.fault ||| BitVec.ofNat 16 (2 ^ InputFault.bit k) ∧
      t.hp.jobs = [] ∧ t.tm.objs = [] ∧ (∀ k a, byteAt t k a = 0) ∧ t.pw.eeprom = s.pw.eeprom) ∧
  (∀ (s : State), s.pw.pwrGood = true →
    ∃ t, exec .inputPowerLoss s = .next t ∧ t.pw.pwrGood = false ∧ t.hp.jobs = [] ∧ t.tm.objs = [] ∧ (∀ k a, byteAt t k a = 0) ∧
      t.pw.eeprom = s.pw.eeprom ∧ t.pw.fault = s.pw.fault) ∧
  (∀ (s : State), s.pw.pwrGood = true → s.pw.stby = true →
    ∃ t, exec .thermtrip s = .next t ∧ t.pw.pwrGood = false ∧ t.pw.thermtrip = true ∧ t.pw.fault = s.pw.fault ||| 1 ∧ t.hp.jobs = []) ∧
  (∀ (s : State), s.pw.stby = true →
    ∃ t, exec .leakDetect s = .next t ∧ t.pw.leak = true ∧ t.pw.fault = s.pw.fault ||| 2 ∧
      (s.pw.pwrGood = true → bitOf (rreg t rPwrStain).toNat 6 = true) ∧ OtherRegs [rPwrStain] s t ∧ OnlyParts [.regs, .log, .pins] s t) ∧
  (∀ (v : BitVec 16) (s : State), s.pw.stby = true → 36 ≤ v.toNat → v.toNat ≤ 72 →
    ∃ t, exec (.sysLimitWrite v) s = .next t ∧ t = { s with pw := { s.pw with sysLimit := v.toNat } }) ∧
  (∀ (v : BitVec 16) (s : State), s.pw.stby = true →
    ∃ t, exec (.faultClear v) s = .next t ∧ t = { s with pw := { s.pw with fault := s.pw.fault &&& ~~~ v } }) ∧
  (∀ (s : State), s.pw.stby = true →
    ∃ t, exec .standbyPowerLoss s = .next t ∧ t.pw.stby = false ∧ t.pw.fault = 0 ∧ t.pw.sysLimit = 72 ∧ t.pw.leak = false ∧
      OnlyParts [.pins] s t) ∧
  (∀ (s : State), s.pw.stby = false →
    ∃ t, exec .standbyPowerReturn s = .next t ∧ t.pw.stby = true ∧ t.pw.fault = 0x40 ∧ t.pw.sysLimit = 72 ∧ OnlyParts [.pins] s t) ∧
  (∀ (firmware : Bool) (addr : BitVec 16) (bs : List Byte) (s : State), s.pw.stby = true →
    ((firmware = true ∧ 0x9000 ≤ addr.toNat ∧ addr.toNat + bs.length ≤ 0xD000) ∨
      (firmware = false ∧ 0xD000 ≤ addr.toNat ∧ addr.toNat + bs.length ≤ 0x10000)) →
    ∃ t, exec (.i2cEepromWrite firmware addr bs) s = .next t ∧ tgetMany eeprom0 t.pw.eeprom addr.toNat bs.length = bs ∧
      (∀ a, (a < addr.toNat ∨ addr.toNat + bs.length ≤ a) → tget eeprom0 t.pw.eeprom a = tget eeprom0 s.pw.eeprom a) ∧
      OnlyParts [.eeprom] s t) ∧
  (∀ (s : State), s.ob.counting = true →
    ∃ t, exec .frayHistoryWrite s = .next t ∧ t.ob.hours = 0 ∧
      (deepReady s = true → t.ob.carrierHours = s.ob.carrierHours + s.ob.hours ∧ t.ob.carrierFray.getLast? = some (tget (fun _ => 0) s.ob.wear 36)) ∧
      (s.pw.stby = false → t.pw.eeprom = s.pw.eeprom) ∧ OnlyParts [.fray, .eeprom] s t)

/-- SWAP frees the full half that holds the lower-numbered segment as it begins, and is refused where it finds none. A SWAP
that names a queue finds, as it begins, the full half with the lowest-numbered segment, of those that no SWAP before it
found, or none; the queue stays as it is. Its row then makes free the half that it found, leaves the rest of the queue and
every other queue, and ends DONE. One that found no full half ends BAD_DESCRIPTOR with reason FIELD at the queue's bytes (the
offset, 48, is the model's choice), and nothing else changes. (10_streams.md R335) -/
def Obligations.SwapFreesHalf : Prop :=
  (∀ (n : Fin 512) (q : Nat) (s : State) (j : Job), nextJob s n.val = some j → mayBegin s j = true → j.seq = (ringOf s n.val).nextSeq.toNat →
    headerErr j = none → accessErr s j = none → j.opcode = 0x0101 → partOfRing s n.val ≠ none → queueNamed s j = some q →
    ∃ t, exec (.descriptorBegin n) s = .next t ∧ t.se.found = s.se.found ++ [(j.id, q, swapFinds s q)] ∧ t.se.queues = s.se.queues ∧
      (∀ k, swapFinds s q = some k → k ∈ (queueOf s q).full ∧
        ∀ m ∈ (queueOf s q).full, (∀ e ∈ s.se.found, e.2.1 = q → e.2.2 ≠ some m) → k ≤ m) ∧
      (swapFinds s q = none → ∀ m ∈ (queueOf s q).full, ∃ e ∈ s.se.found, e.2.1 = q ∧ e.2.2 = some m) ∧
      OnlyParts [.jobs, .rings, .queues] s t) ∧
  (∀ (n q k : Nat) (s : State) (j : Job), opJob s n 0x0101 = some j → fields ([rsvd j 16 48, rsvd j 51 56] ++ queueErr s j) = none →
    queueNamed s j = some q → (s.se.found.find? (fun e => e.1 == n)).bind (fun e => e.2.2) = some k →
    ∃ t, exec (.swap n) s = .next t ∧ Decided t n stDone 0 ∧
      queueOf t q = { queueOf s q with full := (queueOf s q).full.filter (fun m => m != k) } ∧
      (∀ m, m ≠ q → queueOf t m = queueOf s m) ∧ OnlyParts [.jobs, .queues] s t) ∧
  (∀ (n q : Nat) (s : State) (j : Job), opJob s n 0x0101 = some j → fields ([rsvd j 16 48, rsvd j 51 56] ++ queueErr s j) = none →
    queueNamed s j = some q → (s.se.found.find? (fun e => e.1 == n)).bind (fun e => e.2.2) = none →
    ∃ t, exec (.swap n) s = .next t ∧ Decided t n stBad (0x09 + 256 * 48) ∧ OtherJobs n s t ∧ OnlyParts [.jobs] s t)

/-- Armings run or wait behind one, transfers issue, merge and land. An ARM without offending field, on a queue that it
names, with its half state and destination allowed, runs at once on an idle queue, from the queue's next segment, and waits
behind a running arming, where no ARM that began before it has yet to reach the queue. HALF_RESET of a queue with no arming
makes both halves free and its numbering begin at 0, and is refused on a queue with one. TRANSFER_ISSUE issues the next
transfer of the queue whose turn it is where its engine has room. MERGE_HOLD_EXPIRE issues what a queue holds for a partner.
A transfer alone in its group, neither converted nor padded nor of a two-half arming, between the unified range and core
buffers, whose pages are all there, lands its source bytes at its destination, in every core that it names, and leaves every
other byte. The transfer is then gone. (10_streams.md R323, R325, R326, R327, R328, R330, R336, R337, R348) -/
def Obligations.StreamsArmAndMove : Prop :=
  (∀ (n q : Nat) (s : State) (j : Job), opJob s n 0x0100 = some j → fields (armFields s j (armingOf s j)) = none →
    queueNamed s j = some q → (queueOf s q).pend = none →
    (armsBegun s q).any (fun k => decide (k.order < j.order)) = false → halfErr (queueOf s q) (armingOf s j) = none →
    armRegion s (armingOf s j) = none → ¬ ((armingOf s j).dspace = 3 ∧ cacheSets s ((q - 1024) / 32) = 0) →
    ((queueOf s q).run = none →
      ∃ t, exec (.arm n) s = .next t ∧ Runs t n ∧ OtherJobs n s t ∧
        (queueOf t q).run = some { armingOf s j with seg0 := (queueOf s q).next } ∧ (queueOf t q).pend = none ∧
        (∀ m, m ≠ q → queueOf t m = queueOf s m) ∧ OnlyParts [.jobs, .queues, .counts] s t) ∧
    (∀ b, (queueOf s q).run = some b →
      ∃ t, exec (.arm n) s = .next t ∧ Runs t n ∧ OtherJobs n s t ∧
        queueOf t q = { queueOf s q with pend := some (armingOf s j) } ∧
        (∀ m, m ≠ q → queueOf t m = queueOf s m) ∧ OnlyParts [.jobs, .queues] s t)) ∧
  (∀ (n q : Nat) (s : State) (j : Job), opJob s n 0x0102 = some j → fields ([rsvd j 16 48, rsvd j 51 56] ++ queueErr s j) = none →
    queueNamed s j = some q →
    ((queueOf s q).run = none → (queueOf s q).pend = none →
      ∃ t, exec (.halfReset n) s = .next t ∧ Decided t n stDone 0 ∧ OtherJobs n s t ∧
        queueOf t q = { queueOf s q with buf := 0, h := 0, writing := [], full := [], next := 0 } ∧
        (∀ m, m ≠ q → queueOf t m = queueOf s m) ∧ OnlyParts [.jobs, .queues] s t) ∧
    (((queueOf s q).run ≠ none ∨ (queueOf s q).pend ≠ none) →
      ∃ t, exec (.halfReset n) s = .next t ∧ Decided t n stBad (0x09 + 256 * 48) ∧ OtherJobs n s t ∧ OnlyParts [.jobs] s t)) ∧
  (∀ (e : Fin 73) (q : Nat) (s : State) (a : Arming) (y : Piece), nextQueue s e.val = some q → (queueOf s q).run = some a →
    a.merge = false → a.two = false → nextOf s q (queueOf s q) a = .piece y false →
    ((queuesOf e.val).map (fun m => (issuedOf s m).length)).sum < engineCap e.val →
    ∃ t, exec (.transferIssue e) s = .next t ∧ (∃ g ∈ t.se.groups, g.pieces = [y] ∧ g.issued = true) ∧
      (queueOf t q).run = some (a.pass y.len) ∧ (∀ m, m ≠ q → queueOf t m = queueOf s m) ∧
      OnlyParts [.jobs, .queues, .transfers] s t) ∧
  (∀ (q : Fin 1344) (s : State), ∃ t, exec (.mergeHoldExpire q) s = .next t ∧
    (∀ g ∈ t.se.groups, ∀ x ∈ g.pieces, x.q = q.val → g.issued = true) ∧
    t.se.groups.map (fun g => g.pieces) = s.se.groups.map (fun g => g.pieces) ∧ OnlyParts [.jobs, .transfers] s t) ∧
  (∀ (q : Fin 1344) (k : Nat) (host : List Byte) (poison : Bool) (s : State) (x : Piece) (g : Group) (a : Arming),
    (issuedOf s q.val)[k]? = some x → s.se.groups.find? (fun h => h.issued && h.pieces.contains x) = some g → g.pieces = [x] →
    landsAfter s x = false → (queueOf s x.q).run = some a → a.conv = false → x.pad = false → a.two = false → a.sspace ≤ 1 →
    a.dspace ≤ 1 → (a.dspace = 0 → inRegion s a.p x.dst x.dlen = false) → (a.dspace = 1 → x.dst + x.len ≤ bufBytes) →
    (tierSays s a.job (pieceSpans a x).1).1 = .go → (tierSays s a.job (pieceSpans a x).2).1 = .go →
    CanAccess s a.job ((pieceSpans a x).1 ++ (pieceSpans a x).2) →
    ∃ t, exec (.transferLanded q k host poison) s = .next t ∧ (∀ h ∈ t.se.groups, h.id ≠ g.id) ∧
      (a.dspace = 0 → bytesAt t a.p x.dst x.len = bytesAt s (if a.sspace = 1 then bufPlace (x.q / 16) else a.p) x.src x.len ∧
        BytesOutside [wr a.p x.dst x.len] s t) ∧
      (a.dspace = 1 → (∀ c ∈ targets x.q a, bytesAt t (bufPlace c) x.dst x.len =
          bytesAt s (if a.sspace = 1 then bufPlace (x.q / 16) else a.p) x.src x.len) ∧
        BytesOutside ((targets x.q a).map (fun c => wr (bufPlace c) x.dst x.len)) s t))

/-- Objects are made, freed and given policies; range operations act on their pages. OBJ_CREATE, OBJ_POLICY, RELEASE and
EVICT without offending field end DONE. OBJ_CREATE adds the object; a pinned one's pages lie in its die's scratch at once,
where there is room, and where there is none it ends SHAPE_REJECTED. OBJ_FREE, KV_FREE and IDX_FREE run, and leave the
object, until what began before them has completed. OBJ_POLICY changes the object's policy. PREFETCH waits for each of its
pages that is absent, holds its pages where asked, and runs. RELEASE takes one holder from each of its pages. WRITE_BACK that
reaches Tier 2 ends DONE with the number of pages written and changes no byte. EVICT of pages that are clean sends those that
nobody holds to Tier 2, leaves the held ones, and changes no byte. (08_tiers.md R253, R254, R256, R259, R263, R272, R286,
R287, R288, R489; 06_kv_cache.md R203; 09_deep_search.md R298) -/
def Obligations.ObjectsAndRanges : Prop :=
  (∀ (n : Nat) (s : State) (j : Job), opJob s n 0x0700 = some j → objCreateErr s j = none → j.fld 33 1 ≠ 2 →
    ∃ t, exec (.objCreate n) s = .next t ∧ Decided t n stDone 0 ∧ OtherJobs n s t ∧ t.tm.objs = s.tm.objs ++
      [⟨part s j, j.obj, j.va 16, j.va 24, j.fld 32 1, j.fld 33 1, j.fld 34 1, 0, 0⟩] ∧ OnlyParts [.jobs, .objs] s t) ∧
  (∀ (n : Nat) (s : State) (j : Job), opJob s n 0x0700 = some j → objCreateErr s j = none → j.fld 33 1 = 2 →
    (∀ l, placePages (2 ^ (12 + j.fld 32 1)) (scratchOf s (j.fld 34 1)) (j.va 24 / 2 ^ (12 + j.fld 32 1)) (pinned s (j.fld 34 1)) = some l →
      ∃ t, exec (.objCreate n) s = .next t ∧ Decided t n stDone 0 ∧ OtherJobs n s t ∧ t.tm.objs = s.tm.objs ++
        [⟨part s j, j.obj, j.va 16, j.va 24, j.fld 32 1, 2, j.fld 34 1, 0, 0⟩] ∧
        (∀ i a, l[i]? = some a → ∃ g, ownPage t (part s j) (j.va 16 + i * 2 ^ (12 + j.fld 32 1)) = some g ∧ g.tier = 0 ∧
          g.die = j.fld 34 1 ∧ g.off = a ∧ g.size = 2 ^ (12 + j.fld 32 1)) ∧ OnlyParts [.jobs, .objs, .pages, .free] s t) ∧
    (placePages (2 ^ (12 + j.fld 32 1)) (scratchOf s (j.fld 34 1)) (j.va 24 / 2 ^ (12 + j.fld 32 1)) (pinned s (j.fld 34 1)) = none →
      ∃ t, exec (.objCreate n) s = .next t ∧ (∃ d, Decided t n stShape d) ∧ OtherJobs n s t ∧ OnlyParts [.jobs] s t)) ∧
  (∀ (c : Instr) (n op kind : Nat) (s : State) (j : Job),
    ((c = .objFree n ∧ op = 0x0701 ∧ kind = 0) ∨ (c = .kvFree n ∧ op = 0x0603 ∧ kind = 1) ∨
      (c = .idxFree n ∧ op = 0x0901 ∧ kind = 2 ∧ idxErr s (part s j) false = none)) →
    opJob s n op = some j → freeErr s j kind = none →
    ∃ t, exec c s = .next t ∧ Runs t n ∧ OtherJobs n s t ∧ OnlyParts [.jobs] s t) ∧
  (∀ (n : Nat) (s : State) (j : Job), opJob s n 0x0702 = some j → objPolicyErr s j n = none →
    ∃ t, exec (.objPolicy n) s = .next t ∧ Decided t n stDone 0 ∧ OtherJobs n s t ∧ t.tm.objs = s.tm.objs.map (fun o =>
      if o.p = part s j ∧ o.id = j.obj then { o with policy := j.fld 16 1 } else o) ∧ OnlyParts [.jobs, .objs] s t) ∧
  (∀ (n : Nat) (s : State) (j : Job) (ps : List Nat) (far : List (Nat × Page)), opJob s n 0x0703 = some j → rangeErr s j true = none →
    ps = (rangePages s j).map (fun e => e.2) → far = absentPages s (part s j) ps →
    (far = [] ∨ deepErr s (part s j) = none) →
    ∃ t, exec (.prefetch n) s = .next t ∧ Runs t n ∧ OtherJobs n s t ∧
      t.tm.waits = s.tm.waits ++ fetchWaits (part s j) j.obj n far ∧
      (∀ b, holdsOf t (part s j) b = holdsOf s (part s j) b + (if j.bits 32 0 1 = 1 then ps.count b else 0)) ∧
      OnlyParts [.jobs, .waits, .holds] s t) ∧
  (∀ (n : Nat) (s : State) (j : Job), opJob s n 0x0704 = some j → rangeErr s j false = none →
    ∃ t, exec (.release n) s = .next t ∧ Decided t n stDone 0 ∧ OtherJobs n s t ∧
      (∀ b, holdsOf t (part s j) b = holdsOf s (part s j) b - ((rangePages s j).map (fun e => e.2)).count b) ∧
      OnlyParts [.jobs, .holds] s t) ∧
  (∀ (n : Nat) (s : State) (j : Job) (u : State) (k : Nat), opJob s n 0x0705 = some j → rangeErr s j false = none →
    writePages s (part s j) ((rangePages s j).map (fun e => e.2)) = (u, k, none) →
    ∃ t, exec (.writeBack n) s = .next t ∧ Decided t n stDone (sat (2 ^ 32 - 1) k) ∧ OtherJobs n s t ∧ t.tm.pages = u.tm.pages ∧
      OnlyParts [.jobs, .pages, .pats, .deep, .counts] s t) ∧
  (∀ (n : Nat) (s : State) (j : Job), opJob s n 0x0706 = some j → rangeErr s j false = none →
    (∀ e ∈ rangePages s j, ∀ g, pageOf s (part s j) e.2 = some g → g.dirty = 0 ∨ g.tier ≠ 1) →
    ∃ t, exec (.evict n) s = .next t ∧ (∃ d, Decided t n stDone d) ∧ OtherJobs n s t ∧
      (∀ e ∈ rangePages s j, ∀ g, pageOf s (part s j) e.2 = some g → g.tier = 1 → keyOf s (part s j) ≠ none →
        (heldAt s (part s j) e.2 = false → ∃ h, pageOf t (part s j) e.2 = some h ∧ h.tier = 2) ∧
        (heldAt s (part s j) e.2 = true → pageOf t (part s j) e.2 = some g)) ∧ OnlyParts [.jobs, .pages, .pats, .regs, .cache, .counts] s t)

/-- Keys are loaded; checkpoints are committed, restored, dropped and listed; QUERY writes a page's entry. KEY_LOAD gives a
partition without key its key, and ends DONE with detail 1 where that very key is there already. A CHECKPOINT of objects that
stood when it began, with the carrier and the key there, an id that no earlier one has or takes, fewer than 256 checkpoints
and room for the frames it writes, commits a checkpoint of those objects as of its begin, ends DONE with the number of frames
written, and changes no byte. RESTORE of a checkpoint that passes its digest check and none of whose objects clashes brings
its objects back. CHECKPOINT_DROP removes its checkpoint and no other. CATALOG writes how many checkpoints there are and
their ids, ascending. QUERY writes the leaf entry, the age and the number of dirty tiles of the page of its address. The
bytes written lie in the unified range and no other byte changes. (08_tiers.md R275, R276, R278, R279, R284, R286, R490) -/
def Obligations.CheckpointsAndKeys : Prop :=
  (∀ (n : Nat) (s : State) (j : Job) (k : DeepKey), opJob s n 0x070B = some j → keyLoadErr j = none →
    k = ⟨BitVec.ofNat 64 (j.fld 16 8), BitVec.ofNat 256 (j.xfld 0 32), BitVec.ofNat 256 (j.xfld 32 32)⟩ →
    (∀ x ∈ keysInUse s, x.id = k.id → keyCheck x = keyCheck k) →
    (∀ q < 8, q ≠ part s j → ∀ x, keyOf s q = some x → x.id ≠ k.id) →
    (keyOf s (part s j) = none → ∃ t, exec (.keyLoad n) s = .next t ∧ Decided t n stDone 0 ∧ OtherJobs n s t ∧
      keyOf t (part s j) = some k ∧ (∀ q, q ≠ part s j → keyOf t q = keyOf s q) ∧ OnlyParts [.jobs, .keys] s t) ∧
    (keyOf s (part s j) = some k → ∃ t, exec (.keyLoad n) s = .next t ∧ Decided t n stDone 1 ∧ OtherJobs n s t ∧
      OnlyParts [.jobs] s t)) ∧
  (∀ (n : Nat) (s u : State) (j : Job) (x : Shot) (ids : List Nat) (os : List Obj) (key : DeepKey), opJob s n 0x0707 = some j →
    checkpointErr j = none → tierSays s n [rd (part s j) (j.va 16) (4 * j.fld 24 2)] = (.go, []) →
    u = accessed s n (dieOfJob s n) [rd (part s j) (j.va 16) (4 * j.fld 24 2)] [] → x = shotOf u (part s j) n →
    ids = (List.range (j.fld 24 2)).map (fun i => numAt u (part s j) (j.va 16 + 4 * i) 4) →
    ids.map (fun i => x.objs.find? (fun o => o.id == i && mayReach u o n)) = os.map some →
    deepErr u (part s j) = none → keyOf u (part s j) = some key → ckptTaken u j = false →
    (∀ c ∈ ckptsOf u (part s j), c.cid ≠ BitVec.ofNat 64 (j.fld 32 8)) → (ckptsOf u (part s j)).length < 256 →
    deepRoom u (part s j) (saveObjs x key os u).2.2.bytes = true →
    ∃ t, exec (.checkpoint n) s = .next t ∧ Decided t n stDone (sat (2 ^ 32 - 1) (saveObjs x key os u).2.2.n) ∧ OtherJobs n s t ∧
      (∃ c, t.tm.ckpts = s.tm.ckpts ++ [c] ∧ c.key = key ∧ c.cid = BitVec.ofNat 64 (j.fld 32 8) ∧ c.part = part s j ∧ c.t = x.t ∧
        c.objs.map (fun x => x.obj) = os) ∧ BytesOutside [] s t ∧ OnlyParts (tierParts.append [.ckpts, .deep]) s t) ∧
  (∀ (n : Nat) (s u : State) (j : Job) (k : DeepKey) (c : Ckpt), opJob s n 0x0708 = some j → restoreErr j = none →
    deepErr s (part s j) = none → keyOf s (part s j) = some k →
    (ckptsOf s (part s j)).find? (fun c => c.cid.toNat == j.fld 32 8) = some c →
    digestOk s k c = true → restoreBlocked s (part s j) c.objs = false → restoreObjs s (part s j) c.objs = some u →
    ∃ t, exec (.restore n) s = .next t ∧ Decided t n stDone c.objs.length ∧ OtherJobs n s t ∧ t.tm = u.tm ∧
      t.tm.objs = s.tm.objs ++ c.objs.map (fun o => { o.obj with p := part s j }) ∧
      OnlyParts [.jobs, .objs, .regions, .indexes, .mem, .soil, .nans, .pages, .free] s t) ∧
  (∀ (n : Nat) (s : State) (j : Job) (key : DeepKey), opJob s n 0x0709 = some j → checkpointDropErr j = none →
    deepErr s (part s j) = none → keyOf s (part s j) = some key →
    (∃ c ∈ s.tm.ckpts, c.key.id = key.id ∧ c.cid.toNat = j.fld 32 8) →
    ∃ t, exec (.checkpointDrop n) s = .next t ∧ Decided t n stDone 0 ∧ OtherJobs n s t ∧
      t.tm.ckpts = s.tm.ckpts.filter (fun c => !(c.key.id == key.id && c.cid.toNat == j.fld 32 8)) ∧
      OnlyParts [.jobs, .ckpts] s t) ∧
  (∀ (n : Nat) (s : State) (j : Job) (bs : List Byte), opJob s n 0x070A = some j → catalogErr j = none → deepErr s (part s j) = none →
    bs = catalogBytes s (part s j) → regionErr s [wr (part s j) (j.va 16) bs.length] = none →
    CanAccess s n [wr (part s j) (j.va 16) bs.length] →
    ∃ t, exec (.catalog n) s = .next t ∧ Decided t n stDone 0 ∧ OtherJobs n s t ∧ bytesAt t (part s j) (j.va 16) bs.length = bs ∧
      BytesOutside [wr (part s j) (j.va 16) bs.length] s t ∧ OnlyParts tierParts s t) ∧
  (∀ (n : Nat) (s : State) (j : Job), opJob s n 0x070C = some j → queryErr j = none →
    regionErr s [wr (part s j) (j.va 24) 16] = none → CanAccess s n [wr (part s j) (j.va 24) 16] →
    ∃ t, exec (.query n) s = .next t ∧ Decided t n stDone 0 ∧ OtherJobs n s t ∧
      bytesAt t (part s j) (j.va 24) 16 = leBytes 8 (leafOf s (part s j) (j.va 16)).1 ++
        leBytes 4 (leafOf s (part s j) (j.va 16)).2.1 ++ leBytes 4 (leafOf s (part s j) (j.va 16)).2.2 ∧
      BytesOutside [wr (part s j) (j.va 24) 16] s t ∧ OnlyParts tierParts s t)

/-- Pages are fetched, written and spilled; pools split; the scrub soils what it cannot correct. TIER_FAULT_RESOLVED starts
the fetch of a page that a wait needs where the carrier is there and the page fits. PAGE_FETCH_DONE puts the page into Tier
1, clean, lets every wait on it go on, and, where there is no KV region, soils each tile that was lost, lays the others down
as their frames give them and changes no byte beside the page; where the tile map is lost the page stays in Tier 2 and every
wait on it fails. FRAME_WRITE_DONE makes the tile clean; with its last dirty tile the page goes to Tier 2, or stays where it
may no longer leave. SPILL_EVICT, where it is due, sends the oldest clean DEEP page to Tier 2; with none, and no pattern
entry to drop, the oldest page, or starts it leaving where it is dirty. SC_POOL_CFG_WRITE of an allowed value takes the split
where no pinned page would be cut, else it reports the conflict; POOL_SPLIT_DONE puts it in force and empties the die's cache
part. HBM_PATROL_SCRUB counts errors, and, where there is no KV region, soils every unit with an uncorrectable one and
changes no byte. (08_tiers.md R258, R261, R262, R265, R269, R270, R273, R274, R280, R282, R293) -/
def Obligations.TierEvents : Prop :=
  (∀ (p : Fin 8) (va : Nat) (s : State) (w : TierWait) (g : Page),
    s.tm.waits.find? (fun w => w.p == p.val && w.page == va && decide (w.st ≤ 1)) = some w → w.st = 0 → pageOf s p.val va = some g →
    g.tier = 2 → g.moving ≠ 1 → deepErr s p.val = none → roomFor s p.val g.size = true →
    ∃ t, exec (.tierFaultResolved p va) s = .next t ∧ pageOf t p.val va = some { g with moving := 1 } ∧
      (aliasOf s p.val va = none → ∀ k a, akey k a ≠ akey p.val va → pageOf t k a = pageOf s k a) ∧
      OnlyParts [.pages, .pats, .regs] s t) ∧
  (∀ (p : Fin 8) (va rebuilt : Nat) (lost : List Nat) (s : State) (g : Page) (k : DeepKey), pageOf s p.val va = some g → g.moving = 1 →
    keyOf s p.val = some k →
    ((∀ k ∈ lost, k < g.size / 4096) →
      ∃ t h, exec (.pageFetchDone p va ⟨lost, rebuilt⟩) s = .next t ∧ pageOf t p.val va = some h ∧ h.tier = 1 ∧ h.moving = 0 ∧
        (∀ w ∈ t.tm.waits, w.p = p.val → w.page = va → 2 ≤ w.st) ∧
        (s.tm.regions = [] → (∀ i ∈ lost, (tget (fun _ => loc0) g.locs i).len ≠ 0 → unitSoil t p.val (va + 4096 * i) = true) ∧
          (∀ i < g.size / 4096, i ∉ lost → (tget (fun _ => loc0) g.locs i).len ≠ 0 → bitOf g.dirty i = false →
            bytesAt t p.val (va + 4096 * i) 4096 = (storedTile s k g i).1) ∧ BytesOutside [wr p.val va g.size] s t) ∧
        OnlyParts tierParts s t) ∧
    ((∃ k ∈ lost, g.size / 4096 ≤ k) →
      ∃ t, exec (.pageFetchDone p va ⟨lost, rebuilt⟩) s = .next t ∧ pageOf t p.val va = some { g with moving := 0 } ∧
        (∀ w ∈ t.tm.waits, w.p = p.val → w.page = va → 2 ≤ w.st) ∧ bitOf (rreg t rTmStain).toNat 3 = true ∧
        OnlyParts [.regs, .log, .pages, .pats, .waits, .counts] s t)) ∧
  (∀ (p : Fin 8) (va b : Nat) (s : State) (o : Obj) (g : Page), objAt s p.val va = some o → b = pageBase o va →
    objAt s p.val b = some o → pageOf s p.val b = some g → g.moving = 2 → bitOf g.dirty ((va - b) / 4096) = true →
    deepErr s p.val = none → deepRoom s p.val (((tileFrame s p.val b g ((va - b) / 4096)).getD []).length) = true →
    ∃ t h, exec (.frameWriteDone p va) s = .next t ∧ pageOf t p.val b = some h ∧ h.dirty = g.dirty - 2 ^ ((va - b) / 4096) ∧
      (h.dirty = 0 → h.moving = 0 ∧ h.tier = (if mayLeave s p.val b then 2 else g.tier)) ∧
      (h.dirty ≠ 0 → h.tier = g.tier ∧ h.moving = 2) ∧ OnlyParts [.regs, .counts, .pages, .pats, .cache, .deep] s t) ∧
  (∀ (p : Option (Fin 8)) (s u : State) (ok : Nat → Bool) (e : Nat × Nat × Page),
    (match p with
     | some q => quotaBinds s q.val = true ∧ u = s ∧ ok = (fun k => k == q.val)
     | none => (rfield (noteSpill s) rTmStatus 31 1 = 1 ∨ ∃ w ∈ s.tm.waits, w.st ≤ 1) ∧ u = noteSpill s ∧ ok = (fun k => mayTake s 8 k)) →
    pageOf u e.1 e.2.1 = some e.2.2 →
    (oldest (evictDeep u ok) = some e → ∃ t h, exec (.spillEvict p) s = .next t ∧ pageOf t e.1 e.2.1 = some h ∧ h.tier = 2 ∧
      OnlyParts [.pages, .pats, .regs, .counts, .cache] s t) ∧
    (evictDeep u ok = [] → oldEntry u ok = none → oldest (evictPages u ok) = some e →
      ∃ t h, exec (.spillEvict p) s = .next t ∧ pageOf t e.1 e.2.1 = some h ∧
        (e.2.2.dirty = 0 → h.tier = 2) ∧ (e.2.2.dirty ≠ 0 → h = { e.2.2 with moving := 2, was := e.2.2.dirty, back := e.2.2.locs }) ∧
        OnlyParts [.pages, .pats, .regs, .counts, .cache] s t)) ∧
  (∀ (d : Fin 8) (v : Word) (s : State), ready s = true → bitsOf v.toNat 0 4 ≤ 8 →
    ((∀ e ∈ pinned s d.val, e.1 + e.2 ≤ bitsOf v.toNat 0 4 * 2 ^ 27) →
      ∃ t, exec (.scPoolCfgWrite d v) s = .next t ∧ rreg t (rPoolCfg d.val) = BitVec.ofNat 32 (bitsOf v.toNat 0 4) ∧
        rfield t (rPoolStatus d.val) 30 1 = 0 ∧
        rfield t (rPoolStatus d.val) 31 1 = (if bitsOf v.toNat 0 4 = tget (fun _ => 0) s.tm.split d.val then 0 else 1) ∧
        OtherRegs [rPoolCfg d.val, rPoolStatus d.val] s t ∧ OnlyParts [.regs] s t) ∧
    (bitsOf v.toNat 0 4 < tget (fun _ => 0) s.tm.split d.val → (∃ e ∈ pinned s d.val, bitsOf v.toNat 0 4 * 2 ^ 27 < e.1 + e.2) →
      ∃ t, exec (.scPoolCfgWrite d v) s = .next t ∧ rfield t (rPoolStatus d.val) 30 1 = 1 ∧
        OtherRegs [rPoolStatus d.val] s t ∧ OnlyParts [.regs] s t)) ∧
  (∀ (d : Fin 8) (s : State), rfield s (rPoolStatus d.val) 31 1 = 1 →
    ∃ t, exec (.poolSplitDone d) s = .next t ∧ tget (fun _ => 0) t.tm.split d.val = rfield s (rPoolCfg d.val) 0 4 ∧
      (∀ e ∈ t.tm.cache, e.1 / 2 ^ 32 = d.val → e.2 = none) ∧ rfield t (rPoolStatus d.val) 31 1 = 0 ∧ OnlyParts [.regs, .counts, .cache, .split] s t) ∧
  (∀ (i : Fin 12) (ce : Nat) (ue : List DWord) (late : Bool) (s : State), ready s = true → rfield s (rHm i.val + 4) 16 1 = 1 →
    ∃ t, exec (.hbmPatrolScrub i ce ue late) s = .next t ∧
      rreg t (rHm i.val + 8) = BitVec.ofNat 32 (sat (2 ^ 32 - 1) ((rreg s (rHm i.val + 8)).toNat + ce)) ∧
      rreg t (rHm i.val + 12) = BitVec.ofNat 32 (sat (2 ^ 32 - 1) ((rreg s (rHm i.val + 12)).toNat + ue.length)) ∧
      (s.tm.regions = [] → (∀ e ∈ allPages s, ∀ a ∈ ue, e.2.2.inT1 = true → e.2.2.frame.toNat / 4096 * 4096 ≤ a.toNat →
        a.toNat < e.2.2.frame.toNat / 4096 * 4096 + e.2.2.size →
        unitSoil t e.1 ((e.2.1 + (a.toNat - e.2.2.frame.toNat / 4096 * 4096)) / 64 * 64) = true) ∧
      ∀ k a, byteAt t k a = byteAt s k a) ∧ OnlyParts tierParts s t)

/-- KV regions are created, appended to, truncated, attached to shared nodes and published. Without offending field and with
every page that they reach there: KV_CREATE adds the region with its object and writes its header. KV_APPEND raises its
layer's reserved end, writes only its layer's blocks, envelopes and segment records where it copies no shared node, and runs.
KV_APPEND_COMPLETE raises the visible length to the end of the appends that are complete and ends the append where no tree
falls behind; else it builds the shadow of every tree that does. KV_TRUNCATE to whatever length cuts every layer to it, ends
the recall sets and runs. KV_ATTACH maps the nodes of the longest prefix in the pattern table, sets every layer's visible
length to 64 per node and ends DONE with their number. KV_PUBLISH keeps the lengths and the nodes already shared, moves its
first own node where its key is new and the table has room, and ends DONE. (06_kv_cache.md R170, R172, R175, R177, R180,
R183, R184, R185, R187, R196, R198) -/
def Obligations.KvRegionsGrowAndShare : Prop :=
  (∀ (n : Nat) (s : State) (j : Job), opJob s n 0x0600 = some j → kvCreateErr s j = none →
    CanAccess (kvCreated s j) n [wr (part s j) (j.va 16) 4096] →
    ∃ t, exec (.kvCreate n) s = .next t ∧ Decided t n stDone 0 ∧ OtherJobs n s t ∧ t.tm.regions = s.tm.regions ++ [newRegion s j] ∧
      t.tm.objs = (kvCreated s j).tm.objs ∧
      bytesAt t (part s j) (j.va 16) (newRegion s j).header.length = (newRegion s j).header ∧
      BytesOutside [wr (part s j) (j.va 16) 4096] s t ∧ OnlyParts (tierParts.append [.objs, .regions]) s t) ∧
  (∀ (n : Nat) (s : State) (j : Job) (r : Region) (u : State), opJob s n 0x0601 = some j → kvNamed s j = some r →
    (∀ a ∈ r.appends, a.job ≠ n) → appendBehind s r j = false → appendErr s j r = none →
    u = modRegion s r.p r.id (fun x => { x with
      res := tset (fun _ => 0) x.res (appendF j).layer ((appendF j).start + (appendF j).t)
      appends := x.appends ++ [⟨(appendF j).layer, (appendF j).start, (appendF j).t, n, 0⟩] }) →
    CanAccess u n (appendReads r j ++ appendWrites r j) →
    ∃ t y, exec (.kvAppend n) s = .next t ∧ Runs t n ∧ OtherJobs n s t ∧ regionOf t r.p r.id = some y ∧
      y.end' (appendF j).layer = (appendF j).start + (appendF j).t ∧ y.vis = r.vis ∧
      (r.sharedOf (appendF j).nodes = [] → BytesOutside (appendWrites r j) s t) ∧
      OnlyParts (tierParts.append [.regions]) s t) ∧
  (∀ (n : Nat) (s : State) (j : Job) (r : Region) (late : List Nat), job? s n = some j → j.phase = .running → j.opcode = 0x0601 →
    regionOf s (part s j) j.obj = some r →
    late = (List.range r.hkv).filter (fun h => decide (treeCovered s r (appendF j).layer h < (raiseTo r (appendF j).layer n).getD 0 / 4096)) →
    (late = [] →
      ∃ t, exec (.kvAppendComplete n) s = .next t ∧ Decided t n j.status j.detail.toNat ∧ OtherJobs n s t ∧
        (∀ m, raiseTo r (appendF j).layer n = some m → ∃ y, regionOf t r.p r.id = some y ∧ y.len (appendF j).layer = m ∧
          ∀ l, l ≠ (appendF j).layer → y.len l = r.len l) ∧
        (raiseTo r (appendF j).layer n = none → ∃ y, regionOf t r.p r.id = some y ∧ y.vis = r.vis) ∧
        BytesOutside [wr r.p (r.base + 2048 + 8 * (appendF j).layer) 8] s t ∧ OnlyParts (tierParts.append [.regions]) s t) ∧
    (late ≠ [] → late.any (treeBusy r (appendF j).layer) = false →
      CanAccess s n (late.flatMap (fun h => shadowSpans s r (appendF j).layer h ((raiseTo r (appendF j).layer n).getD 0 / 4096))) →
      ∃ t y, exec (.kvAppendComplete n) s = .next t ∧ Runs t n ∧ OtherJobs n s t ∧ regionOf t r.p r.id = some y ∧ y.vis = r.vis ∧
        (∀ h ∈ late, ∃ e ∈ y.shadows, e.layer = (appendF j).layer ∧ e.head = h ∧ e.job = n) ∧
        OnlyParts (tierParts.append [.regions]) s t)) ∧
  (∀ (n m : Nat) (s : State) (j : Job) (r : Region), opJob s n 0x0602 = some j → kvNamed s j = some r → m = j.fld 16 6 →
    rsvd j 22 56 = none → (cutTrees s r m).any (fun e => treeBusy r e.1 e.2.1) = false → CanAccess s n (truncateSpans s r m) →
    ∃ t y, exec (.kvTruncate n) s = .next t ∧ Runs t n ∧ OtherJobs n s t ∧ regionOf t r.p r.id = some y ∧
      (∀ l < r.layers, y.len l = min m (r.len l)) ∧ y.appends = [] ∧ y.recalls = [] ∧ y.res = y.vis ∧
      y.cutting = some (n, m) ∧ OnlyParts (tierParts.append [.holds, .regions]) s t) ∧
  (∀ (n : Nat) (s : State) (j : Job) (r : Region), opJob s n 0x0604 = some j → kvNamed s j = some r →
    shareErr j r true = none →
    (4096 ≤ 64 * (attachHits s j r).length → ∀ l < r.layers, ∀ h < r.hkv, treeBusy r l h = false) →
    CanAccess s n (rd r.p (j.va 16) (256 * j.fld 24 4) :: attachTree s j r) →
    ∃ t y, exec (.kvAttach n) s = .next t ∧ Decided t n stDone (attachHits s j r).length ∧ OtherJobs n s t ∧
      regionOf t r.p r.id = some y ∧ (∀ l < r.layers, y.len l = 64 * (attachHits s j r).length) ∧
      (∀ i e, (attachHits s j r)[i]? = some e → tget (fun _ => none) y.shared i = some e.key.toNat) ∧
      OnlyParts (tierParts.append [.regions]) s t) ∧
  (∀ (n : Nat) (s : State) (j : Job) (r : Region), opJob s n 0x0605 = some j → kvNamed s j = some r →
    shareErr j r false = none → CanAccess s n [rd r.p (j.va 16) (256 * j.fld 24 4)] →
    ∃ t y, exec (.kvPublish n) s = .next t ∧ (∃ d, Decided t n stDone d) ∧ OtherJobs n s t ∧ regionOf t r.p r.id = some y ∧
      y.vis = r.vis ∧ (∀ i k, tget (fun _ => none) r.shared i = some k → tget (fun _ => none) y.shared i = some k) ∧
      (∀ i is tab, publishOwn j r = i :: is → patternTable s r.p = some tab → (patsOf s r.p).shadow = none →
        tab.entries.length < 2 ^ tab.cap → tab.find ((patternKeys s r (j.va 16) (j.fld 24 4)).getD i 0) = none →
        tget (fun _ => none) y.shared i = some ((patternKeys s r (j.va 16) (j.fld 24 4)).getD i 0)) ∧
      OnlyParts (tierParts.append [.regions]) s t)

/-- Recall sets are selected, switched and closed; generations switch and drain. RECALL_SELECT without offending field, whose
spilled leaves have been evaluated and with all it reads and writes there, makes a new set for each of its KV heads, changes
no byte but its records and those sets' bitmaps, and runs. RECALL_CLOSE ends exactly the sets that it names. PATTERN_REBUILD
builds a shadow table at its address that keeps every entry in use, and runs; the current table stays. GENERATION_SWITCH at
or after its time makes a shadow pattern table current and ends its descriptor; it switches a built tree, raising its
region's count of switches; it puts a recall set whose candidates are resident in place; it makes an index's shadow its
lists, one generation higher, with the merge point, and ends the MERGE. GENERATION_DRAINED ends each draining generation
whose lookups have all completed. (06_kv_cache.md R192, R193, R195, R196, R199; 09_deep_search.md R311, R312) -/
def Obligations.RecallAndGenerations : Prop :=
  (∀ (n : Nat) (s : State) (j : Job) (r : Region), opJob s n 0x0607 = some j → pressErr s j (pressF j) ⟨false, false, true⟩ = none →
    kvNamed s j = some r → fmtErr (pressF j).fmts (kTag r.k4) (vTag r.v4) = none →
    recallBusy r (j.xfld 6 2) (pressF j).heads = false →
    regionErr s [wr r.p (pressF j).ra ((pressF j).rows * ((pressF j).kc * r.g) * recBytes r.d)] = none →
    (match s.tm.leaves.find? (fun w => w.job == n) with
     | some w => w.groups = []
     | none => selectGroups s j r = []) → CanAccess s n (recallIns j r ++ recallOuts j r) →
    ∃ t y, exec (.recallSelect n) s = .next t ∧ Runs t n ∧ OtherJobs n s t ∧ regionOf t r.p r.id = some y ∧ y.recalls = r.recalls ∧
      (∀ i < (pressF j).kc, ∃ x, (n, x) ∈ y.recallNew ∧ x.layer = j.xfld 6 2 ∧ x.head = (pressF j).kf + i ∧
        x.slot = newMap r (j.xfld 6 2) ((pressF j).kf + i)) ∧ BytesOutside (recallOuts j r) s t ∧
      OnlyParts (tierParts.append [.holds, .regions]) s t) ∧
  (∀ (n : Nat) (s : State) (j : Job) (r : Region), opJob s n 0x0608 = some j → kvNamed s j = some r → recallCloseErr j r = none →
    ∃ t y, exec (.recallClose n) s = .next t ∧ Decided t n stDone 0 ∧ OtherJobs n s t ∧ regionOf t r.p r.id = some y ∧
      y.recalls = r.recalls.filter (fun x => !(x.layer == j.fld 16 2 && decide (j.fld 18 1 ≤ x.head) &&
        decide (x.head < j.fld 18 1 + j.fld 19 1))) ∧ OnlyParts [.jobs, .holds, .regions] s t) ∧
  (∀ (n : Nat) (s : State) (j : Job), opJob s n 0x0609 = some j → (patsOf s (part s j)).shadow = none →
    (patsOf s (part s j)).drain = none → patternRebuildErr s j = none →
    regionErr s [wr (part s j) (j.va 16) (64 * 2 ^ j.fld 24 1)] = none →
    CanAccess s n [wr (part s j) (j.va 16) (64 * 2 ^ j.fld 24 1)] →
    ∃ t tab, exec (.patternRebuild n) s = .next t ∧ Runs t n ∧ OtherJobs n s t ∧
      (patsOf t (part s j)).shadow = some (tab, n, BitVec.ofNat 64 (j.fld 32 8)) ∧ tab.addr = j.va 16 ∧ tab.cap = j.fld 24 1 ∧
      (patsOf t (part s j)).cur = (patsOf s (part s j)).cur ∧
      (∀ c, (patsOf s (part s j)).cur = some c → ∀ e ∈ c.entries, e.2.refs ≠ 0 → ∃ k, (k, e.2) ∈ tab.entries) ∧
      tab.entries.length ≤ 2 ^ tab.cap ∧ BytesOutside [wr (part s j) (j.va 16) (64 * 2 ^ j.fld 24 1)] s t ∧
      OnlyParts (tierParts.append [.pats]) s t) ∧
  (∀ (p : Fin 8) (s : State) (tab : PatTable) (n : Nat) (w : DWord) (j : Job), (patsOf s p.val).shadow = some (tab, n, w) → w ≤ s.now →
    job? s n = some j →
    ∃ t, exec (.generationSwitch (.pattern p)) s = .next t ∧ (patsOf t p.val).cur = some tab ∧ (patsOf t p.val).shadow = none ∧
      (∀ q, q ≠ p.val → patsOf t q = patsOf s q) ∧ Decided t n stDone 0 ∧ OtherJobs n s t ∧ OnlyParts [.jobs, .pats] s t) ∧
  (∀ (p : Fin 8) (o l h : Nat) (s : State) (r : Region) (x : TreeShadow), regionOf s p.val o = some r →
    r.shadows.find? (fun e => e.layer == l && e.head == h) = some x →
    (∀ e, r.cutting = some e → e.1 = x.job → (job? s x.job).any (olderGone s) = true) →
    ∃ t y, exec (.generationSwitch (.tree p o l h)) s = .next t ∧ regionOf t p.val o = some y ∧ y.switches = r.switches + 1 ∧
      ((∀ j, job? s x.job = some j → j.opcode ≠ 0x0601) → ∀ e ∈ y.shadows, ¬ (e.layer = l ∧ e.head = h)) ∧
      OnlyParts (tierParts.append [.regions]) s t) ∧
  (∀ (p : Fin 8) (o l h n : Nat) (s : State) (r : Region) (x : RecallSet), regionOf s p.val o = some r →
    r.recallNew.find? (fun e => e.2.layer == l && e.2.head == h) = some (n, x) → (∀ w ∈ s.tm.waits, w.job = n → w.st = 2) →
    ∃ t y, exec (.generationSwitch (.recall p o l h)) s = .next t ∧ regionOf t p.val o = some y ∧ x ∈ y.recalls ∧
      (∀ e ∈ y.recallNew, ¬ (e.2.layer = l ∧ e.2.head = h)) ∧
      ((∀ e ∈ r.recallNew, e.1 = n → e.2.layer = l ∧ e.2.head = h) →
        ∀ j, job? s n = some j → Decided t n j.status j.detail.toNat) ∧ OnlyParts [.jobs, .waits, .holds, .regions, .counts] s t) ∧
  (∀ (p : Fin 8) (o : Nat) (s : State) (x : Index) (m : MergeShadow) (j : Job), indexOf s p.val o = some x → x.shadow = some m →
    m.t ≤ s.now → job? s m.job = some j →
    ∃ t y, exec (.generationSwitch (.index p o)) s = .next t ∧ indexOf t p.val o = some y ∧ y.lists = m.lists ∧
      y.gen = x.gen + 1 ∧ y.mergePt = m.n ∧ y.shadow = none ∧ y.side = x.side.filter (fun r => decide (m.n < r.num)) ∧
      Decided t m.job stDone m.rewritten ∧ OtherJobs m.job s t ∧ BytesOutside [wr p.val x.base 56] s t ∧
      OnlyParts (tierParts.append [.indexes, .deep]) s t) ∧
  (∀ (p : Fin 8) (s : State) (d : PatTable × List Nat), (patsOf s p.val).drain = some d → d.2.all (gone s) = true →
    ∃ t, exec (.generationDrained (.pattern p)) s = .next t ∧ patsOf t p.val = { patsOf s p.val with drain := none } ∧
      OnlyParts [.pats] s t) ∧
  (∀ (p : Fin 8) (o l h : Nat) (s : State) (r : Region), regionOf s p.val o = some r →
    (∃ t y, exec (.generationDrained (.tree p o l h)) s = .next t ∧ regionOf t p.val o = some y ∧
      y = { r with drains := r.drains.filter (fun e => !(e.1 == l && e.2.1 == h && e.2.2.all (gone s))) } ∧ OnlyParts [.regions] s t) ∧
    (∃ t y, exec (.generationDrained (.recall p o l h)) s = .next t ∧ regionOf t p.val o = some y ∧
      y = { r with recallOld := r.recallOld.filter (fun e => !(e.layer == l && e.head == h && e.jobs.all (gone s))) } ∧
      OnlyParts [.regions] s t)) ∧
  (∀ (p : Fin 8) (o : Nat) (s : State) (x : Index) (d : List Nat × List Nat), indexOf s p.val o = some x → x.drain = some d →
    d.1.all (gone s) = true →
    ∃ t, exec (.generationDrained (.index p o)) s = .next t ∧ indexOf t p.val o = some { x with drain := none } ∧
      OnlyParts [.indexes] s t)

/-- The Press operations complete, write their records, references or outputs and nothing else. Each without offending field,
with its source, with every page that it reaches there and with no priority part before it on its core; RECALL_BOUND once its
spilled leaves have been evaluated. PRESS that names records writes that of each row-head: one that opens the new record, one
that continues the sum of the old and the new, with finish too. BOUND and RECALL_BOUND that do not accumulate write the
reference of each row-head. PRESS, FINISH, PLEAT, BOUND, RECALL_BOUND, PRESS_BACKWARD and PRESS_GRAD_DRAIN end DONE or
DONE_SOILED and change no byte but those that they write, and no other descriptor. DECODE_BATCH whose entries are well
formed, name regions and agree with it takes a free counter of 240 to 255 for its pairs and runs. (05_press.md R140, R143,
R145, R146, R148, R153, R154, R156, R157, R159, R161, R162) -/
def Obligations.PressReadsAndWrites : Prop :=
  (∀ (n : Nat) (s : State) (j : Job) (src : KvSrc), opJob s n 0x0500 = some j → pressErr s j (pressF j) ⟨false, false, false⟩ = none →
    ((pressF j).prio = true ∧ j.demoted = false ∨ (coreAt s (part s j) (j.fld 55 1)).any (behindPriority s) = false) →
    sourceOf s j (pressF j) true true = .inr src → pressClash j src = false → regionErr s (pressOuts s j src) = none →
    CanAccess s n (pressIns s j src ++ pressOuts s j src) →
    ∃ t, exec (.press n) s = .next t ∧ Completes t n ∧ OtherJobs n s t ∧ BytesOutside (pressOuts s j src) s t ∧
      ((pressF j).ra ≠ 0 → ∀ i x, (pressHeads s j src)[i]? = some x →
        bytesAt t (part s j) ((pressF j).ra + i * recBytes src.geo.d) (recBytes src.geo.d) = (if (pressF j).opn then x.p.r
          else ((readRecs s (part s j) (pressF j).ra src.geo.d ((pressF j).rows * ((pressF j).kc * src.geo.g))).getD i
            (prec0 src.geo.d)).add x.p.r).pack) ∧ OnlyParts tierParts s t) ∧
  (∀ (c : Instr) (n op : Nat) (s : State) (j : Job) (src : KvSrc),
    ((c = .bound n ∧ op = 0x0505 ∧ (coreAt s (part s j) (j.fld 55 1)).any (behindPriority s) = false) ∨
      (c = .recallBound n ∧ op = 0x0606 ∧ (match s.tm.leaves.find? (fun w => w.job == n) with
        | some w => w.groups = []
        | none => boundFar s j = []))) → opJob s n op = some j →
    pressErr s j (pressF j) ⟨true, false, false⟩ = none → sourceOf s j (pressF j) false false = .inr src →
    regionErr s (boundOuts s j src) = none → CanAccess s n (boundIns s j src ++ boundOuts s j src) →
    ∃ t, exec c s = .next t ∧ Completes t n ∧ OtherJobs n s t ∧ BytesOutside (boundOuts s j src) s t ∧
      ((pressF j).fin = false → ∀ i x, (boundRows s j src)[i]? = some x →
        bytesAt t (part s j) (j.xva 24 + 4 * i) 4 = leBytes 4 (fp32Bits x.m)) ∧ OnlyParts tierParts s t) ∧
  (∀ (n : Nat) (s : State) (j : Job), opJob s n 0x0503 = some j →
    (coreAt s (part s j) (j.fld 55 1)).any (behindPriority s) = false → finishErr s j = none → regionErr s (finishSpans s j) = none →
    CanAccess s n (finishSpans s j) →
    ∃ t, exec (.finish n) s = .next t ∧ Completes t n ∧ OtherJobs n s t ∧
      BytesOutside ((finishSpans s j).filter (fun x => x.write)) s t ∧ OnlyParts tierParts s t) ∧
  (∀ (n : Nat) (s : State) (j : Job) (src : KvSrc), opJob s n 0x0504 = some j → pressErr s j (pressF j) ⟨false, true, false⟩ = none →
    (coreAt s (part s j) (j.fld 55 1)).any (behindPriority s) = false →
    sourceOf s j (pressF j) false false = .inr src → regionErr s (pleatOuts s j src) = none →
    CanAccess s n (pleatIns s j src ++ pleatOuts s j src) →
    ∃ t, exec (.pleat n) s = .next t ∧ Completes t n ∧ OtherJobs n s t ∧ BytesOutside (pleatOuts s j src) s t ∧
      OnlyParts tierParts s t) ∧
  (∀ (n : Nat) (s : State) (j : Job) (r : Region), opJob s n 0x0502 = some j → kvNamed s j = some r →
    (coreAt s (part s j) (j.fmt 48)).any (behindPriority s) = false → backwardErr s j r = none →
    regionErr s (backwardSpans s j r) = none → CanAccess s n (backwardSpans s j r) →
    ∃ t, exec (.pressBackward n) s = .next t ∧ Completes t n ∧ OtherJobs n s t ∧
      BytesOutside ((backwardSpans s j r).filter (fun x => x.write)) s t ∧ OnlyParts tierParts s t) ∧
  (∀ (n : Nat) (s : State) (j : Job), opJob s n 0x0507 = some j →
    (coreAt s (part s j) (j.fld 46 1)).any (behindPriority s) = false → gradDrainErr s j = none → regionErr s (gradDrainSpans s j) = none →
    CanAccess s n (gradDrainSpans s j) →
    ∃ t, exec (.pressGradDrain n) s = .next t ∧ Completes t n ∧ OtherJobs n s t ∧
      BytesOutside ((gradDrainSpans s j).filter (fun x => x.write)) s t ∧ OnlyParts tierParts s t) ∧
  (∀ (n : Nat) (s u : State) (j : Job) (k : Nat), opJob s n 0x0501 = some j → 240 ≤ k → k < 256 → (ticketOf s (part s j) k).job = none →
    batchErr j = none → tierSays s n [rd (part s j) (j.va 16) (32 * j.fld 32 2)] = (.go, []) →
    u = accessed s n (dieOfJob s n) [rd (part s j) (j.va 16) (32 * j.fld 32 2)] [] →
    (∀ i < j.fld 32 2, (batchEntry s (part s j) (j.va 16) i).ok = true ∧
      batchRegion s (part s j) n (batchEntry s (part s j) (j.va 16) i) ≠ none) →
    batchWrong u j n = none → regionErr u (batchOuts u j n) = none →
    ∃ t m, exec (.decodeBatch n) s = .next t ∧ Runs t n ∧ OtherJobs n s t ∧ 240 ≤ m ∧ m < 256 ∧ (ticketOf s (part s j) m).job = none ∧
      (ticketOf t (part s j) m).job = some n ∧ (ticketOf t (part s j) m).limit = j.fld 32 2 * (batchF j).kc ∧
      (∀ q, q ≠ part s j * 256 + m → tget (fun _ => ticket0) t.tp.tickets q = tget (fun _ => ticket0) s.tp.tickets q) ∧
      OnlyParts (tierParts.append [.tickets]) s t)

/-- Indexes are created, filled and merged; searches take their snapshot and pages; the carrier comes and goes. Each without
offending field, with the carrier and every page that it reaches there. IDX_CREATE adds the index and its object and writes
within its header and centroids. INSERT takes the next numbers and adds as many records to the side list, DELETE takes them
and adds tombstones; both run and leave what is visible. MERGE builds a shadow at what was visible as it began and runs, and
no byte changes. SEARCH, which has no search yet, takes its snapshot with a query for each vector, or ends at once where it
needs no page. SORT_PAGE_ARRIVAL serves a page to every context, on either generation, that asks for it, or a leaf group,
which goes first, to those that ask for it. CARRIER_READY makes the carrier ready with its controllers, spare blocks and
channels; a fresh one, at the first of a boot, holds no checkpoint. CARRIER_LINK_FAIL takes it away: nothing is fetched or
leaves, no wait stands, running searches end TIER_FAULT. CARRIER_LINK_RETRAIN and GARBAGE_COLLECTION set the bits, counts and
spare blocks that the rules name. (09_deep_search.md R295, R296, R297, R298, R303, R304, R306, R311, R317, R318, R321;
08_tiers.md R274) -/
def Obligations.IndexesAndCarrier : Prop :=
  (∀ (n : Nat) (s : State) (j : Job), opJob s n 0x0900 = some j → idxCreateErr s j = none → idxErr s (part s j) true = none →
    CanAccess (idxCreated s j) n (idxCreateSpans s j) →
    ∃ t, exec (.idxCreate n) s = .next t ∧ Completes t n ∧ OtherJobs n s t ∧ t.tm.objs = (idxCreated s j).tm.objs ∧
      t.tm.indexes = (idxCreated s j).tm.indexes ∧ BytesOutside ((idxCreateSpans s j).filter (fun x => x.write)) s t ∧
      OnlyParts (tierParts.append [.objs, .indexes]) s t) ∧
  (∀ (n : Nat) (s u : State) (j : Job) (x : Index), opJob s n 0x0902 = some j → indexNamed s j = some x →
    (∀ e ∈ x.opened, e.2.2 ≠ n) → numbersAhead s x j = false → insertErr j x false = none → idxErr s x.p true = none →
    u = takeNumbers s x n (j.fld 40 4) → tierSays u n (insertIns j x) = (.go, []) →
    sideRoom (accessed u n (dieOfJob u n) (insertIns j x) []) x (j.fld 40 4) = true →
    ∃ t y, exec (.insert n) s = .next t ∧ Runs t n ∧ OtherJobs n s t ∧ indexOf t x.p x.id = some y ∧
      y.next = x.next + j.fld 40 4 ∧ y.opened = x.opened ++ [(x.next, j.fld 40 4, n)] ∧ y.visible = x.visible ∧
      (∃ rs : List Rec, y.side = x.side ++ rs ∧ rs.map (fun r => r.num) = (List.range (j.fld 40 4)).map (fun i => x.next + i)) ∧
      BytesOutside [wr x.p x.base 56] s t ∧ OnlyParts (tierParts.append [.indexes, .deep]) s t) ∧
  (∀ (n : Nat) (s u : State) (j : Job) (x : Index), opJob s n 0x0903 = some j → indexNamed s j = some x →
    (∀ e ∈ x.opened, e.2.2 ≠ n) → numbersAhead s x j = false → deleteErr j x false = none → idxErr s x.p true = none → u = takeNumbers s x n (j.fld 40 4) →
    tierSays u n [rd x.p (j.va 24) (8 * j.fld 40 4)] = (.go, []) →
    ∃ t y, exec (.delete n) s = .next t ∧ Runs t n ∧ OtherJobs n s t ∧ indexOf t x.p x.id = some y ∧
      y.next = x.next + j.fld 40 4 ∧ y.visible = x.visible ∧ y.side = x.side ∧
      (∃ rs : List Tomb, y.tombs = x.tombs ++ rs ∧ rs.map (fun r => r.num) = (List.range (j.fld 40 4)).map (fun i => x.next + i)) ∧
      BytesOutside [wr x.p x.base 56] s t ∧ OnlyParts (tierParts.append [.indexes]) s t) ∧
  (∀ (n v : Nat) (s u : State) (j : Job) (x : Index) (k : DeepKey), opJob s n 0x0905 = some j → indexNamed s j = some x → rsvd j 24 56 = none →
    idxErr s x.p true = none → x.shadow = none → x.drain = none →
    tierSays s n [rd x.p (x.base + 4096) (x.c * centroidBytes x.dim x.w)] = (.go, []) →
    u = accessed s n (dieOfJob s n) [rd x.p (x.base + 4096) (x.c * centroidBytes x.dim x.w)] [] → v = (boundIndex s n x).visible →
    keyOf s x.p = some k → deepRoom u x.p (16384 * ((mergePages x (mergeLists u x v).1).map (fun y => y.2.2.length)).sum) = true →
    ∃ t, exec (.merge n) s = .next t ∧ Runs t n ∧ OtherJobs n s t ∧ indexOf t x.p x.id = some { x with
        shadow := some ⟨n, v, BitVec.ofNat 64 (j.fld 16 8), (mergeLists u x v).1, (mergePlaces u k x (mergeLists u x v).1).1,
          (mergeLists u x v).2⟩ } ∧
      (∀ k a, byteAt t k a = byteAt s k a) ∧ OnlyParts (tierParts.append [.indexes, .deep]) s t) ∧
  (∀ (n : Nat) (s : State) (j : Job) (z x : Index), opJob s n 0x0904 = some j → indexNamed s j = some z → x = boundIndex s n z → searchErr s j x = none →
    idxErr s x.p false = none → (∀ y ∈ s.tm.searches, y.job ≠ n) → CanAccess s n (searchIns j x ++ [resultSpan x.p j]) →
    ∃ t, exec (.search n) s = .next t ∧ OtherJobs n s t ∧ (Completes t n ∨ (Runs t n ∧ ∃ y ∈ t.tm.searches,
      y.job = n ∧ y.p = x.p ∧ y.obj = x.id ∧ y.gen = x.gen ∧ y.snap = x.visible ∧ y.side = x.side ∧ y.lists = x.lists ∧
      y.queries.length = j.fld 40 2)) ∧ BytesOutside [resultSpan x.p j] s t ∧ OnlyParts (tierParts.append [.searches]) s t) ∧
  (∀ (ch : Fin 32) (lost rebuilt : Bool) (ue : List (Nat × Nat)) (s : State) (w : LeafWork) (e : Nat × Nat × Nat), deepReady s = true →
    nextLeaves (loseContexts s ch.val ue) ch.val = some (w, e) →
    ∃ t, exec (.sortPageArrival ch ⟨lost, rebuilt, ue⟩) s = .next t ∧ cnt t rPagesRead = cnt s rPagesRead + 1 ∧
      (∀ y ∈ t.tm.leaves, ∃ z ∈ s.tm.leaves, y.job = z.job ∧
        y.groups = (if z.p = w.p ∧ z.obj = w.obj ∧ z.ctxs.contains ch.val then z.groups.filter (fun g => g != (ch.val, e)) else z.groups)) ∧
      OnlyParts (tierParts.append [.searches]) s t) ∧
  (∀ (ch : Fin 32) (lost rebuilt : Bool) (ue : List (Nat × Nat)) (s : State) (x : Search) (l pg : Nat), deepReady s = true →
    nextLeaves (loseContexts s ch.val ue) ch.val = none → nextPage (loseContexts s ch.val ue) ch.val = some (x, l, pg) →
    ∃ t, exec (.sortPageArrival ch ⟨lost, rebuilt, ue⟩) s = .next t ∧ cnt t rPagesRead = cnt s rPagesRead + 1 ∧
      (∀ y ∈ t.tm.searches, ∃ z ∈ s.tm.searches, y.job = z.job ∧ y.queries.length = z.queries.length ∧
        ∀ (i : Nat) (q : Query), z.queries[i]? = some q → ∃ w, y.queries[i]? = some w ∧
          (z.p = x.p → z.obj = x.obj → tget (fun _ => 0) z.places (pageKey l pg) = tget (fun _ => 0) x.places (pageKey l pg) → ch.val ∈ q.ctxs → (ch.val, l, pg) ∈ q.pages → indexOf s z.p z.obj ≠ none →
            job? s z.job ≠ none → w.pages = q.pages.filter (fun e => e != (ch.val, l, pg)))) ∧
      OnlyParts (tierParts.append [.searches]) s t) ∧
  (∀ (controllers : BitVec 4) (spare : BitVec 10) (fresh : Bool) (s : State), s.ob.counting = true →
    ∃ t, exec (.carrierReady controllers ⟨spare, fresh⟩) s = .next t ∧ deepReady t = true ∧ rfield t rDtStatus 24 4 = controllers.toNat ∧
      rfield t rDtStatus 0 10 = spare.toNat ∧ rfield t rDtStatus 28 1 = (if spare.toNat < 20 then 1 else 0) ∧
      (∀ f < 32, rfield t (rDtChan f) 31 1 = (if controllers.getLsbD (f / 8) then 1 else 0)) ∧
      rfield t rTmStatus 29 2 = 3 ∧ t.tm.wasReady = true ∧
      t.tm.ckpts = (if fresh && !s.tm.wasReady then [] else s.tm.ckpts) ∧ OnlyParts [.regs, .log, .media, .ckpts, .deep, .fray] s t ∧
      (fresh = false → OnlyParts [.regs, .log, .media] s t)) ∧
  (∀ (removed : Bool) (s : State), ∃ t, exec (.carrierLinkFail removed) s = .next t ∧ deepReady t = false ∧
    (removed = true → rfield t rDtStatus 31 1 = 0) ∧ (∀ w ∈ t.tm.waits, w.st ≠ 0) ∧
    (∀ k a g, pageOf t k a = some g → g.moving ≠ 1 ∧ g.moving ≠ 2) ∧
    (∀ j ∈ s.hp.jobs, j.opcode = 0x0904 → j.phase = .running → ∃ d, Decided t j.id stTier d) ∧
    OnlyParts (tierParts.append [.indexes, .searches, .holds]) s t) ∧
  (∀ (s : State), rfield s rDtStatus 29 1 = 1 → ∃ t, exec .carrierLinkRetrain s = .next t ∧ bitOf (rreg t rDtStain).toNat 4 = true ∧
    OtherRegs [rDtStain] s t ∧ OnlyParts [.regs, .log] s t) ∧
  (∀ (retired rebuilt : Nat) (spare : BitVec 10) (flash : List (Fin 32 × Nat × Nat)) (s : State), deepReady s = true →
    ∃ t, exec (.garbageCollection retired ⟨spare, rebuilt, flash⟩) s = .next t ∧ cnt t rRetired = cnt s rRetired + BitVec.ofNat 64 retired ∧
      cnt t rRebuilt = cnt s rRebuilt + BitVec.ofNat 64 rebuilt ∧ (rebuilt ≠ 0 → bitOf (rreg t rDtStain).toNat 0 = true) ∧
      rfield t rDtStatus 0 10 = spare.toNat ∧ (retired ≠ 0 → bitOf (rreg t rDtStain).toNat 2 = true) ∧
      (spare.toNat < 20 → rfield t rDtStatus 28 1 = 1 ∧ bitOf (rreg t rDtStain).toNat 3 = true) ∧
      OtherRegs [rDtStain, rDtStatus] s t ∧ OnlyParts [.regs, .counts, .log] s t)

/-- Row operations write each row's result and nothing else; programs are loaded and unloaded. APPLY, GATE, STATS, NORM and
SOFTMAX without offending field end DONE or DONE_SOILED and change only what their fields name in the core's buffer; where no
auxiliary output stands beside them the result of each row is the row's; each row of STATS writes its three values.
LOAD_PROGRAM of an image that the loader takes puts its program into the slot; of one that it refuses it ends BAD_DESCRIPTOR
and no slot changes. UNLOAD_PROGRAM empties the slot where nothing that began before uses or loads it, else it runs. No byte
changes by a load or an unload. (04_functions.md R109, R115, R116, R117, R118, R122, R123, R125, R127, R128) -/
def Obligations.RowOperationsAndPrograms : Prop :=
  (∀ (c : Instr) (n op k : Nat) (s : State) (j : Job),
    ((c = .apply n ∧ op = 0x0400) ∨ (c = .gate n ∧ op = 0x0401) ∨ (c = .stats n ∧ op = 0x0402) ∨ (c = .norm n ∧ op = 0x0403) ∨
      (c = .softmax n ∧ op = 0x0404)) → opJob s n op = some j → rowErr s j (rowOp j) = none →
    k = (coreAt s (part s j) (j.fld 43 1)).getD 0 →
    ∃ t, exec c s = .next t ∧ Completes t n ∧ OtherJobs n s t ∧
      ((rowOp j).usesAux = false ∨ op = 0x0403 → ∀ i < (rowOp j).rows,
        bytesAt t (bufPlace k) ((rowOp j).dst + i * (rowOp j).ds) ((rowOp j).n * elemSize (rowOp j).fo) =
          (rowOut s (part s j) k (rowOp j) i).out) ∧
      (op = 0x0402 → ∀ i < (rowOp j).rows, bytesAt t (bufPlace k) ((rowOp j).aux + 12 * i) 12 =
        (rowOut s (part s j) k (rowOp j) i).aux) ∧
      BytesOutside ((rowOp j).spans.2.map (fun e => wr (bufPlace k) e.2.1 e.2.2)) s t ∧
      OnlyParts [.regs, .counts, .jobs, .log, .mem, .soil, .nans] s t) ∧
  (∀ (n : Nat) (s : State) (j : Job) (d : Option Nat) (code : Nat) (x : FnProg), opJob s n 0x0405 = some j → loadProgramErr j = none →
    (begunOf s (part s j) 0x0405 (fun x => x.bits 24 0 5 == j.bits 24 0 5 && decide (x.order < j.order) && (loadProgramErr x).isNone)).isEmpty = true →
    CanAccess s n (loadProgramSpans s j) →
    loadCheck (bytesAt s (part s j) (j.va 16) (1088 + numAt s (part s j) (j.va 16 + 4) 2))
      (progValid s (part s j) (j.bits 24 0 5) || (unloadsOf s (part s j) (j.bits 24 0 5)).any (fun x => decide (x.order < j.order))) = (code, d, x) →
    ∃ t, exec (.loadProgram n) s = .next t ∧ OtherJobs n s t ∧ (∀ k a, byteAt t k a = byteAt s k a) ∧
      (code = 0 → Decided t n stDone 0 ∧ progOf t (part s j) (j.bits 24 0 5) = some x ∧
        (∀ p k, k < 32 → (p ≠ part s j ∨ k ≠ j.bits 24 0 5) → progOf t p k = progOf s p k) ∧ OnlyParts (tierParts.append [.programs]) s t) ∧
      (code ≠ 0 → Decided t n stBad (0x09 + 256 * 16) ∧ OnlyParts tierParts s t)) ∧
  (∀ (n : Nat) (s : State) (j : Job), opJob s n 0x0406 = some j → unloadProgramErr j = none →
    (unloadsNow s (part s j) (j.bits 24 0 5) j = true →
      ∃ t, exec (.unloadProgram n) s = .next t ∧ Decided t n stDone 0 ∧ OtherJobs n s t ∧ progOf t (part s j) (j.bits 24 0 5) = none ∧
        (∀ p k, k < 32 → (p ≠ part s j ∨ k ≠ j.bits 24 0 5) → progOf t p k = progOf s p k) ∧ OnlyParts [.jobs, .programs] s t) ∧
    (unloadsNow s (part s j) (j.bits 24 0 5) j = false →
      ∃ t, exec (.unloadProgram n) s = .next t ∧ Runs t n ∧ OtherJobs n s t ∧ OnlyParts [.jobs] s t))

/-- Tiles are held, products issue and land, drains write rows; Dry-spin ramps; the SRAM scrub soils. Each without offending
field, with what it waits for done and every page that it reaches there. HOLD gives each array of its mask the tile read from
the core's buffer and ends DONE. PRODUCT queues its products as it begins, with its codes once they are there, and runs.
PRODUCT_ISSUE puts an array's first queued product in flight where its codes have come and it may go. PRODUCT_LANDING lands
the oldest product in flight; after a PRODUCT's last one its descriptor is decided. DRAIN writes its rows, closes its columns
unless it keeps them, and ends. NEEDLE ends and writes its outputs alone. DRY_SPIN sets the level of idle arrays and ends;
DRYSPIN_RAMP_STEP moves an array's level by one. SRAM_SCRUB soils each uncorrectable unit and slot of its die, notes function
tables in error, and, where there is no KV region, changes no byte. Arrays that are not named stay. (03_arrays.md R75, R83,
R87, R90, R91, R93, R94, R95, R98, R99, R100; 08_tiers.md R280) -/
def Obligations.ArraysHoldAndMultiply : Prop :=
  (∀ (n c : Nat) (s : State) (j : Job), opJob s n 0x0200 = some j → holdErr s j = none →
    c = (coreAt s (part s j) (j.fld 39 1)).getD 0 →
    (∀ a ∈ maskArrs (j.fld 38 1 % 16), holdWaits (j.fld 36 1 != 1) (arrOf s c a) = false) →
    ∃ t, exec (.hold n) s = .next t ∧ Decided t n stDone 0 ∧ OtherJobs n s t ∧
      (∀ a ∈ maskArrs (j.fld 38 1 % 16), arrOf t c a = (arrOf s c a).take (loadTile s c
        (if j.bits 37 0 1 = 1 then j.fld 16 4 + a * j.fld 24 4 else j.fld 16 4) (j.fld 20 4) (j.fld 32 2) (j.fld 34 2) (j.fld 36 1)
        (j.bits 37 2 2) (j.bits 37 1 1 == 1))) ∧
      (∀ d a, a < 4 → (d ≠ c ∨ a ∉ maskArrs (j.fld 38 1 % 16)) → arrOf t d a = arrOf s d a) ∧ OnlyParts [.jobs, .arrays] s t) ∧
  (∀ (n c : Nat) (s u : State) (j : Job), opJob s n 0x0201 = some j → c = (coreAt s (part s j) (j.fld 55 1)).getD 0 →
    (productBegun s j = true ∧ u = s ∨ productBegun s j = false ∧ productErr s j = none ∧ u = beginProduct s j) →
    CanAccess u n (productSpans u j) →
    ∃ t, exec (.product n) s = .next t ∧ Runs t n ∧ OtherJobs n s t ∧ productsLeft t c n = true ∧
      (∀ a ∈ (productArrs s j).2, ∀ p ∈ (arrOf t c a).queue, p.job = n → p.ready = true) ∧
      (∀ a < 4, (arrOf t c a).flight = (arrOf s c a).flight) ∧ (∀ d a, a < 4 → d ≠ c → arrOf t d a = arrOf s d a) ∧
      (∀ k a, byteAt t k a = byteAt s k a) ∧ OnlyParts (tierParts.append [.arrays]) s t) ∧
  (∀ (c : Fin 64) (a : Fin 4) (s : State) (p : Prod) (ps : List Prod), (arrOf s c.val a.val).queue = p :: ps →
    (drySpinOn s = false ∨ (arrOf s c.val a.val).flight ≠ [] ∨ (4 ≤ (arrOf s c.val a.val).level ∧ (arrOf s c.val a.val).rising = false)) →
    p.ready = true → drainAhead s c.val a.val p.job = false →
    (p.chain = false ∨ (arrOf s c.val a.val).flight = []) → (arrOf s c.val a.val).flight.length < 301 →
    ∃ t, exec (.productIssue c a) s = .next t ∧ arrOf t c.val a.val = { arrOf s c.val a.val with
        queue := ps, flight := (arrOf s c.val a.val).flight ++ [p], chain := p.chain, issued := true, level := 8, rising := false } ∧
      (∀ d b, b < 4 → (d ≠ c.val ∨ b ≠ a.val) → arrOf t d b = arrOf s d b) ∧ OnlyParts [.arrays, .counts] s t) ∧
  (∀ (c : Fin 64) (a : Fin 4) (s : State) (p : Prod) (ps : List Prod), (arrOf s c.val a.val).flight = p :: ps →
    ∃ t, exec (.productLanding c a) s = .next t ∧ (arrOf t c.val a.val).flight = ps ∧
      (arrOf t c.val a.val).queue = (arrOf s c.val a.val).queue ∧
      (arrOf t c.val a.val).cols = ((arrOf s c.val a.val).landAll p).1.cols ∧
      (∀ d b, b < 4 → (d ≠ c.val ∨ b ≠ a.val) → arrOf t d b = arrOf s d b) ∧ OtherJobs p.job s t ∧
      (productsLeft t c.val p.job = false → ∀ j, job? s p.job = some j → j.phase = .running → ∃ st d, Decided t p.job st d) ∧
      (productsLeft t c.val p.job = true → ∀ j, job? s p.job = some j → j.phase = .running → Runs t p.job) ∧
      OnlyParts [.jobs, .arrays, .regs, .log] s t) ∧
  (∀ (n c : Nat) (s : State) (j : Job), opJob s n 0x0202 = some j → drainFields s j = none → drainWaits s j = false →
    drainErr s j = none → c = (coreAt s (part s j) (j.fld 41 1)).getD 0 → CanAccess s n (drainSpans s j) →
    ∃ t, exec (.drain n) s = .next t ∧ Completes t n ∧ OtherJobs n s t ∧
      (j.fld 32 2 * elemSize (j.fld 36 1) ≤ j.fld 24 4 → ∀ i < j.fld 34 2,
        bytesAt t (part s j) (j.va 16 + i * j.fld 24 4) (j.fld 32 2 * elemSize (j.fld 36 1)) = (drainRow s j i).1) ∧
      (j.bits 37 2 1 = 1 → t.mx = s.mx) ∧ (j.bits 37 2 1 ≠ 1 → ∀ k < drainWidth j, ∀ i ∈ (drainPlace s j k).2,
        (arrOf t c (drainPlace s j k).1).col i = none) ∧ BytesOutside (drainSpans s j) s t ∧ OnlyParts (tierParts.append [.arrays]) s t) ∧
  (∀ (n : Nat) (s : State) (j : Job) (out : Span), opJob s n 0x0300 = some j → needleErr s j = none →
    out = wr (part s j) (j.va 48) (j.fld 45 1 * j.fld 40 2 * elemSize (j.fld 44 1)) → regionErr s (needleReads s j ++ [out]) = none →
    CanAccess s n (needleReads s j ++ [out]) →
    ∃ t, exec (.needle n) s = .next t ∧ Completes t n ∧ OtherJobs n s t ∧ BytesOutside [out] s t ∧ OnlyParts tierParts s t) ∧
  (∀ (n c : Nat) (s : State) (j : Job), opJob s n 0x0203 = some j → drySpinErr s j = none →
    c = (coreAt s (part s j) (j.fld 22 1)).getD 0 → (∀ a ∈ maskArrs (j.fld 21 1 % 16), (arrOf s c a).queue = []) →
    ∃ t, exec (.drySpin n) s = .next t ∧ Decided t n stDone 0 ∧ OtherJobs n s t ∧
      (∀ a ∈ maskArrs (j.fld 21 1 % 16), (arrOf s c a).flight = [] → arrOf t c a = { arrOf s c a with
        level := if drySpinOn s then j.fld 20 1 else 0, rising := false }) ∧
      (∀ d a, a < 4 → (d ≠ c ∨ a ∉ maskArrs (j.fld 21 1 % 16)) → arrOf t d a = arrOf s d a) ∧
      OnlyParts [.jobs, .arrays, .counts] s t) ∧
  (∀ (c : Fin 64) (a : Fin 4) (s : State) (x : Arr), x = arrOf s c.val a.val → drySpinOn s = true → x.flight = [] →
    (x.queue = [] → x.level ≠ 0 → ∃ t, exec (.dryspinRampStep c a) s = .next t ∧
      arrOf t c.val a.val = { x with level := x.level - 1, rising := false } ∧
      (∀ d b, b < 4 → (d ≠ c.val ∨ b ≠ a.val) → arrOf t d b = arrOf s d b) ∧ OnlyParts [.arrays, .counts] s t) ∧
    (x.queue ≠ [] → (x.level < 4 ∨ x.rising = true) → ∃ t, exec (.dryspinRampStep c a) s = .next t ∧
      arrOf t c.val a.val = { x with level := min 8 (x.level + 1), rising := decide (x.level + 1 < 8) } ∧
      (∀ d b, b < 4 → (d ≠ c.val ∨ b ≠ a.val) → arrOf t d b = arrOf s d b) ∧ OnlyParts [.arrays, .counts] s t)) ∧
  (∀ (d : Fin 8) (ce : Nat) (cores : List (Fin 64)) (units : List (Fin 64 × Nat)) (slots : List (Fin 64 × Fin 4 × Nat × Nat))
    (pool : List Nat) (tables : List (Fin 64 × Fin 256 × Bool)) (s : State),
    ready s = true → ∃ t, exec (.sramScrub d ce cores units ⟨slots, pool, tables⟩) s = .next t ∧
      (s.tm.regions = [] → ∀ k a, byteAt t k a = byteAt s k a) ∧
      (∀ x ∈ tables, x.1.val / 8 = d.val → bitOf (rreg t (rFnStain x.1.val)).toNat (if x.2.2 then 4 else 3) = true) ∧
      (∀ u ∈ units, u.1.val / 8 = d.val → 64 * u.2 < bufBytes → unitSoil t (bufPlace u.1.val) (64 * u.2) = true) ∧
      (∀ x ∈ slots, x.1.val / 8 = d.val → x.2.2.1 < 2048 → x.2.2.2 < 256 → bitOf (rreg t (rMxStain x.1.val)).toNat 4 = true ∧
        ∀ q, (arrOf s x.1.val x.2.1.val).col x.2.2.1 = some q →
          ∃ r, (arrOf t x.1.val x.2.1.val).col x.2.2.1 = some r ∧ (r.acc x.2.2.2).soil = true) ∧
      (ce ≠ 0 → bitOf (rreg t (rScStain d.val)).toNat 0 = true) ∧
      OnlyParts (tierParts.append [.arrays, .programs]) s t)

/-- Tile programs are loaded, run and unloaded; tickets are drawn, completed, read and reset. Each without offending field
and with every page that it reaches there. TP_LOAD of an image that the loader takes puts its program into the slot, and no
byte changes. TP_UNLOAD empties the slot where no run or load of it that began before is left, else it runs. TP_RUN with
tickets takes its counter for as many tickets as the split loop has iterations and runs; under the layer pipeline it runs
with its iterations shared over its stage, and as it ends writes nothing of the unified range but its outputs. TICKET_READ
writes the counter's 16 bytes; TICKET_RESET clears its numbers. TICKET_DRAW gives a re-issued ticket first, else the next
one, else finds the counter spent. TICKET_COMPLETE of a stale ticket counts it as stale; of a ticket out for a tile program,
whose arrays are free, it is counted, and the last one ends the descriptor and frees the counter. (11_mapping.md R365, R366,
R367, R368, R369, R371, R372, R373, R375, R376) -/
def Obligations.TileProgramsAndTickets : Prop :=
  (∀ (n k hd : Nat) (ls : List Nat) (s : State) (j : Job), opJob s n 0x0A10 = some j → tpLoadErr j = none → k = j.bits 24 0 6 →
    (tpLoads s (part s j) k).any (fun x => decide (x.order < j.order)) = false → hd = numAt s (part s j) (j.va 16) 64 →
    ls = (List.range (min 24 (bitsOf hd 24 4 + bitsOf hd 28 4 + bitsOf hd 32 4))).map (fun i => numAt s (part s j) (j.va 16 + 64 + 4 * i) 4) →
    CanAccess s n (tpLoadSpans s j) → tpLoaderErr hd ls ((tpSlot s (part s j) k).isSome || (tpUnloads s (part s j) k).any (fun x => decide (x.order < j.order))) = none →
    ((tpParse hd ls).m = 0 ∨ (tpParse hd ls).n = 0 ∨ (tpParse hd ls).k = 0 ∨
      issueCheck (tpParse hd ls) (tpParse hd ls).m (tpParse hd ls).n (tpParse hd ls).k 0 = none) →
    ∃ t, exec (.tpLoad n) s = .next t ∧ Decided t n stDone 0 ∧ OtherJobs n s t ∧
      tpSlot t (part s j) k = some (tpParse hd ls) ∧
      (∀ p i, i < 64 → (p ≠ part s j ∨ i ≠ k) → tpSlot t p i = tpSlot s p i) ∧ (∀ q a, byteAt t q a = byteAt s q a) ∧
      OnlyParts (tierParts.append [.tileProgs]) s t) ∧
  (∀ (n k : Nat) (s : State) (j : Job), opJob s n 0x0A11 = some j → tpUnloadErr j = none → k = j.bits 24 0 6 →
    (unloadDue s j = true → ∃ t, exec (.tpUnload n) s = .next t ∧ Decided t n stDone 0 ∧ OtherJobs n s t ∧
      tpSlot t (part s j) k = none ∧
      (∀ p i, i < 64 → (p ≠ part s j ∨ i ≠ k) → tpSlot t p i = tpSlot s p i) ∧ OnlyParts [.jobs, .tileProgs] s t) ∧
    (unloadDue s j = false →
      ∃ t, exec (.tpUnload n) s = .next t ∧ Runs t n ∧ OtherJobs n s t ∧ OnlyParts [.jobs] s t)) ∧
  (∀ (n : Nat) (s u : State) (j : Job) (g : TpProg) (r : TpRun), opJob s n 0x0A12 = some j →
    tpFor s (part s j) (j.bits 48 0 6) j = some g → r = tpRunOf s j g → tierSays s n (tpRunLists r) = (.go, []) →
    u = accessed s n (dieOfJob s n) (tpRunLists r) [] → (tpRunErr u j g r <|> issueCheck g r.M r.N r.K r.base) = none →
    regionErr u (tpRunOuts u r) = none →
    ((j.fld 3 1 = 0 ∨ j.fld 3 1 = 3) → ∃ t, exec (.tpRun n) s = .next t ∧ Runs t n ∧ OtherJobs n s t ∧
      (ticketOf t r.p (j.fld 51 1)).job = some n ∧ (ticketOf t r.p (j.fld 51 1)).next = 0 ∧
      (ticketOf t r.p (j.fld 51 1)).limit = r.trips ∧ OnlyParts (tierParts.append [.tickets]) s t) ∧
    (j.fld 3 1 ≠ 0 → j.fld 3 1 ≠ 3 →
      ∃ t, exec (.tpRun n) s = .next t ∧ Runs t n ∧ OtherJobs n s t ∧ (∀ k a, byteAt t k a = byteAt s k a) ∧
        t.tp.shares = s.tp.shares ++ [⟨n, part s j, (stageOf u j).getD [], stageWork ((stageOf u j).getD []) r.trips⟩] ∧
        OnlyParts (tierParts.append [.tileProgs]) s t)) ∧
  (∀ (n : Nat) (s : State) (j : Job) (g : TpProg) (r : TpRun) (x : TpShare), job? s n = some j → j.phase = .running →
    j.opcode = 0x0A12 → shareOf s n = some x → tpSlot s (part s j) (j.bits 48 0 6) = some g → r = tpRunOf s j g →
    tpRunErr s j g r = none → shareFree s r x = true → CanAccess s n (r.allSpans s) →
    ∃ t, exec (.descriptorComplete n) s = .next t ∧ shareOf t n = none ∧
      (∀ k a, k < 8 → a < 2 ^ 52 → (∀ x ∈ tpRunOuts s r, ¬ (akey x.place x.addr ≤ akey k a ∧ akey k a < akey x.place x.addr + x.len)) →
        byteAt t k a = byteAt s k a)) ∧
  (∀ (n : Nat) (s : State) (j : Job) (x : Ticket), opJob s n 0x0A18 = some j → ticketReadErr j = none →
    x = ticketOf s (part s j) (j.fld 16 1) → regionErr s [wr (part s j) (j.va 24) 16] = none →
    CanAccess s n [wr (part s j) (j.va 24) 16] →
    ∃ t, exec (.ticketRead n) s = .next t ∧ Decided t n stDone 0 ∧ OtherJobs n s t ∧
      bytesAt t (part s j) (j.va 24) 16 = leBytes 4 x.next ++ leBytes 4 x.limit ++ leBytes 4 x.done.length ++ leBytes 2 x.gen.toNat ++
        [if x.job.isSome then 1 else 0, 0] ∧ BytesOutside [wr (part s j) (j.va 24) 16] s t ∧ OnlyParts tierParts s t) ∧
  (∀ (n : Nat) (s : State) (j : Job), opJob s n 0x0A19 = some j → ticketResetErr s j = none →
    ∃ t, exec (.ticketReset n) s = .next t ∧ Decided t n stDone 0 ∧ OtherJobs n s t ∧
      ticketOf t (part s j) (j.fld 16 1) = { ticketOf s (part s j) (j.fld 16 1) with next := 0, limit := 0, done := [] } ∧
      (∀ p k, k < 256 → (p ≠ part s j ∨ k ≠ j.fld 16 1) → ticketOf t p k = ticketOf s p k) ∧ OnlyParts [.jobs, .tickets] s t) ∧
  (∀ (p : Fin 8) (k : Fin 256) (c : Fin 64) (s : State) (x : Ticket), x = ticketOf s p.val k.val → x.job ≠ none →
    c.val ∈ coresOf s p.val → s.boot.retired.getLsbD c.val = false →
    ∃ t, exec (.ticketDraw p k c) s = .next t ∧
      (∀ e, leastOf x.redo = some e → ticketOf t p.val k.val = { x with
        redo := x.redo.filter (· != e), out := x.out ++ [(c.val, e.1, e.2)] }) ∧
      (leastOf x.redo = none → c.val ∉ x.spent → x.next < x.limit → ticketOf t p.val k.val = { x with
        next := x.next + 1, out := x.out ++ [(c.val, x.next, x.gen)] }) ∧
      (leastOf x.redo = none → c.val ∉ x.spent → x.limit ≤ x.next → ticketOf t p.val k.val = { x with
        next := (x.next + 1) % 2 ^ 32, spent := x.spent ++ [c.val] }) ∧
      (∀ q i, i < 256 → (q ≠ p.val ∨ i ≠ k.val) → ticketOf t q i = ticketOf s q i) ∧ OnlyParts [.tickets] s t) ∧
  (∀ (p : Fin 8) (k : Fin 256) (c : Fin 64) (v : Nat) (gen : BitVec 16) (s : State) (x : Ticket), x = ticketOf s p.val k.val →
    ((c.val, v, gen) ∈ x.late → ∃ t, exec (.ticketComplete p k c v gen) s = .next t ∧
      ticketOf t p.val k.val = { x with late := x.late.erase (c.val, v, gen) } ∧
      cnt t rTicketStale = cnt s rTicketStale + 1 ∧ OnlyParts [.tickets, .counts] s t) ∧
    (∀ (n : Nat) (j : Job) (g : TpProg) (r : TpRun), (c.val, v, gen) ∉ x.late → (c.val, v, gen) ∈ x.out → x.job = some n →
      job? s n = some j → j.opcode ≠ 0x0501 → tpSlot s p.val (j.bits 48 0 6) = some g → r = tpRunOf s j g →
      (r.g.needle = true ∨ tpArraysFree s r c.val = true) → CanAccess s n (r.spans s v) →
      ∃ t, exec (.ticketComplete p k c v gen) s = .next t ∧ OtherJobs n s t ∧
        (x.done.length + 1 = x.limit → (∃ st d, Decided t n st d) ∧ (ticketOf t p.val k.val).job = none) ∧
        (x.done.length + 1 ≠ x.limit → (ticketOf t p.val k.val).job = some n ∧
          (ticketOf t p.val k.val).done = x.done ++ [v] ∧ (c.val, v, gen) ∉ (ticketOf t p.val k.val).out) ∧
        OnlyParts (tierParts.append [.arrays, .tickets]) s t))

/-- What a command of the host port, the observation or the power block may change. In every state and on any operands a
command of the host port, the rings, the pegs, the observation block, the darns or the power block answers a next state and
changes nothing but the parts of the state listed for it. The resets and the losses of power, which put the rest back, keep
the commands that wait and what the model counts for itself, and but for an orderly stop the EEPROM; REGISTER_WRITE, which
may set anything off, keeps the commands that wait, the numbers of descriptors and the EEPROM. (01_commands.md R25, R30, R37,
R43; 14_health.md R441, R443, R446; 15_module.md R464, R470) -/
def Obligations.FramesOfHost : Prop :=
  (∀ (a0 : Fin 9) (s : State), ∃ t, exec (.busMasterEnable a0) s = .next t ∧ OnlyParts [.out, .msix, .owed, .link] s t) ∧
  (∀ (a0 : Fin 512) (s : State), ∃ t, exec (.coalTimeExpire a0) s = .next t ∧ OnlyParts [.out, .rings, .msix, .owed] s t) ∧
  (∀ (a0 : Fin 512) (s : State), ∃ t, exec (.descriptorBegin a0) s = .next t ∧ OnlyParts [.out, .regs, .counts, .rings, .jobs,
    .snaps, .log, .shots, .searches, .queues, .ports, .casts] s t) ∧
  (∀ (a0 : Nat) (s : State), ∃ t, exec (.descriptorComplete a0) s = .next t ∧ OnlyParts (abortParts.append [.pegs, .msix, .owed,
    .tags, .objs, .programs, .tileProgs, .joins]) s t) ∧
  (∀ (a0 : Slot) (s : State), ∃ t, exec (.descriptorFetch a0) s = .next t ∧ OnlyParts [.nextId, .counts, .rings, .jobs, .link,
    .lfsr, .tags] s t) ∧
  (∀ (s : State), ∃ t, exec .descriptorFetchFail s = .next t ∧ OnlyParts [.regs, .rings, .jobs, .link, .tags, .log] s t) ∧
  (∀ (a0 : BitVec 16) (s : State), ∃ t, exec (.faultClear a0) s = .next t ∧ OnlyParts [.pins] s t) ∧
  (∀ (a0 : Nat) (a1 : Bool) (s : State), ∃ t, exec (.flashBlock a0 a1) s = .next t ∧ OnlyParts [.regs, .counts, .jobs, .log,
    .media] s t) ∧
  (∀ (a0 : List FrayMeasure) (s : State), ∃ t, exec (.frayEvaluate a0) s = .next t ∧ OnlyParts [.regs, .log, .fray] s t) ∧
  (∀ (s : State), ∃ t, exec .frayHistoryWrite s = .next t ∧ OnlyParts [.fray, .eeprom] s t) ∧
  (∀ (a0 : Nat) (a1 : Nat) (a2 : Bool) (a3 : List (Fin 8 × Nat)) (s : State), ∃ t, exec (.hbmRow a0 a1 a2 a3) s = .next t ∧
    OnlyParts [.free, .regs, .jobs, .log, .pages, .pats, .media] s t) ∧
  (∀ (a0 : Fin 512) (s : State), ∃ t, exec (.heldCompletionWrite a0) s = .next t ∧ OnlyParts [.out, .counts, .rings, .msix,
    .owed] s t) ∧
  (∀ (s : State), ∃ t, exec .hostGraceExpire s = .next t ∧ OnlyParts (abortParts.append [.link, .tileProgs]) s t) ∧
  (∀ (c : Instr) (s : State), (c = .hostStallBegin ∨ c = .pcieHotReset ∨ c = .pcieLinkDown) → ∃ t, exec c s = .next t ∧
    OnlyParts [.regs, .link, .log] s t) ∧
  (∀ (a0 : Bool) (s : State), ∃ t, exec (.hostStallRetry a0) s = .next t ∧ OnlyParts [.out, .msix, .owed, .link] s t) ∧
  (∀ (c : Instr) (a0 : Nat) (s : State), (c = .hostWrite a0 ∨ c = .snapshotRead a0) → ∃ t, exec c s = .next t ∧ OnlyParts [.out,
    .counts, .jobs] s t) ∧
  (∀ (c : Instr) (a0 : Fin 9) (a1 : Fin 512) (a2 : Word) (s : State), (c = .hpDbCmdTail a0 a1 a2 ∨ c = .hpDbCplHead a0 a1 a2) →
    ∃ t, exec c s = .next t ∧ OnlyParts [.regs, .rings, .log] s t) ∧
  (∀ (a0 : Bool) (a1 : BitVec 16) (a2 : List Byte) (s : State), ∃ t, exec (.i2cEepromWrite a0 a1 a2) s = .next t ∧ OnlyParts
    [.out, .eeprom] s t) ∧
  (∀ (c : Instr) (a0 : Nat) (s : State), (c = .jobAbort a0 ∨ c = .retireLane a0) → ∃ t, exec c s = .next t ∧ OnlyParts
    (abortParts.append [.tileProgs]) s t) ∧
  (∀ (a0 : Fin 16) (a1 : BitVec 12) (a2 : Word) (a3 : Word) (a4 : DWord) (a5 : Fin 16) (s : State), ∃ t, exec (.jobAbortReceive
    a0 a1 a2 a3 a4 a5) s = .next t ∧ OnlyParts (abortParts.append [.tileProgs]) s t) ∧
  (∀ (a0 : Fin 16) (a1 : List Word) (s : State), ∃ t, exec (.jobListReceive a0 a1) s = .next t ∧ OnlyParts [.counts, .jobLists,
    .ports] s t) ∧
  (∀ (s : State), ∃ t, exec .leakDetect s = .next t ∧ OnlyParts [.regs, .log, .pins] s t) ∧
  (∀ (a0 : Fin 9) (a1 : Fin 512) (s : State), ∃ t, exec (.msixUnmask a0 a1) s = .next t ∧ OnlyParts [.out, .msix, .owed] s t) ∧
  (∀ (c : Instr) (a0 : Nat) (s : State), (c = .nop a0 ∨ c = .snapshot a0) → ∃ t, exec c s = .next t ∧ OnlyParts [.jobs] s t) ∧
  (∀ (a0 : Word) (s : State), ∃ t, exec (.obTagCfgWrite a0) s = .next t ∧ OnlyParts [.regs, .lfsr] s t) ∧
  (∀ (a0 : Fin 9) (a1 : Word) (s : State), ∃ t, exec (.pairLoRead a0 a1) s = .next t ∧ OnlyParts [.out, .latches] s t) ∧
  (∀ (a0 : Fin 8) (a1 : Word) (s : State), ∃ t, exec (.partCfgWrite a0 a1) s = .next t ∧ OnlyParts [.out, .regs, .counts,
    .rings, .jobs, .pegs, .latches, .owed, .link, .tags, .snaps, .caps, .mem, .soil, .nans, .pages, .holds, .objs, .regions,
    .waits, .keys, .pats, .shots, .nodes, .cache, .indexes, .searches, .arrays, .programs, .tileProgs, .tickets, .queues,
    .transfers, .ports, .wins, .ops, .groups] s t) ∧
  (∀ (a0 : Fin 8) (s : State), ∃ t, exec (.partFlush a0) s = .next t ∧ OnlyParts [.regs, .jobs, .groups] s t) ∧
  (∀ (a0 : Fin 8) (s : State), ∃ t, exec (.partHeldFlush a0) s = .next t ∧ OnlyParts [.regs, .jobs] s t) ∧
  (∀ (a0 : Fin 9) (s : State), ∃ t, exec (.partitionReset a0) s = .next t ∧ OnlyParts (abortParts.append [.pegs, .latches,
    .msix, .owed, .link, .boot, .tags, .jobLists, .objs, .keys, .programs, .tileProgs, .wins]) s t) ∧
  (∀ (a0 : Fin 8) (s : State), ∃ t, exec (.partitionResetDone a0) s = .next t ∧ OnlyParts [.regs, .link] s t) ∧
  (∀ (a0 : Fin 16) (a1 : Fin 32) (a2 : Bool) (s : State), ∃ t, exec (.pcieLinkUp a0 a1 a2) s = .next t ∧ OnlyParts [.out, .regs,
    .msix, .owed, .link] s t) ∧
  (∀ (c : Instr) (a0 : Nat) (s : State), (c = .pegAdd a0 ∨ c = .pegSet a0) → ∃ t, exec c s = .next t ∧ OnlyParts [.jobs, .pegs]
    s t) ∧
  (∀ (a0 : Fin 9) (a1 : Fin 8) (a2 : Fin 4096) (a3 : Word) (s : State), ∃ t, exec (.pegWindowAdd a0 a1 a2 a3) s = .next t ∧
    OnlyParts [.pegs] s t) ∧
  (∀ (a0 : Nat) (s : State), ∃ t, exec (.powerCap a0) s = .next t ∧ OnlyParts [.out, .regs, .counts, .jobs, .log, .caps, .ports,
    .casts] s t) ∧
  (∀ (a0 : Fin 16) (a1 : BitVec 12) (a2 : Word) (a3 : Nat) (a4 : DWord) (s : State), ∃ t, exec (.powerCapBroadcast a0 a1 a2 a3
    a4) s = .next t ∧ OnlyParts [.out, .regs, .counts, .log, .caps, .ports, .casts] s t) ∧
  (∀ (a0 : PowerSample) (s : State), ∃ t, exec (.powerSample a0) s = .next t ∧ OnlyParts [.regs, .counts, .log, .pins] s t) ∧
  (∀ (a0 : Fin 10) (s : State), ∃ t, exec (.railStep a0) s = .next t ∧ OnlyParts [.regs] s t) ∧
  (∀ (a0 : Nat) (s : State), ∃ t, exec (.retireCore a0) s = .next t ∧ OnlyParts (tierParts.append [.boot, .snaps, .caps, .holds,
    .regions, .indexes, .searches, .arrays, .tileProgs, .tickets, .queues, .transfers, .ops, .groups]) s t) ∧
  (∀ (a0 : Nat) (s : State), ∃ t, exec (.retireThimble a0) s = .next t ∧ OnlyParts [.regs, .jobs, .log] s t) ∧
  (∀ (c : Instr) (a0 : Fin 9) (a1 : Fin 512) (a2 : Word) (s : State), (c = .ringDisable a0 a1 a2 ∨ c = .ringEnable a0 a1 a2) → ∃
    t, exec c s = .next t ∧ OnlyParts [.out, .counts, .rings, .jobLists, .ports] s t) ∧
  (∀ (s : State), ∃ t, exec .scheduledCapDue s = .next t ∧ OnlyParts [.regs, .jobs, .caps] s t) ∧
  (∀ (a0 : Fin 4) (s : State), ∃ t, exec (.snapshotLatch a0) s = .next t ∧ OnlyParts [.jobs, .snaps] s t) ∧
  (∀ (a0 : Fin 16) (a1 : BitVec 12) (a2 : Word) (a3 : DWord) (a4 : BitVec 16) (s : State), ∃ t, exec (.snapshotTrigger a0 a1 a2
    a3 a4) s = .next t ∧ OnlyParts [.out, .regs, .counts, .snaps, .log, .ports, .casts] s t) ∧
  (∀ (a0 : Nat) (a1 : Nat) (a2 : Bool) (s : State), ∃ t, exec (.sramRemap a0 a1 a2) s = .next t ∧ OnlyParts [.regs, .jobs, .log,
    .media] s t) ∧
  (∀ (s : State), ∃ t, exec .stainLogClear s = .next t ∧ OnlyParts [.log] s t) ∧
  (∀ (c : Instr) (s : State), (c = .standbyPowerLoss ∨ c = .standbyPowerReturn) → ∃ t, exec c s = .next t ∧ OnlyParts [.pins] s
    t) ∧
  (∀ (s : State), ∃ t, exec .sysLimitPoll s = .next t ∧ OnlyParts [.regs, .caps] s t) ∧
  (∀ (a0 : BitVec 16) (s : State), ∃ t, exec (.sysLimitWrite a0) s = .next t ∧ OnlyParts [.out, .pins] s t) ∧
  (∀ (a0 : Nat) (s : State), ∃ t, exec (.tagDrain a0) s = .next t ∧ OnlyParts [.out, .counts, .jobs, .tags] s t) ∧
  (∀ (a0 : Word) (s : State), ∃ t, exec (.tcPwrCapWrite a0) s = .next t ∧ OnlyParts [.regs, .caps] s t) ∧
  (∀ (a0 : Fin 9) (s : State), ∃ t, exec (.vfEnable a0) s = .next t ∧ OnlyParts (abortParts.append [.pegs, .latches, .owed,
    .link, .boot, .tags, .jobLists, .objs, .keys, .programs, .tileProgs, .wins]) s t) ∧
  (∀ (s : State), ∃ t, exec .vinLow s = .next t ∧ OnlyParts [.regs, .log] s t) ∧
  (∀ (c : Instr) (b : Bool) (k : InputFault) (v : Word) (s : State), (c = .coldReset b ∨ c = .perstAssert ∨ c = .moduleResetCommand v ∨
    c = .inputFaultShutdown k ∨ c = .inputPowerLoss ∨ c = .thermtrip) →
    ∃ t, exec c s = .next t ∧ ∀ p ∈ resetKeeps, Part.same s t p) ∧
  (∀ s : State, ∃ t, exec .pwrEnDeassert s = .next t ∧ ∀ p ∈ resetKeeps.erase .eeprom, Part.same s t p) ∧
  (∀ (f : Fin 9) (off v : Word) (s : State), ∃ t, exec (.registerWrite f off v) s = .next t ∧ ∀ p ∈ resetKeeps.erase .free, Part.same s t p)

/-- What a command of the boot, the ports, remote operations, collectives or Spins may change. In every state and on any
operands a command of the boot, the ports and lanes, remote operations, collectives, Spins or the Stitch answers a next state
and changes nothing but the parts of the state listed for it; one that may abort jobs reaches every engine in which a
descriptor may stand. (07_spin_collectives.md R209, R219; 12_links.md R381, R388, R404; 13_bringup.md R412; 01_commands.md
R47) -/
def Obligations.FramesOfLinks : Prop :=
  (∀ (a0 : Fin 16) (s : State), ∃ t, exec (.advertExpire a0) s = .next t ∧ OnlyParts [.regs, .adverts, .log] s t) ∧
  (∀ (c : Instr) (a0 : Nat) (a1 : List Contribution) (s : State), (c = .allGather a0 a1 ∨ c = .allReduce a0 a1 ∨ c = .broadcast
    a0 a1 ∨ c = .reduce a0 a1 ∨ c = .reduceScatter a0 a1 ∨ c = .seqReduce a0 a1) → ∃ t, exec c s = .next t ∧ OnlyParts
    (abortParts.append [.pegs, .tileProgs]) s t) ∧
  (∀ (a0 : Nat) (s : State), ∃ t, exec (.attest a0) s = .next t ∧ OnlyParts [.out, .regs, .counts, .jobs] s t) ∧
  (∀ (a0 : Fin 16) (a1 : List Byte) (s : State), ∃ t, exec (.authSignature a0 a1) s = .next t ∧ OnlyParts (abortParts.append
    [.tileProgs]) s t) ∧
  (∀ (c : Instr) (a0 : Nat) (s : State), (c = .barrier a0 ∨ c = .spin a0) → ∃ t, exec c s = .next t ∧ OnlyParts
    (abortParts.append [.pegs, .tileProgs]) s t) ∧
  (∀ (a0 : Option (List Byte)) (a1 : Option (List Byte)) (a2 : Option (List Byte)) (s : State), ∃ t, exec (.bootInputsFetched a0
    a1 a2) s = .next t ∧ OnlyParts [.regs, .boot, .log] s t) ∧
  (∀ (s : State), ∃ t, exec .bootLoadDone s = .next t ∧ OnlyParts (abortParts.append [.boot, .counting, .tileProgs]) s t) ∧
  (∀ (s : State), ∃ t, exec .bootStart s = .next t ∧ OnlyParts [.now, .pins] s t) ∧
  (∀ (s : State), ∃ t, exec .bringupDone s = .next t ∧ OnlyParts [.regs] s t) ∧
  (∀ (a0 : ChunkFrame) (s : State), ∃ t, exec (.chunkArrival a0) s = .next t ∧
    OnlyParts (abortParts.append [.pegs, .tileProgs, .joins]) s t) ∧
  (∀ (a0 : Fin 16) (a1 : Frame) (a2 : CeHead) (a3 : Nat) (a4 : Word) (s : State), ∃ t, exec (.collFirstFrame a0 a1 a2 a3 a4) s =
    .next t ∧ OnlyParts (abortParts.append [.pegs, .tileProgs, .joins]) s t) ∧
  (∀ (a0 : Fin 16) (a1 : Fin 4) (a2 : Nat) (s : State), ∃ t, exec (.creditReturn a0 a1 a2) s = .next t ∧ OnlyParts [.out,
    .counts, .ports] s t) ∧
  (∀ (c : Instr) (a0 : Fin 16) (s : State), (c = .creditReturnTimer a0 ∨ c = .idleFrameTimer a0 ∨ c = .linkAckTimer a0) → ∃ t,
    exec c s = .next t ∧ OnlyParts [.out, .ports] s t) ∧
  (∀ (c : Instr) (s : State), (c = .discoveryWindowClose ∨ c = .joinTimeout) → ∃ t, exec c s = .next t ∧ OnlyParts [.regs,
    .boot, .log] s t) ∧
  (∀ (c : Instr) (a0 : Fin 16) (a1 : Frame) (s : State), (c = .frameAcknowledgement a0 a1 ∨ c = .frameReadRequest a0 a1 ∨ c =
    .frameReadResponse a0 a1 ∨ c = .frameWrite a0 a1) → ∃ t, exec c s = .next t ∧ OnlyParts (abortParts.append [.pegs,
    .tileProgs, .joins]) s t) ∧
  (∀ (a0 : Fin 16) (a1 : Nat) (a2 : Nat) (s : State), ∃ t, exec (.frameCrcFail a0 a1 a2) s = .next t ∧ OnlyParts [.out, .counts]
    s t) ∧
  (∀ (a0 : Fin 16) (a1 : Frame) (a2 : Byte) (s : State), ∃ t, exec (.frameRefusal a0 a1 a2) s = .next t ∧ OnlyParts
    (abortParts.append [.pegs, .tileProgs, .joins]) s t) ∧
  (∀ (a0 : Word) (s : State), ∃ t, exec (.go a0) s = .next t ∧ OnlyParts [.regs] s t) ∧
  (∀ (a0 : Nat) (s : State), ∃ t, exec (.groupCreate a0) s = .next t ∧ OnlyParts (tierParts.append [.out, .ports, .groups,
    .joins]) s t) ∧
  (∀ (a0 : Nat) (s : State), ∃ t, exec (.groupDestroy a0) s = .next t ∧ OnlyParts [.jobs, .groups, .joins] s t) ∧
  (∀ (a0 : Fin 64) (s : State), ∃ t, exec (.groupWatchdogExpire a0) s = .next t ∧ OnlyParts (abortParts.append [.tileProgs,
    .joins]) s t) ∧
  (∀ (a0 : Training) (s : State), ∃ t, exec (.hbmTrainingDone a0) s = .next t ∧ OnlyParts [.regs,
    .boot, .log, .ports] s t) ∧
  (∀ (a0 : Fin 16) (a1 : BitVec 12) (a2 : Fin 16) (a3 : BitVec 256) (a4 : BitVec 512) (s : State), ∃ t, exec (.hello a0 a1 a2 a3
    a4) s = .next t ∧ OnlyParts [.free, .out, .ports] s t) ∧
  (∀ (a0 : Fin 16) (a1 : Frame) (a2 : Fin 8) (a3 : GroupName) (a4 : BitVec 128) (s : State), ∃ t, exec
    (.joinFrameReceive a0 a1 a2 a3 a4) s = .next t ∧ OnlyParts (abortParts.append [.pegs, .tileProgs, .joins]) s t) ∧
  (∀ (a0 : Nat) (s : State), ∃ t, exec (.lagWindowEnd a0) s = .next t ∧ OnlyParts [.regs, .counts, .groups] s t) ∧
  (∀ (c : Instr) (a0 : Fin 16) (a1 : Fin 18) (s : State), (c = .laneBerFail a0 a1 ∨ c = .laneChangeNotice a0 a1 ∨ c =
    .lossOfLight a0 a1) → ∃ t, exec c s = .next t ∧ OnlyParts (abortParts.append [.tileProgs]) s t) ∧
  (∀ (c : Instr) (a0 : Fin 16) (s : State), (c = .laneChangeDone a0 ∨ c = .portDisable a0 ∨ c = .portQuarantine a0 ∨ c =
    .portSilenceTimeout a0) → ∃ t, exec c s = .next t ∧ OnlyParts (abortParts.append [.tileProgs]) s t) ∧
  (∀ (a0 : Fin 16) (a1 : Fin 18) (a2 : Bool) (s : State), ∃ t, exec (.laneLightReturn a0 a1 a2) s = .next t ∧ OnlyParts [.ports]
    s t) ∧
  (∀ (c : Instr) (a0 : Fin 16) (s : State), (c = .lightReceived a0 ∨ c = .portEnable a0 ∨ c = .trainingRetry a0) → ∃ t, exec c s
    = .next t ∧ OnlyParts [.regs, .ports] s t) ∧
  (∀ (a0 : Fin 16) (a1 : BitVec 16) (s : State), ∃ t, exec (.linkAck a0 a1) s = .next t ∧ OnlyParts [.out, .counts, .ports,
    .casts] s t) ∧
  (∀ (a0 : Fin 16) (a1 : BitVec 16) (s : State), ∃ t, exec (.linkNak a0 a1) s = .next t ∧ OnlyParts (abortParts.append
    [.tileProgs]) s t) ∧
  (∀ (c : Instr) (a0 : Fin 16) (a1 : BitVec 12) (a2 : Word) (a3 : Notice) (s : State), (c = .lostNotice a0 a1 a2 a3 ∨ c =
    .mismatchNotice a0 a1 a2 a3 ∨ c = .timeoutNotice a0 a1 a2 a3) → ∃ t, exec c s = .next t ∧ OnlyParts (abortParts.append
    [.tileProgs]) s t) ∧
  (∀ (c : Instr) (a0 : Fin 8) (a1 : Word) (s : State), (c = .partResume a0 a1 ∨ c = .partSuspend a0 a1) → ∃ t, exec c s = .next
    t ∧ OnlyParts (abortParts.append [.pegs, .tileProgs, .joins]) s t) ∧
  (∀ (a0 : Nat) (a1 : Option (List Byte)) (s : State), ∃ t, exec (.planLoad a0 a1) s = .next t ∧ OnlyParts (abortParts.append
    [.boot, .tileProgs]) s t) ∧
  (∀ (a0 : Fin 16) (s : State), ∃ t, exec (.portRelease a0) s = .next t ∧ OnlyParts [.free, .out, .regs, .ports] s t) ∧
  (∀ (a0 : Nat) (s : State), ∃ t, exec (.remotePegAdd a0) s = .next t ∧ OnlyParts [.out, .counts, .jobs, .pegs, .ports, .ops,
    .casts] s t) ∧
  (∀ (a0 : Fin 16) (a1 : Frame) (a2 : BitVec 16) (a3 : Word) (a4 : DWord) (s : State), ∃ t, exec (.remotePegAddFrame a0 a1 a2 a3
    a4) s = .next t ∧ OnlyParts (abortParts.append [.pegs, .tileProgs, .joins]) s t) ∧
  (∀ (c : Instr) (a0 : Nat) (s : State), (c = .remoteRead a0 ∨ c = .remoteWrite a0) → ∃ t, exec c s = .next t ∧ OnlyParts
    (tierParts.append [.out, .ports, .ops, .casts]) s t) ∧
  (∀ (a0 : Option (Bool × Fin 16)) (s : State), ∃ t, exec (.selftestDone a0) s = .next t ∧ OnlyParts [.regs, .boot, .log,
    .ports] s t) ∧
  (∀ (a0 : GrantEnd) (a1 : Fin 2) (a2 : Nat) (s : State), ∃ t, exec (.spinSlotGrant a0 a1 a2) s = .next t ∧ OnlyParts (abortParts.append [.pegs, .tileProgs,
    .joins]) s t) ∧
  (∀ (a0 : DWord) (s : State), ∃ t, exec (.stitchLock a0) s = .next t ∧ OnlyParts [.now, .regs, .boot, .adverts, .snaps, .log] s
    t) ∧
  (∀ (a0 : BitVec 13) (s : State), ∃ t, exec (.strapsDone a0) s = .next t ∧ OnlyParts [.regs, .boot, .log, .ports] s t) ∧
  (∀ (a0 : Fin 16) (a1 : Sync) (s : State), ∃ t, exec (.syncFrame a0 a1) s = .next t ∧ OnlyParts [.regs, .counts, .adverts,
    .log, .ports] s t) ∧
  (∀ (a0 : Fin 16) (s : State), ∃ t, exec (.syncPairTimer a0) s = .next t ∧ OnlyParts [.out, .counts, .ports] s t) ∧
  (∀ (a0 : Fin 16) (a1 : BitVec 18) (a2 : BitVec 18) (s : State), ∃ t, exec (.trainingComplete a0 a1 a2) s = .next t ∧ OnlyParts
    [.free, .out, .regs, .ports] s t) ∧
  (∀ (c : Instr) (a0 : Nat) (s : State), (c = .windowClose a0 ∨ c = .windowOpen a0) → ∃ t, exec c s = .next t ∧ OnlyParts
    [.jobs, .wins] s t)

/-- What a command of the tiers, KV regions, indexes or stream engines may change. In every state and on any operands a
command of the tier manager, the KV regions, the indexes and searches, the Deep carrier or the stream engines answers a next
state and changes nothing but the parts of the state listed for it. (06_kv_cache.md R170, R175; 08_tiers.md R253, R272, R273;
09_deep_search.md R297, R306; 10_streams.md R325, R326) -/
def Obligations.FramesOfMemory : Prop :=
  (∀ (a0 : Nat) (s : State), ∃ t, exec (.arm a0) s = .next t ∧ OnlyParts [.counts, .jobs, .waits, .queues] s t) ∧
  (∀ (a0 : Fin 9) (a1 : Nat) (a2 : Nat) (s : State), ∃ t, exec (.bar4Read a0 a1 a2) s = .next t ∧ OnlyParts [.out, .regs,
    .counts, .log, .pages, .pats, .shots, .nodes, .cache] s t) ∧
  (∀ (a0 : Fin 9) (a1 : Nat) (a2 : List Byte) (a3 : Bool) (s : State), ∃ t, exec (.bar4Write a0 a1 a2 a3) s = .next t ∧
    OnlyParts [.free, .regs, .counts, .log, .mem, .soil, .nans, .pages, .pats, .shots, .nodes, .cache] s t) ∧
  (∀ (a0 : Bool) (s : State), ∃ t, exec (.carrierLinkFail a0) s = .next t ∧ OnlyParts (tierParts.append [.holds, .indexes,
    .searches]) s t) ∧
  (∀ (s : State), ∃ t, exec .carrierLinkRetrain s = .next t ∧ OnlyParts [.regs, .log] s t) ∧
  (∀ (a0 : BitVec 4) (a1 : Carrier) (s : State), ∃ t, exec (.carrierReady a0 a1) s = .next t ∧ OnlyParts
    [.regs, .log, .fray, .ckpts, .deep, .media] s t) ∧
  (∀ (c : Instr) (a0 : Nat) (s : State), (c = .catalog a0 ∨ c = .patternRebuild a0 ∨ c = .query a0) → ∃ t, exec c s = .next t ∧
    OnlyParts tierParts s t) ∧
  (∀ (a0 : Nat) (s : State), ∃ t, exec (.checkpoint a0) s = .next t ∧ OnlyParts [.free, .regs, .counts, .jobs, .log, .pages,
    .waits, .pats, .ckpts, .shots, .deep, .nodes, .cache] s t) ∧
  (∀ (a0 : Nat) (s : State), ∃ t, exec (.checkpointDrop a0) s = .next t ∧ OnlyParts [.free, .regs, .counts, .jobs, .log, .mem,
    .soil, .nans, .waits, .ckpts] s t) ∧
  (∀ (a0 : Nat) (s : State), ∃ t, exec (.delete a0) s = .next t ∧ OnlyParts (tierParts.append [.indexes]) s t) ∧
  (∀ (a0 : Nat) (s : State), ∃ t, exec (.evict a0) s = .next t ∧ OnlyParts [.free, .regs, .counts, .jobs, .log, .mem, .soil,
    .nans, .pages, .waits, .pats, .deep, .cache] s t) ∧
  (∀ (a0 : Fin 8) (a1 : Nat) (s : State), ∃ t, exec (.frameWriteDone a0 a1) s = .next t ∧ OnlyParts [.regs, .counts, .log,
    .pages, .pats, .deep, .cache] s t) ∧
  (∀ (a0 : Nat) (a1 : Collected) (s : State), ∃ t, exec (.garbageCollection a0 a1) s = .next t ∧ OnlyParts [.regs, .counts, .log] s t) ∧
  (∀ (a0 : GenTable) (s : State), ∃ t, exec (.generationDrained a0) s = .next t ∧ OnlyParts [.regions, .pats, .indexes] s t) ∧
  (∀ (a0 : GenTable) (s : State), ∃ t, exec (.generationSwitch a0) s = .next t ∧ OnlyParts (tierParts.append [.holds, .regions,
    .deep, .indexes, .searches]) s t) ∧
  (∀ (c : Instr) (a0 : Nat) (s : State), (c = .halfReset a0 ∨ c = .swap a0) → ∃ t, exec c s = .next t ∧ OnlyParts [.jobs,
    .queues] s t) ∧
  (∀ (a0 : Fin 12) (a1 : Nat) (a2 : List DWord) (a3 : Bool) (s : State), ∃ t, exec (.hbmPatrolScrub a0 a1 a2 a3) s = .next t ∧
    OnlyParts [.regs, .counts, .log, .mem, .soil, .nans, .pats, .nodes] s t) ∧
  (∀ (a0 : Nat) (s : State), ∃ t, exec (.idxCreate a0) s = .next t ∧ OnlyParts (tierParts.append [.objs, .indexes]) s t) ∧
  (∀ (a0 : Nat) (s : State), ∃ t, exec (.idxFree a0) s = .next t ∧ OnlyParts [.free, .regs, .counts, .jobs, .log, .mem, .soil,
    .nans, .waits] s t) ∧
  (∀ (c : Instr) (a0 : Nat) (s : State), (c = .insert a0 ∨ c = .merge a0) → ∃ t, exec c s = .next t ∧ OnlyParts
    (tierParts.append [.deep, .indexes]) s t) ∧
  (∀ (a0 : Nat) (s : State), ∃ t, exec (.keyLoad a0) s = .next t ∧ OnlyParts [.regs, .jobs, .log, .keys] s t) ∧
  (∀ (c : Instr) (a0 : Nat) (s : State), (c = .kvAppend a0 ∨ c = .kvAppendComplete a0 ∨ c = .kvAttach a0 ∨ c = .kvPublish a0) →
    ∃ t, exec c s = .next t ∧ OnlyParts (tierParts.append [.regions]) s t) ∧
  (∀ (a0 : Nat) (s : State), ∃ t, exec (.kvCreate a0) s = .next t ∧ OnlyParts (tierParts.append [.objs, .regions]) s t) ∧
  (∀ (c : Instr) (a0 : Nat) (s : State), (c = .kvFree a0 ∨ c = .objFree a0) → ∃ t, exec c s = .next t ∧ OnlyParts [.jobs] s t) ∧
  (∀ (a0 : Nat) (s : State), ∃ t, exec (.kvTruncate a0) s = .next t ∧ OnlyParts (tierParts.append [.holds, .regions]) s t) ∧
  (∀ (a0 : Fin 1344) (s : State), ∃ t, exec (.mergeHoldExpire a0) s = .next t ∧ OnlyParts [.jobs, .transfers] s t) ∧
  (∀ (a0 : Nat) (s : State), ∃ t, exec (.objCreate a0) s = .next t ∧ OnlyParts [.free, .jobs, .pages, .objs] s t) ∧
  (∀ (a0 : Nat) (s : State), ∃ t, exec (.objPolicy a0) s = .next t ∧ OnlyParts [.jobs, .objs] s t) ∧
  (∀ (a0 : Fin 8) (a1 : Nat) (a2 : PageRead) (s : State), ∃ t, exec (.pageFetchDone a0 a1 a2) s = .next t ∧
    OnlyParts [.free, .regs, .counts, .log, .mem, .soil, .nans, .pages, .waits, .pats, .shots, .nodes, .cache] s t) ∧
  (∀ (a0 : Fin 8) (s : State), ∃ t, exec (.poolSplitDone a0) s = .next t ∧ OnlyParts [.regs, .counts, .cache, .split] s t) ∧
  (∀ (a0 : Nat) (s : State), ∃ t, exec (.prefetch a0) s = .next t ∧ OnlyParts [.free, .regs, .counts, .jobs, .log, .mem, .soil,
    .nans, .holds, .waits] s t) ∧
  (∀ (c : Instr) (a0 : Nat) (s : State), (c = .recallBound a0 ∨ c = .search a0) → ∃ t, exec c s = .next t ∧ OnlyParts
    (tierParts.append [.searches]) s t) ∧
  (∀ (a0 : Nat) (s : State), ∃ t, exec (.recallClose a0) s = .next t ∧ OnlyParts [.jobs, .holds, .regions] s t) ∧
  (∀ (a0 : Nat) (s : State), ∃ t, exec (.recallSelect a0) s = .next t ∧ OnlyParts (tierParts.append [.holds, .regions,
    .searches]) s t) ∧
  (∀ (a0 : Nat) (s : State), ∃ t, exec (.release a0) s = .next t ∧ OnlyParts [.jobs, .holds] s t) ∧
  (∀ (a0 : Nat) (s : State), ∃ t, exec (.restore a0) s = .next t ∧ OnlyParts [.free, .regs, .counts, .jobs, .log, .mem, .soil,
    .nans, .pages, .objs, .regions, .waits, .indexes] s t) ∧
  (∀ (a0 : Fin 8) (a1 : Word) (s : State), ∃ t, exec (.scPoolCfgWrite a0 a1) s = .next t ∧ OnlyParts [.regs] s t) ∧
  (∀ (a0 : Fin 32) (a1 : FlashRead) (s : State), ∃ t, exec (.sortPageArrival a0 a1) s =
    .next t ∧ OnlyParts (tierParts.append [.searches]) s t) ∧
  (∀ (a0 : Option (Fin 8)) (s : State), ∃ t, exec (.spillEvict a0) s = .next t ∧ OnlyParts [.regs, .counts, .log, .mem, .soil,
    .nans, .pages, .pats, .shots, .nodes, .cache] s t) ∧
  (∀ (a0 : Fin 8) (a1 : Nat) (a2 : List (Fin 64)) (a3 : List (Fin 64 × Nat)) (a4 : ScrubErrors) (s : State), ∃ t, exec (.sramScrub a0 a1 a2 a3 a4) s = .next t ∧ OnlyParts
    [.regs, .counts, .log, .mem, .soil, .nans, .pats, .arrays, .programs] s t) ∧
  (∀ (a0 : Fin 8) (a1 : Nat) (s : State), ∃ t, exec (.tierFaultResolved a0 a1) s = .next t ∧ OnlyParts [.regs, .pages, .waits,
    .pats] s t) ∧
  (∀ (a0 : Fin 73) (s : State), ∃ t, exec (.transferIssue a0) s = .next t ∧ OnlyParts [.free, .regs, .counts, .jobs, .log,
    .pages, .waits, .pats, .shots, .nodes, .cache, .queues, .transfers] s t) ∧
  (∀ (a0 : Fin 1344) (a1 : Nat) (a2 : List Byte) (a3 : Bool) (s : State), ∃ t, exec (.transferLanded a0 a1 a2 a3) s = .next t ∧
    OnlyParts (tierParts.append [.out, .pegs, .queues, .transfers]) s t) ∧
  (∀ (a0 : Nat) (s : State), ∃ t, exec (.writeBack a0) s = .next t ∧ OnlyParts [.free, .regs, .counts, .jobs, .log, .mem, .soil,
    .nans, .pages, .waits, .pats, .deep] s t)

/-- What a command of the matrix arrays, the functions, the Press, the tile programs or the tickets may change. In every
state and on any operands a command of the matrix arrays, the functions, the Press, the tile programs or the tickets answers
a next state and changes nothing but the parts of the state listed for it: for those that reach the tiers its own and other
descriptors in its place, bytes with their soil, pages, waits, free values, Stain bits and counts, and the arrays, program
slots or tickets that it works on. (03_arrays.md R75, R90, R91; 04_functions.md R127; 05_press.md R141; 11_mapping.md R368,
R371; 08_tiers.md R273) -/
def Obligations.FramesOfCompute : Prop :=
  (∀ (c : Instr) (a0 : Nat) (s : State), (c = .apply a0 ∨ c = .gate a0 ∨ c = .norm a0 ∨ c = .softmax a0 ∨ c = .stats a0) → ∃ t,
    exec c s = .next t ∧ OnlyParts [.regs, .counts, .jobs, .log, .mem, .soil, .nans] s t) ∧
  (∀ (c : Instr) (a0 : Nat) (s : State), (c = .bound a0 ∨ c = .finish a0 ∨ c = .needle a0 ∨ c = .pleat a0 ∨ c = .press a0 ∨ c =
    .pressBackward a0 ∨ c = .pressGradDrain a0 ∨ c = .ticketRead a0) → ∃ t, exec c s = .next t ∧ OnlyParts tierParts s t) ∧
  (∀ (a0 : Nat) (s : State), ∃ t, exec (.decodeBatch a0) s = .next t ∧ OnlyParts (tierParts.append [.tickets]) s t) ∧
  (∀ (c : Instr) (a0 : Nat) (s : State), (c = .drain a0 ∨ c = .product a0) → ∃ t, exec c s = .next t ∧ OnlyParts
    (tierParts.append [.arrays]) s t) ∧
  (∀ (a0 : Nat) (s : State), ∃ t, exec (.drySpin a0) s = .next t ∧ OnlyParts [.counts, .jobs, .arrays] s t) ∧
  (∀ (c : Instr) (a0 : Fin 64) (a1 : Fin 4) (s : State), (c = .dryspinRampStep a0 a1 ∨ c = .productIssue a0 a1) → ∃ t, exec c s
    = .next t ∧ OnlyParts [.counts, .arrays] s t) ∧
  (∀ (a0 : Nat) (s : State), ∃ t, exec (.hold a0) s = .next t ∧ OnlyParts [.jobs, .arrays] s t) ∧
  (∀ (a0 : Nat) (s : State), ∃ t, exec (.loadProgram a0) s = .next t ∧ OnlyParts (tierParts.append [.programs]) s t) ∧
  (∀ (a0 : Fin 64) (a1 : Fin 4) (s : State), ∃ t, exec (.productLanding a0 a1) s = .next t ∧ OnlyParts [.regs, .jobs, .log,
    .arrays] s t) ∧
  (∀ (a0 : Fin 8) (a1 : Fin 256) (a2 : Fin 64) (a3 : Nat) (a4 : BitVec 16) (s : State), ∃ t, exec (.ticketComplete a0 a1 a2 a3
    a4) s = .next t ∧ OnlyParts (tierParts.append [.arrays, .tickets]) s t) ∧
  (∀ (a0 : Fin 8) (a1 : Fin 256) (a2 : Fin 64) (s : State), ∃ t, exec (.ticketDraw a0 a1 a2) s = .next t ∧ OnlyParts [.tickets]
    s t) ∧
  (∀ (a0 : Nat) (s : State), ∃ t, exec (.ticketReset a0) s = .next t ∧ OnlyParts [.jobs, .tickets] s t) ∧
  (∀ (a0 : Nat) (s : State), ∃ t, exec (.tpLoad a0) s = .next t ∧ OnlyParts (tierParts.append [.tileProgs]) s t) ∧
  (∀ (a0 : Nat) (s : State), ∃ t, exec (.tpRun a0) s = .next t ∧ OnlyParts (tierParts.append [.tileProgs, .tickets]) s t) ∧
  (∀ (a0 : Nat) (s : State), ∃ t, exec (.tpUnload a0) s = .next t ∧ OnlyParts [.jobs, .tileProgs] s t) ∧
  (∀ (a0 : Nat) (s : State), ∃ t, exec (.unloadProgram a0) s = .next t ∧ OnlyParts [.jobs, .programs] s t)
end

