-- ==== Sys2Proof/Laws/State.lean ====
section
/-! SUPPORT. What each plain update of the state leaves alone, field by field, so that no proof unfolds a record update. -/

namespace Sys2Proof.Machine

variable (s : State)

/-! ### `wreg` -/

@[simp] theorem wreg_pending (o : Nat) (w : Word) : (wreg s o w).pending = s.pending := rfl
@[simp] theorem wreg_free (o : Nat) (w : Word) : (wreg s o w).free = s.free := rfl
@[simp] theorem wreg_nextId (o : Nat) (w : Word) : (wreg s o w).nextId = s.nextId := rfl
@[simp] theorem wreg_now (o : Nat) (w : Word) : (wreg s o w).now = s.now := rfl
@[simp] theorem wreg_out (o : Nat) (w : Word) : (wreg s o w).out = s.out := rfl
@[simp] theorem wreg_counts (o : Nat) (w : Word) : (wreg s o w).counts = s.counts := rfl
@[simp] theorem wreg_hp (o : Nat) (w : Word) : (wreg s o w).hp = s.hp := rfl
@[simp] theorem wreg_boot (o : Nat) (w : Word) : (wreg s o w).boot = s.boot := rfl
@[simp] theorem wreg_ob (o : Nat) (w : Word) : (wreg s o w).ob = s.ob := rfl
@[simp] theorem wreg_pw (o : Nat) (w : Word) : (wreg s o w).pw = s.pw := rfl
@[simp] theorem wreg_tm (o : Nat) (w : Word) : (wreg s o w).tm = s.tm := rfl
@[simp] theorem wreg_mx (o : Nat) (w : Word) : (wreg s o w).mx = s.mx := rfl
@[simp] theorem wreg_fn (o : Nat) (w : Word) : (wreg s o w).fn = s.fn := rfl
@[simp] theorem wreg_fnBad (o : Nat) (w : Word) : (wreg s o w).fnBad = s.fnBad := rfl
@[simp] theorem wreg_tp (o : Nat) (w : Word) : (wreg s o w).tp = s.tp := rfl
@[simp] theorem wreg_se (o : Nat) (w : Word) : (wreg s o w).se = s.se := rfl
@[simp] theorem wreg_ol (o : Nat) (w : Word) : (wreg s o w).ol = s.ol := rfl
@[simp] theorem wreg_ce (o : Nat) (w : Word) : (wreg s o w).ce = s.ce := rfl

/-! ### `wcnt` -/

@[simp] theorem wcnt_pending (o : Nat) (v : DWord) : (wcnt s o v).pending = s.pending := rfl
@[simp] theorem wcnt_free (o : Nat) (v : DWord) : (wcnt s o v).free = s.free := rfl
@[simp] theorem wcnt_nextId (o : Nat) (v : DWord) : (wcnt s o v).nextId = s.nextId := rfl
@[simp] theorem wcnt_now (o : Nat) (v : DWord) : (wcnt s o v).now = s.now := rfl
@[simp] theorem wcnt_out (o : Nat) (v : DWord) : (wcnt s o v).out = s.out := rfl
@[simp] theorem wcnt_regs (o : Nat) (v : DWord) : (wcnt s o v).regs = s.regs := rfl
@[simp] theorem wcnt_hp (o : Nat) (v : DWord) : (wcnt s o v).hp = s.hp := rfl
@[simp] theorem wcnt_boot (o : Nat) (v : DWord) : (wcnt s o v).boot = s.boot := rfl
@[simp] theorem wcnt_ob (o : Nat) (v : DWord) : (wcnt s o v).ob = s.ob := rfl
@[simp] theorem wcnt_pw (o : Nat) (v : DWord) : (wcnt s o v).pw = s.pw := rfl
@[simp] theorem wcnt_tm (o : Nat) (v : DWord) : (wcnt s o v).tm = s.tm := rfl
@[simp] theorem wcnt_mx (o : Nat) (v : DWord) : (wcnt s o v).mx = s.mx := rfl
@[simp] theorem wcnt_fn (o : Nat) (v : DWord) : (wcnt s o v).fn = s.fn := rfl
@[simp] theorem wcnt_fnBad (o : Nat) (v : DWord) : (wcnt s o v).fnBad = s.fnBad := rfl
@[simp] theorem wcnt_tp (o : Nat) (v : DWord) : (wcnt s o v).tp = s.tp := rfl
@[simp] theorem wcnt_se (o : Nat) (v : DWord) : (wcnt s o v).se = s.se := rfl
@[simp] theorem wcnt_ol (o : Nat) (v : DWord) : (wcnt s o v).ol = s.ol := rfl
@[simp] theorem wcnt_ce (o : Nat) (v : DWord) : (wcnt s o v).ce = s.ce := rfl

/-! ### `emit` -/

@[simp] theorem emit_pending (o : Output) : (emit s o).pending = s.pending := rfl
@[simp] theorem emit_free (o : Output) : (emit s o).free = s.free := rfl
@[simp] theorem emit_nextId (o : Output) : (emit s o).nextId = s.nextId := rfl
@[simp] theorem emit_now (o : Output) : (emit s o).now = s.now := rfl
@[simp] theorem emit_regs (o : Output) : (emit s o).regs = s.regs := rfl
@[simp] theorem emit_counts (o : Output) : (emit s o).counts = s.counts := rfl
@[simp] theorem emit_hp (o : Output) : (emit s o).hp = s.hp := rfl
@[simp] theorem emit_boot (o : Output) : (emit s o).boot = s.boot := rfl
@[simp] theorem emit_ob (o : Output) : (emit s o).ob = s.ob := rfl
@[simp] theorem emit_pw (o : Output) : (emit s o).pw = s.pw := rfl
@[simp] theorem emit_tm (o : Output) : (emit s o).tm = s.tm := rfl
@[simp] theorem emit_mx (o : Output) : (emit s o).mx = s.mx := rfl
@[simp] theorem emit_fn (o : Output) : (emit s o).fn = s.fn := rfl
@[simp] theorem emit_fnBad (o : Output) : (emit s o).fnBad = s.fnBad := rfl
@[simp] theorem emit_tp (o : Output) : (emit s o).tp = s.tp := rfl
@[simp] theorem emit_se (o : Output) : (emit s o).se = s.se := rfl
@[simp] theorem emit_ol (o : Output) : (emit s o).ol = s.ol := rfl
@[simp] theorem emit_ce (o : Output) : (emit s o).ce = s.ce := rfl

/-! ### `setRing` -/

@[simp] theorem setRing_pending (n : Nat) (r : Ring) : (setRing s n r).pending = s.pending := rfl
@[simp] theorem setRing_free (n : Nat) (r : Ring) : (setRing s n r).free = s.free := rfl
@[simp] theorem setRing_nextId (n : Nat) (r : Ring) : (setRing s n r).nextId = s.nextId := rfl
@[simp] theorem setRing_now (n : Nat) (r : Ring) : (setRing s n r).now = s.now := rfl
@[simp] theorem setRing_out (n : Nat) (r : Ring) : (setRing s n r).out = s.out := rfl
@[simp] theorem setRing_regs (n : Nat) (r : Ring) : (setRing s n r).regs = s.regs := rfl
@[simp] theorem setRing_counts (n : Nat) (r : Ring) : (setRing s n r).counts = s.counts := rfl
@[simp] theorem setRing_hp_jobs (n : Nat) (r : Ring) : (setRing s n r).hp.jobs = s.hp.jobs := rfl
@[simp] theorem setRing_hp_pegs (n : Nat) (r : Ring) : (setRing s n r).hp.pegs = s.hp.pegs := rfl
@[simp] theorem setRing_hp_latches (n : Nat) (r : Ring) : (setRing s n r).hp.latches = s.hp.latches := rfl
@[simp] theorem setRing_hp_msix (n : Nat) (r : Ring) : (setRing s n r).hp.msix = s.hp.msix := rfl
@[simp] theorem setRing_hp_owed (n : Nat) (r : Ring) : (setRing s n r).hp.owed = s.hp.owed := rfl
@[simp] theorem setRing_hp_numVfs (n : Nat) (r : Ring) : (setRing s n r).hp.numVfs = s.hp.numVfs := rfl
@[simp] theorem setRing_hp_vfOn (n : Nat) (r : Ring) : (setRing s n r).hp.vfOn = s.hp.vfOn := rfl
@[simp] theorem setRing_hp_own (n : Nat) (r : Ring) : (setRing s n r).hp.own = s.hp.own := rfl
@[simp] theorem setRing_hp_bme (n : Nat) (r : Ring) : (setRing s n r).hp.bme = s.hp.bme := rfl
@[simp] theorem setRing_hp_stall (n : Nat) (r : Ring) : (setRing s n r).hp.stall = s.hp.stall := rfl
@[simp] theorem setRing_hp_linkUp (n : Nat) (r : Ring) : (setRing s n r).hp.linkUp = s.hp.linkUp := rfl
@[simp] theorem setRing_hp_downAt (n : Nat) (r : Ring) : (setRing s n r).hp.downAt = s.hp.downAt := rfl
@[simp] theorem setRing_hp_newDies (n : Nat) (r : Ring) : (setRing s n r).hp.newDies = s.hp.newDies := rfl
@[simp] theorem setRing_hp_lastRing (n : Nat) (r : Ring) : (setRing s n r).hp.lastRing = s.hp.lastRing := rfl
@[simp] theorem setRing_hp_begun (n : Nat) (r : Ring) : (setRing s n r).hp.begun = s.hp.begun := rfl
@[simp] theorem setRing_hp_bar4 (n : Nat) (r : Ring) : (setRing s n r).hp.bar4 = s.hp.bar4 := rfl
@[simp] theorem setRing_boot (n : Nat) (r : Ring) : (setRing s n r).boot = s.boot := rfl
@[simp] theorem setRing_ob (n : Nat) (r : Ring) : (setRing s n r).ob = s.ob := rfl
@[simp] theorem setRing_pw (n : Nat) (r : Ring) : (setRing s n r).pw = s.pw := rfl
@[simp] theorem setRing_tm (n : Nat) (r : Ring) : (setRing s n r).tm = s.tm := rfl
@[simp] theorem setRing_mx (n : Nat) (r : Ring) : (setRing s n r).mx = s.mx := rfl
@[simp] theorem setRing_fn (n : Nat) (r : Ring) : (setRing s n r).fn = s.fn := rfl
@[simp] theorem setRing_fnBad (n : Nat) (r : Ring) : (setRing s n r).fnBad = s.fnBad := rfl
@[simp] theorem setRing_tp (n : Nat) (r : Ring) : (setRing s n r).tp = s.tp := rfl
@[simp] theorem setRing_se (n : Nat) (r : Ring) : (setRing s n r).se = s.se := rfl
@[simp] theorem setRing_ol (n : Nat) (r : Ring) : (setRing s n r).ol = s.ol := rfl
@[simp] theorem setRing_ce (n : Nat) (r : Ring) : (setRing s n r).ce = s.ce := rfl

/-! ### `modJob` -/

@[simp] theorem modJob_pending (n : Nat) (f : Job → Job) : (modJob s n f).pending = s.pending := rfl
@[simp] theorem modJob_free (n : Nat) (f : Job → Job) : (modJob s n f).free = s.free := rfl
@[simp] theorem modJob_nextId (n : Nat) (f : Job → Job) : (modJob s n f).nextId = s.nextId := rfl
@[simp] theorem modJob_now (n : Nat) (f : Job → Job) : (modJob s n f).now = s.now := rfl
@[simp] theorem modJob_out (n : Nat) (f : Job → Job) : (modJob s n f).out = s.out := rfl
@[simp] theorem modJob_regs (n : Nat) (f : Job → Job) : (modJob s n f).regs = s.regs := rfl
@[simp] theorem modJob_counts (n : Nat) (f : Job → Job) : (modJob s n f).counts = s.counts := rfl
@[simp] theorem modJob_hp_rings (n : Nat) (f : Job → Job) : (modJob s n f).hp.rings = s.hp.rings := rfl
@[simp] theorem modJob_hp_pegs (n : Nat) (f : Job → Job) : (modJob s n f).hp.pegs = s.hp.pegs := rfl
@[simp] theorem modJob_hp_latches (n : Nat) (f : Job → Job) : (modJob s n f).hp.latches = s.hp.latches := rfl
@[simp] theorem modJob_hp_msix (n : Nat) (f : Job → Job) : (modJob s n f).hp.msix = s.hp.msix := rfl
@[simp] theorem modJob_hp_owed (n : Nat) (f : Job → Job) : (modJob s n f).hp.owed = s.hp.owed := rfl
@[simp] theorem modJob_hp_numVfs (n : Nat) (f : Job → Job) : (modJob s n f).hp.numVfs = s.hp.numVfs := rfl
@[simp] theorem modJob_hp_vfOn (n : Nat) (f : Job → Job) : (modJob s n f).hp.vfOn = s.hp.vfOn := rfl
@[simp] theorem modJob_hp_own (n : Nat) (f : Job → Job) : (modJob s n f).hp.own = s.hp.own := rfl
@[simp] theorem modJob_hp_bme (n : Nat) (f : Job → Job) : (modJob s n f).hp.bme = s.hp.bme := rfl
@[simp] theorem modJob_hp_stall (n : Nat) (f : Job → Job) : (modJob s n f).hp.stall = s.hp.stall := rfl
@[simp] theorem modJob_hp_linkUp (n : Nat) (f : Job → Job) : (modJob s n f).hp.linkUp = s.hp.linkUp := rfl
@[simp] theorem modJob_hp_downAt (n : Nat) (f : Job → Job) : (modJob s n f).hp.downAt = s.hp.downAt := rfl
@[simp] theorem modJob_hp_newDies (n : Nat) (f : Job → Job) : (modJob s n f).hp.newDies = s.hp.newDies := rfl
@[simp] theorem modJob_hp_lastRing (n : Nat) (f : Job → Job) : (modJob s n f).hp.lastRing = s.hp.lastRing := rfl
@[simp] theorem modJob_hp_begun (n : Nat) (f : Job → Job) : (modJob s n f).hp.begun = s.hp.begun := rfl
@[simp] theorem modJob_hp_bar4 (n : Nat) (f : Job → Job) : (modJob s n f).hp.bar4 = s.hp.bar4 := rfl
@[simp] theorem modJob_boot (n : Nat) (f : Job → Job) : (modJob s n f).boot = s.boot := rfl
@[simp] theorem modJob_ob (n : Nat) (f : Job → Job) : (modJob s n f).ob = s.ob := rfl
@[simp] theorem modJob_pw (n : Nat) (f : Job → Job) : (modJob s n f).pw = s.pw := rfl
@[simp] theorem modJob_tm (n : Nat) (f : Job → Job) : (modJob s n f).tm = s.tm := rfl
@[simp] theorem modJob_mx (n : Nat) (f : Job → Job) : (modJob s n f).mx = s.mx := rfl
@[simp] theorem modJob_fn (n : Nat) (f : Job → Job) : (modJob s n f).fn = s.fn := rfl
@[simp] theorem modJob_fnBad (n : Nat) (f : Job → Job) : (modJob s n f).fnBad = s.fnBad := rfl
@[simp] theorem modJob_tp (n : Nat) (f : Job → Job) : (modJob s n f).tp = s.tp := rfl
@[simp] theorem modJob_se (n : Nat) (f : Job → Job) : (modJob s n f).se = s.se := rfl
@[simp] theorem modJob_ol (n : Nat) (f : Job → Job) : (modJob s n f).ol = s.ol := rfl
@[simp] theorem modJob_ce (n : Nat) (f : Job → Job) : (modJob s n f).ce = s.ce := rfl

/-! ### `setPeg` -/

@[simp] theorem setPeg_pending (p i : Nat) (v : DWord) : (setPeg s p i v).pending = s.pending := rfl
@[simp] theorem setPeg_free (p i : Nat) (v : DWord) : (setPeg s p i v).free = s.free := rfl
@[simp] theorem setPeg_nextId (p i : Nat) (v : DWord) : (setPeg s p i v).nextId = s.nextId := rfl
@[simp] theorem setPeg_now (p i : Nat) (v : DWord) : (setPeg s p i v).now = s.now := rfl
@[simp] theorem setPeg_out (p i : Nat) (v : DWord) : (setPeg s p i v).out = s.out := rfl
@[simp] theorem setPeg_regs (p i : Nat) (v : DWord) : (setPeg s p i v).regs = s.regs := rfl
@[simp] theorem setPeg_counts (p i : Nat) (v : DWord) : (setPeg s p i v).counts = s.counts := rfl
@[simp] theorem setPeg_hp_rings (p i : Nat) (v : DWord) : (setPeg s p i v).hp.rings = s.hp.rings := rfl
@[simp] theorem setPeg_hp_jobs (p i : Nat) (v : DWord) : (setPeg s p i v).hp.jobs = s.hp.jobs := rfl
@[simp] theorem setPeg_hp_latches (p i : Nat) (v : DWord) : (setPeg s p i v).hp.latches = s.hp.latches := rfl
@[simp] theorem setPeg_hp_msix (p i : Nat) (v : DWord) : (setPeg s p i v).hp.msix = s.hp.msix := rfl
@[simp] theorem setPeg_hp_owed (p i : Nat) (v : DWord) : (setPeg s p i v).hp.owed = s.hp.owed := rfl
@[simp] theorem setPeg_hp_numVfs (p i : Nat) (v : DWord) : (setPeg s p i v).hp.numVfs = s.hp.numVfs := rfl
@[simp] theorem setPeg_hp_vfOn (p i : Nat) (v : DWord) : (setPeg s p i v).hp.vfOn = s.hp.vfOn := rfl
@[simp] theorem setPeg_hp_own (p i : Nat) (v : DWord) : (setPeg s p i v).hp.own = s.hp.own := rfl
@[simp] theorem setPeg_hp_bme (p i : Nat) (v : DWord) : (setPeg s p i v).hp.bme = s.hp.bme := rfl
@[simp] theorem setPeg_hp_stall (p i : Nat) (v : DWord) : (setPeg s p i v).hp.stall = s.hp.stall := rfl
@[simp] theorem setPeg_hp_linkUp (p i : Nat) (v : DWord) : (setPeg s p i v).hp.linkUp = s.hp.linkUp := rfl
@[simp] theorem setPeg_hp_downAt (p i : Nat) (v : DWord) : (setPeg s p i v).hp.downAt = s.hp.downAt := rfl
@[simp] theorem setPeg_hp_newDies (p i : Nat) (v : DWord) : (setPeg s p i v).hp.newDies = s.hp.newDies := rfl
@[simp] theorem setPeg_hp_lastRing (p i : Nat) (v : DWord) : (setPeg s p i v).hp.lastRing = s.hp.lastRing := rfl
@[simp] theorem setPeg_hp_begun (p i : Nat) (v : DWord) : (setPeg s p i v).hp.begun = s.hp.begun := rfl
@[simp] theorem setPeg_hp_bar4 (p i : Nat) (v : DWord) : (setPeg s p i v).hp.bar4 = s.hp.bar4 := rfl
@[simp] theorem setPeg_boot (p i : Nat) (v : DWord) : (setPeg s p i v).boot = s.boot := rfl
@[simp] theorem setPeg_ob (p i : Nat) (v : DWord) : (setPeg s p i v).ob = s.ob := rfl
@[simp] theorem setPeg_pw (p i : Nat) (v : DWord) : (setPeg s p i v).pw = s.pw := rfl
@[simp] theorem setPeg_tm (p i : Nat) (v : DWord) : (setPeg s p i v).tm = s.tm := rfl
@[simp] theorem setPeg_mx (p i : Nat) (v : DWord) : (setPeg s p i v).mx = s.mx := rfl
@[simp] theorem setPeg_fn (p i : Nat) (v : DWord) : (setPeg s p i v).fn = s.fn := rfl
@[simp] theorem setPeg_fnBad (p i : Nat) (v : DWord) : (setPeg s p i v).fnBad = s.fnBad := rfl
@[simp] theorem setPeg_tp (p i : Nat) (v : DWord) : (setPeg s p i v).tp = s.tp := rfl
@[simp] theorem setPeg_se (p i : Nat) (v : DWord) : (setPeg s p i v).se = s.se := rfl
@[simp] theorem setPeg_ol (p i : Nat) (v : DWord) : (setPeg s p i v).ol = s.ol := rfl
@[simp] theorem setPeg_ce (p i : Nat) (v : DWord) : (setPeg s p i v).ce = s.ce := rfl

/-! ### `setMsix` -/

@[simp] theorem setMsix_pending (g : Nat) (m : Msix) : (setMsix s g m).pending = s.pending := rfl
@[simp] theorem setMsix_free (g : Nat) (m : Msix) : (setMsix s g m).free = s.free := rfl
@[simp] theorem setMsix_nextId (g : Nat) (m : Msix) : (setMsix s g m).nextId = s.nextId := rfl
@[simp] theorem setMsix_now (g : Nat) (m : Msix) : (setMsix s g m).now = s.now := rfl
@[simp] theorem setMsix_out (g : Nat) (m : Msix) : (setMsix s g m).out = s.out := rfl
@[simp] theorem setMsix_regs (g : Nat) (m : Msix) : (setMsix s g m).regs = s.regs := rfl
@[simp] theorem setMsix_counts (g : Nat) (m : Msix) : (setMsix s g m).counts = s.counts := rfl
@[simp] theorem setMsix_hp_rings (g : Nat) (m : Msix) : (setMsix s g m).hp.rings = s.hp.rings := rfl
@[simp] theorem setMsix_hp_jobs (g : Nat) (m : Msix) : (setMsix s g m).hp.jobs = s.hp.jobs := rfl
@[simp] theorem setMsix_hp_pegs (g : Nat) (m : Msix) : (setMsix s g m).hp.pegs = s.hp.pegs := rfl
@[simp] theorem setMsix_hp_latches (g : Nat) (m : Msix) : (setMsix s g m).hp.latches = s.hp.latches := rfl
@[simp] theorem setMsix_hp_owed (g : Nat) (m : Msix) : (setMsix s g m).hp.owed = s.hp.owed := rfl
@[simp] theorem setMsix_hp_numVfs (g : Nat) (m : Msix) : (setMsix s g m).hp.numVfs = s.hp.numVfs := rfl
@[simp] theorem setMsix_hp_vfOn (g : Nat) (m : Msix) : (setMsix s g m).hp.vfOn = s.hp.vfOn := rfl
@[simp] theorem setMsix_hp_own (g : Nat) (m : Msix) : (setMsix s g m).hp.own = s.hp.own := rfl
@[simp] theorem setMsix_hp_bme (g : Nat) (m : Msix) : (setMsix s g m).hp.bme = s.hp.bme := rfl
@[simp] theorem setMsix_hp_stall (g : Nat) (m : Msix) : (setMsix s g m).hp.stall = s.hp.stall := rfl
@[simp] theorem setMsix_hp_linkUp (g : Nat) (m : Msix) : (setMsix s g m).hp.linkUp = s.hp.linkUp := rfl
@[simp] theorem setMsix_hp_downAt (g : Nat) (m : Msix) : (setMsix s g m).hp.downAt = s.hp.downAt := rfl
@[simp] theorem setMsix_hp_newDies (g : Nat) (m : Msix) : (setMsix s g m).hp.newDies = s.hp.newDies := rfl
@[simp] theorem setMsix_hp_lastRing (g : Nat) (m : Msix) : (setMsix s g m).hp.lastRing = s.hp.lastRing := rfl
@[simp] theorem setMsix_hp_begun (g : Nat) (m : Msix) : (setMsix s g m).hp.begun = s.hp.begun := rfl
@[simp] theorem setMsix_hp_bar4 (g : Nat) (m : Msix) : (setMsix s g m).hp.bar4 = s.hp.bar4 := rfl
@[simp] theorem setMsix_boot (g : Nat) (m : Msix) : (setMsix s g m).boot = s.boot := rfl
@[simp] theorem setMsix_ob (g : Nat) (m : Msix) : (setMsix s g m).ob = s.ob := rfl
@[simp] theorem setMsix_pw (g : Nat) (m : Msix) : (setMsix s g m).pw = s.pw := rfl
@[simp] theorem setMsix_tm (g : Nat) (m : Msix) : (setMsix s g m).tm = s.tm := rfl
@[simp] theorem setMsix_mx (g : Nat) (m : Msix) : (setMsix s g m).mx = s.mx := rfl
@[simp] theorem setMsix_fn (g : Nat) (m : Msix) : (setMsix s g m).fn = s.fn := rfl
@[simp] theorem setMsix_fnBad (g : Nat) (m : Msix) : (setMsix s g m).fnBad = s.fnBad := rfl
@[simp] theorem setMsix_tp (g : Nat) (m : Msix) : (setMsix s g m).tp = s.tp := rfl
@[simp] theorem setMsix_se (g : Nat) (m : Msix) : (setMsix s g m).se = s.se := rfl
@[simp] theorem setMsix_ol (g : Nat) (m : Msix) : (setMsix s g m).ol = s.ol := rfl
@[simp] theorem setMsix_ce (g : Nat) (m : Msix) : (setMsix s g m).ce = s.ce := rfl

/-! ### `setOwn` -/

@[simp] theorem setOwn_pending (p a : Nat) (g : Option Page) : (setOwn s p a g).pending = s.pending := rfl
@[simp] theorem setOwn_free (p a : Nat) (g : Option Page) : (setOwn s p a g).free = s.free := rfl
@[simp] theorem setOwn_nextId (p a : Nat) (g : Option Page) : (setOwn s p a g).nextId = s.nextId := rfl
@[simp] theorem setOwn_now (p a : Nat) (g : Option Page) : (setOwn s p a g).now = s.now := rfl
@[simp] theorem setOwn_out (p a : Nat) (g : Option Page) : (setOwn s p a g).out = s.out := rfl
@[simp] theorem setOwn_regs (p a : Nat) (g : Option Page) : (setOwn s p a g).regs = s.regs := rfl
@[simp] theorem setOwn_counts (p a : Nat) (g : Option Page) : (setOwn s p a g).counts = s.counts := rfl
@[simp] theorem setOwn_hp (p a : Nat) (g : Option Page) : (setOwn s p a g).hp = s.hp := rfl
@[simp] theorem setOwn_boot (p a : Nat) (g : Option Page) : (setOwn s p a g).boot = s.boot := rfl
@[simp] theorem setOwn_ob (p a : Nat) (g : Option Page) : (setOwn s p a g).ob = s.ob := rfl
@[simp] theorem setOwn_pw (p a : Nat) (g : Option Page) : (setOwn s p a g).pw = s.pw := rfl
@[simp] theorem setOwn_tm_mem (p a : Nat) (g : Option Page) : (setOwn s p a g).tm.mem = s.tm.mem := rfl
@[simp] theorem setOwn_tm_soil (p a : Nat) (g : Option Page) : (setOwn s p a g).tm.soil = s.tm.soil := rfl
@[simp] theorem setOwn_tm_nans (p a : Nat) (g : Option Page) : (setOwn s p a g).tm.nans = s.tm.nans := rfl
@[simp] theorem setOwn_tm_holds (p a : Nat) (g : Option Page) : (setOwn s p a g).tm.holds = s.tm.holds := rfl
@[simp] theorem setOwn_tm_objs (p a : Nat) (g : Option Page) : (setOwn s p a g).tm.objs = s.tm.objs := rfl
@[simp] theorem setOwn_tm_regions (p a : Nat) (g : Option Page) : (setOwn s p a g).tm.regions = s.tm.regions := rfl
@[simp] theorem setOwn_tm_waits (p a : Nat) (g : Option Page) : (setOwn s p a g).tm.waits = s.tm.waits := rfl
@[simp] theorem setOwn_tm_keys (p a : Nat) (g : Option Page) : (setOwn s p a g).tm.keys = s.tm.keys := rfl
@[simp] theorem setOwn_tm_pats (p a : Nat) (g : Option Page) : (setOwn s p a g).tm.pats = s.tm.pats := rfl
@[simp] theorem setOwn_tm_ckpts (p a : Nat) (g : Option Page) : (setOwn s p a g).tm.ckpts = s.tm.ckpts := rfl
@[simp] theorem setOwn_tm_shots (p a : Nat) (g : Option Page) : (setOwn s p a g).tm.shots = s.tm.shots := rfl
@[simp] theorem setOwn_tm_deep (p a : Nat) (g : Option Page) : (setOwn s p a g).tm.deep = s.tm.deep := rfl
@[simp] theorem setOwn_tm_deepNext (p a : Nat) (g : Option Page) : (setOwn s p a g).tm.deepNext = s.tm.deepNext := rfl
@[simp] theorem setOwn_tm_badNodes (p a : Nat) (g : Option Page) : (setOwn s p a g).tm.badNodes = s.tm.badNodes := rfl
@[simp] theorem setOwn_tm_cache (p a : Nat) (g : Option Page) : (setOwn s p a g).tm.cache = s.tm.cache := rfl
@[simp] theorem setOwn_tm_split (p a : Nat) (g : Option Page) : (setOwn s p a g).tm.split = s.tm.split := rfl
@[simp] theorem setOwn_tm_indexes (p a : Nat) (g : Option Page) : (setOwn s p a g).tm.indexes = s.tm.indexes := rfl
@[simp] theorem setOwn_tm_searches (p a : Nat) (g : Option Page) : (setOwn s p a g).tm.searches = s.tm.searches := rfl
@[simp] theorem setOwn_tm_leaves (p a : Nat) (g : Option Page) : (setOwn s p a g).tm.leaves = s.tm.leaves := rfl
@[simp] theorem setOwn_tm_asks (p a : Nat) (g : Option Page) : (setOwn s p a g).tm.asks = s.tm.asks := rfl
@[simp] theorem setOwn_tm_bound (p a : Nat) (g : Option Page) : (setOwn s p a g).tm.bound = s.tm.bound := rfl
@[simp] theorem setOwn_tm_wasReady (p a : Nat) (g : Option Page) : (setOwn s p a g).tm.wasReady = s.tm.wasReady := rfl
@[simp] theorem setOwn_tm_blocks (p a : Nat) (g : Option Page) : (setOwn s p a g).tm.blocks = s.tm.blocks := rfl
@[simp] theorem setOwn_tm_rows (p a : Nat) (g : Option Page) : (setOwn s p a g).tm.rows = s.tm.rows := rfl
@[simp] theorem setOwn_tm_remaps (p a : Nat) (g : Option Page) : (setOwn s p a g).tm.remaps = s.tm.remaps := rfl
@[simp] theorem setOwn_mx (p a : Nat) (g : Option Page) : (setOwn s p a g).mx = s.mx := rfl
@[simp] theorem setOwn_fn (p a : Nat) (g : Option Page) : (setOwn s p a g).fn = s.fn := rfl
@[simp] theorem setOwn_fnBad (p a : Nat) (g : Option Page) : (setOwn s p a g).fnBad = s.fnBad := rfl
@[simp] theorem setOwn_tp (p a : Nat) (g : Option Page) : (setOwn s p a g).tp = s.tp := rfl
@[simp] theorem setOwn_se (p a : Nat) (g : Option Page) : (setOwn s p a g).se = s.se := rfl
@[simp] theorem setOwn_ol (p a : Nat) (g : Option Page) : (setOwn s p a g).ol = s.ol := rfl
@[simp] theorem setOwn_ce (p a : Nat) (g : Option Page) : (setOwn s p a g).ce = s.ce := rfl

/-! ### `modStore` -/

@[simp] theorem modStore_pending (p n : Nat) (f : PatEntry → PatEntry) : (modStore s p n f).pending = s.pending := rfl
@[simp] theorem modStore_free (p n : Nat) (f : PatEntry → PatEntry) : (modStore s p n f).free = s.free := rfl
@[simp] theorem modStore_nextId (p n : Nat) (f : PatEntry → PatEntry) : (modStore s p n f).nextId = s.nextId := rfl
@[simp] theorem modStore_now (p n : Nat) (f : PatEntry → PatEntry) : (modStore s p n f).now = s.now := rfl
@[simp] theorem modStore_out (p n : Nat) (f : PatEntry → PatEntry) : (modStore s p n f).out = s.out := rfl
@[simp] theorem modStore_regs (p n : Nat) (f : PatEntry → PatEntry) : (modStore s p n f).regs = s.regs := rfl
@[simp] theorem modStore_counts (p n : Nat) (f : PatEntry → PatEntry) : (modStore s p n f).counts = s.counts := rfl
@[simp] theorem modStore_hp (p n : Nat) (f : PatEntry → PatEntry) : (modStore s p n f).hp = s.hp := rfl
@[simp] theorem modStore_boot (p n : Nat) (f : PatEntry → PatEntry) : (modStore s p n f).boot = s.boot := rfl
@[simp] theorem modStore_ob (p n : Nat) (f : PatEntry → PatEntry) : (modStore s p n f).ob = s.ob := rfl
@[simp] theorem modStore_pw (p n : Nat) (f : PatEntry → PatEntry) : (modStore s p n f).pw = s.pw := rfl
@[simp] theorem modStore_tm_mem (p n : Nat) (f : PatEntry → PatEntry) : (modStore s p n f).tm.mem = s.tm.mem := rfl
@[simp] theorem modStore_tm_soil (p n : Nat) (f : PatEntry → PatEntry) : (modStore s p n f).tm.soil = s.tm.soil := rfl
@[simp] theorem modStore_tm_nans (p n : Nat) (f : PatEntry → PatEntry) : (modStore s p n f).tm.nans = s.tm.nans := rfl
@[simp] theorem modStore_tm_pages (p n : Nat) (f : PatEntry → PatEntry) : (modStore s p n f).tm.pages = s.tm.pages := rfl
@[simp] theorem modStore_tm_holds (p n : Nat) (f : PatEntry → PatEntry) : (modStore s p n f).tm.holds = s.tm.holds := rfl
@[simp] theorem modStore_tm_objs (p n : Nat) (f : PatEntry → PatEntry) : (modStore s p n f).tm.objs = s.tm.objs := rfl
@[simp] theorem modStore_tm_regions (p n : Nat) (f : PatEntry → PatEntry) : (modStore s p n f).tm.regions = s.tm.regions := rfl
@[simp] theorem modStore_tm_waits (p n : Nat) (f : PatEntry → PatEntry) : (modStore s p n f).tm.waits = s.tm.waits := rfl
@[simp] theorem modStore_tm_keys (p n : Nat) (f : PatEntry → PatEntry) : (modStore s p n f).tm.keys = s.tm.keys := rfl
@[simp] theorem modStore_tm_ckpts (p n : Nat) (f : PatEntry → PatEntry) : (modStore s p n f).tm.ckpts = s.tm.ckpts := rfl
@[simp] theorem modStore_tm_shots (p n : Nat) (f : PatEntry → PatEntry) : (modStore s p n f).tm.shots = s.tm.shots := rfl
@[simp] theorem modStore_tm_deep (p n : Nat) (f : PatEntry → PatEntry) : (modStore s p n f).tm.deep = s.tm.deep := rfl
@[simp] theorem modStore_tm_deepNext (p n : Nat) (f : PatEntry → PatEntry) : (modStore s p n f).tm.deepNext = s.tm.deepNext := rfl
@[simp] theorem modStore_tm_badNodes (p n : Nat) (f : PatEntry → PatEntry) : (modStore s p n f).tm.badNodes = s.tm.badNodes := rfl
@[simp] theorem modStore_tm_cache (p n : Nat) (f : PatEntry → PatEntry) : (modStore s p n f).tm.cache = s.tm.cache := rfl
@[simp] theorem modStore_tm_split (p n : Nat) (f : PatEntry → PatEntry) : (modStore s p n f).tm.split = s.tm.split := rfl
@[simp] theorem modStore_tm_indexes (p n : Nat) (f : PatEntry → PatEntry) : (modStore s p n f).tm.indexes = s.tm.indexes := rfl
@[simp] theorem modStore_tm_searches (p n : Nat) (f : PatEntry → PatEntry) : (modStore s p n f).tm.searches = s.tm.searches := rfl
@[simp] theorem modStore_tm_leaves (p n : Nat) (f : PatEntry → PatEntry) : (modStore s p n f).tm.leaves = s.tm.leaves := rfl
@[simp] theorem modStore_tm_asks (p n : Nat) (f : PatEntry → PatEntry) : (modStore s p n f).tm.asks = s.tm.asks := rfl
@[simp] theorem modStore_tm_bound (p n : Nat) (f : PatEntry → PatEntry) : (modStore s p n f).tm.bound = s.tm.bound := rfl
@[simp] theorem modStore_tm_wasReady (p n : Nat) (f : PatEntry → PatEntry) : (modStore s p n f).tm.wasReady = s.tm.wasReady := rfl
@[simp] theorem modStore_tm_blocks (p n : Nat) (f : PatEntry → PatEntry) : (modStore s p n f).tm.blocks = s.tm.blocks := rfl
@[simp] theorem modStore_tm_rows (p n : Nat) (f : PatEntry → PatEntry) : (modStore s p n f).tm.rows = s.tm.rows := rfl
@[simp] theorem modStore_tm_remaps (p n : Nat) (f : PatEntry → PatEntry) : (modStore s p n f).tm.remaps = s.tm.remaps := rfl
@[simp] theorem modStore_mx (p n : Nat) (f : PatEntry → PatEntry) : (modStore s p n f).mx = s.mx := rfl
@[simp] theorem modStore_fn (p n : Nat) (f : PatEntry → PatEntry) : (modStore s p n f).fn = s.fn := rfl
@[simp] theorem modStore_fnBad (p n : Nat) (f : PatEntry → PatEntry) : (modStore s p n f).fnBad = s.fnBad := rfl
@[simp] theorem modStore_tp (p n : Nat) (f : PatEntry → PatEntry) : (modStore s p n f).tp = s.tp := rfl
@[simp] theorem modStore_se (p n : Nat) (f : PatEntry → PatEntry) : (modStore s p n f).se = s.se := rfl
@[simp] theorem modStore_ol (p n : Nat) (f : PatEntry → PatEntry) : (modStore s p n f).ol = s.ol := rfl
@[simp] theorem modStore_ce (p n : Nat) (f : PatEntry → PatEntry) : (modStore s p n f).ce = s.ce := rfl

/-! ### `setHolds` -/

@[simp] theorem setHolds_pending (p a n : Nat) : (setHolds s p a n).pending = s.pending := rfl
@[simp] theorem setHolds_free (p a n : Nat) : (setHolds s p a n).free = s.free := rfl
@[simp] theorem setHolds_nextId (p a n : Nat) : (setHolds s p a n).nextId = s.nextId := rfl
@[simp] theorem setHolds_now (p a n : Nat) : (setHolds s p a n).now = s.now := rfl
@[simp] theorem setHolds_out (p a n : Nat) : (setHolds s p a n).out = s.out := rfl
@[simp] theorem setHolds_regs (p a n : Nat) : (setHolds s p a n).regs = s.regs := rfl
@[simp] theorem setHolds_counts (p a n : Nat) : (setHolds s p a n).counts = s.counts := rfl
@[simp] theorem setHolds_hp (p a n : Nat) : (setHolds s p a n).hp = s.hp := rfl
@[simp] theorem setHolds_boot (p a n : Nat) : (setHolds s p a n).boot = s.boot := rfl
@[simp] theorem setHolds_ob (p a n : Nat) : (setHolds s p a n).ob = s.ob := rfl
@[simp] theorem setHolds_pw (p a n : Nat) : (setHolds s p a n).pw = s.pw := rfl
@[simp] theorem setHolds_tm_mem (p a n : Nat) : (setHolds s p a n).tm.mem = s.tm.mem := rfl
@[simp] theorem setHolds_tm_soil (p a n : Nat) : (setHolds s p a n).tm.soil = s.tm.soil := rfl
@[simp] theorem setHolds_tm_nans (p a n : Nat) : (setHolds s p a n).tm.nans = s.tm.nans := rfl
@[simp] theorem setHolds_tm_pages (p a n : Nat) : (setHolds s p a n).tm.pages = s.tm.pages := rfl
@[simp] theorem setHolds_tm_objs (p a n : Nat) : (setHolds s p a n).tm.objs = s.tm.objs := rfl
@[simp] theorem setHolds_tm_regions (p a n : Nat) : (setHolds s p a n).tm.regions = s.tm.regions := rfl
@[simp] theorem setHolds_tm_waits (p a n : Nat) : (setHolds s p a n).tm.waits = s.tm.waits := rfl
@[simp] theorem setHolds_tm_keys (p a n : Nat) : (setHolds s p a n).tm.keys = s.tm.keys := rfl
@[simp] theorem setHolds_tm_pats (p a n : Nat) : (setHolds s p a n).tm.pats = s.tm.pats := rfl
@[simp] theorem setHolds_tm_ckpts (p a n : Nat) : (setHolds s p a n).tm.ckpts = s.tm.ckpts := rfl
@[simp] theorem setHolds_tm_shots (p a n : Nat) : (setHolds s p a n).tm.shots = s.tm.shots := rfl
@[simp] theorem setHolds_tm_deep (p a n : Nat) : (setHolds s p a n).tm.deep = s.tm.deep := rfl
@[simp] theorem setHolds_tm_deepNext (p a n : Nat) : (setHolds s p a n).tm.deepNext = s.tm.deepNext := rfl
@[simp] theorem setHolds_tm_badNodes (p a n : Nat) : (setHolds s p a n).tm.badNodes = s.tm.badNodes := rfl
@[simp] theorem setHolds_tm_cache (p a n : Nat) : (setHolds s p a n).tm.cache = s.tm.cache := rfl
@[simp] theorem setHolds_tm_split (p a n : Nat) : (setHolds s p a n).tm.split = s.tm.split := rfl
@[simp] theorem setHolds_tm_indexes (p a n : Nat) : (setHolds s p a n).tm.indexes = s.tm.indexes := rfl
@[simp] theorem setHolds_tm_searches (p a n : Nat) : (setHolds s p a n).tm.searches = s.tm.searches := rfl
@[simp] theorem setHolds_tm_leaves (p a n : Nat) : (setHolds s p a n).tm.leaves = s.tm.leaves := rfl
@[simp] theorem setHolds_tm_asks (p a n : Nat) : (setHolds s p a n).tm.asks = s.tm.asks := rfl
@[simp] theorem setHolds_tm_bound (p a n : Nat) : (setHolds s p a n).tm.bound = s.tm.bound := rfl
@[simp] theorem setHolds_tm_wasReady (p a n : Nat) : (setHolds s p a n).tm.wasReady = s.tm.wasReady := rfl
@[simp] theorem setHolds_tm_blocks (p a n : Nat) : (setHolds s p a n).tm.blocks = s.tm.blocks := rfl
@[simp] theorem setHolds_tm_rows (p a n : Nat) : (setHolds s p a n).tm.rows = s.tm.rows := rfl
@[simp] theorem setHolds_tm_remaps (p a n : Nat) : (setHolds s p a n).tm.remaps = s.tm.remaps := rfl
@[simp] theorem setHolds_mx (p a n : Nat) : (setHolds s p a n).mx = s.mx := rfl
@[simp] theorem setHolds_fn (p a n : Nat) : (setHolds s p a n).fn = s.fn := rfl
@[simp] theorem setHolds_fnBad (p a n : Nat) : (setHolds s p a n).fnBad = s.fnBad := rfl
@[simp] theorem setHolds_tp (p a n : Nat) : (setHolds s p a n).tp = s.tp := rfl
@[simp] theorem setHolds_se (p a n : Nat) : (setHolds s p a n).se = s.se := rfl
@[simp] theorem setHolds_ol (p a n : Nat) : (setHolds s p a n).ol = s.ol := rfl
@[simp] theorem setHolds_ce (p a n : Nat) : (setHolds s p a n).ce = s.ce := rfl

/-! ### `modObj` -/

@[simp] theorem modObj_pending (p n : Nat) (f : Obj → Obj) : (modObj s p n f).pending = s.pending := rfl
@[simp] theorem modObj_free (p n : Nat) (f : Obj → Obj) : (modObj s p n f).free = s.free := rfl
@[simp] theorem modObj_nextId (p n : Nat) (f : Obj → Obj) : (modObj s p n f).nextId = s.nextId := rfl
@[simp] theorem modObj_now (p n : Nat) (f : Obj → Obj) : (modObj s p n f).now = s.now := rfl
@[simp] theorem modObj_out (p n : Nat) (f : Obj → Obj) : (modObj s p n f).out = s.out := rfl
@[simp] theorem modObj_regs (p n : Nat) (f : Obj → Obj) : (modObj s p n f).regs = s.regs := rfl
@[simp] theorem modObj_counts (p n : Nat) (f : Obj → Obj) : (modObj s p n f).counts = s.counts := rfl
@[simp] theorem modObj_hp (p n : Nat) (f : Obj → Obj) : (modObj s p n f).hp = s.hp := rfl
@[simp] theorem modObj_boot (p n : Nat) (f : Obj → Obj) : (modObj s p n f).boot = s.boot := rfl
@[simp] theorem modObj_ob (p n : Nat) (f : Obj → Obj) : (modObj s p n f).ob = s.ob := rfl
@[simp] theorem modObj_pw (p n : Nat) (f : Obj → Obj) : (modObj s p n f).pw = s.pw := rfl
@[simp] theorem modObj_tm_mem (p n : Nat) (f : Obj → Obj) : (modObj s p n f).tm.mem = s.tm.mem := rfl
@[simp] theorem modObj_tm_soil (p n : Nat) (f : Obj → Obj) : (modObj s p n f).tm.soil = s.tm.soil := rfl
@[simp] theorem modObj_tm_nans (p n : Nat) (f : Obj → Obj) : (modObj s p n f).tm.nans = s.tm.nans := rfl
@[simp] theorem modObj_tm_pages (p n : Nat) (f : Obj → Obj) : (modObj s p n f).tm.pages = s.tm.pages := rfl
@[simp] theorem modObj_tm_holds (p n : Nat) (f : Obj → Obj) : (modObj s p n f).tm.holds = s.tm.holds := rfl
@[simp] theorem modObj_tm_regions (p n : Nat) (f : Obj → Obj) : (modObj s p n f).tm.regions = s.tm.regions := rfl
@[simp] theorem modObj_tm_waits (p n : Nat) (f : Obj → Obj) : (modObj s p n f).tm.waits = s.tm.waits := rfl
@[simp] theorem modObj_tm_keys (p n : Nat) (f : Obj → Obj) : (modObj s p n f).tm.keys = s.tm.keys := rfl
@[simp] theorem modObj_tm_pats (p n : Nat) (f : Obj → Obj) : (modObj s p n f).tm.pats = s.tm.pats := rfl
@[simp] theorem modObj_tm_ckpts (p n : Nat) (f : Obj → Obj) : (modObj s p n f).tm.ckpts = s.tm.ckpts := rfl
@[simp] theorem modObj_tm_shots (p n : Nat) (f : Obj → Obj) : (modObj s p n f).tm.shots = s.tm.shots := rfl
@[simp] theorem modObj_tm_deep (p n : Nat) (f : Obj → Obj) : (modObj s p n f).tm.deep = s.tm.deep := rfl
@[simp] theorem modObj_tm_deepNext (p n : Nat) (f : Obj → Obj) : (modObj s p n f).tm.deepNext = s.tm.deepNext := rfl
@[simp] theorem modObj_tm_badNodes (p n : Nat) (f : Obj → Obj) : (modObj s p n f).tm.badNodes = s.tm.badNodes := rfl
@[simp] theorem modObj_tm_cache (p n : Nat) (f : Obj → Obj) : (modObj s p n f).tm.cache = s.tm.cache := rfl
@[simp] theorem modObj_tm_split (p n : Nat) (f : Obj → Obj) : (modObj s p n f).tm.split = s.tm.split := rfl
@[simp] theorem modObj_tm_indexes (p n : Nat) (f : Obj → Obj) : (modObj s p n f).tm.indexes = s.tm.indexes := rfl
@[simp] theorem modObj_tm_searches (p n : Nat) (f : Obj → Obj) : (modObj s p n f).tm.searches = s.tm.searches := rfl
@[simp] theorem modObj_tm_leaves (p n : Nat) (f : Obj → Obj) : (modObj s p n f).tm.leaves = s.tm.leaves := rfl
@[simp] theorem modObj_tm_asks (p n : Nat) (f : Obj → Obj) : (modObj s p n f).tm.asks = s.tm.asks := rfl
@[simp] theorem modObj_tm_bound (p n : Nat) (f : Obj → Obj) : (modObj s p n f).tm.bound = s.tm.bound := rfl
@[simp] theorem modObj_tm_wasReady (p n : Nat) (f : Obj → Obj) : (modObj s p n f).tm.wasReady = s.tm.wasReady := rfl
@[simp] theorem modObj_tm_blocks (p n : Nat) (f : Obj → Obj) : (modObj s p n f).tm.blocks = s.tm.blocks := rfl
@[simp] theorem modObj_tm_rows (p n : Nat) (f : Obj → Obj) : (modObj s p n f).tm.rows = s.tm.rows := rfl
@[simp] theorem modObj_tm_remaps (p n : Nat) (f : Obj → Obj) : (modObj s p n f).tm.remaps = s.tm.remaps := rfl
@[simp] theorem modObj_mx (p n : Nat) (f : Obj → Obj) : (modObj s p n f).mx = s.mx := rfl
@[simp] theorem modObj_fn (p n : Nat) (f : Obj → Obj) : (modObj s p n f).fn = s.fn := rfl
@[simp] theorem modObj_fnBad (p n : Nat) (f : Obj → Obj) : (modObj s p n f).fnBad = s.fnBad := rfl
@[simp] theorem modObj_tp (p n : Nat) (f : Obj → Obj) : (modObj s p n f).tp = s.tp := rfl
@[simp] theorem modObj_se (p n : Nat) (f : Obj → Obj) : (modObj s p n f).se = s.se := rfl
@[simp] theorem modObj_ol (p n : Nat) (f : Obj → Obj) : (modObj s p n f).ol = s.ol := rfl
@[simp] theorem modObj_ce (p n : Nat) (f : Obj → Obj) : (modObj s p n f).ce = s.ce := rfl

/-! ### `modRegion` -/

@[simp] theorem modRegion_pending (p n : Nat) (f : Region → Region) : (modRegion s p n f).pending = s.pending := rfl
@[simp] theorem modRegion_free (p n : Nat) (f : Region → Region) : (modRegion s p n f).free = s.free := rfl
@[simp] theorem modRegion_nextId (p n : Nat) (f : Region → Region) : (modRegion s p n f).nextId = s.nextId := rfl
@[simp] theorem modRegion_now (p n : Nat) (f : Region → Region) : (modRegion s p n f).now = s.now := rfl
@[simp] theorem modRegion_out (p n : Nat) (f : Region → Region) : (modRegion s p n f).out = s.out := rfl
@[simp] theorem modRegion_regs (p n : Nat) (f : Region → Region) : (modRegion s p n f).regs = s.regs := rfl
@[simp] theorem modRegion_counts (p n : Nat) (f : Region → Region) : (modRegion s p n f).counts = s.counts := rfl
@[simp] theorem modRegion_hp (p n : Nat) (f : Region → Region) : (modRegion s p n f).hp = s.hp := rfl
@[simp] theorem modRegion_boot (p n : Nat) (f : Region → Region) : (modRegion s p n f).boot = s.boot := rfl
@[simp] theorem modRegion_ob (p n : Nat) (f : Region → Region) : (modRegion s p n f).ob = s.ob := rfl
@[simp] theorem modRegion_pw (p n : Nat) (f : Region → Region) : (modRegion s p n f).pw = s.pw := rfl
@[simp] theorem modRegion_tm_mem (p n : Nat) (f : Region → Region) : (modRegion s p n f).tm.mem = s.tm.mem := rfl
@[simp] theorem modRegion_tm_soil (p n : Nat) (f : Region → Region) : (modRegion s p n f).tm.soil = s.tm.soil := rfl
@[simp] theorem modRegion_tm_nans (p n : Nat) (f : Region → Region) : (modRegion s p n f).tm.nans = s.tm.nans := rfl
@[simp] theorem modRegion_tm_pages (p n : Nat) (f : Region → Region) : (modRegion s p n f).tm.pages = s.tm.pages := rfl
@[simp] theorem modRegion_tm_holds (p n : Nat) (f : Region → Region) : (modRegion s p n f).tm.holds = s.tm.holds := rfl
@[simp] theorem modRegion_tm_objs (p n : Nat) (f : Region → Region) : (modRegion s p n f).tm.objs = s.tm.objs := rfl
@[simp] theorem modRegion_tm_waits (p n : Nat) (f : Region → Region) : (modRegion s p n f).tm.waits = s.tm.waits := rfl
@[simp] theorem modRegion_tm_keys (p n : Nat) (f : Region → Region) : (modRegion s p n f).tm.keys = s.tm.keys := rfl
@[simp] theorem modRegion_tm_pats (p n : Nat) (f : Region → Region) : (modRegion s p n f).tm.pats = s.tm.pats := rfl
@[simp] theorem modRegion_tm_ckpts (p n : Nat) (f : Region → Region) : (modRegion s p n f).tm.ckpts = s.tm.ckpts := rfl
@[simp] theorem modRegion_tm_shots (p n : Nat) (f : Region → Region) : (modRegion s p n f).tm.shots = s.tm.shots := rfl
@[simp] theorem modRegion_tm_deep (p n : Nat) (f : Region → Region) : (modRegion s p n f).tm.deep = s.tm.deep := rfl
@[simp] theorem modRegion_tm_deepNext (p n : Nat) (f : Region → Region) : (modRegion s p n f).tm.deepNext = s.tm.deepNext := rfl
@[simp] theorem modRegion_tm_badNodes (p n : Nat) (f : Region → Region) : (modRegion s p n f).tm.badNodes = s.tm.badNodes := rfl
@[simp] theorem modRegion_tm_cache (p n : Nat) (f : Region → Region) : (modRegion s p n f).tm.cache = s.tm.cache := rfl
@[simp] theorem modRegion_tm_split (p n : Nat) (f : Region → Region) : (modRegion s p n f).tm.split = s.tm.split := rfl
@[simp] theorem modRegion_tm_indexes (p n : Nat) (f : Region → Region) : (modRegion s p n f).tm.indexes = s.tm.indexes := rfl
@[simp] theorem modRegion_tm_searches (p n : Nat) (f : Region → Region) : (modRegion s p n f).tm.searches = s.tm.searches := rfl
@[simp] theorem modRegion_tm_leaves (p n : Nat) (f : Region → Region) : (modRegion s p n f).tm.leaves = s.tm.leaves := rfl
@[simp] theorem modRegion_tm_asks (p n : Nat) (f : Region → Region) : (modRegion s p n f).tm.asks = s.tm.asks := rfl
@[simp] theorem modRegion_tm_bound (p n : Nat) (f : Region → Region) : (modRegion s p n f).tm.bound = s.tm.bound := rfl
@[simp] theorem modRegion_tm_wasReady (p n : Nat) (f : Region → Region) : (modRegion s p n f).tm.wasReady = s.tm.wasReady := rfl
@[simp] theorem modRegion_tm_blocks (p n : Nat) (f : Region → Region) : (modRegion s p n f).tm.blocks = s.tm.blocks := rfl
@[simp] theorem modRegion_tm_rows (p n : Nat) (f : Region → Region) : (modRegion s p n f).tm.rows = s.tm.rows := rfl
@[simp] theorem modRegion_tm_remaps (p n : Nat) (f : Region → Region) : (modRegion s p n f).tm.remaps = s.tm.remaps := rfl
@[simp] theorem modRegion_mx (p n : Nat) (f : Region → Region) : (modRegion s p n f).mx = s.mx := rfl
@[simp] theorem modRegion_fn (p n : Nat) (f : Region → Region) : (modRegion s p n f).fn = s.fn := rfl
@[simp] theorem modRegion_fnBad (p n : Nat) (f : Region → Region) : (modRegion s p n f).fnBad = s.fnBad := rfl
@[simp] theorem modRegion_tp (p n : Nat) (f : Region → Region) : (modRegion s p n f).tp = s.tp := rfl
@[simp] theorem modRegion_se (p n : Nat) (f : Region → Region) : (modRegion s p n f).se = s.se := rfl
@[simp] theorem modRegion_ol (p n : Nat) (f : Region → Region) : (modRegion s p n f).ol = s.ol := rfl
@[simp] theorem modRegion_ce (p n : Nat) (f : Region → Region) : (modRegion s p n f).ce = s.ce := rfl

/-! ### `modIndex` -/

@[simp] theorem modIndex_pending (p n : Nat) (f : Index → Index) : (modIndex s p n f).pending = s.pending := rfl
@[simp] theorem modIndex_free (p n : Nat) (f : Index → Index) : (modIndex s p n f).free = s.free := rfl
@[simp] theorem modIndex_nextId (p n : Nat) (f : Index → Index) : (modIndex s p n f).nextId = s.nextId := rfl
@[simp] theorem modIndex_now (p n : Nat) (f : Index → Index) : (modIndex s p n f).now = s.now := rfl
@[simp] theorem modIndex_out (p n : Nat) (f : Index → Index) : (modIndex s p n f).out = s.out := rfl
@[simp] theorem modIndex_regs (p n : Nat) (f : Index → Index) : (modIndex s p n f).regs = s.regs := rfl
@[simp] theorem modIndex_counts (p n : Nat) (f : Index → Index) : (modIndex s p n f).counts = s.counts := rfl
@[simp] theorem modIndex_hp (p n : Nat) (f : Index → Index) : (modIndex s p n f).hp = s.hp := rfl
@[simp] theorem modIndex_boot (p n : Nat) (f : Index → Index) : (modIndex s p n f).boot = s.boot := rfl
@[simp] theorem modIndex_ob (p n : Nat) (f : Index → Index) : (modIndex s p n f).ob = s.ob := rfl
@[simp] theorem modIndex_pw (p n : Nat) (f : Index → Index) : (modIndex s p n f).pw = s.pw := rfl
@[simp] theorem modIndex_tm_mem (p n : Nat) (f : Index → Index) : (modIndex s p n f).tm.mem = s.tm.mem := rfl
@[simp] theorem modIndex_tm_soil (p n : Nat) (f : Index → Index) : (modIndex s p n f).tm.soil = s.tm.soil := rfl
@[simp] theorem modIndex_tm_nans (p n : Nat) (f : Index → Index) : (modIndex s p n f).tm.nans = s.tm.nans := rfl
@[simp] theorem modIndex_tm_pages (p n : Nat) (f : Index → Index) : (modIndex s p n f).tm.pages = s.tm.pages := rfl
@[simp] theorem modIndex_tm_holds (p n : Nat) (f : Index → Index) : (modIndex s p n f).tm.holds = s.tm.holds := rfl
@[simp] theorem modIndex_tm_objs (p n : Nat) (f : Index → Index) : (modIndex s p n f).tm.objs = s.tm.objs := rfl
@[simp] theorem modIndex_tm_regions (p n : Nat) (f : Index → Index) : (modIndex s p n f).tm.regions = s.tm.regions := rfl
@[simp] theorem modIndex_tm_waits (p n : Nat) (f : Index → Index) : (modIndex s p n f).tm.waits = s.tm.waits := rfl
@[simp] theorem modIndex_tm_keys (p n : Nat) (f : Index → Index) : (modIndex s p n f).tm.keys = s.tm.keys := rfl
@[simp] theorem modIndex_tm_pats (p n : Nat) (f : Index → Index) : (modIndex s p n f).tm.pats = s.tm.pats := rfl
@[simp] theorem modIndex_tm_ckpts (p n : Nat) (f : Index → Index) : (modIndex s p n f).tm.ckpts = s.tm.ckpts := rfl
@[simp] theorem modIndex_tm_shots (p n : Nat) (f : Index → Index) : (modIndex s p n f).tm.shots = s.tm.shots := rfl
@[simp] theorem modIndex_tm_deep (p n : Nat) (f : Index → Index) : (modIndex s p n f).tm.deep = s.tm.deep := rfl
@[simp] theorem modIndex_tm_deepNext (p n : Nat) (f : Index → Index) : (modIndex s p n f).tm.deepNext = s.tm.deepNext := rfl
@[simp] theorem modIndex_tm_badNodes (p n : Nat) (f : Index → Index) : (modIndex s p n f).tm.badNodes = s.tm.badNodes := rfl
@[simp] theorem modIndex_tm_cache (p n : Nat) (f : Index → Index) : (modIndex s p n f).tm.cache = s.tm.cache := rfl
@[simp] theorem modIndex_tm_split (p n : Nat) (f : Index → Index) : (modIndex s p n f).tm.split = s.tm.split := rfl
@[simp] theorem modIndex_tm_searches (p n : Nat) (f : Index → Index) : (modIndex s p n f).tm.searches = s.tm.searches := rfl
@[simp] theorem modIndex_tm_leaves (p n : Nat) (f : Index → Index) : (modIndex s p n f).tm.leaves = s.tm.leaves := rfl
@[simp] theorem modIndex_tm_asks (p n : Nat) (f : Index → Index) : (modIndex s p n f).tm.asks = s.tm.asks := rfl
@[simp] theorem modIndex_tm_bound (p n : Nat) (f : Index → Index) : (modIndex s p n f).tm.bound = s.tm.bound := rfl
@[simp] theorem modIndex_tm_wasReady (p n : Nat) (f : Index → Index) : (modIndex s p n f).tm.wasReady = s.tm.wasReady := rfl
@[simp] theorem modIndex_tm_blocks (p n : Nat) (f : Index → Index) : (modIndex s p n f).tm.blocks = s.tm.blocks := rfl
@[simp] theorem modIndex_tm_rows (p n : Nat) (f : Index → Index) : (modIndex s p n f).tm.rows = s.tm.rows := rfl
@[simp] theorem modIndex_tm_remaps (p n : Nat) (f : Index → Index) : (modIndex s p n f).tm.remaps = s.tm.remaps := rfl
@[simp] theorem modIndex_mx (p n : Nat) (f : Index → Index) : (modIndex s p n f).mx = s.mx := rfl
@[simp] theorem modIndex_fn (p n : Nat) (f : Index → Index) : (modIndex s p n f).fn = s.fn := rfl
@[simp] theorem modIndex_fnBad (p n : Nat) (f : Index → Index) : (modIndex s p n f).fnBad = s.fnBad := rfl
@[simp] theorem modIndex_tp (p n : Nat) (f : Index → Index) : (modIndex s p n f).tp = s.tp := rfl
@[simp] theorem modIndex_se (p n : Nat) (f : Index → Index) : (modIndex s p n f).se = s.se := rfl
@[simp] theorem modIndex_ol (p n : Nat) (f : Index → Index) : (modIndex s p n f).ol = s.ol := rfl
@[simp] theorem modIndex_ce (p n : Nat) (f : Index → Index) : (modIndex s p n f).ce = s.ce := rfl

/-! ### `dropWaits` -/

@[simp] theorem dropWaits_pending (n : Nat) : (dropWaits s n).pending = s.pending := rfl
@[simp] theorem dropWaits_free (n : Nat) : (dropWaits s n).free = s.free := rfl
@[simp] theorem dropWaits_nextId (n : Nat) : (dropWaits s n).nextId = s.nextId := rfl
@[simp] theorem dropWaits_now (n : Nat) : (dropWaits s n).now = s.now := rfl
@[simp] theorem dropWaits_out (n : Nat) : (dropWaits s n).out = s.out := rfl
@[simp] theorem dropWaits_regs (n : Nat) : (dropWaits s n).regs = s.regs := rfl
@[simp] theorem dropWaits_counts (n : Nat) : (dropWaits s n).counts = s.counts := rfl
@[simp] theorem dropWaits_hp (n : Nat) : (dropWaits s n).hp = s.hp := rfl
@[simp] theorem dropWaits_boot (n : Nat) : (dropWaits s n).boot = s.boot := rfl
@[simp] theorem dropWaits_ob (n : Nat) : (dropWaits s n).ob = s.ob := rfl
@[simp] theorem dropWaits_pw (n : Nat) : (dropWaits s n).pw = s.pw := rfl
@[simp] theorem dropWaits_tm_mem (n : Nat) : (dropWaits s n).tm.mem = s.tm.mem := rfl
@[simp] theorem dropWaits_tm_soil (n : Nat) : (dropWaits s n).tm.soil = s.tm.soil := rfl
@[simp] theorem dropWaits_tm_nans (n : Nat) : (dropWaits s n).tm.nans = s.tm.nans := rfl
@[simp] theorem dropWaits_tm_pages (n : Nat) : (dropWaits s n).tm.pages = s.tm.pages := rfl
@[simp] theorem dropWaits_tm_holds (n : Nat) : (dropWaits s n).tm.holds = s.tm.holds := rfl
@[simp] theorem dropWaits_tm_objs (n : Nat) : (dropWaits s n).tm.objs = s.tm.objs := rfl
@[simp] theorem dropWaits_tm_regions (n : Nat) : (dropWaits s n).tm.regions = s.tm.regions := rfl
@[simp] theorem dropWaits_tm_keys (n : Nat) : (dropWaits s n).tm.keys = s.tm.keys := rfl
@[simp] theorem dropWaits_tm_pats (n : Nat) : (dropWaits s n).tm.pats = s.tm.pats := rfl
@[simp] theorem dropWaits_tm_ckpts (n : Nat) : (dropWaits s n).tm.ckpts = s.tm.ckpts := rfl
@[simp] theorem dropWaits_tm_shots (n : Nat) : (dropWaits s n).tm.shots = s.tm.shots := rfl
@[simp] theorem dropWaits_tm_deep (n : Nat) : (dropWaits s n).tm.deep = s.tm.deep := rfl
@[simp] theorem dropWaits_tm_deepNext (n : Nat) : (dropWaits s n).tm.deepNext = s.tm.deepNext := rfl
@[simp] theorem dropWaits_tm_badNodes (n : Nat) : (dropWaits s n).tm.badNodes = s.tm.badNodes := rfl
@[simp] theorem dropWaits_tm_cache (n : Nat) : (dropWaits s n).tm.cache = s.tm.cache := rfl
@[simp] theorem dropWaits_tm_split (n : Nat) : (dropWaits s n).tm.split = s.tm.split := rfl
@[simp] theorem dropWaits_tm_indexes (n : Nat) : (dropWaits s n).tm.indexes = s.tm.indexes := rfl
@[simp] theorem dropWaits_tm_searches (n : Nat) : (dropWaits s n).tm.searches = s.tm.searches := rfl
@[simp] theorem dropWaits_tm_leaves (n : Nat) : (dropWaits s n).tm.leaves = s.tm.leaves := rfl
@[simp] theorem dropWaits_tm_asks (n : Nat) : (dropWaits s n).tm.asks = s.tm.asks := rfl
@[simp] theorem dropWaits_tm_bound (n : Nat) : (dropWaits s n).tm.bound = s.tm.bound := rfl
@[simp] theorem dropWaits_tm_wasReady (n : Nat) : (dropWaits s n).tm.wasReady = s.tm.wasReady := rfl
@[simp] theorem dropWaits_tm_blocks (n : Nat) : (dropWaits s n).tm.blocks = s.tm.blocks := rfl
@[simp] theorem dropWaits_tm_rows (n : Nat) : (dropWaits s n).tm.rows = s.tm.rows := rfl
@[simp] theorem dropWaits_tm_remaps (n : Nat) : (dropWaits s n).tm.remaps = s.tm.remaps := rfl
@[simp] theorem dropWaits_mx (n : Nat) : (dropWaits s n).mx = s.mx := rfl
@[simp] theorem dropWaits_fn (n : Nat) : (dropWaits s n).fn = s.fn := rfl
@[simp] theorem dropWaits_fnBad (n : Nat) : (dropWaits s n).fnBad = s.fnBad := rfl
@[simp] theorem dropWaits_tp (n : Nat) : (dropWaits s n).tp = s.tp := rfl
@[simp] theorem dropWaits_se (n : Nat) : (dropWaits s n).se = s.se := rfl
@[simp] theorem dropWaits_ol (n : Nat) : (dropWaits s n).ol = s.ol := rfl
@[simp] theorem dropWaits_ce (n : Nat) : (dropWaits s n).ce = s.ce := rfl

/-! ### `eraseAt` -/

@[simp] theorem eraseAt_pending (k a n : Nat) : (eraseAt s k a n).pending = s.pending := rfl
@[simp] theorem eraseAt_free (k a n : Nat) : (eraseAt s k a n).free = s.free := rfl
@[simp] theorem eraseAt_nextId (k a n : Nat) : (eraseAt s k a n).nextId = s.nextId := rfl
@[simp] theorem eraseAt_now (k a n : Nat) : (eraseAt s k a n).now = s.now := rfl
@[simp] theorem eraseAt_out (k a n : Nat) : (eraseAt s k a n).out = s.out := rfl
@[simp] theorem eraseAt_regs (k a n : Nat) : (eraseAt s k a n).regs = s.regs := rfl
@[simp] theorem eraseAt_counts (k a n : Nat) : (eraseAt s k a n).counts = s.counts := rfl
@[simp] theorem eraseAt_hp (k a n : Nat) : (eraseAt s k a n).hp = s.hp := rfl
@[simp] theorem eraseAt_boot (k a n : Nat) : (eraseAt s k a n).boot = s.boot := rfl
@[simp] theorem eraseAt_ob (k a n : Nat) : (eraseAt s k a n).ob = s.ob := rfl
@[simp] theorem eraseAt_pw (k a n : Nat) : (eraseAt s k a n).pw = s.pw := rfl
@[simp] theorem eraseAt_tm_pages (k a n : Nat) : (eraseAt s k a n).tm.pages = s.tm.pages := rfl
@[simp] theorem eraseAt_tm_holds (k a n : Nat) : (eraseAt s k a n).tm.holds = s.tm.holds := rfl
@[simp] theorem eraseAt_tm_objs (k a n : Nat) : (eraseAt s k a n).tm.objs = s.tm.objs := rfl
@[simp] theorem eraseAt_tm_regions (k a n : Nat) : (eraseAt s k a n).tm.regions = s.tm.regions := rfl
@[simp] theorem eraseAt_tm_waits (k a n : Nat) : (eraseAt s k a n).tm.waits = s.tm.waits := rfl
@[simp] theorem eraseAt_tm_keys (k a n : Nat) : (eraseAt s k a n).tm.keys = s.tm.keys := rfl
@[simp] theorem eraseAt_tm_pats (k a n : Nat) : (eraseAt s k a n).tm.pats = s.tm.pats := rfl
@[simp] theorem eraseAt_tm_ckpts (k a n : Nat) : (eraseAt s k a n).tm.ckpts = s.tm.ckpts := rfl
@[simp] theorem eraseAt_tm_shots (k a n : Nat) : (eraseAt s k a n).tm.shots = s.tm.shots := rfl
@[simp] theorem eraseAt_tm_deep (k a n : Nat) : (eraseAt s k a n).tm.deep = s.tm.deep := rfl
@[simp] theorem eraseAt_tm_deepNext (k a n : Nat) : (eraseAt s k a n).tm.deepNext = s.tm.deepNext := rfl
@[simp] theorem eraseAt_tm_badNodes (k a n : Nat) : (eraseAt s k a n).tm.badNodes = s.tm.badNodes := rfl
@[simp] theorem eraseAt_tm_cache (k a n : Nat) : (eraseAt s k a n).tm.cache = s.tm.cache := rfl
@[simp] theorem eraseAt_tm_split (k a n : Nat) : (eraseAt s k a n).tm.split = s.tm.split := rfl
@[simp] theorem eraseAt_tm_indexes (k a n : Nat) : (eraseAt s k a n).tm.indexes = s.tm.indexes := rfl
@[simp] theorem eraseAt_tm_searches (k a n : Nat) : (eraseAt s k a n).tm.searches = s.tm.searches := rfl
@[simp] theorem eraseAt_tm_leaves (k a n : Nat) : (eraseAt s k a n).tm.leaves = s.tm.leaves := rfl
@[simp] theorem eraseAt_tm_asks (k a n : Nat) : (eraseAt s k a n).tm.asks = s.tm.asks := rfl
@[simp] theorem eraseAt_tm_bound (k a n : Nat) : (eraseAt s k a n).tm.bound = s.tm.bound := rfl
@[simp] theorem eraseAt_tm_wasReady (k a n : Nat) : (eraseAt s k a n).tm.wasReady = s.tm.wasReady := rfl
@[simp] theorem eraseAt_tm_blocks (k a n : Nat) : (eraseAt s k a n).tm.blocks = s.tm.blocks := rfl
@[simp] theorem eraseAt_tm_rows (k a n : Nat) : (eraseAt s k a n).tm.rows = s.tm.rows := rfl
@[simp] theorem eraseAt_tm_remaps (k a n : Nat) : (eraseAt s k a n).tm.remaps = s.tm.remaps := rfl
@[simp] theorem eraseAt_mx (k a n : Nat) : (eraseAt s k a n).mx = s.mx := rfl
@[simp] theorem eraseAt_fn (k a n : Nat) : (eraseAt s k a n).fn = s.fn := rfl
@[simp] theorem eraseAt_fnBad (k a n : Nat) : (eraseAt s k a n).fnBad = s.fnBad := rfl
@[simp] theorem eraseAt_tp (k a n : Nat) : (eraseAt s k a n).tp = s.tp := rfl
@[simp] theorem eraseAt_se (k a n : Nat) : (eraseAt s k a n).se = s.se := rfl
@[simp] theorem eraseAt_ol (k a n : Nat) : (eraseAt s k a n).ol = s.ol := rfl
@[simp] theorem eraseAt_ce (k a n : Nat) : (eraseAt s k a n).ce = s.ce := rfl

/-! ### `setArr` -/

@[simp] theorem setArr_pending (c a : Nat) (x : Arr) : (setArr s c a x).pending = s.pending := rfl
@[simp] theorem setArr_free (c a : Nat) (x : Arr) : (setArr s c a x).free = s.free := rfl
@[simp] theorem setArr_nextId (c a : Nat) (x : Arr) : (setArr s c a x).nextId = s.nextId := rfl
@[simp] theorem setArr_now (c a : Nat) (x : Arr) : (setArr s c a x).now = s.now := rfl
@[simp] theorem setArr_out (c a : Nat) (x : Arr) : (setArr s c a x).out = s.out := rfl
@[simp] theorem setArr_regs (c a : Nat) (x : Arr) : (setArr s c a x).regs = s.regs := rfl
@[simp] theorem setArr_counts (c a : Nat) (x : Arr) : (setArr s c a x).counts = s.counts := rfl
@[simp] theorem setArr_hp (c a : Nat) (x : Arr) : (setArr s c a x).hp = s.hp := rfl
@[simp] theorem setArr_boot (c a : Nat) (x : Arr) : (setArr s c a x).boot = s.boot := rfl
@[simp] theorem setArr_ob (c a : Nat) (x : Arr) : (setArr s c a x).ob = s.ob := rfl
@[simp] theorem setArr_pw (c a : Nat) (x : Arr) : (setArr s c a x).pw = s.pw := rfl
@[simp] theorem setArr_tm (c a : Nat) (x : Arr) : (setArr s c a x).tm = s.tm := rfl
@[simp] theorem setArr_fn (c a : Nat) (x : Arr) : (setArr s c a x).fn = s.fn := rfl
@[simp] theorem setArr_fnBad (c a : Nat) (x : Arr) : (setArr s c a x).fnBad = s.fnBad := rfl
@[simp] theorem setArr_tp (c a : Nat) (x : Arr) : (setArr s c a x).tp = s.tp := rfl
@[simp] theorem setArr_se (c a : Nat) (x : Arr) : (setArr s c a x).se = s.se := rfl
@[simp] theorem setArr_ol (c a : Nat) (x : Arr) : (setArr s c a x).ol = s.ol := rfl
@[simp] theorem setArr_ce (c a : Nat) (x : Arr) : (setArr s c a x).ce = s.ce := rfl

/-! ### `setProg` -/

@[simp] theorem setProg_pending (p k : Nat) (x : Option FnProg) : (setProg s p k x).pending = s.pending := rfl
@[simp] theorem setProg_free (p k : Nat) (x : Option FnProg) : (setProg s p k x).free = s.free := rfl
@[simp] theorem setProg_nextId (p k : Nat) (x : Option FnProg) : (setProg s p k x).nextId = s.nextId := rfl
@[simp] theorem setProg_now (p k : Nat) (x : Option FnProg) : (setProg s p k x).now = s.now := rfl
@[simp] theorem setProg_out (p k : Nat) (x : Option FnProg) : (setProg s p k x).out = s.out := rfl
@[simp] theorem setProg_regs (p k : Nat) (x : Option FnProg) : (setProg s p k x).regs = s.regs := rfl
@[simp] theorem setProg_counts (p k : Nat) (x : Option FnProg) : (setProg s p k x).counts = s.counts := rfl
@[simp] theorem setProg_hp (p k : Nat) (x : Option FnProg) : (setProg s p k x).hp = s.hp := rfl
@[simp] theorem setProg_boot (p k : Nat) (x : Option FnProg) : (setProg s p k x).boot = s.boot := rfl
@[simp] theorem setProg_ob (p k : Nat) (x : Option FnProg) : (setProg s p k x).ob = s.ob := rfl
@[simp] theorem setProg_pw (p k : Nat) (x : Option FnProg) : (setProg s p k x).pw = s.pw := rfl
@[simp] theorem setProg_tm (p k : Nat) (x : Option FnProg) : (setProg s p k x).tm = s.tm := rfl
@[simp] theorem setProg_mx (p k : Nat) (x : Option FnProg) : (setProg s p k x).mx = s.mx := rfl
@[simp] theorem setProg_fnBad (p k : Nat) (x : Option FnProg) : (setProg s p k x).fnBad = s.fnBad := rfl
@[simp] theorem setProg_tp (p k : Nat) (x : Option FnProg) : (setProg s p k x).tp = s.tp := rfl
@[simp] theorem setProg_se (p k : Nat) (x : Option FnProg) : (setProg s p k x).se = s.se := rfl
@[simp] theorem setProg_ol (p k : Nat) (x : Option FnProg) : (setProg s p k x).ol = s.ol := rfl
@[simp] theorem setProg_ce (p k : Nat) (x : Option FnProg) : (setProg s p k x).ce = s.ce := rfl

/-! ### `setTpSlot` -/

@[simp] theorem setTpSlot_pending (p k : Nat) (x : Option TpProg) : (setTpSlot s p k x).pending = s.pending := rfl
@[simp] theorem setTpSlot_free (p k : Nat) (x : Option TpProg) : (setTpSlot s p k x).free = s.free := rfl
@[simp] theorem setTpSlot_nextId (p k : Nat) (x : Option TpProg) : (setTpSlot s p k x).nextId = s.nextId := rfl
@[simp] theorem setTpSlot_now (p k : Nat) (x : Option TpProg) : (setTpSlot s p k x).now = s.now := rfl
@[simp] theorem setTpSlot_out (p k : Nat) (x : Option TpProg) : (setTpSlot s p k x).out = s.out := rfl
@[simp] theorem setTpSlot_regs (p k : Nat) (x : Option TpProg) : (setTpSlot s p k x).regs = s.regs := rfl
@[simp] theorem setTpSlot_counts (p k : Nat) (x : Option TpProg) : (setTpSlot s p k x).counts = s.counts := rfl
@[simp] theorem setTpSlot_hp (p k : Nat) (x : Option TpProg) : (setTpSlot s p k x).hp = s.hp := rfl
@[simp] theorem setTpSlot_boot (p k : Nat) (x : Option TpProg) : (setTpSlot s p k x).boot = s.boot := rfl
@[simp] theorem setTpSlot_ob (p k : Nat) (x : Option TpProg) : (setTpSlot s p k x).ob = s.ob := rfl
@[simp] theorem setTpSlot_pw (p k : Nat) (x : Option TpProg) : (setTpSlot s p k x).pw = s.pw := rfl
@[simp] theorem setTpSlot_tm (p k : Nat) (x : Option TpProg) : (setTpSlot s p k x).tm = s.tm := rfl
@[simp] theorem setTpSlot_mx (p k : Nat) (x : Option TpProg) : (setTpSlot s p k x).mx = s.mx := rfl
@[simp] theorem setTpSlot_fn (p k : Nat) (x : Option TpProg) : (setTpSlot s p k x).fn = s.fn := rfl
@[simp] theorem setTpSlot_fnBad (p k : Nat) (x : Option TpProg) : (setTpSlot s p k x).fnBad = s.fnBad := rfl
@[simp] theorem setTpSlot_tp_tickets (p k : Nat) (x : Option TpProg) : (setTpSlot s p k x).tp.tickets = s.tp.tickets := rfl
@[simp] theorem setTpSlot_tp_shares (p k : Nat) (x : Option TpProg) : (setTpSlot s p k x).tp.shares = s.tp.shares := rfl
@[simp] theorem setTpSlot_se (p k : Nat) (x : Option TpProg) : (setTpSlot s p k x).se = s.se := rfl
@[simp] theorem setTpSlot_ol (p k : Nat) (x : Option TpProg) : (setTpSlot s p k x).ol = s.ol := rfl
@[simp] theorem setTpSlot_ce (p k : Nat) (x : Option TpProg) : (setTpSlot s p k x).ce = s.ce := rfl

/-! ### `setTicket` -/

@[simp] theorem setTicket_pending (p k : Nat) (x : Ticket) : (setTicket s p k x).pending = s.pending := rfl
@[simp] theorem setTicket_free (p k : Nat) (x : Ticket) : (setTicket s p k x).free = s.free := rfl
@[simp] theorem setTicket_nextId (p k : Nat) (x : Ticket) : (setTicket s p k x).nextId = s.nextId := rfl
@[simp] theorem setTicket_now (p k : Nat) (x : Ticket) : (setTicket s p k x).now = s.now := rfl
@[simp] theorem setTicket_out (p k : Nat) (x : Ticket) : (setTicket s p k x).out = s.out := rfl
@[simp] theorem setTicket_regs (p k : Nat) (x : Ticket) : (setTicket s p k x).regs = s.regs := rfl
@[simp] theorem setTicket_counts (p k : Nat) (x : Ticket) : (setTicket s p k x).counts = s.counts := rfl
@[simp] theorem setTicket_hp (p k : Nat) (x : Ticket) : (setTicket s p k x).hp = s.hp := rfl
@[simp] theorem setTicket_boot (p k : Nat) (x : Ticket) : (setTicket s p k x).boot = s.boot := rfl
@[simp] theorem setTicket_ob (p k : Nat) (x : Ticket) : (setTicket s p k x).ob = s.ob := rfl
@[simp] theorem setTicket_pw (p k : Nat) (x : Ticket) : (setTicket s p k x).pw = s.pw := rfl
@[simp] theorem setTicket_tm (p k : Nat) (x : Ticket) : (setTicket s p k x).tm = s.tm := rfl
@[simp] theorem setTicket_mx (p k : Nat) (x : Ticket) : (setTicket s p k x).mx = s.mx := rfl
@[simp] theorem setTicket_fn (p k : Nat) (x : Ticket) : (setTicket s p k x).fn = s.fn := rfl
@[simp] theorem setTicket_fnBad (p k : Nat) (x : Ticket) : (setTicket s p k x).fnBad = s.fnBad := rfl
@[simp] theorem setTicket_tp_slots (p k : Nat) (x : Ticket) : (setTicket s p k x).tp.slots = s.tp.slots := rfl
@[simp] theorem setTicket_tp_shares (p k : Nat) (x : Ticket) : (setTicket s p k x).tp.shares = s.tp.shares := rfl
@[simp] theorem setTicket_se (p k : Nat) (x : Ticket) : (setTicket s p k x).se = s.se := rfl
@[simp] theorem setTicket_ol (p k : Nat) (x : Ticket) : (setTicket s p k x).ol = s.ol := rfl
@[simp] theorem setTicket_ce (p k : Nat) (x : Ticket) : (setTicket s p k x).ce = s.ce := rfl

/-! ### `setQueue` -/

@[simp] theorem setQueue_pending (q : Nat) (x : Queue) : (setQueue s q x).pending = s.pending := rfl
@[simp] theorem setQueue_free (q : Nat) (x : Queue) : (setQueue s q x).free = s.free := rfl
@[simp] theorem setQueue_nextId (q : Nat) (x : Queue) : (setQueue s q x).nextId = s.nextId := rfl
@[simp] theorem setQueue_now (q : Nat) (x : Queue) : (setQueue s q x).now = s.now := rfl
@[simp] theorem setQueue_out (q : Nat) (x : Queue) : (setQueue s q x).out = s.out := rfl
@[simp] theorem setQueue_regs (q : Nat) (x : Queue) : (setQueue s q x).regs = s.regs := rfl
@[simp] theorem setQueue_counts (q : Nat) (x : Queue) : (setQueue s q x).counts = s.counts := rfl
@[simp] theorem setQueue_hp (q : Nat) (x : Queue) : (setQueue s q x).hp = s.hp := rfl
@[simp] theorem setQueue_boot (q : Nat) (x : Queue) : (setQueue s q x).boot = s.boot := rfl
@[simp] theorem setQueue_ob (q : Nat) (x : Queue) : (setQueue s q x).ob = s.ob := rfl
@[simp] theorem setQueue_pw (q : Nat) (x : Queue) : (setQueue s q x).pw = s.pw := rfl
@[simp] theorem setQueue_tm (q : Nat) (x : Queue) : (setQueue s q x).tm = s.tm := rfl
@[simp] theorem setQueue_mx (q : Nat) (x : Queue) : (setQueue s q x).mx = s.mx := rfl
@[simp] theorem setQueue_fn (q : Nat) (x : Queue) : (setQueue s q x).fn = s.fn := rfl
@[simp] theorem setQueue_fnBad (q : Nat) (x : Queue) : (setQueue s q x).fnBad = s.fnBad := rfl
@[simp] theorem setQueue_tp (q : Nat) (x : Queue) : (setQueue s q x).tp = s.tp := rfl
@[simp] theorem setQueue_se_groups (q : Nat) (x : Queue) : (setQueue s q x).se.groups = s.se.groups := rfl
@[simp] theorem setQueue_se_nextGroup (q : Nat) (x : Queue) : (setQueue s q x).se.nextGroup = s.se.nextGroup := rfl
@[simp] theorem setQueue_se_last (q : Nat) (x : Queue) : (setQueue s q x).se.last = s.se.last := rfl
@[simp] theorem setQueue_se_found (q : Nat) (x : Queue) : (setQueue s q x).se.found = s.se.found := rfl
@[simp] theorem setQueue_ol (q : Nat) (x : Queue) : (setQueue s q x).ol = s.ol := rfl
@[simp] theorem setQueue_ce (q : Nat) (x : Queue) : (setQueue s q x).ce = s.ce := rfl

/-! ### `setPort` -/

@[simp] theorem setPort_pending (n : Nat) (x : Port) : (setPort s n x).pending = s.pending := rfl
@[simp] theorem setPort_free (n : Nat) (x : Port) : (setPort s n x).free = s.free := rfl
@[simp] theorem setPort_nextId (n : Nat) (x : Port) : (setPort s n x).nextId = s.nextId := rfl
@[simp] theorem setPort_now (n : Nat) (x : Port) : (setPort s n x).now = s.now := rfl
@[simp] theorem setPort_out (n : Nat) (x : Port) : (setPort s n x).out = s.out := rfl
@[simp] theorem setPort_regs (n : Nat) (x : Port) : (setPort s n x).regs = s.regs := rfl
@[simp] theorem setPort_counts (n : Nat) (x : Port) : (setPort s n x).counts = s.counts := rfl
@[simp] theorem setPort_hp (n : Nat) (x : Port) : (setPort s n x).hp = s.hp := rfl
@[simp] theorem setPort_boot (n : Nat) (x : Port) : (setPort s n x).boot = s.boot := rfl
@[simp] theorem setPort_ob (n : Nat) (x : Port) : (setPort s n x).ob = s.ob := rfl
@[simp] theorem setPort_pw (n : Nat) (x : Port) : (setPort s n x).pw = s.pw := rfl
@[simp] theorem setPort_tm (n : Nat) (x : Port) : (setPort s n x).tm = s.tm := rfl
@[simp] theorem setPort_mx (n : Nat) (x : Port) : (setPort s n x).mx = s.mx := rfl
@[simp] theorem setPort_fn (n : Nat) (x : Port) : (setPort s n x).fn = s.fn := rfl
@[simp] theorem setPort_fnBad (n : Nat) (x : Port) : (setPort s n x).fnBad = s.fnBad := rfl
@[simp] theorem setPort_tp (n : Nat) (x : Port) : (setPort s n x).tp = s.tp := rfl
@[simp] theorem setPort_se (n : Nat) (x : Port) : (setPort s n x).se = s.se := rfl
@[simp] theorem setPort_ol_wins (n : Nat) (x : Port) : (setPort s n x).ol.wins = s.ol.wins := rfl
@[simp] theorem setPort_ol_ops (n : Nat) (x : Port) : (setPort s n x).ol.ops = s.ol.ops := rfl
@[simp] theorem setPort_ol_seen (n : Nat) (x : Port) : (setPort s n x).ol.seen = s.ol.seen := rfl
@[simp] theorem setPort_ol_casts (n : Nat) (x : Port) : (setPort s n x).ol.casts = s.ol.casts := rfl
@[simp] theorem setPort_ol_cast (n : Nat) (x : Port) : (setPort s n x).ol.cast = s.ol.cast := rfl
@[simp] theorem setPort_ol_nextOp (n : Nat) (x : Port) : (setPort s n x).ol.nextOp = s.ol.nextOp := rfl
@[simp] theorem setPort_ce (n : Nat) (x : Port) : (setPort s n x).ce = s.ce := rfl

/-! ### `setGrp` -/

@[simp] theorem setGrp_pending (g : Nat) (x : Option Grp) : (setGrp s g x).pending = s.pending := rfl
@[simp] theorem setGrp_free (g : Nat) (x : Option Grp) : (setGrp s g x).free = s.free := rfl
@[simp] theorem setGrp_nextId (g : Nat) (x : Option Grp) : (setGrp s g x).nextId = s.nextId := rfl
@[simp] theorem setGrp_now (g : Nat) (x : Option Grp) : (setGrp s g x).now = s.now := rfl
@[simp] theorem setGrp_out (g : Nat) (x : Option Grp) : (setGrp s g x).out = s.out := rfl
@[simp] theorem setGrp_regs (g : Nat) (x : Option Grp) : (setGrp s g x).regs = s.regs := rfl
@[simp] theorem setGrp_counts (g : Nat) (x : Option Grp) : (setGrp s g x).counts = s.counts := rfl
@[simp] theorem setGrp_hp (g : Nat) (x : Option Grp) : (setGrp s g x).hp = s.hp := rfl
@[simp] theorem setGrp_boot (g : Nat) (x : Option Grp) : (setGrp s g x).boot = s.boot := rfl
@[simp] theorem setGrp_ob (g : Nat) (x : Option Grp) : (setGrp s g x).ob = s.ob := rfl
@[simp] theorem setGrp_pw (g : Nat) (x : Option Grp) : (setGrp s g x).pw = s.pw := rfl
@[simp] theorem setGrp_tm (g : Nat) (x : Option Grp) : (setGrp s g x).tm = s.tm := rfl
@[simp] theorem setGrp_mx (g : Nat) (x : Option Grp) : (setGrp s g x).mx = s.mx := rfl
@[simp] theorem setGrp_fn (g : Nat) (x : Option Grp) : (setGrp s g x).fn = s.fn := rfl
@[simp] theorem setGrp_fnBad (g : Nat) (x : Option Grp) : (setGrp s g x).fnBad = s.fnBad := rfl
@[simp] theorem setGrp_tp (g : Nat) (x : Option Grp) : (setGrp s g x).tp = s.tp := rfl
@[simp] theorem setGrp_se (g : Nat) (x : Option Grp) : (setGrp s g x).se = s.se := rfl
@[simp] theorem setGrp_ol (g : Nat) (x : Option Grp) : (setGrp s g x).ol = s.ol := rfl
@[simp] theorem setGrp_ce_joins (g : Nat) (x : Option Grp) : (setGrp s g x).ce.joins = s.ce.joins := rfl
@[simp] theorem setGrp_ce_gone (g : Nat) (x : Option Grp) : (setGrp s g x).ce.gone = s.ce.gone := rfl
@[simp] theorem setGrp_ce_lag (g : Nat) (x : Option Grp) : (setGrp s g x).ce.lag = s.ce.lag := rfl
@[simp] theorem setGrp_ce_window (g : Nat) (x : Option Grp) : (setGrp s g x).ce.window = s.ce.window := rfl

/-! ### `setSnap` -/

@[simp] theorem setSnap_pending (k : Nat) (x : Snap) : (setSnap s k x).pending = s.pending := rfl
@[simp] theorem setSnap_free (k : Nat) (x : Snap) : (setSnap s k x).free = s.free := rfl
@[simp] theorem setSnap_nextId (k : Nat) (x : Snap) : (setSnap s k x).nextId = s.nextId := rfl
@[simp] theorem setSnap_now (k : Nat) (x : Snap) : (setSnap s k x).now = s.now := rfl
@[simp] theorem setSnap_out (k : Nat) (x : Snap) : (setSnap s k x).out = s.out := rfl
@[simp] theorem setSnap_regs (k : Nat) (x : Snap) : (setSnap s k x).regs = s.regs := rfl
@[simp] theorem setSnap_counts (k : Nat) (x : Snap) : (setSnap s k x).counts = s.counts := rfl
@[simp] theorem setSnap_hp (k : Nat) (x : Snap) : (setSnap s k x).hp = s.hp := rfl
@[simp] theorem setSnap_boot (k : Nat) (x : Snap) : (setSnap s k x).boot = s.boot := rfl
@[simp] theorem setSnap_ob_counting (k : Nat) (x : Snap) : (setSnap s k x).ob.counting = s.ob.counting := rfl
@[simp] theorem setSnap_ob_adverts (k : Nat) (x : Snap) : (setSnap s k x).ob.adverts = s.ob.adverts := rfl
@[simp] theorem setSnap_ob_lfsr (k : Nat) (x : Snap) : (setSnap s k x).ob.lfsr = s.ob.lfsr := rfl
@[simp] theorem setSnap_ob_tags (k : Nat) (x : Snap) : (setSnap s k x).ob.tags = s.ob.tags := rfl
@[simp] theorem setSnap_ob_log (k : Nat) (x : Snap) : (setSnap s k x).ob.log = s.ob.log := rfl
@[simp] theorem setSnap_ob_overflow (k : Nat) (x : Snap) : (setSnap s k x).ob.overflow = s.ob.overflow := rfl
@[simp] theorem setSnap_ob_aborts (k : Nat) (x : Snap) : (setSnap s k x).ob.aborts = s.ob.aborts := rfl
@[simp] theorem setSnap_ob_jobLists (k : Nat) (x : Snap) : (setSnap s k x).ob.jobLists = s.ob.jobLists := rfl
@[simp] theorem setSnap_ob_sentJobs (k : Nat) (x : Snap) : (setSnap s k x).ob.sentJobs = s.ob.sentJobs := rfl
@[simp] theorem setSnap_ob_hours (k : Nat) (x : Snap) : (setSnap s k x).ob.hours = s.ob.hours := rfl
@[simp] theorem setSnap_ob_wear (k : Nat) (x : Snap) : (setSnap s k x).ob.wear = s.ob.wear := rfl
@[simp] theorem setSnap_ob_carrierHours (k : Nat) (x : Snap) : (setSnap s k x).ob.carrierHours = s.ob.carrierHours := rfl
@[simp] theorem setSnap_ob_carrierFray (k : Nat) (x : Snap) : (setSnap s k x).ob.carrierFray = s.ob.carrierFray := rfl
@[simp] theorem setSnap_pw (k : Nat) (x : Snap) : (setSnap s k x).pw = s.pw := rfl
@[simp] theorem setSnap_tm (k : Nat) (x : Snap) : (setSnap s k x).tm = s.tm := rfl
@[simp] theorem setSnap_mx (k : Nat) (x : Snap) : (setSnap s k x).mx = s.mx := rfl
@[simp] theorem setSnap_fn (k : Nat) (x : Snap) : (setSnap s k x).fn = s.fn := rfl
@[simp] theorem setSnap_fnBad (k : Nat) (x : Snap) : (setSnap s k x).fnBad = s.fnBad := rfl
@[simp] theorem setSnap_tp (k : Nat) (x : Snap) : (setSnap s k x).tp = s.tp := rfl
@[simp] theorem setSnap_se (k : Nat) (x : Snap) : (setSnap s k x).se = s.se := rfl
@[simp] theorem setSnap_ol (k : Nat) (x : Snap) : (setSnap s k x).ol = s.ol := rfl
@[simp] theorem setSnap_ce (k : Nat) (x : Snap) : (setSnap s k x).ce = s.ce := rfl

/-! ### `setAdvert` -/

@[simp] theorem setAdvert_pending (n : Nat) (a : Option Advert) : (setAdvert s n a).pending = s.pending := rfl
@[simp] theorem setAdvert_free (n : Nat) (a : Option Advert) : (setAdvert s n a).free = s.free := rfl
@[simp] theorem setAdvert_nextId (n : Nat) (a : Option Advert) : (setAdvert s n a).nextId = s.nextId := rfl
@[simp] theorem setAdvert_now (n : Nat) (a : Option Advert) : (setAdvert s n a).now = s.now := rfl
@[simp] theorem setAdvert_out (n : Nat) (a : Option Advert) : (setAdvert s n a).out = s.out := rfl
@[simp] theorem setAdvert_regs (n : Nat) (a : Option Advert) : (setAdvert s n a).regs = s.regs := rfl
@[simp] theorem setAdvert_counts (n : Nat) (a : Option Advert) : (setAdvert s n a).counts = s.counts := rfl
@[simp] theorem setAdvert_hp (n : Nat) (a : Option Advert) : (setAdvert s n a).hp = s.hp := rfl
@[simp] theorem setAdvert_boot (n : Nat) (a : Option Advert) : (setAdvert s n a).boot = s.boot := rfl
@[simp] theorem setAdvert_ob_counting (n : Nat) (a : Option Advert) : (setAdvert s n a).ob.counting = s.ob.counting := rfl
@[simp] theorem setAdvert_ob_lfsr (n : Nat) (a : Option Advert) : (setAdvert s n a).ob.lfsr = s.ob.lfsr := rfl
@[simp] theorem setAdvert_ob_tags (n : Nat) (a : Option Advert) : (setAdvert s n a).ob.tags = s.ob.tags := rfl
@[simp] theorem setAdvert_ob_snaps (n : Nat) (a : Option Advert) : (setAdvert s n a).ob.snaps = s.ob.snaps := rfl
@[simp] theorem setAdvert_ob_log (n : Nat) (a : Option Advert) : (setAdvert s n a).ob.log = s.ob.log := rfl
@[simp] theorem setAdvert_ob_overflow (n : Nat) (a : Option Advert) : (setAdvert s n a).ob.overflow = s.ob.overflow := rfl
@[simp] theorem setAdvert_ob_aborts (n : Nat) (a : Option Advert) : (setAdvert s n a).ob.aborts = s.ob.aborts := rfl
@[simp] theorem setAdvert_ob_jobLists (n : Nat) (a : Option Advert) : (setAdvert s n a).ob.jobLists = s.ob.jobLists := rfl
@[simp] theorem setAdvert_ob_sentJobs (n : Nat) (a : Option Advert) : (setAdvert s n a).ob.sentJobs = s.ob.sentJobs := rfl
@[simp] theorem setAdvert_ob_hours (n : Nat) (a : Option Advert) : (setAdvert s n a).ob.hours = s.ob.hours := rfl
@[simp] theorem setAdvert_ob_wear (n : Nat) (a : Option Advert) : (setAdvert s n a).ob.wear = s.ob.wear := rfl
@[simp] theorem setAdvert_ob_carrierHours (n : Nat) (a : Option Advert) : (setAdvert s n a).ob.carrierHours = s.ob.carrierHours := rfl
@[simp] theorem setAdvert_ob_carrierFray (n : Nat) (a : Option Advert) : (setAdvert s n a).ob.carrierFray = s.ob.carrierFray := rfl
@[simp] theorem setAdvert_pw (n : Nat) (a : Option Advert) : (setAdvert s n a).pw = s.pw := rfl
@[simp] theorem setAdvert_tm (n : Nat) (a : Option Advert) : (setAdvert s n a).tm = s.tm := rfl
@[simp] theorem setAdvert_mx (n : Nat) (a : Option Advert) : (setAdvert s n a).mx = s.mx := rfl
@[simp] theorem setAdvert_fn (n : Nat) (a : Option Advert) : (setAdvert s n a).fn = s.fn := rfl
@[simp] theorem setAdvert_fnBad (n : Nat) (a : Option Advert) : (setAdvert s n a).fnBad = s.fnBad := rfl
@[simp] theorem setAdvert_tp (n : Nat) (a : Option Advert) : (setAdvert s n a).tp = s.tp := rfl
@[simp] theorem setAdvert_se (n : Nat) (a : Option Advert) : (setAdvert s n a).se = s.se := rfl
@[simp] theorem setAdvert_ol (n : Nat) (a : Option Advert) : (setAdvert s n a).ol = s.ol := rfl
@[simp] theorem setAdvert_ce (n : Nat) (a : Option Advert) : (setAdvert s n a).ce = s.ce := rfl

/-! ### `putEeprom` -/

@[simp] theorem putEeprom_pending (a : Nat) (bs : List Byte) : (putEeprom s a bs).pending = s.pending := rfl
@[simp] theorem putEeprom_free (a : Nat) (bs : List Byte) : (putEeprom s a bs).free = s.free := rfl
@[simp] theorem putEeprom_nextId (a : Nat) (bs : List Byte) : (putEeprom s a bs).nextId = s.nextId := rfl
@[simp] theorem putEeprom_now (a : Nat) (bs : List Byte) : (putEeprom s a bs).now = s.now := rfl
@[simp] theorem putEeprom_out (a : Nat) (bs : List Byte) : (putEeprom s a bs).out = s.out := rfl
@[simp] theorem putEeprom_regs (a : Nat) (bs : List Byte) : (putEeprom s a bs).regs = s.regs := rfl
@[simp] theorem putEeprom_counts (a : Nat) (bs : List Byte) : (putEeprom s a bs).counts = s.counts := rfl
@[simp] theorem putEeprom_hp (a : Nat) (bs : List Byte) : (putEeprom s a bs).hp = s.hp := rfl
@[simp] theorem putEeprom_boot (a : Nat) (bs : List Byte) : (putEeprom s a bs).boot = s.boot := rfl
@[simp] theorem putEeprom_ob (a : Nat) (bs : List Byte) : (putEeprom s a bs).ob = s.ob := rfl
@[simp] theorem putEeprom_pw_caps (a : Nat) (bs : List Byte) : (putEeprom s a bs).pw.caps = s.pw.caps := rfl
@[simp] theorem putEeprom_pw_loweredAt (a : Nat) (bs : List Byte) : (putEeprom s a bs).pw.loweredAt = s.pw.loweredAt := rfl
@[simp] theorem putEeprom_pw_pwrEn (a : Nat) (bs : List Byte) : (putEeprom s a bs).pw.pwrEn = s.pw.pwrEn := rfl
@[simp] theorem putEeprom_pw_pwrGood (a : Nat) (bs : List Byte) : (putEeprom s a bs).pw.pwrGood = s.pw.pwrGood := rfl
@[simp] theorem putEeprom_pw_perst (a : Nat) (bs : List Byte) : (putEeprom s a bs).pw.perst = s.pw.perst := rfl
@[simp] theorem putEeprom_pw_thermtrip (a : Nat) (bs : List Byte) : (putEeprom s a bs).pw.thermtrip = s.pw.thermtrip := rfl
@[simp] theorem putEeprom_pw_leak (a : Nat) (bs : List Byte) : (putEeprom s a bs).pw.leak = s.pw.leak := rfl
@[simp] theorem putEeprom_pw_stby (a : Nat) (bs : List Byte) : (putEeprom s a bs).pw.stby = s.pw.stby := rfl
@[simp] theorem putEeprom_pw_vin (a : Nat) (bs : List Byte) : (putEeprom s a bs).pw.vin = s.pw.vin := rfl
@[simp] theorem putEeprom_pw_iin (a : Nat) (bs : List Byte) : (putEeprom s a bs).pw.iin = s.pw.iin := rfl
@[simp] theorem putEeprom_pw_pin (a : Nat) (bs : List Byte) : (putEeprom s a bs).pw.pin = s.pw.pin := rfl
@[simp] theorem putEeprom_pw_sysLimit (a : Nat) (bs : List Byte) : (putEeprom s a bs).pw.sysLimit = s.pw.sysLimit := rfl
@[simp] theorem putEeprom_pw_fault (a : Nat) (bs : List Byte) : (putEeprom s a bs).pw.fault = s.pw.fault := rfl
@[simp] theorem putEeprom_pw_lower (a : Nat) (bs : List Byte) : (putEeprom s a bs).pw.lower = s.pw.lower := rfl
@[simp] theorem putEeprom_tm (a : Nat) (bs : List Byte) : (putEeprom s a bs).tm = s.tm := rfl
@[simp] theorem putEeprom_mx (a : Nat) (bs : List Byte) : (putEeprom s a bs).mx = s.mx := rfl
@[simp] theorem putEeprom_fn (a : Nat) (bs : List Byte) : (putEeprom s a bs).fn = s.fn := rfl
@[simp] theorem putEeprom_fnBad (a : Nat) (bs : List Byte) : (putEeprom s a bs).fnBad = s.fnBad := rfl
@[simp] theorem putEeprom_tp (a : Nat) (bs : List Byte) : (putEeprom s a bs).tp = s.tp := rfl
@[simp] theorem putEeprom_se (a : Nat) (bs : List Byte) : (putEeprom s a bs).se = s.se := rfl
@[simp] theorem putEeprom_ol (a : Nat) (bs : List Byte) : (putEeprom s a bs).ol = s.ol := rfl
@[simp] theorem putEeprom_ce (a : Nat) (bs : List Byte) : (putEeprom s a bs).ce = s.ce := rfl

end Sys2Proof.Machine
end

