-- ==== Sys2Proof/Laws/Frames.lean ====
section
/-! SUPPORT. Frames: how `OnlyParts` composes, and the frame of each shared operation. A frame of a meaning follows by `trans`
from those of the operations that it is made of. -/

namespace Sys2Proof.Machine

variable {ps qs : List Part} {s t u : State}

theorem OnlyParts.refl (ps : List Part) (s : State) : OnlyParts ps s s := fun p _ => by cases p <;> simp [Part.same]

theorem Part.same_trans {p : Part} (h : Part.same s t p) (k : Part.same t u p) : Part.same s u p := by
  cases p <;> simp_all [Part.same]

theorem OnlyParts.trans (h : OnlyParts ps s t) (k : OnlyParts ps t u) : OnlyParts ps s u :=
  fun p hp => Part.same_trans (h p hp) (k p hp)

theorem OnlyParts.mono (h : OnlyParts ps s t) (hq : ps ⊆ qs) : OnlyParts qs s t := fun p hp => h p (fun hm => hp (hq hm))

theorem OnlyParts.ite {b : Prop} [Decidable b] (h : OnlyParts ps s t) (k : OnlyParts ps s u) :
    OnlyParts ps s (if b then t else u) := by split <;> assumption

/-- A fold changes only what each of its steps changes. -/
theorem OnlyParts.foldl {α : Type} {f : State → α → State} (h : ∀ t x, OnlyParts ps t (f t x)) (l : List α) (s : State) :
    OnlyParts ps s (l.foldl f s) := by
  induction l generalizing s with
  | nil => exact OnlyParts.refl ps s
  | cons x l ih => exact (h s x).trans (ih (f s x))

theorem wreg_only (s : State) (o : Nat) (w : Word) : OnlyParts [.regs] s (wreg s o w) := fun p hp => by
  cases p <;> simp_all [Part.same]

theorem wcnt_only (s : State) (o : Nat) (v : DWord) : OnlyParts [.counts] s (wcnt s o v) := fun p hp => by
  cases p <;> simp_all [Part.same]

theorem emit_only (s : State) (o : Output) : OnlyParts [.out] s (emit s o) := fun p hp => by
  cases p <;> simp_all [Part.same]

theorem setRing_only (s : State) (n : Nat) (r : Ring) : OnlyParts [.rings] s (setRing s n r) := fun p hp => by
  cases p <;> simp_all [Part.same]

theorem modJob_only (s : State) (n : Nat) (f : Job → Job) : OnlyParts [.jobs] s (modJob s n f) := fun p hp => by
  cases p <;> simp_all [Part.same]

theorem setPeg_only (s : State) (p i : Nat) (v : DWord) : OnlyParts [.pegs] s (setPeg s p i v) := fun p hp => by
  cases p <;> simp_all [Part.same]

theorem setMsix_only (s : State) (g : Nat) (m : Msix) : OnlyParts [.msix] s (setMsix s g m) := fun p hp => by
  cases p <;> simp_all [Part.same]

theorem setOwn_only (s : State) (p a : Nat) (g : Option Page) : OnlyParts [.pages] s (setOwn s p a g) := fun p hp => by
  cases p <;> simp_all [Part.same]

theorem modStore_only (s : State) (p n : Nat) (f : PatEntry → PatEntry) : OnlyParts [.pats] s (modStore s p n f) := fun p hp => by
  cases p <;> simp_all [Part.same]

/-- A page's record lies with the region's own pages or in the pattern store. -/
theorem setPage_only (s : State) (p a : Nat) (g : Option Page) : OnlyParts [.pages, .pats] s (setPage s p a g) := by
  unfold setPage
  split
  · exact (modStore_only s p _ _).mono (by simp)
  · exact (setOwn_only s p a g).mono (by simp)

theorem setHolds_only (s : State) (p a n : Nat) : OnlyParts [.holds] s (setHolds s p a n) := fun p hp => by
  cases p <;> simp_all [Part.same]

theorem modObj_only (s : State) (p n : Nat) (f : Obj → Obj) : OnlyParts [.objs] s (modObj s p n f) := fun p hp => by
  cases p <;> simp_all [Part.same]

theorem modRegion_only (s : State) (p n : Nat) (f : Region → Region) : OnlyParts [.regions] s (modRegion s p n f) := fun p hp => by
  cases p <;> simp_all [Part.same]

theorem modIndex_only (s : State) (p n : Nat) (f : Index → Index) : OnlyParts [.indexes] s (modIndex s p n f) := fun p hp => by
  cases p <;> simp_all [Part.same]

theorem dropWaits_only (s : State) (n : Nat) : OnlyParts [.waits] s (dropWaits s n) := fun p hp => by
  cases p <;> simp_all [Part.same]

theorem eraseAt_only (s : State) (k a n : Nat) : OnlyParts [.mem, .nans, .soil] s (eraseAt s k a n) := fun p hp => by
  cases p <;> simp_all [Part.same]

theorem setArr_only (s : State) (c a : Nat) (x : Arr) : OnlyParts [.arrays] s (setArr s c a x) := fun p hp => by
  cases p <;> simp_all [Part.same]

theorem setProg_only (s : State) (p k : Nat) (x : Option FnProg) : OnlyParts [.programs] s (setProg s p k x) := fun p hp => by
  cases p <;> simp_all [Part.same]

theorem setTpSlot_only (s : State) (p k : Nat) (x : Option TpProg) : OnlyParts [.tileProgs] s (setTpSlot s p k x) := fun p hp => by
  cases p <;> simp_all [Part.same]

theorem setTicket_only (s : State) (p k : Nat) (x : Ticket) : OnlyParts [.tickets] s (setTicket s p k x) := fun p hp => by
  cases p <;> simp_all [Part.same]

theorem setQueue_only (s : State) (q : Nat) (x : Queue) : OnlyParts [.queues] s (setQueue s q x) := fun p hp => by
  cases p <;> simp_all [Part.same]

theorem setPort_only (s : State) (n : Nat) (x : Port) : OnlyParts [.ports] s (setPort s n x) := fun p hp => by
  cases p <;> simp_all [Part.same]

theorem setGrp_only (s : State) (g : Nat) (x : Option Grp) : OnlyParts [.groups] s (setGrp s g x) := fun p hp => by
  cases p <;> simp_all [Part.same]

theorem setSnap_only (s : State) (k : Nat) (x : Snap) : OnlyParts [.snaps] s (setSnap s k x) := fun p hp => by
  cases p <;> simp_all [Part.same]

theorem setAdvert_only (s : State) (n : Nat) (a : Option Advert) : OnlyParts [.adverts] s (setAdvert s n a) := fun p hp => by
  cases p <;> simp_all [Part.same]

theorem putEeprom_only (s : State) (a : Nat) (bs : List Byte) : OnlyParts [.eeprom] s (putEeprom s a bs) := fun p hp => by
  cases p <;> simp_all [Part.same]

theorem wfield_only (s : State) (o l n v : Nat) : OnlyParts [.regs] s (wfield s o l n v) := wreg_only s o _

theorem addCnt_only (s : State) (o k : Nat) : OnlyParts [.counts] s (addCnt s o k) := wcnt_only s o _

theorem count_only (s : State) (i k : Nat) : OnlyParts [.counts] s (count s i k) :=
  OnlyParts.ite (addCnt_only s _ k) (OnlyParts.refl _ s)

/-- Setting a Stain bit changes only that register and the Stain log. -/
theorem setStain_only (s : State) (o b : Nat) : OnlyParts [.regs, .log] s (setStain s o b) := by
  intro p hp
  unfold setStain
  split
  · exact OnlyParts.refl _ s p hp
  · dsimp only
    split
    · exact (wreg_only s o _).mono (by simp) p hp
    · split <;> cases p <;> simp_all [Part.same]

theorem stainIf_only (c : Bool) (s : State) (o b : Nat) : OnlyParts [.regs, .log] s (stainIf c s o b) :=
  OnlyParts.ite (setStain_only s o b) (OnlyParts.refl _ s)

theorem send_only (s : State) (m : Msg) : OnlyParts [.out] s (send s m) := emit_only s _

theorem finish_only (s : State) (n : Nat) (e : Ending) : OnlyParts [.jobs] s (finish s n e) := modJob_only s n _

theorem keepRunning_only (s : State) (n : Nat) : OnlyParts [.jobs] s (keepRunning s n) := modJob_only s n _

theorem addPeg_only (s : State) (p i : Nat) (v : DWord) : OnlyParts [.pegs] s (addPeg s p i v) := setPeg_only s p i _

/-- Raising a vector sends a message, marks it pending, or owes the message. -/
theorem raise_only (s : State) (g : Nat) : OnlyParts [.msix, .out, .owed] s (raise s g) := by
  intro p hp
  unfold raise
  dsimp only
  split
  · exact (setMsix_only s g _).mono (by simp) p hp
  · split
    · exact (emit_only s _).mono (by simp) p hp
    · unfold owe
      split <;> cases p <;> simp_all [Part.same]

theorem hostPut_only (s : State) (f a : Nat) (bs : List Byte) (b : Bool) : OnlyParts [.counts, .out] s (hostPut s f a bs b) :=
  ((emit_only s _).mono (by simp)).trans ((count_only _ _ _).mono (by simp))

/-- A write of bytes changes only memory, its soil and the gradient marks. -/
theorem writeAt_only (s : State) (k a : Nat) (bs : List Byte) (f : Nat → Bool) :
    OnlyParts [.mem, .soil, .nans] s (writeAt s k a bs f) := by
  intro p hp
  unfold writeAt
  split
  · exact OnlyParts.refl _ s p hp
  · cases p <;> simp_all [Part.same]

end Sys2Proof.Machine
end

