-- ==== Sys2Proof/Laws/Jobs.lean ====
section
/-! SUPPORT. Descriptors: what the shared operations over them do to the one named and leave of the others. -/

namespace Sys2Proof.Machine

variable {s t : State} {n k : Nat} {j : Job}

theorem job?_id (h : job? s n = some j) : j.id = n := by
  simpa using List.find?_some h

theorem job?_congr (h : t.hp.jobs = s.hp.jobs) (n : Nat) : job? t n = job? s n := by simp [job?, h]

theorem find?_map_same {f : Job → Job} (hf : ∀ j, (f j).id = j.id) (l : List Job) (n : Nat) :
    (l.map (fun j => if j.id = n then f j else j)).find? (fun j => j.id == n) = (l.find? (fun j => j.id == n)).map f := by
  induction l with
  | nil => rfl
  | cons a l ih =>
    by_cases h : a.id = n
    · simp [h, hf]
    · simp [h, ih]

theorem find?_map_other {f : Job → Job} (hf : ∀ j, (f j).id = j.id) (l : List Job) {n k : Nat} (hk : k ≠ n) :
    (l.map (fun j => if j.id = n then f j else j)).find? (fun j => j.id == k) = l.find? (fun j => j.id == k) := by
  induction l with
  | nil => rfl
  | cons a l ih =>
    by_cases h : a.id = n
    · have : ¬ n = k := fun e => hk e.symm
      simp [h, hf, this, ih]
    · simp [h, List.find?_cons, ih]

/-- The named descriptor after a change of it. -/
theorem job?_modJob {f : Job → Job} (hf : ∀ j, (f j).id = j.id) (h : job? s n = some j) :
    job? (modJob s n f) n = some (f j) := by
  have := find?_map_same hf s.hp.jobs n
  unfold job? at h
  simp only [h, Option.map_some] at this
  exact this

/-- Every other descriptor after a change of one. -/
theorem otherJobs_modJob {f : Job → Job} (hf : ∀ j, (f j).id = j.id) : OtherJobs n s (modJob s n f) :=
  fun _ hk => find?_map_other hf s.hp.jobs hk

/-- A descriptor that is finished is decided with the ending. -/
theorem decided_finish (h : job? s n = some j) (e : Ending) : Decided (finish s n e) n e.1 e.2 :=
  ⟨_, job?_modJob (fun _ => rfl) h, rfl, rfl, rfl⟩

theorem otherJobs_finish (e : Ending) : OtherJobs n s (finish s n e) := otherJobs_modJob (fun _ => rfl)

theorem runs_keepRunning (h : job? s n = some j) : Runs (keepRunning s n) n :=
  ⟨_, job?_modJob (fun _ => rfl) h, rfl⟩

theorem otherJobs_keepRunning : OtherJobs n s (keepRunning s n) := otherJobs_modJob (fun _ => rfl)

theorem OtherJobs.trans {u : State} (h : OtherJobs n s t) (g : OtherJobs n t u) : OtherJobs n s u :=
  fun k hk => (g k hk).trans (h k hk)

theorem OtherJobs.of_jobs (h : t.hp.jobs = s.hp.jobs) : OtherJobs n s t := fun k _ => job?_congr h k

/-- What stands ready for an operation: the descriptor with the number, begun and not yet acted on, with the opcode. -/
theorem opJob_some {op : Nat} : opJob s n op = some j ↔ job? s n = some j ∧ j.phase = .checked ∧ j.opcode = op := by
  unfold opJob
  cases h : job? s n with
  | none => simp
  | some k =>
    simp only
    split
    · rename_i hk
      constructor
      · rintro ⟨⟩
        exact ⟨rfl, hk⟩
      · rintro ⟨⟨⟩, _⟩
        rfl
    · rename_i hk
      constructor
      · intro h; cases h
      · rintro ⟨⟨⟩, g⟩
        exact absurd g hk

/-- An operation's row acts where its descriptor stands ready. -/
theorem runOp_ready {op : Nat} {f : Job → State} (h : opJob s n op = some j) : runOp s n op f = .next (f j) := by
  simp [runOp, h]

/-- An operation's row without its descriptor leaves the state. -/
theorem runOp_none {op : Nat} {f : Job → State} (h : opJob s n op = none) : runOp s n op f = .next s := by
  simp [runOp, h]

end Sys2Proof.Machine
end

