-- ==== Sys2Proof/Laws/Tab.lean ====
section
/-! SUPPORT. The laws of sparse tables: what a read gives after a write, and that every operation keeps the canonical form. -/

namespace Sys2Proof.Machine

variable {α : Type} {d : Nat → α}

/-! ## Reads -/

/-- An unlisted key reads as the default. -/
theorem tget_of_not_mem {t : Tab α} {k : Nat} (h : ∀ e ∈ t, e.1 ≠ k) : tget d t k = d k := by
  induction t with
  | nil => rfl
  | cons e t ih =>
    obtain ⟨a, v⟩ := e
    have h1 : a ≠ k := h (a, v) List.mem_cons_self
    simp only [tget, if_neg h1]
    exact ih (fun e he => h e (List.mem_cons_of_mem _ he))

/-- A key that lies before every listed one reads as the default. -/
theorem tget_of_lt {t : Tab α} {k : Nat} (h : ∀ e ∈ t, k < e.1) : tget d t k = d k :=
  tget_of_not_mem (fun e he => Nat.ne_of_gt (h e he))

theorem mem_tdel {t : Tab α} {k : Nat} {e : Nat × α} : e ∈ tdel t k ↔ e ∈ t ∧ e.1 ≠ k := by
  simp [tdel]

theorem tget_tdel_same {t : Tab α} {k : Nat} : tget d (tdel t k) k = d k :=
  tget_of_not_mem (fun _ he => (mem_tdel.mp he).2)

theorem tget_filter {t : Tab α} {k : Nat} {f : Nat × α → Bool} (h : ∀ e ∈ t, e.1 = k → f e = true) :
    tget d (t.filter f) k = tget d t k := by
  induction t with
  | nil => rfl
  | cons e t ih =>
    obtain ⟨a, v⟩ := e
    have ih' := ih (fun e he => h e (List.mem_cons_of_mem _ he))
    by_cases hf : f (a, v) = true
    · simp [hf, tget, ih']
    · have ha : a ≠ k := fun hk => hf (h (a, v) List.mem_cons_self hk)
      simp [hf, tget, ha, ih']

theorem tget_tdel_ne {t : Tab α} {k j : Nat} (h : j ≠ k) : tget d (tdel t k) j = tget d t j :=
  tget_filter (fun e _ he => by simp [he, h])

theorem tget_tput_same {t : Tab α} {k : Nat} {v : α} (h : ∀ e ∈ t, e.1 ≠ k) : tget d (tput t k v) k = v := by
  induction t with
  | nil => simp [tput, tget]
  | cons e t ih =>
    obtain ⟨a, w⟩ := e
    have h1 : a ≠ k := h (a, w) List.mem_cons_self
    simp only [tput]
    split
    · simp [tget]
    · rw [if_neg (Ne.symm h1)]
      simp [tget, h1, ih (fun e he => h e (List.mem_cons_of_mem _ he))]

theorem tget_tput_ne {t : Tab α} {k j : Nat} {v : α} (h : j ≠ k) : tget d (tput t k v) j = tget d t j := by
  induction t with
  | nil => simp [tput, tget, Ne.symm h]
  | cons e t ih =>
    obtain ⟨a, w⟩ := e
    simp only [tput]
    split
    · simp [tget, Ne.symm h]
    · split
      · subst_vars
        simp [tget, Ne.symm h]
      · simp [tget, ih]

variable [DecidableEq α]

/-- A write is read back. -/
@[simp] theorem tget_tset_same {t : Tab α} {k : Nat} {v : α} : tget d (tset d t k v) k = v := by
  unfold tset
  split
  · rename_i h
    rw [tget_tdel_same, h]
  · exact tget_tput_same (fun _ he => (mem_tdel.mp he).2)

/-- A write leaves every other key alone. -/
theorem tget_tset_ne {t : Tab α} {k j : Nat} {v : α} (h : j ≠ k) : tget d (tset d t k v) j = tget d t j := by
  unfold tset
  split
  · exact tget_tdel_ne h
  · rw [tget_tput_ne h, tget_tdel_ne h]

theorem tget_tset {t : Tab α} {k j : Nat} {v : α} : tget d (tset d t k v) j = if j = k then v else tget d t j := by
  split
  · subst_vars
    exact tget_tset_same
  · exact tget_tset_ne ‹_›

/-! ## The canonical form -/

omit [DecidableEq α] in
/-- Any selection of a canonical table is canonical. -/
theorem Tab.wf_filter {t : Tab α} {f : Nat × α → Bool} (h : Tab.wf d t) : Tab.wf d (t.filter f) :=
  ⟨h.1.filter _, fun e he => h.2 e (List.mem_filter.mp he).1⟩

omit [DecidableEq α] in
theorem Tab.wf_tdel {t : Tab α} {k : Nat} (h : Tab.wf d t) : Tab.wf d (tdel t k) := Tab.wf_filter h

omit [DecidableEq α] in
theorem Tab.wf_tdrop {t : Tab α} {f : Nat → Bool} (h : Tab.wf d t) : Tab.wf d (tdrop t f) := Tab.wf_filter h

omit [DecidableEq α] in
theorem mem_tput {t : Tab α} {k : Nat} {v : α} {e : Nat × α} (h : e ∈ tput t k v) : e = (k, v) ∨ e ∈ t := by
  induction t with
  | nil => simpa [tput] using h
  | cons x t ih =>
    obtain ⟨a, w⟩ := x
    simp only [tput] at h
    split at h
    · simpa using h
    · split at h
      · rcases List.mem_cons.mp h with h | h
        · exact .inl h
        · exact .inr (List.mem_cons_of_mem _ h)
      · rcases List.mem_cons.mp h with h | h
        · exact .inr (h ▸ List.mem_cons_self)
        · rcases ih h with h | h
          · exact .inl h
          · exact .inr (List.mem_cons_of_mem _ h)

omit [DecidableEq α] in
theorem Tab.wf_tput {t : Tab α} {k : Nat} {v : α} (h : Tab.wf d t) (hv : v ≠ d k) : Tab.wf d (tput t k v) := by
  refine ⟨?_, fun e he => ?_⟩
  · induction t with
    | nil => simp [tput]
    | cons x t ih =>
      obtain ⟨a, w⟩ := x
      have hp := List.pairwise_cons.mp h.1
      have ht : Tab.wf d t := ⟨hp.2, fun e he => h.2 e (List.mem_cons_of_mem _ he)⟩
      simp only [tput]
      split
      · rename_i hk
        refine List.pairwise_cons.mpr ⟨fun e he => ?_, h.1⟩
        rcases List.mem_cons.mp he with he | he
        · exact he ▸ hk
        · exact Nat.lt_trans hk (hp.1 e he)
      · split
        · subst_vars
          exact List.pairwise_cons.mpr ⟨hp.1, hp.2⟩
        · refine List.pairwise_cons.mpr ⟨fun e he => ?_, ih ht⟩
          rcases mem_tput he with he | he
          · subst he
            show a < k
            omega
          · exact hp.1 e he
  · rcases mem_tput he with he | he
    · exact he ▸ hv
    · exact h.2 e he

/-- A write keeps the canonical form. -/
theorem Tab.wf_tset {t : Tab α} {k : Nat} {v : α} (h : Tab.wf d t) : Tab.wf d (tset d t k v) := by
  unfold tset
  split
  · exact Tab.wf_tdel h
  · exact Tab.wf_tput (Tab.wf_tdel h) ‹_›

/-- A write of many keeps the canonical form. -/
theorem Tab.wf_tsetMany {t : Tab α} {k : Nat} {vs : List α} (h : Tab.wf d t) : Tab.wf d (tsetMany d t k vs) := by
  have key : ∀ e ∈ (vs.zipIdx k).map (fun e => (e.2, e.1)), k ≤ e.1 ∧ e.1 < k + vs.length := by
    intro e he
    obtain ⟨x, hx, rfl⟩ := List.mem_map.mp he
    have := List.mem_zipIdx hx
    exact ⟨this.1, this.2.1⟩
  have sorted : ((vs.zipIdx k).map (fun e => (e.2, e.1))).Pairwise (fun a b => a.1 < b.1) := by
    rw [List.pairwise_map]
    clear key
    induction vs generalizing k with
    | nil => simp
    | cons v vs ih =>
      simp only [List.zipIdx_cons, List.pairwise_cons]
      refine ⟨fun e he => ?_, ih⟩
      have := (List.mem_zipIdx he).1
      show k < e.2
      omega
  refine ⟨?_, fun e he => ?_⟩
  · unfold tsetMany
    refine List.pairwise_append.mpr ⟨List.pairwise_append.mpr ⟨h.1.filter _, sorted.filter _, ?_⟩, h.1.filter _, ?_⟩
    · intro a ha b hb
      have h1 := (List.mem_filter.mp ha).2
      have h2 := key b (List.mem_filter.mp hb).1
      simp only [decide_eq_true_eq] at h1
      omega
    · intro a ha b hb
      have h2 := (List.mem_filter.mp hb).2
      simp only [decide_eq_true_eq] at h2
      rcases List.mem_append.mp ha with ha | ha
      · have h1 := (List.mem_filter.mp ha).2
        simp only [decide_eq_true_eq] at h1
        omega
      · have := key a (List.mem_filter.mp ha).1
        omega
  · unfold tsetMany at he
    rcases List.mem_append.mp he with he | he
    · rcases List.mem_append.mp he with he | he
      · exact h.2 e (List.mem_filter.mp he).1
      · simpa using (List.mem_filter.mp he).2
    · exact h.2 e (List.mem_filter.mp he).1

/-! ## Reads after a write of many -/

omit [DecidableEq α] in
theorem tget_append_left {a b : Tab α} {k : Nat} (h : ∀ e ∈ a, e.1 ≠ k) : tget d (a ++ b) k = tget d b k := by
  induction a with
  | nil => rfl
  | cons e a ih =>
    obtain ⟨x, v⟩ := e
    have hx : x ≠ k := h (x, v) List.mem_cons_self
    simp only [List.cons_append, tget, if_neg hx]
    exact ih (fun e he => h e (List.mem_cons_of_mem _ he))

omit [DecidableEq α] in
theorem tget_append_right {a b : Tab α} {k : Nat} (h : ∀ e ∈ b, e.1 ≠ k) : tget d (a ++ b) k = tget d a k := by
  induction a with
  | nil => exact tget_of_not_mem h
  | cons e a ih =>
    obtain ⟨x, v⟩ := e
    simp only [List.cons_append, tget, ih]

omit [DecidableEq α] in
/-- The keys of a run of values. -/
theorem mem_run {vs : List α} {k : Nat} {e : Nat × α} (h : e ∈ (vs.zipIdx k).map (fun e => (e.2, e.1))) :
    k ≤ e.1 ∧ e.1 < k + vs.length := by
  obtain ⟨x, hx, rfl⟩ := List.mem_map.mp h
  have := List.mem_zipIdx hx
  exact ⟨this.1, this.2.1⟩

theorem tget_run {vs : List α} {k i : Nat} (h : i < vs.length) :
    tget d (((vs.zipIdx k).map (fun e => (e.2, e.1))).filter (fun e => decide (e.2 ≠ d e.1))) (k + i) = vs[i] := by
  induction vs generalizing k i with
  | nil => simp at h
  | cons v vs ih =>
    simp only [List.zipIdx_cons, List.map_cons, List.filter_cons]
    cases i with
    | zero =>
      split
      · simp [tget]
      · rename_i hv
        have hv' : v = d k := by simpa using hv
        have : tget d (((vs.zipIdx (k + 1)).map (fun e => (e.2, e.1))).filter (fun e => decide (e.2 ≠ d e.1))) k = d k :=
          tget_of_lt (fun e he => (mem_run (List.mem_filter.mp he).1).1)
        simpa [hv'] using this
    | succ i =>
      have hi : i < vs.length := by simpa using h
      have h2 := ih (k := k + 1) hi
      have h3 : k + 1 + i = k + (i + 1) := by omega
      rw [h3] at h2
      split
      · have : k ≠ k + (i + 1) := by omega
        simp only [tget, if_neg this]
        simpa using h2
      · simpa using h2

/-- A key that a write of many covers reads as its value. -/
theorem tget_tsetMany_in {t : Tab α} {k i : Nat} {vs : List α} (h : i < vs.length) :
    tget d (tsetMany d t k vs) (k + i) = vs[i] := by
  unfold tsetMany
  rw [tget_append_right, tget_append_left, tget_run h]
  · intro e he
    have := (List.mem_filter.mp he).2
    simp only [decide_eq_true_eq] at this
    omega
  · intro e he
    have := (List.mem_filter.mp he).2
    simp only [decide_eq_true_eq] at this
    omega

/-- A key that it does not cover reads as before. -/
theorem tget_tsetMany_out {t : Tab α} {k q : Nat} {vs : List α} (h : q < k ∨ k + vs.length ≤ q) :
    tget d (tsetMany d t k vs) q = tget d t q := by
  have mid : ∀ e ∈ ((vs.zipIdx k).map (fun e => (e.2, e.1))).filter (fun e => decide (e.2 ≠ d e.1)), e.1 ≠ q := by
    intro e he
    have := mem_run (List.mem_filter.mp he).1
    omega
  unfold tsetMany
  rcases h with h | h
  · rw [tget_append_right, tget_append_right mid, tget_filter]
    · intro e _ he
      simp [he, h]
    · intro e he
      have := (List.mem_filter.mp he).2
      simp only [decide_eq_true_eq] at this
      omega
  · rw [List.append_assoc, tget_append_left, tget_append_left mid, tget_filter]
    · intro e _ he
      simp [he, h]
    · intro e he
      have := (List.mem_filter.mp he).2
      simp only [decide_eq_true_eq] at this
      omega

end Sys2Proof.Machine
end

