-- ==== Sys2Proof/Laws/Mem.lean ====
section
/-! SUPPORT. Memory: every operation over it keeps the canonical form; reads after writes. -/

namespace Sys2Proof.Machine

variable {s : State}

theorem reset_mem_wf : Memory.wf State.reset.tm.mem := by
  simp [State.reset, tmReset, Memory.wf, Tab.wf]

/-- Writing bytes keeps the canonical form. -/
theorem writeAt_wf {k a : Nat} {bs : List Byte} {f : Nat → Bool} (h : Memory.wf s.tm.mem) :
    Memory.wf (writeAt s k a bs f).tm.mem := by
  unfold writeAt
  split
  · exact h
  · exact Tab.wf_tsetMany h

/-- Dropping bytes keeps the canonical form. -/
theorem eraseAt_wf {k a n : Nat} (h : Memory.wf s.tm.mem) : Memory.wf (eraseAt s k a n).tm.mem := by
  show Tab.wf byte0 (tdrop s.tm.mem (fun q => decide (akey k a ≤ q) && decide (q < akey k a + n)))
  exact Tab.wf_tdrop h

/-- Writes one byte at a time, as restored checkpoints and attached nodes are written, keep the canonical form. -/
theorem foldl_tset_wf {x : Nat} {l : List (Nat × Byte)} {m : Tab Byte} (h : Memory.wf m) :
    Memory.wf (l.foldl (fun m e => tset byte0 m (x + e.1) e.2) m) := by
  induction l generalizing m with
  | nil => exact h
  | cons e l ih => exact ih (Tab.wf_tset h)

/-- A fold keeps the canonical form where each of its steps does. -/
theorem foldl_mem_wf {α : Type} {f : State → α → State} (hf : ∀ t x, Memory.wf t.tm.mem → Memory.wf (f t x).tm.mem)
    (l : List α) (h : Memory.wf s.tm.mem) : Memory.wf (l.foldl f s).tm.mem := by
  induction l generalizing s with
  | nil => exact h
  | cons x l ih => exact ih (hf s x h)

/-- Filling with free values keeps the canonical form. -/
theorem freeFill_wf {x : Span} (h : Memory.wf s.tm.mem) : Memory.wf (freeFill s x).tm.mem := by
  unfold freeFill
  dsimp only
  split
  · exact writeAt_wf h
  · refine foldl_mem_wf (fun t e ht => ?_) _ h
    split
    · exact ht
    · exact writeAt_wf ht

/-- A byte written reads back. -/
theorem byteAt_writeAt_in {k a i : Nat} {bs : List Byte} {f : Nat → Bool} (h : i < bs.length) :
    byteAt (writeAt s k a bs f) k (a + i) = bs[i] := by
  have hb : bs.isEmpty = false := by cases bs <;> simp_all
  have : akey k (a + i) = akey k a + i := by simp [akey]; omega
  simp only [writeAt, hb, byteAt, this]
  exact tget_tsetMany_in h

/-- Bytes of the same place outside a write read as before. -/
theorem byteAt_writeAt_out {k a b : Nat} {bs : List Byte} {f : Nat → Bool} (h : b < a ∨ a + bs.length ≤ b) :
    byteAt (writeAt s k a bs f) k b = byteAt s k b := by
  unfold writeAt
  split
  · rfl
  · simp only [byteAt]
    exact tget_tsetMany_out (by simp [akey]; omega)

/-- Bytes of another place read as before a write that stays below 2^52. -/
theorem byteAt_writeAt_place {k q a b : Nat} {bs : List Byte} {f : Nat → Bool} (hq : q ≠ k) (ha : a + bs.length ≤ 2 ^ 52)
    (hb : b < 2 ^ 52) : byteAt (writeAt s k a bs f) q b = byteAt s q b := by
  unfold writeAt
  split
  · rfl
  · simp only [byteAt]
    refine tget_tsetMany_out ?_
    unfold akey
    rcases Nat.lt_or_gt_of_ne hq with h | h
    · left
      have : (q + 1) * 2 ^ 52 ≤ k * 2 ^ 52 := Nat.mul_le_mul_right _ h
      omega
    · right
      have : (k + 1) * 2 ^ 52 ≤ q * 2 ^ 52 := Nat.mul_le_mul_right _ h
      omega

end Sys2Proof.Machine
end

