-- ==== Sys2Proof/Laws/Regs.lean ====
section
/-! SUPPORT. Registers and their fields: what a read gives after a write. -/

namespace Sys2Proof.Machine

variable {s t : State}

@[simp] theorem rreg_wreg_same (s : State) (o : Nat) (w : Word) : rreg (wreg s o w) o = w := tget_tset_same

theorem rreg_wreg_ne {o p : Nat} {w : Word} (h : p ≠ o) : rreg (wreg s o w) p = rreg s p := tget_tset_ne h

theorem rreg_congr (h : t.regs = s.regs) (o : Nat) : rreg t o = rreg s o := by simp [rreg, h]

theorem otherRegs_wreg (s : State) (o : Nat) (w : Word) : OtherRegs [o] s (wreg s o w) :=
  fun p hp => rreg_wreg_ne (by simpa using hp)

theorem otherRegs_wfield (s : State) (o lo len v : Nat) : OtherRegs [o] s (wfield s o lo len v) := otherRegs_wreg s o _

theorem OtherRegs.of_regs (l : List Nat) (h : t.regs = s.regs) : OtherRegs l s t := fun o _ => rreg_congr h o

theorem OtherRegs.trans {l : List Nat} {u : State} (h : OtherRegs l s t) (k : OtherRegs l t u) : OtherRegs l s u :=
  fun o ho => (k o ho).trans (h o ho)

theorem OtherRegs.mono {l m : List Nat} (h : OtherRegs l s t) (hl : l ⊆ m) : OtherRegs m s t := fun o ho => h o (fun hm => ho (hl hm))

/-- A field written reads back. -/
theorem bitsOf_putBits_same (w : Word) {lo len v : Nat} (h : lo + len ≤ 32) :
    bitsOf (putBits w lo len v).toNat lo len = v % 2 ^ len := by
  have hw : w.toNat < 2 ^ 32 := w.isLt
  have h1 : 2 ^ lo * 2 ^ len ≤ 2 ^ 32 := by
    rw [← pow_add]
    exact Nat.pow_le_pow_right (by decide) h
  have hp : 0 < 2 ^ lo := Nat.two_pow_pos lo
  have hq : 0 < 2 ^ len := Nat.two_pow_pos len
  have hf : bitsOf w.toNat lo len * 2 ^ lo ≤ w.toNat := by
    unfold bitsOf
    exact (Nat.mul_le_mul_right _ (Nat.mod_le _ _)).trans (Nat.div_mul_le_self _ _)
  -- the number written, by its three parts
  obtain ⟨r, hr, hi, hh⟩ : ∃ r, r < 2 ^ lo ∧ ∃ hi, w.toNat = (hi * 2 ^ len + bitsOf w.toNat lo len) * 2 ^ lo + r := by
    refine ⟨w.toNat % 2 ^ lo, Nat.mod_lt _ hp, w.toNat / 2 ^ lo / 2 ^ len, ?_⟩
    unfold bitsOf
    rw [Nat.div_add_mod' (w.toNat / 2 ^ lo) (2 ^ len), Nat.div_add_mod']
  have hv : v % 2 ^ len < 2 ^ len := Nat.mod_lt _ hq
  have e : w.toNat - bitsOf w.toNat lo len * 2 ^ lo + (v % 2 ^ len) * 2 ^ lo = (hi * 2 ^ len + v % 2 ^ len) * 2 ^ lo + r := by
    have : w.toNat = hi * 2 ^ len * 2 ^ lo + bitsOf w.toNat lo len * 2 ^ lo + r := by
      rw [Nat.add_mul] at hh
      exact hh
    have e2 : (hi * 2 ^ len + v % 2 ^ len) * 2 ^ lo = hi * 2 ^ len * 2 ^ lo + (v % 2 ^ len) * 2 ^ lo := by ring
    omega
  have hd : (2 ^ 32 : Nat) = 2 ^ lo * 2 ^ (32 - lo) := by
    rw [← pow_add]
    congr 1
    omega
  have hd2 : (2 : Nat) ^ (32 - lo) = 2 ^ len * 2 ^ (32 - lo - len) := by
    rw [← pow_add]
    congr 1
    omega
  unfold putBits
  rw [BitVec.toNat_ofNat, e]
  unfold bitsOf
  rw [hd, Nat.mod_mul_right_div_self]
  have hdiv : ((hi * 2 ^ len + v % 2 ^ len) * 2 ^ lo + r) / 2 ^ lo = hi * 2 ^ len + v % 2 ^ len := by
    rw [Nat.mul_comm, Nat.mul_add_div hp, Nat.div_eq_of_lt hr]
    rfl
  rw [hdiv, hd2, Nat.mod_mul_right_mod, Nat.mul_comm, Nat.mul_add_mod]
  exact Nat.mod_eq_of_lt hv

/-- A register field written reads back. -/
theorem rfield_wfield_same (s : State) (o : Nat) {lo len v : Nat} (h : lo + len ≤ 32) :
    rfield (wfield s o lo len v) o lo len = v % 2 ^ len := by
  simp only [rfield, wfield, rreg_wreg_same]
  exact bitsOf_putBits_same _ h

end Sys2Proof.Machine
end

