-- ==== Sys2Proof/WellFormed.lean ====
section
/-! DEFINITION. Which commands are well formed: operands that the sender's side of the spec bounds. Meanings are total and do not ask. -/

namespace Sys2Proof

/-- One soil flag for each 64 bytes or part of them (07 R246). -/
def Contribution.wf (c : Contribution) : Bool := c.soil.length == (c.data.length + 63) / 64

/-- As for a contribution (07 R212). -/
def Chunk.wf (c : Chunk) : Bool := c.soil.length == (c.data.length + 63) / 64

/-- Whole payload units, 64 at most, and an offset of whole units (12 R383). -/
def Frame.wf (f : Frame) : Bool := f.payload.length % 64 == 0 && decide (f.payload.length ≤ 4096) && f.offset.toNat % 64 == 0

/-- The frame of an arriving grant (07 R220). -/
def GrantEnd.wf (x : GrantEnd) : Bool := match x with
  | .give _ => true
  | .take _ fr _ => Frame.wf fr

/-- A 64-byte unit of a core buffer of 112 MiB (00 R1). -/
def unitWf (e : Fin 64 × Nat) : Bool := decide (64 * e.2 < 117440512)

/-- One of 2,048 columns of 256 slots (03 R81). -/
def slotWf (e : Fin 64 × Fin 4 × Nat × Nat) : Bool := decide (e.2.2.1 < 2048) && decide (e.2.2.2 < 256)

/-- A signed byte of degrees (15 R485). -/
def tempWf (t : Int) : Bool := decide (-128 ≤ t) && decide (t ≤ 127)

/-- A sample reads 17 temperatures, 12 stacks, ten rails, 13 energies and eight monitors (15 R461, R485; 14 R440). -/
def PowerSample.wf (x : PowerSample) : Bool :=
  x.temps.length == 17 && x.stackTemps.length == 12 && x.rates.length == 10 && x.energies.length == 13 && x.monitors.length == 8 &&
  x.temps.all tempWf && x.stackTemps.all tempWf

/-- Whether a command is well formed. -/
def Instr.wf (i : Instr) : Bool :=
  match i with
  | .registerWrite _ off _ => off.toNat % 4 == 0
  | .partCfgWrite _ _ => true
  | .partSuspend _ _ => true
  | .partResume _ _ => true
  | .partFlush _ => true
  | .partHeldFlush _ => true
  | .ringEnable _ _ _ => true
  | .ringDisable _ _ _ => true
  | .hpDbCmdTail _ _ _ => true
  | .hpDbCplHead _ _ _ => true
  | .pegWindowAdd _ _ _ _ => true
  | .msixUnmask _ _ => true
  | .descriptorFetch _ => true
  | .descriptorFetchFail => true
  | .descriptorBegin _ => true
  | .descriptorComplete _ => true
  | .heldCompletionWrite _ => true
  | .coalTimeExpire _ => true
  | .nop _ => true
  | .pegAdd _ => true
  | .pegSet _ => true
  | .hostWrite _ => true
  | .tpLoad _ => true
  | .tpUnload _ => true
  | .tpRun _ => true
  | .ticketRead _ => true
  | .ticketReset _ => true
  | .ticketDraw _ _ _ => true
  | .ticketComplete _ _ _ t _ => decide (t < 2 ^ 32)
  | .windowOpen _ => true
  | .windowClose _ => true
  | .remoteWrite _ => true
  | .remoteRead _ => true
  | .planLoad _ plan => plan.all (fun b => decide (b.length < 2 ^ 18))
  | .attest _ => true
  | .hold _ => true
  | .product _ => true
  | .productIssue _ _ => true
  | .productLanding _ _ => true
  | .drain _ => true
  | .drySpin _ => true
  | .dryspinRampStep _ _ => true
  | .needle _ => true
  | .apply _ => true
  | .gate _ => true
  | .stats _ => true
  | .norm _ => true
  | .softmax _ => true
  | .loadProgram _ => true
  | .unloadProgram _ => true
  | .press _ => true
  | .decodeBatch _ => true
  | .pressBackward _ => true
  | .finish _ => true
  | .pleat _ => true
  | .bound _ => true
  | .pressGradDrain _ => true
  | .kvCreate _ => true
  | .kvAppend _ => true
  | .kvAppendComplete _ => true
  | .kvTruncate _ => true
  | .kvFree _ => true
  | .kvAttach _ => true
  | .kvPublish _ => true
  | .recallBound _ => true
  | .recallSelect _ => true
  | .recallClose _ => true
  | .patternRebuild _ => true
  | .generationSwitch _ => true
  | .generationDrained _ => true
  | .objCreate _ => true
  | .objFree _ => true
  | .objPolicy _ => true
  | .prefetch _ => true
  | .release _ => true
  | .writeBack _ => true
  | .evict _ => true
  | .checkpoint _ => true
  | .restore _ => true
  | .checkpointDrop _ => true
  | .catalog _ => true
  | .keyLoad _ => true
  | .query _ => true
  | .tierFaultResolved _ va => decide (va < 2 ^ 52)
  | .spillEvict _ => true
  | .pageFetchDone _ va x => decide (va < 2 ^ 52) && decide x.lost.Nodup
  | .frameWriteDone _ va => decide (va < 2 ^ 52)
  | .hbmPatrolScrub _ _ _ _ => true
  | .sramScrub _ _ _ units x =>
    units.all unitWf && x.slots.all slotWf && x.pool.all (fun u => decide (u < 2 ^ 24)) && x.tables.all (fun e => decide (e.2.1.val < 0xA0))
  | .scPoolCfgWrite _ _ => true
  | .poolSplitDone _ => true
  | .groupCreate _ => true
  | .groupDestroy _ => true
  | .spin _ => true
  | .allReduce _ srcs => srcs.all Contribution.wf
  | .reduce _ srcs => srcs.all Contribution.wf
  | .reduceScatter _ srcs => srcs.all Contribution.wf
  | .allGather _ srcs => srcs.all Contribution.wf
  | .broadcast _ srcs => srcs.all Contribution.wf
  | .seqReduce _ srcs => srcs.all Contribution.wf
  | .barrier _ => true
  | .remotePegAdd _ => true
  | .joinFrameReceive _ fr _ _ _ => Frame.wf fr
  | .collFirstFrame _ fr _ _ _ => Frame.wf fr
  | .chunkArrival x => Frame.wf x.fr && Chunk.wf x.chunk
  | .spinSlotGrant x _ _ => GrantEnd.wf x
  | .mismatchNotice _ _ _ _ => true
  | .timeoutNotice _ _ _ _ => true
  | .lostNotice _ _ _ _ => true
  | .groupWatchdogExpire _ => true
  | .lagWindowEnd _ => true
  | .idxCreate _ => true
  | .idxFree _ => true
  | .insert _ => true
  | .delete _ => true
  | .search _ => true
  | .merge _ => true
  | .sortPageArrival _ _ => true
  | .carrierReady _ x => decide (x.spare.toNat ≤ 1000)
  | .carrierLinkFail _ => true
  | .arm _ => true
  | .swap _ => true
  | .halfReset _ => true
  | .transferIssue _ => true
  | .transferLanded _ _ host _ => decide (host.length ≤ 4096)
  | .mergeHoldExpire _ => true
  | .snapshot _ => true
  | .snapshotLatch _ => true
  | .snapshotRead _ => true
  | .tagDrain _ => true
  | .jobAbort _ => true
  | .powerCap _ => true
  | .retireCore _ => true
  | .retireThimble _ => true
  | .hbmRow _ _ _ pages => decide pages.Nodup
  | .sramRemap _ _ _ => true
  | .flashBlock _ _ => true
  | .retireLane _ => true
  | .obTagCfgWrite _ => true
  | .stainLogClear => true
  | .frayEvaluate ms => decide (ms.map (fun m => m.unit)).Nodup
  | .frayHistoryWrite => true
  | .portDisable _ => true
  | .portEnable _ => true
  | .portQuarantine _ => true
  | .portRelease _ => true
  | .lightReceived _ => true
  | .trainingComplete _ _ _ => true
  | .trainingRetry _ => true
  | .hello _ _ _ _ _ => true
  | .authSignature _ sig => sig.length == 49856
  | .lossOfLight _ _ => true
  | .laneBerFail _ _ => true
  | .laneChangeDone _ => true
  | .portSilenceTimeout _ => true
  | .idleFrameTimer _ => true
  | .linkAckTimer _ => true
  | .creditReturnTimer _ => true
  | .linkAck _ _ => true
  | .linkNak _ _ => true
  | .creditReturn _ _ k => decide (1 ≤ k) && decide (k ≤ 256)
  | .frameCrcFail _ _ _ => true
  | .frameWrite _ fr => Frame.wf fr
  | .frameReadRequest _ fr => Frame.wf fr && fr.payload.isEmpty && decide (1 ≤ fr.want) && decide (fr.want ≤ 4096)
  | .frameReadResponse _ fr => Frame.wf fr
  | .frameRefusal _ fr _ => Frame.wf fr
  | .frameAcknowledgement _ fr => Frame.wf fr
  | .remotePegAddFrame _ fr _ _ _ => Frame.wf fr
  | .jobListReceive _ jobs => decide (jobs.length ≤ 512) && decide jobs.Nodup
  | .jobAbortReceive _ _ _ _ _ _ => true
  | .snapshotTrigger _ _ _ _ _ => true
  | .powerCapBroadcast _ _ _ cap _ => decide (36 ≤ cap) && decide (cap ≤ 72)
  | .syncPairTimer _ => true
  | .syncFrame _ y => decide (y.hops < 32)
  | .advertExpire _ => true
  | .stitchLock _ => true
  | .joinTimeout => true
  | .coldReset _ => true
  | .perstAssert => true
  | .moduleResetCommand _ => true
  | .partitionReset _ => true
  | .partitionResetDone _ => true
  | .pcieHotReset => true
  | .vfEnable _ => true
  | .pcieLinkDown => true
  | .pcieLinkUp speed width _ => decide (4 ≤ speed.val) && decide (speed.val ≤ 6) && decide (1 ≤ width.val) && decide (width.val ≤ 16)
  | .hostGraceExpire => true
  | .hostStallBegin => true
  | .hostStallRetry _ => true
  | .busMasterEnable _ => true
  | .pwrEnDeassert => true
  | .inputFaultShutdown _ => true
  | .vinLow => true
  | .thermtrip => true
  | .leakDetect => true
  | .powerSample x => PowerSample.wf x
  | .railStep _ => true
  | .sysLimitPoll => true
  | .tcPwrCapWrite _ => true
  | .scheduledCapDue => true
  | .sysLimitWrite _ => true
  | .faultClear _ => true
  | .i2cEepromWrite _ addr bs => !bs.isEmpty && decide (addr.toNat + bs.length ≤ 65536)
  | .bootStart => true
  | .strapsDone _ => true
  | .go _ => true
  | .bootInputsFetched image record plan => image.all (fun b => decide (b.length ≤ 2 ^ 26)) && record.all (fun b => b.length == 64) && plan.all (fun b => decide (b.length < 2 ^ 18))
  | .bootLoadDone => true
  | .bringupDone => true
  | .hbmTrainingDone x => decide (x.spares.length ≤ 12)
  | .discoveryWindowClose => true
  | .pairLoRead _ off => off.toNat % 4 == 0
  | .bar4Read _ off len => decide (1 ≤ len) && decide (off + len ≤ 2 ^ 40)
  | .bar4Write _ off bs _ => !bs.isEmpty && decide (off + bs.length ≤ 2 ^ 40)
  | .laneLightReturn _ _ _ => true
  | .laneChangeNotice _ _ => true
  | .selftestDone _ => true
  | .standbyPowerLoss => true
  | .standbyPowerReturn => true
  | .inputPowerLoss => true
  | .garbageCollection _ x => decide (x.spare.toNat ≤ 1000) && decide (x.flash.map (fun e => e.1)).Nodup
  | .carrierLinkRetrain => true

end Sys2Proof
end

