-- ==== Sys2Proof/Tests/Slice0.lean ====
section
/-! SUPPORT. The author's own tests: what each statement assumes is met by a small state, ill-formed commands are refused, single
steps give what the spec says. -/

namespace Sys2Proof.Tests

open Sys2Proof.Machine

set_option Elab.async false

/-! ## Small states -/

/-- A descriptor slot: the opcode, and fields as (offset, value). -/
def slotOf (op : Nat) (fs : List (Nat × Nat)) : Slot := BitVec.ofNat 512 (op + (fs.map (fun f => f.2 * 2 ^ (8 * f.1))).sum)

/-- A READY module, alone, its host link up and every function's bus mastering enabled. -/
def up : State :=
  { wreg State.reset rBootStatus 0x70000000 with
    now := 1000
    hp := { hpReset with linkUp := true, bme := 511 }
    ob := { obReset with counting := true }
    pw := { pwReset with perst := false } }

/-- A booting module in boot state b. -/
def bootAt (b : Nat) : State :=
  { wreg State.reset rBootStatus (BitVec.ofNat 32 (b * 2 ^ 28)) with
    now := 1000
    hp := { hpReset with linkUp := true, bme := 511 }
    pw := { pwReset with perst := false } }

/-- Descriptor 0 on ring 0 in a phase, with an extension. -/
def jobOn (ring id : Nat) (ph : Phase) (raw : Slot) (ext : Option Slot) : Job :=
  ⟨id, ring, raw, ext, false, 0, ph, false, if ph = .fetched then 0 else id + 1, [], false, 0, 0, 0, false, false, 0, 0, false,
      255, 0, 0, []⟩

/-- A further descriptor, which has seen its partition's regions if it has begun. -/
def withJob (s : State) (j : Job) : State :=
  let k : Job := if j.phase = .fetched then j else { j with seen := seenNow s j.ring }
  { s with nextId := s.nextId + 1, hp := { s.hp with jobs := s.hp.jobs ++ [k], begun := s.hp.begun + if j.phase = .fetched then 0 else 1 } }

/-- A begun descriptor of ring 0, numbered by `nextId`. -/
def issue (s : State) (op : Nat) (fs : List (Nat × Nat)) : State := withJob s (jobOn 0 s.nextId .checked (slotOf op fs) none)

/-- As `issue`, with an extension. -/
def issueX (s : State) (op : Nat) (fs xs : List (Nat × Nat)) : State :=
  withJob s (jobOn 0 s.nextId .checked (slotOf op fs) (some (slotOf 0 xs)))

/-- As `issue`, with what the descriptor took as it began. -/
def begin' (s : State) (op : Nat) (fs : List (Nat × Nat)) : State :=
  captureAt (issue s op fs) 0 (jobOn 0 s.nextId .checked (slotOf op fs) none)

/-- A running descriptor of ring 0. -/
def runs (s : State) (op : Nat) (fs : List (Nat × Nat)) : State := withJob s (jobOn 0 s.nextId .running (slotOf op fs) none)

/-- Descriptor n of s. -/
def J (s : State) (n : Nat) : Job := (job? s n).getD (jobOn 0 0 .fetched 0 none)

/-- A plain object of partition 0 with pages of 4 KiB. -/
def obj (id base size : Nat) : Obj := ⟨0, id, base, size, 0, 0, 0, 0, 0⟩

/-- A further object. -/
def withObj (s : State) (o : Obj) : State := { s with tm := { s.tm with objs := s.tm.objs ++ [o] } }

/-- A partition with one object of 1 MiB at 1 MiB. -/
def mem1 : State := withObj up (obj 1 0x100000 0x100000)

theorem canGo {s : State} {id : Nat} {xs : List Span} (h : (tierSays s id xs).1 = .go) : CanAccess s id xs :=
  ⟨(tierSays s id xs).2, by rw [← h]⟩

/-- A port of state st with 16 active and 2 spare lanes in each direction. -/
def portIn (s : State) (pt st : Nat) : State :=
  setPortState (setPort s pt { port0 with rxAct := 0xFFFF, rxSpare := 0x30000, txAct := 0xFFFF, txSpare := 0x30000 }) pt st 0

/-- A READY module with port 0 UP. -/
def net : State := portIn up 0 3

/-- A wiring plan of one 4 by 8 island in which every port is cabled. -/
def plan1 : Plan := ⟨List.replicate 6 0 ++ [1, 1] ++ List.replicate 56 0 ++
  (List.replicate 32 (List.replicate 16 0 ++ [1, 0, 0, 0, 255, 255] ++ List.replicate 10 0)).flatten⟩

/-- The state s with a plan in force. -/
def withPlan (s : State) (p : Plan) : State := { s with boot := { s.boot with plan := some p } }

/-- A KV region of one layer and head, of dimension 64, with 4,096 visible positions, as object 2 at 32 MiB. -/
def reg0 : Region :=
  ⟨0, 2, 0x2000000, 8192, 1, 1, 1, 64, false, false, false, false, false, 6, 0, [(0, 4096)], [(0, 4096)], [], [], 0, [], [], [],
      [], [], none⟩

/-- `mem1` with that region. -/
def kv1 : State :=
  let s := withObj mem1 { obj 2 0x2000000 0x1000000 with kind := 1, head := 0x100000 }
  { s with tm := { s.tm with regions := [reg0] } }

/-- A group of modules 0 and 1. -/
def grp2 : Grp := ⟨0, 5, 6, 9, [0, 1], 0, 1000, 100, 0, 0, none, [1], none, none, 0, none, [], 900⟩

/-- s with port 0 UP, a software window over the object's first 8 KiB, and group x. -/
def inGroup (s : State) (x : Grp) : State :=
  let t := portIn s 0 3
  { t with ol := { t.ol with wins := [⟨0x80, 0, 0x100000, 0x2000, 9, true, true, none⟩] }, ce := ⟨[(0, some x)], [], [], [], 0⟩ }

/-- A running operation of descriptor 0 that writes n bytes at 0x101000. -/
def run2 (n : Nat) : CollRun := ⟨0, 0, 0, [1], ⟨[], []⟩, 0x101000, n, 16, [], 0, 0, [], none⟩

/-- A frame to this module. -/
def frame1 : Frame := ⟨3, 2, 0, 0, 1, 0x80, 0x1FC0, 0, 9, 0, 64, 0, List.replicate 64 7⟩

/-- The window of the Spin in `spin1`, and its state. -/
def win1 : Window := ⟨0x100000, ⟨64, 1, 1, false, false⟩, 0x81, 0x83, 2, 1, 1, 0⟩
def spin1 : SpinRun := ⟨0, win1, [], [1, 2], [3, 4], 5, [0, 0], [0, 0], [[], []], [0, 0], [0, 0], [0, 0], [0, 0], [0], false, []⟩

/-- The fields of an ARM of core 0's queue 0: one row of 64 bytes from 1 MiB to the core's buffer. -/
def armFs : List (Nat × Nat) := [(16, 0x100000), (24, 0x1000), (32, 64), (36, 1), (53, 4)]
/-- That arming as descriptor 0, and its transfer. -/
def arm0 : Arming := armingOf mem1 (jobOn 0 0 .running (slotOf 0x0100 armFs) none)
def piece0 : Piece := ⟨0, 0, 0, 0x100000, 0x1000, 64, 64, 0, false, false, 0⟩
/-- That arming runs. -/
def arming : State := setQueue (runs mem1 0x0100 armFs) 0 { queue0 with run := some arm0 }

/-- A module with a ready carrier, partition 0's Deep key, and object 1 of the DEEP policy. -/
def deep1 : State :=
  let s := withObj (wfield up rDtStatus 30 1 1) { obj 1 0x100000 0x100000 with policy := 3 }
  { s with tm := { s.tm with keys := [(0, some ⟨1, 2, 3⟩)] } }

/-- A page of object 1, and `deep1` with that page at the object's base. -/
def page1 (tier moving dirty : Nat) : Page := ⟨1, 4096, 0, tier, moving, dirty, 0, 0, 0x5000, 0, 0, 0, false, [], []⟩
def paged
    (tier moving dirty : Nat) : State := { deep1 with tm := { deep1.tm with pages := [(0x100000, some (page1 tier moving dirty))] } }

theorem ofOpt {α : Type} {o : Option α} {P : α → Prop} [DecidablePred P] (h : o.all (fun x => decide (P x)) = true) :
    ∀ x, o = some x → P x := by
  rintro x rfl; simpa using h

theorem ofOpts {α β : Type} {l : List α} {f : α → Option β} {P : α → β → Prop} [∀ a, DecidablePred (P a)]
    (h : l.all (fun a => (f a).all (fun x => decide (P a x))) = true) : ∀ a ∈ l, ∀ x, f a = some x → P a x := by
  intro a ha x hx
  have := List.all_eq_true.mp h a ha
  rw [hx] at this
  simpa using this

theorem ofKeys {α : Type} {n p : Nat} {f : Nat → Option α} {P : α → Prop} [DecidablePred P]
    (h : (List.range n).all (fun q => q == p || (f q).all (fun x => decide (P x))) = true) :
    ∀ q < n, q ≠ p → ∀ x, f q = some x → P x := by
  intro q hq hp x hx
  have := List.all_eq_true.mp h q (List.mem_range.mpr hq)
  rw [hx] at this
  simpa [hp] using this

/-- `mem1` with a KV region as object 2. -/
def kvWith (r : Region) : State :=
  let s := withObj mem1 { obj 2 0x2000000 0x1000000 with kind := 1, head := 0x100000 }
  { s with tm := { s.tm with regions := [r] } }

/-- The region with an append of t tokens that has begun as descriptor 0, at v tokens. -/
def appended (v t : Nat) : Region := { reg0 with vis := [(0, v)], res := [(0, v + t)], appends := [⟨0, v, t, 0, 0⟩] }

/-- The region with one visible token, and memory with it. -/
def kvOne : State := kvWith { reg0 with vis := [(0, 1)], res := [(0, 1)] }

/-- An index without records as object 3 at 64 MiB. -/
def index1 : Index := ⟨0, 3, 0x4000000, 32, 8, 0, 1, [], [], [], [], 0, 1, 0, 0, [], [], none, none⟩

/-- `deep1` with an index. -/
def indexed (x : Index) : State :=
  let s := withObj deep1 { obj 3 0x4000000 0x100000 with kind := 2 }
  { s with tm := { s.tm with indexes := [x] } }

/-- Partition 0's pattern tables. -/
def patterned (x : Patterns) : State := { mem1 with tm := { mem1.tm with pats := [(0, x)] } }

/-- The fields and extension of a press-class descriptor of one row over layer 0 of object 2. -/
def pressFs (flags : Nat) : List (Nat × Nat) := [(12, 2), (16, 0x20000000100000), (48, 1), (51, 1), (52, flags)]
def alpha1 : List (Nat × Nat) := [(16, 0x3F800000)]

/-- A product of descriptor 0, an array's tile, and s with array 0 of core 0 in the state x. -/
def prod1 : Prod := ⟨0, true, 8, false, 8, false, true, [0], []⟩
def tile1 : Tile := ⟨1, 0, false, 1, 32, [[⟨0, List.replicate 32 true, List.replicate 32 1, List.replicate 32 .fin,
    List.replicate 32 false⟩]]⟩
def withArr (s : State) (x : Arr) : State := setArr s 0 0 x

/-- A Needle program of one column of 32 elements, and `mem1` with it in slot 0. -/
def prog1 : TpProg := ⟨true, 0, false, false, false, 0, 2, 0x47, 2, 0, 8, 0, 1, 1, 32, []⟩
def progs : State := { mem1 with tp := { mem1.tp with slots := [(0, some prog1)] } }

/-- A TP_RUN of it, and counter 5 as x. -/
def runFs : List (Nat × Nat) := [(16, 0x100000), (24, 0x110000), (32, 0x120000), (40, 0x130000)]
def ticketed (s : State) (x : Ticket) : State := { s with tp := { s.tp with tickets := [(5, x)] } }

/-- A search of one query that waits for page 0 of list 0 on channel 0. -/
def search1 : Search := ⟨0, 0, 3, 0, 0, [], [], [], [], [], [⟨List.replicate 64 0, 0, 0, 0, false, false, [(0, 0, 0)], [0], [],
    0, 0⟩]⟩

theorem answersNext {o : Out} (h : (match o with | .next _ => true | _ => false) = true) : ∃ t, o = .next t := by
  cases o <;> simp_all

theorem runsAll {cs : List Instr} (h : cs.all (fun c => match exec c up with | .next _ => true | _ => false) = true) :
    ∀ c ∈ cs, ∃ t, exec c up = .next t := fun c hc => answersNext (List.all_eq_true.mp h c hc)

/-- The state that a command answers. -/
def after (c : Instr) (s : State) : State := match exec c s with
  | .next t => t
  | _ => s

/-- A frame of member 1 for this module's member 0, and what it says of its group. -/
def head1 : CeHead := ⟨5, 6, 1, 0⟩
def frameCe : Frame := { frame1 with payload := [] }

/-- A sample of the right lengths. -/
def sample1 : PowerSample :=
  ⟨4800, 4000, 1900, true, List.replicate 17 50, List.replicate 12 50, List.replicate 10 0, List.replicate 13 0,
      List.replicate 8 0⟩

def flushy : State := wfield (withJob (wreg up (rPartCtrl 0) 1) (jobOn 0 0 .fetched 0 none)) (rPartStatus 0) 4 1 1
def ringUp : State := setRing up 0 { ring0 with cmdBase := 0x10000, cplBase := 0x20000, cfg := 0x606 }
def ringOn : State := setRing up 0 { ring0 with cmdBase := 0x10000, cplBase := 0x20000, cfg := 0x606, ctrl := 1, cmdTail := 1 }
def ringFar : State := setRing { up with hp := { up.hp with numVfs := 8, vfOn := true, own := 8 } } 511 { ring0 with cfg := 0x1010 }
def vfUp : State := { up with hp := { up.hp with numVfs := 8, vfOn := true, own := 8 } }
def held1 : Entry := ⟨1, 0, false, 5, 0, false, false⟩
def heldRing : State :=
  setRing up 0 { ring0 with cplBase := 0x20000, cfg := 0x606, ctrl := 0x10001, cplTail := 63, cplHead := 5, held := [held1], since := 1 }
def doneJob : State := withJob ringOn { jobOn 0 0 .decided (slotOf 0x0A00 [(10, 0x8003)]) none with status := stDone }
def mem1p : State := { mem1 with tm := { mem1.tm with pages := [(0x100000, some (page1 1 0 0))] } }
def graceOver : State := { up with now := 100000005, hp := { up.hp with linkUp := false, downAt := some 5 } }
def joining : State :=
  let s := portIn (bootAt 6) 0 3
  { s with boot := { s.boot with hbmDone := true, discClosed := true }
           ob := { s.ob with adverts := [(0, some ⟨0, 0, 0, true, true, 900, 0, 0⟩)] } }
def lean : State := setPort net 0 { port0 with rxAct := 0x1F, txAct := 0x1F }
def sentTwo : State := modPort net 0 (fun x => { x with seq := 5, sent := [⟨3, 0, 6, .jobList 0 []⟩, ⟨4, 3, 0, .jobList 0 [7]⟩] })
def winUp : State := { mem1 with ol := { mem1.ol with wins := [⟨0x80, 0, 0x100000, 0x2000, 9, true, true, none⟩] } }
def remOn (read : Bool) : State :=
  let s := runs (inGroup mem1 grp2) (if read then 0x0A23 else 0x0A22) []
  { s with ol := { s.ol with ops := [⟨0, 0, 1, read, [(0x1FC0, 64)], 0x100000, 0x1FC0, false, false⟩] } }
def give2 : Contribution := ⟨List.replicate 64 3, [false]⟩
def gather2 : Grp := { grp2 with next := 1, run := some { run2 128 with mine := give2 } }
def met2 : CollRun := { run2 0 with dst := 0, stage := 1, rounds := [(1, 0), (1, 1)] }
def lagging : State := { wreg up rLagCfg 1 with now := 2000000, ce := ⟨[], [], [], [(1, 1, 5), (1, 0, 5)], 0⟩ }
def spinning (P : Nat) : Grp := { grp2 with members := List.range P, next := 1, run := some { run2 0 with spin := some spin1 } }
def spin6 : SpinRun := { spin1 with sent := [4, 0] }
def spinning6 : Grp := { grp2 with members := List.range 6, next := 1, run := some { run2 0 with spin := some spin6 } }
def flowing : State :=
  let s := setQueue arming 0 { queue0 with run := some (arm0.pass 64) }
  { s with se := { s.se with groups := [⟨0, [piece0], 900, true⟩], nextGroup := 1 } }
def scratch : State := { up with tm := { up.tm with split := [(0, 1)] } }
def listed : State := withObj (paged 1 0 1) (obj 2 0x200000 0x1000)
def saving : State := begin' (writeAt listed 0 0x200008 [1] noSoil) 0x0707 [(16, 0x200008), (24, 1), (32, 77)]
def cko : CkObj := ⟨{ obj 1 0x100000 0x100000 with policy := 3 }, none, none, [], [], [], [], 1024⟩
def ckpt1 : Ckpt := ⟨⟨1, 2, 3⟩, 77, 0, 0, 0, 1000, 0, [cko], 1024⟩
def manifest1 : Tab (BitVec 128) :=
  [(1024, 68295723775140650824673499119840967950), (1025, 336265652726157608719017083065200748657),
   (1026, 55694761889779833764239239030253885725), (1027, 315118442355259779756637653640778977874),
   (1028, 53072727235476981232054503559682937373), (1029, 60180364328428011573424246981695919541),
   (1030, 297151952402462106809420641819658227171), (1031, 69098348370903460380788963546894471648),
   (1032, 150689763767265426564141804320783828147), (1033, 300784558564327580650826205691833847696),
   (1034, 169316956166015126306051797460279875187), (1035, 231417714486625526315705922296778875864)]
def kept : State := { deep1 with tm := { deep1.tm with objs := [], ckpts := [ckpt1], deep := manifest1, deepNext := 1036 } }
def kept1 : State := { kept with tm := { kept.tm with objs := mem1.tm.objs } }
def pinnedUp : State := { scratch with tm := { scratch.tm with pages := [(0x100000, some (page1 0 0 0))] } }
def shared1 : State :=
  let s := wfield (kvWith { reg0 with share := true }) (rPattern 0) 0 1 1
  { s with tm := { s.tm with pats := [(0, ⟨some ⟨0x120000, 10, 0, []⟩, none, none⟩)] } }
def recall1 : Region := { reg0 with recalls := [⟨0, 0, 0x3F800000, 0, 0, []⟩] }
def batching : State :=
  issueX (writeAt (writeAt
      (writeAt kvOne 0 0x100000 [2] noSoil) 0 0x100012 [0x11] noSoil) 0 0x10001A [0x12] noSoil) 0x0501 [(16, 0x100000), (32, 1),
      (35, 1), (36, 2), (37, 2), (38, 3)] alpha1
def leafing : State := { deep1 with tm := { deep1.tm with leaves := [⟨0, 0, 2, [(0, 0, 0, 0)], [0]⟩], asks := [0] } }
def imaged : State := writeAt (writeAt mem1 0 0x100000 [1, 0, 1, 0, 0, 0, 2] noSoil) 0 0x100040 [0, 0, 0xC0, 7] noSoil
def holding : State := withArr mem1 { arr0 with held := some tile1 }
def opened : State :=
  let col : Col := ⟨16, 32, 32, true, false, []⟩
  issue (withArr mem1 { arr0 with cols := [(0, some col), (1, some col)] }) 0x0202 [(16, 0x100000), (24, 64), (28, 0xFFFFFFFF),
      (32, 1), (34, 1), (36, 2), (40, 1)]
def tpImage : State := writeAt mem1 0 0x100000 [1, 0, 1, 0, 0, 0, 2, 0x47, 2, 0x80, 0, 0, 1, 0, 0, 0, 1, 0, 0, 0, 32] noSoil
def piping : State :=
  let s := withJob progs (jobOn 0 0 .running (slotOf 0x0A12 (runFs ++ [(3, 1), (50, 1)])) (some 0))
  { s with tp := { s.tp with shares := [⟨0, 0, [0], [(0, [0])]⟩] } }
def inUse : State := issue { up with fn := [(31, some ⟨2, 0, 0, [0x07C00000], [], none⟩)] } 0x0400 [(24, 0x1000), (28,
    0xFFFFFFFF), (32, 1), (36, 1), (38, 2), (39, 2), (40, 0x9F)]
def drawn : State :=
  ticketed (withJob progs { jobOn 0 0 .running (slotOf 0x0A12 (runFs ++ [(51, 5)])) (some 0) with status := stDone })
    { ticket0 with job := some 0, limit := 1, out := [(0, 0, 0)] }

/-! ## Each statement's hypotheses are met -/

/-- Every clause of `StainClearsByWritingOne` has its hypotheses met together. -/
theorem wit_StainClearsByWritingOne :
  (∃ (off : Word) (s : State) (k : Nat) (i : Nat) (n : Nat),
    stainAt off.toNat = some (k, i, n) ∧
    booting s = true ∧
    (ready s = true ∨ (rBootStatus ≤ off.toNat ∧ off.toNat < 0x200000))) :=
  ⟨8, wreg up 8 5, 0, 0, 9, by decide +kernel⟩

/-- Every clause of `PartitionControl` has its hypotheses met together. -/
theorem wit_PartitionControl :
  (∃ (v : Word) (s : State),
    ready s = true ∧
    v.getLsbD 1 = false) ∧
  (∃ (p : Fin 8) (s : State),
    ready s = true ∧
    (∀ n, n < 16 → (portOf s n).stalled = []) ∧
    (∀ g x, g < 64 → grpOf s g = some x → x.p = p.val → x.run = none)) ∧
  (∃ (p : Fin 8) (s : State),
    ready s = true ∧
    quiet s p.val = true) ∧
  (∃ (p : Fin 8) (s : State),
    rfield s (rPartStatus p.val) 4 1 = 1 ∧
    quiet s p.val = true) ∧
  (∃ (p : Fin 8) (v : Word) (s : State),
    ready s = true ∧
    diesOk (bitsOf v.toNat 0 8) = true ∧
    (∀ q, q < 8 → q ≠ p.val → bitsOf v.toNat 0 8 &&& (diesSoon s q ||| diesOf s q) = 0) ∧
    bitsOf v.toNat 0 8 ≠ diesSoon s p.val ∧
    (∀ f n, n < 512 → partOwner s.hp.own p.val = some f → ringOwner s.hp.own n = some f → ringIdle s n = true)) ∧
  (∃ (p : Fin 8) (v : Word) (s : State),
    ready s = true ∧
    diesOk (bitsOf v.toNat 0 8) = true ∧
    (∀ q, q < 8 → q ≠ p.val → bitsOf v.toNat 0 8 &&& (diesSoon s q ||| diesOf s q) = 0) ∧
    bitsOf v.toNat 0 8 = diesSoon s p.val) ∧
  (∃ (p : Fin 8) (v : Word) (s : State),
    ready s = true ∧
    (diesOk (bitsOf v.toNat 0 8) = false ∨ ∃ q, q < 8 ∧ q ≠ p.val ∧ bitsOf v.toNat 0 8 &&& (diesSoon s q ||| diesOf s q) ≠ 0)) :=
  ⟨⟨1, up, by decide +kernel⟩,
   ⟨0, flushy, by decide +kernel, by decide +kernel, fun g x _ h => by cases (show (none : Option Grp) = some x from h)⟩,
   ⟨0, flushy, by decide +kernel⟩,
   ⟨0, flushy, by decide +kernel⟩,
   ⟨0, 15, up, by decide +kernel, by decide +kernel, by decide +kernel, by decide +kernel, fun _ n h _ _ =>
       (by decide +kernel : ∀ n, n < 512 → ringIdle up n = true) n h⟩,
   ⟨0, 255, up, by decide +kernel⟩,
   ⟨1, 255, up, by decide +kernel, .inr ⟨0, by decide +kernel⟩⟩⟩

/-- Every clause of `RingsStartAndStop` has its hypotheses met together. -/
theorem wit_RingsStartAndStop :
  (∃ (f : Fin 9) (n : Fin 512) (s : State),
    ready s = true ∧
    mayRing s f.val n.val = true ∧
    (ringOf s n.val).enabled = false ∧
    ringCfgOk s n.val (ringOf s n.val) = true ∧
    ringIdle s n.val = true) ∧
  (∃ (f : Fin 9) (n : Fin 512) (s : State),
    ready s = true ∧
    mayRing s f.val n.val = true ∧
    (ringOf s n.val).enabled = false ∧
    (ringCfgOk s n.val (ringOf s n.val) = false ∨ ringIdle s n.val = false)) ∧
  (∃ (f : Fin 9) (n : Fin 512) (s : State),
    ready s = true ∧
    mayRing s f.val n.val = true) :=
  ⟨⟨8, 511, ringFar, by decide +kernel⟩,
   ⟨0, 0, up, by decide +kernel⟩,
   ⟨0, 0, ringOn, by decide +kernel⟩⟩

/-- Every clause of `DoorbellsMoveTailAndHead` has its hypotheses met together. -/
theorem wit_DoorbellsMoveTailAndHead :
  (∃ (f : Fin 9) (s : State),
    f ≠ 0 ∧
    present s f.val = true) ∧
  (∃ (f : Fin 9) (g : Fin 512) (s : State),
    bar2Ring s f.val g.val = none) ∧
  (∃ (f : Fin 9) (g : Fin 512) (n : Nat) (v : Word) (s : State),
    ready s = true ∧
    bar2Ring s f.val g.val = some n ∧
    mayRing s f.val n = true ∧
    (ringOf s n).enabled = true ∧
    bitsOf v.toNat 0 16 < (ringOf s n).cmdSize) ∧
  (∃ (f : Fin 9) (g : Fin 512) (n : Nat) (v : Word) (s : State),
    ready s = true ∧
    bar2Ring s f.val g.val = some n ∧
    mayRing s f.val n = true ∧
    (ringOf s n).enabled = true ∧
    bitsOf v.toNat 0 16 < (ringOf s n).cplSize) ∧
  (∃ (f : Fin 9) (g : Fin 512) (n : Nat) (v : Word) (s : State),
    ready s = true ∧
    bar2Ring s f.val g.val = some n ∧
    mayRing s f.val n = true ∧
    (ringOf s n).enabled = true ∧
    (ringOf s n).cmdSize ≤ bitsOf v.toNat 0 16) ∧
  (∃ (f : Fin 9) (g : Fin 512) (n : Nat) (v : Word) (s : State),
    ready s = true ∧
    bar2Ring s f.val g.val = some n ∧
    mayRing s f.val n = true ∧
    (ringOf s n).enabled = true ∧
    (ringOf s n).cplSize ≤ bitsOf v.toNat 0 16) :=
  ⟨⟨8, vfUp, by decide +kernel⟩,
   ⟨8, 56, vfUp, by decide +kernel⟩,
   ⟨0, 0, 0, 63, ringOn, by decide +kernel⟩,
   ⟨0, 0, 0, 63, ringOn, by decide +kernel⟩,
   ⟨0, 0, 0, 64, ringOn, by decide +kernel⟩,
   ⟨0, 0, 0, 64, ringOn, by decide +kernel⟩⟩

/-- Every clause of `PegsAddAndSet` has its hypotheses met together. -/
theorem wit_PegsAddAndSet :
  (∃ (f : Fin 9) (p : Fin 8) (s : State),
    ready s = true ∧
    (f = 0 ∨ (present s f.val = true ∧ partOf s.hp.own f.val = some p.val))) ∧
  (∃ (n : Nat) (s : State) (j : Job),
    opJob s n 0x0A01 = some j ∧
    pegFields s j = none) ∧
  (∃ (n : Nat) (s : State) (j : Job),
    opJob s n 0x0A02 = some j ∧
    pegFields s j = none) ∧
  (∃ (n : Nat) (s : State) (j : Job) (e : Ending),
    pegFields s j = some e ∧
    opJob s n 0x0A01 = some j) ∧
  (∃ (n : Nat) (s : State) (j : Job) (e : Ending),
    pegFields s j = some e ∧
    opJob s n 0x0A02 = some j) :=
  ⟨⟨0, 7, up, by decide +kernel⟩,
   ⟨0, issue up 0x0A01 [(16, 4095), (24, 5)], J (issue up 0x0A01 [(16, 4095), (24, 5)]) 0, by decide +kernel⟩,
   ⟨0, issue up 0x0A02 [(16, 7), (24, 5)], J (issue up 0x0A02 [(16, 7), (24, 5)]) 0, by decide +kernel⟩,
   ⟨0, issue up 0x0A01 [(17, 16)], J (issue up 0x0A01 [(17, 16)]) 0, fieldErr 17, by decide +kernel⟩,
   ⟨0, issue up 0x0A02 [(18, 1)], J (issue up 0x0A02 [(18, 1)]) 0, fieldErr 18, by decide +kernel⟩⟩

/-- Every clause of `NopAndHostWrite` has its hypotheses met together. -/
theorem wit_NopAndHostWrite :
  (∃ (n : Nat) (s : State) (j : Job),
    opJob s n 0x0A00 = some j ∧
    rsvd j 16 56 = none) ∧
  (∃ (n : Nat) (s : State) (j : Job),
    opJob s n 0x0A03 = some j ∧
    rsvd j 16 24 = none ∧
    rsvd j 40 56 = none ∧
    j.fld 24 8 % 8 = 0 ∧
    hostOpen s (fnOfRing s j.ring) = true) ∧
  (∃ (n : Nat) (s : State) (j : Job),
    opJob s n 0x0A03 = some j ∧
    rsvd j 16 24 = none ∧
    rsvd j 40 56 = none ∧
    j.fld 24 8 % 8 = 0 ∧
    hostOpen s (fnOfRing s j.ring) = false) :=
  ⟨⟨0, issue up 0x0A00 [], J (issue up 0x0A00 []) 0, by decide +kernel⟩,
   ⟨0, issue up 0x0A03 [(24, 0x1000), (32, 7)], J (issue up 0x0A03 [(24, 0x1000), (32, 7)]) 0, by decide +kernel⟩,
   ⟨0, issue { up with hp := { up.hp with bme := 0 } } 0x0A03 [(24, 0x1000), (32, 7)], J
       (issue { up with hp := { up.hp with bme := 0 } } 0x0A03 [(24, 0x1000), (32, 7)]) 0, by decide +kernel⟩⟩

/-- Every clause of `DescriptorFetchTakesSlot` has its hypotheses met together. -/
theorem wit_DescriptorFetchTakesSlot :
  (∃ (s : State) (n : Nat),
    nextRing s = some n ∧
    wantsExt s n = none) ∧
  (∃ (s : State) (n : Nat) (j : Job),
    nextRing s = some n ∧
    wantsExt s n = some j ∧
    job? s j.id = some j) ∧
  (∃ (s : State) (n : Nat),
    nextRing s = some n) :=
  ⟨⟨ringOn, 0, by decide +kernel⟩,
   ⟨withJob ringOn { jobOn 0 0 .fetched (slotOf 0x0A00 [(2, 8)]) none with needExt := true }, 0, J
       (withJob ringOn { jobOn 0 0 .fetched (slotOf 0x0A00 [(2, 8)]) none with needExt := true }) 0, by decide +kernel⟩,
   ⟨ringOn, 0, by decide +kernel⟩⟩

/-- Every clause of `DescriptorBeginChecks` has its hypotheses met together. -/
theorem wit_DescriptorBeginChecks :
  (∃ (n : Fin 512) (s : State) (j : Job),
    nextJob s n.val = some j ∧
    job? s j.id = some j ∧
    mayBegin s j = true ∧
    j.seq = (ringOf s n.val).nextSeq.toNat ∧
    headerErr j = none ∧
    accessErr s j = none) ∧
  (∃ (n : Fin 512) (s : State) (j : Job) (e : Ending),
    nextJob s n.val = some j ∧
    job? s j.id = some j ∧
    mayBegin s j = true ∧
    j.seq = (ringOf s n.val).nextSeq.toNat ∧
    (headerErr j = some e ∨ headerErr j = none ∧ accessErr s j = some e)) ∧
  (∃ (n : Fin 512) (s : State) (j : Job),
    nextJob s n.val = some j ∧
    mayBegin s j = true ∧
    j.seq ≠ (ringOf s n.val).nextSeq.toNat) :=
  ⟨⟨0, withJob up (jobOn 0 0 .fetched (slotOf 0x0A00 []) none), J (withJob up (jobOn 0 0 .fetched (slotOf 0x0A00 []) none)) 0,
      by decide +kernel⟩,
   ⟨0, withJob up (jobOn 0 0 .fetched 0 none), J (withJob up (jobOn 0 0 .fetched 0 none)) 0, badErr 1 1, by decide +kernel⟩,
   ⟨0, withJob up (jobOn 0 0 .fetched (slotOf 0x0A00 [(4, 1)]) none), J (withJob up (jobOn 0 0 .fetched (slotOf 0x0A00 [(4,
       1)]) none)) 0, by decide +kernel⟩⟩

/-- Every clause of `CompletionEntries` has its hypotheses met together. -/
theorem wit_CompletionEntries :
  (∃ (n : Fin 512) (s : State) (e : Entry) (es : List Entry),
    (ringOf s n.val).held = e :: es ∧
    hostOpen s (fnOfRing s n.val) = true ∧
    cplFull (ringOf s n.val) = false) ∧
  (∃ (n : Fin 512) (s : State),
    bitsOf (ringOf s n.val).ctrl.toNat 16 16 ≠ 0 ∧
    (ringOf s n.val).since ≠ 0 ∧
    (ringOf s n.val).firstAt.toNat + 1000 * bitsOf (ringOf s n.val).ctrl.toNat 16 16 ≤ s.now.toNat ∧
    (msixOf s (vecBase s.hp.own (fnOfRing s n.val) + (ringOf s n.val).vector)).mask = true) ∧
  (∃ (f : Fin 9) (vec : Fin 512) (s : State) (g : Nat),
    vecOf s f.val vec.val = some g ∧
    (msixOf s g).pend = false) ∧
  (∃ (f : Fin 9) (vec : Fin 512) (s : State) (g : Nat),
    vecOf s f.val vec.val = some g ∧
    (msixOf s g).pend = true ∧
    hostOpen s (vecOwner s.hp.own g) = true) :=
  ⟨⟨0, heldRing, ⟨1, 0, false, 5, 0, false, false⟩, [], by decide +kernel⟩,
   ⟨0, heldRing, by decide +kernel, by decide +kernel, by decide +kernel, by decide +kernel⟩,
   ⟨0, 511, up, 511, by decide +kernel⟩,
   ⟨0, 0, setMsix up 0 ⟨0xFEE00000, 1, true, true⟩, 0, by decide +kernel⟩⟩

/-- Every clause of `DescriptorCompletes` has its hypotheses met together. -/
theorem wit_DescriptorCompletes :
  (∃ (n : Nat) (s : State) (j : Job),
    job? s n = some j ∧
    mayComplete s j = true) :=
  ⟨0, doneJob, J doneJob 0, by decide +kernel⟩

/-- Every clause of `PegWindowOffsets` has its hypotheses met together. -/
theorem wit_PegWindowOffsets :
  (∃ (s : State),
    ready s = true ∧
    booting s = true) ∧
  (∃ (s : State) (o : _),
    ready s = true ∧
    booting s = true ∧
    o < 16 ∧
    o ≠ 8) ∧
  (∃ (s : State),
    ready s = true ∧
    booting s = true) :=
  ⟨⟨up, by decide +kernel⟩,
   ⟨up, 15, by decide +kernel⟩,
   ⟨setPeg up 0 5 0x123456789A, by decide +kernel⟩⟩

/-- Every clause of `WaitAndSignalPegs` has its hypotheses met together. -/
theorem wit_WaitAndSignalPegs :
  (∃ (n : Fin 512) (s : State) (j : Job) (p : Nat),
    nextJob s n.val = some j ∧
    partOfRing s j.ring = some p ∧
    j.bits 9 7 1 = 1 ∧
    (pegOf s p (j.bits 8 0 12)).toNat < j.fld 56 8) ∧
  (∃ (n : Nat) (s : State) (j : Job) (p : Nat),
    job? s n = some j ∧
    mayComplete s j = true ∧
    partOfRing s j.ring = some p) :=
  ⟨⟨0, withJob up (jobOn 0 0 .fetched (slotOf 0x0A00 [(8, 0x8003), (56, 1)]) none), J (withJob up (jobOn 0 0 .fetched
      (slotOf 0x0A00 [(8, 0x8003), (56, 1)]) none)) 0, 0, by decide +kernel⟩,
   ⟨0, doneJob, J doneJob 0, 0, by decide +kernel⟩⟩

/-- Every clause of `PairReadsLatchHigh` has its hypotheses met together. -/
theorem wit_PairReadsLatchHigh :
  (∃ (f : Fin 9) (off : Word) (s : State) (o : Nat),
    ready s = true ∧
    booting s = true ∧
    barOffset s f.val off.toNat = some o ∧
    isPairLo o = true) :=
  ⟨0, 0xC00000, up, 0xC00000, by decide +kernel⟩

/-- Every clause of `Bar4ReachesMemory` has its hypotheses met together. -/
theorem wit_Bar4ReachesMemory :
  (∃ (f : Fin 9) (off : Nat) (len : Nat) (p : Nat) (va : Nat) (s : State),
    ready s = true ∧
    barAt s f.val off = some (p, va) ∧
    barOk s p va len = true ∧
    0 < len) ∧
  (∃ (f : Fin 9) (off : Nat) (len : Nat) (p : Nat) (va : Nat) (s : State),
    ready s = true ∧
    barAt s f.val off = some (p, va) ∧
    barOk s p va len = false) ∧
  (∃ (f : Fin 9) (off : Nat) (p : Nat) (va : Nat) (bs : List Byte) (s : State),
    ready s = true ∧
    barAt s f.val off = some (p, va) ∧
    barOk s p va bs.length = true ∧
    inRegion s p va bs.length = false ∧
    (∀ e ∈ pagesIn s p (bs.length / 4096 + 2) va (va + bs.length), ownPage s p e.2.1 ≠ none)) ∧
  (∃ (f : Fin 9) (off : Nat) (s : State),
    ready s = true ∧
    barAt s f.val off = none) :=
  ⟨⟨0, 0x100000, 8, 0, 0x100000, mem1, by decide +kernel⟩,
   ⟨0, 0x1FFFFC, 8, 0, 0x1FFFFC, mem1, by decide +kernel⟩,
   ⟨0, 0x100000, 0, 0x100000, [1, 2, 3], mem1p, by decide +kernel⟩,
   ⟨8, 0, up, by decide +kernel⟩⟩

/-- Every clause of `WhatEachResetKeeps` has its hypotheses met together. -/
theorem wit_WhatEachResetKeeps :
  (∃ (s : State),
    booting s = true) ∧
  (∃ (v : Word) (s : State),
    booting s = true ∧
    bootState s ≠ 9 ∧
    bitsOf v.toNat 0 16 = 0xD1A5) :=
  ⟨⟨wreg up 8 5, by decide +kernel⟩,
   ⟨0xD1A5, wreg up 8 5, by decide +kernel⟩⟩

/-- Every clause of `PartitionResetClears` has its hypotheses met together. -/
theorem wit_PartitionResetClears :
  (∃ (f : Fin 9) (s : State),
    booting s = true ∧
    present s f.val = true) ∧
  (∃ (p : Fin 8) (s : State),
    rfield s (rPartStatus p.val) 2 1 = 1) :=
  ⟨⟨0, mem1, by decide +kernel⟩,
   ⟨7, wfield up (rPartStatus 7) 2 1 1, by decide +kernel⟩⟩

/-- Every clause of `PcieAndHostStalls` has its hypotheses met together. -/
theorem wit_PcieAndHostStalls :
  (∃ (s : State),
    booting s = true ∧
    s.hp.linkUp = true) ∧
  (∃ (s : State),
    booting s = true ∧
    s.hp.linkUp = true ∧
    s.hp.numVfs = s.hp.own) ∧
  (∃ (s : State),
    booting s = true ∧
    s.hp.linkUp = true ∧
    bootState s ≠ 2) ∧
  (∃ (s : State),
    booting s = true ∧
    s.hp.linkUp = false) ∧
  (∃ (f : Fin 9) (s : State),
    booting s = true ∧
    s.hp.linkUp = true ∧
    present s f.val = true ∧
    s.hp.bme.getLsbD f.val = false) ∧
  (∃ (s : State),
    booting s = true ∧
    s.hp.linkUp = true ∧
    s.hp.stall = false) ∧
  (∃ (s : State),
    s.hp.stall = true) ∧
  (∃ (s : State) (t0 : DWord),
    s.hp.downAt = some t0 ∧
    t0.toNat + rfield s rGrace 0 16 * 10 ^ 6 ≤ s.now.toNat ∧
    jobsOf s (fun _ => true) = []) ∧
  (∃ (s : State) (t0 : DWord),
    s.hp.downAt = some t0 ∧
    t0.toNat + rfield s rGrace 0 16 * 10 ^ 6 ≤ s.now.toNat) :=
  ⟨⟨up, by decide +kernel⟩,
   ⟨up, by decide +kernel⟩,
   ⟨up, by decide +kernel⟩,
   ⟨{ up with hp := { up.hp with linkUp := false, downAt := some 5 } }, by decide +kernel⟩,
   ⟨0, { up with hp := { up.hp with bme := 0 } }, by decide +kernel⟩,
   ⟨up, by decide +kernel⟩,
   ⟨{ up with hp := { up.hp with stall := true } }, by decide +kernel⟩,
   ⟨graceOver, 5, by decide +kernel⟩,
   ⟨graceOver, 5, by decide +kernel⟩⟩

/-- Every clause of `BootStraps` has its hypotheses met together. -/
theorem wit_BootStraps :
  (∃ (s : State),
    s.pw.pwrGood = true ∧
    s.pw.perst = true) ∧
  (∃ (raw : BitVec 13) (s : State),
    booting s = true ∧
    bootState s = 0 ∧
    ((List.range 13).filter (raw.getLsbD ·)).length % 2 = 1) ∧
  (∃ (raw : BitVec 13) (s : State),
    booting s = true ∧
    bootState s = 0 ∧
    ((List.range 13).filter (raw.getLsbD ·)).length % 2 = 0) ∧
  (∃ (s : State),
    booting s = true ∧
    bootState s = 1) :=
  ⟨⟨State.reset, by decide +kernel⟩,
   ⟨0x1000, bootAt 0, by decide +kernel⟩,
   ⟨0, bootAt 0, by decide +kernel⟩,
   ⟨bootAt 1, by decide +kernel⟩⟩

/-- Every clause of `BootVerifies` has its hypotheses met together. -/
theorem wit_BootVerifies :
  (∃ (s : State),
    booting s = true ∧
    bootState s = 2) ∧
  (∃ (img : List Byte) (rec : List Byte) (plan : List Byte) (s : State) (c : Nat) (d : Nat),
    booting s = true ∧
    bootState s = 2 ∧
    img.length = (rreg s rImgLen).toNat ∧
    rec.length = 64 ∧
    (rreg s rRecAddr ≠ 0 ∨ rreg s (rRecAddr + 4) ≠ 0) ∧
    plan.length = (rreg s rPlanLen).toNat ∧
    imageErr s img (rreg s rImgLen).toNat = some (c, d) ∧
    c < 256) :=
  ⟨⟨bootAt 2, by decide +kernel⟩,
   ⟨[0, 0, 0, 0, 0, 0, 0, 0], List.replicate 64 0, [], wreg (wreg (bootAt 2) rImgLen 8) rRecAddr 0x1000, 3, 0, by decide +kernel⟩⟩

/-- Every clause of `BootLoadsAndJoins` has its hypotheses met together. -/
theorem wit_BootLoadsAndJoins :
  (∃ (s : State),
    booting s = true ∧
    bootState s = 3 ∧
    s.boot.hbmFail = 0 ∧
    (∀ pt, pt < 16 → portReal s pt = true ∧ portState s pt ≠ 5)) ∧
  (∃ (s : State),
    bootState s = 4 ∧
    ((∀ pt, pt < 16 → 2 ≤ portState s pt) ∨ ∃ t0, s.boot.litAt = some t0 ∧ t0.toNat + 10 ^ 7 ≤ s.now.toNat)) ∧
  (∃ (s : State),
    booting s = true ∧
    s.boot.hbmDone = false ∧
    s.boot.hbmFail = 0 ∧
    bootState s < 6) ∧
  (∃ (failed : BitVec 12) (s : State),
    booting s = true ∧
    s.boot.hbmDone = false ∧
    s.boot.hbmFail = 0 ∧
    failed ≠ 0 ∧
    3 < bootState s ∧
    bootState s ≤ 6) ∧
  (∃ (s : State),
    booting s = true ∧
    bootState s ≤ 6) ∧
  (∃ (s : State),
    bootState s = 5 ∧
    s.boot.discClosed = true ∧
    (∀ pt, pt < 16 → portState s pt ≠ 1 ∧ portState s pt ≠ 2)) ∧
  (∃ (s : State),
    bootState s = 6 ∧
    s.boot.joined = false ∧
    (bestAdvert s).isSome = true) ∧
  (∃ (s : State),
    bootState s = 6 ∧
    s.boot.joined = false ∧
    upPorts s = []) :=
  ⟨⟨withPlan (bootAt 3) ⟨[0, 0, 0, 0, 0, 0, 2, 2]⟩, by decide +kernel⟩,
   ⟨{ bootAt 4 with now := 10000000, boot := { bootReset with litAt := some 0 } }, by decide +kernel, Or.inr ⟨0,
       by decide +kernel, by decide +kernel⟩⟩,
   ⟨bootAt 5, by decide +kernel⟩,
   ⟨0x800, bootAt 4, by decide +kernel⟩,
   ⟨bootAt 6, by decide +kernel⟩,
   ⟨{ bootAt 5 with boot := { bootReset with discClosed := true } }, by decide +kernel⟩,
   ⟨joining, by decide +kernel⟩,
   ⟨bootAt 6, by decide +kernel⟩⟩

/-- Every clause of `PlanAndAttestation` has its hypotheses met together. -/
theorem wit_PlanAndAttestation :
  (∃ (n : Nat) (s : State) (j : Job) (b : List Byte),
    opJob s n 0x0A30 = some j ∧
    rsvd j 28 56 = none ∧
    hostOpen s (fnOfRing s j.ring) = true ∧
    plansBefore s j = false ∧
    (b.length ≠ j.fld 24 4 ∨ (planErr s b).isSome = true)) ∧
  (∃ (n : Nat) (s : State) (j : Job),
    opJob s n 0x0A30 = some j ∧
    rsvd j 28 56 = none ∧
    (hostOpen s (fnOfRing s j.ring) = false ∨ plansBefore s j = true)) ∧
  (∃ (n : Nat) (s : State) (j : Job),
    opJob s n 0x0A31 = some j ∧
    j.fld 16 8 % 64 = 0 ∧
    hostOpen s (fnOfRing s j.ring) = true) :=
  ⟨⟨0, issue up 0x0A30 [(16, 0x1000)], J (issue up 0x0A30 [(16, 0x1000)]) 0, [1], by decide +kernel⟩,
   ⟨0, issue { up with hp := { up.hp with bme := 0 } } 0x0A30 [(16, 0x1000)], J
       (issue { up with hp := { up.hp with bme := 0 } } 0x0A30 [(16, 0x1000)]) 0, by decide +kernel⟩,
   ⟨0, issue up 0x0A31 [(16, 0x1000)], J (issue up 0x0A31 [(16, 0x1000)]) 0, by decide +kernel⟩⟩

/-- Every clause of `PortStates` has its hypotheses met together. -/
theorem wit_PortStates :
  (∃ (pt : Fin 16) (s : State),
    mayTrain s pt.val = true) ∧
  (∃ (pt : Fin 16) (s : State),
    mayTrain s pt.val = true) ∧
  (∃ (pt : Fin 16) (rx : BitVec 18) (tx : BitVec 18) (s : State),
    portState s pt.val = 1 ∧
    4 ≤ laneCount rx ∧
    4 ≤ laneCount tx) ∧
  (∃ (pt : Fin 16) (rx : BitVec 18) (tx : BitVec 18) (s : State),
    portState s pt.val = 1 ∧
    (laneCount rx < 4 ∨ laneCount tx < 4)) ∧
  (∃ (pt : Fin 16) (s : State),
    ready s = true ∧
    portState s pt.val = 0) ∧
  (∃ (pt : Fin 16) (s : State),
    ready s = true ∧
    portState s pt.val = 5 ∧
    portReal s pt.val = true) ∧
  (∃ (pt : Fin 16) (s : State),
    ready s = true ∧
    portState s pt.val = 2) ∧
  (∃ (pt : Fin 16) (s : State),
    ready s = true ∧
    portState s pt.val = 4) :=
  ⟨⟨15, { up with boot := { bootReset with litAt := some 5 } }, by decide +kernel⟩,
   ⟨0, { up with boot := { bootReset with litAt := some 5 } }, by decide +kernel⟩,
   ⟨0, 0xF, 0x3FFFF, portIn up 0 1, by decide +kernel⟩,
   ⟨0, 0x7, 0x3FFFF, portIn up 0 1, by decide +kernel⟩,
   ⟨0, up, by decide +kernel⟩,
   ⟨0, wreg (portIn up 0 5) (rPort 0 + 4) 1, by decide +kernel⟩,
   ⟨0, portIn up 0 2, by decide +kernel⟩,
   ⟨0, portIn up 0 4, by decide +kernel⟩⟩

/-- Every clause of `PortAuthentication` has its hypotheses met together. -/
theorem wit_PortAuthentication :
  (∃ (pt : Fin 16) (s : State),
    portState s pt.val = 2) :=
  ⟨0, portIn up 0 2, by decide +kernel⟩

/-- Every clause of `PortLanes` has its hypotheses met together. -/
theorem wit_PortLanes :
  (∃ (pt : Fin 16) (ln : Fin 18) (s : State),
    trained s pt.val = true ∧
    (portOf s pt.val).rxAct &&& laneBit ln.val = 0 ∧
    (portOf s pt.val).rxSpare &&& laneBit ln.val ≠ 0) ∧
  (∃ (pt : Fin 16) (ln : Fin 18) (s : State),
    trained s pt.val = true ∧
    (portOf s pt.val).rxAct &&& laneBit ln.val ≠ 0 ∧
    4 ≤ laneCount ((portOf s pt.val).rxAct &&& ~~~ laneBit ln.val) + laneCount (portOf s pt.val).rxSpare) ∧
  (∃ (pt : Fin 16) (ln : Fin 18) (s : State),
    trained s pt.val = true ∧
    (portOf s pt.val).txAct &&& laneBit ln.val ≠ 0 ∧
    4 ≤ laneCount ((portOf s pt.val).txAct &&& ~~~ laneBit ln.val) + laneCount (portOf s pt.val).txSpare) ∧
  (∃ (pt : Fin 16) (s : State) (c : Bool × Nat) (d : Bool × Nat) (cs : List (Bool × Nat)),
    (portOf s pt.val).changes = c :: d :: cs ∧
    (c.1 = true → (portOf s pt.val).rxSpare ≠ 0) ∧
    (c.1 = false → (portOf s pt.val).txSpare ≠ 0)) ∧
  (∃ (pt : Fin 16) (ln : Fin 18) (s : State),
    trained s pt.val = true ∧
    (portOf s pt.val).rxFail.getLsbD ln.val = true) ∧
  (∃ (pt : Fin 16) (s : State),
    portState s pt.val = 4 ∧
    (portOf s pt.val).lastRx.toNat + 2000 ≤ s.now.toNat) ∧
  (∃ (pt : Fin 16) (s : State),
    ready s = true ∧
    portState s pt.val = 0 ∧
    planned s pt.val = true ∧
    s.boot.discClosed = true ∧
    (portOf s pt.val).downAt.toNat + 2000 ≤ s.now.toNat) :=
  ⟨⟨0, 17, net, by decide +kernel⟩,
   ⟨0, 4, lean, by decide +kernel⟩,
   ⟨0, 4, lean, by decide +kernel⟩,
   ⟨0, modPort net 0 (fun x => { x with changes := [(true, 0), (false, 3)] }), (true, 0), (false, 3), [], by decide +kernel⟩,
   ⟨0, 17, modPort net 0 (fun x => { x with rxSpare := 0x10000, rxFail := 0x20000 }), by decide +kernel⟩,
   ⟨0, { portIn up 0 4 with now := 2000 }, by decide +kernel⟩,
   ⟨0, { withPlan up plan1 with now := 2000, boot := { bootReset with plan := some plan1, discClosed := true } },
       by decide +kernel⟩⟩

/-- Every clause of `LinkControl` has its hypotheses met together. -/
theorem wit_LinkControl :
  (∃ (pt : Fin 16) (s : State),
    trained s pt.val = true ∧
    (portOf s pt.val).lastTx.toNat + 256 ≤ s.now.toNat) ∧
  (∃ (pt : Fin 16) (s : State),
    isUp s pt.val = true) ∧
  (∃ (pt : Fin 16) (s : State),
    isUp s pt.val = true ∧
    (portOf s pt.val).owed.any (fun k => k != 0) = true ∧
    (portOf s pt.val).vcgUntil ≤ s.now.toNat) ∧
  (∃ (pt : Fin 16) (q : BitVec 16) (s : State),
    isUp s pt.val = true ∧
    (portOf s pt.val).wait = [] ∧
    s.ol.casts = [] ∧
    (portOf s pt.val).sent.any (fun e => e.seq == q) = true) ∧
  (∃ (pt : Fin 16) (q : BitVec 16) (s : State),
    isUp s pt.val = true ∧
    (portOf s pt.val).sent.any (fun e => e.seq == q) = true ∧
    (portOf s pt.val).sent.all (fun e => decide (e.times < 7)) = true) ∧
  (∃ (pt : Fin 16) (vc : Fin 4) (s : State),
    isUp s pt.val = true ∧
    (portOf s pt.val).wait = [] ∧
    vc.val < (portOf s pt.val).credits.length) ∧
  (∃ (pt : Fin 16) (s : State),
    isUp s pt.val = true) :=
  ⟨⟨0, net, by decide +kernel⟩,
   ⟨0, net, by decide +kernel⟩,
   ⟨0, modPort net 0 (fun x => { x with owed := [0, 0, 0, 1] }), by decide +kernel⟩,
   ⟨0, 3, sentTwo, by decide +kernel⟩,
   ⟨0, 3, sentTwo, by decide +kernel⟩,
   ⟨0, 3, modPort net 0 (fun x => { x with credits := [0, 0, 0, 5] }), by decide +kernel⟩,
   ⟨0, net, by decide +kernel⟩⟩

/-- Every clause of `WindowsAndRemoteOperations` has its hypotheses met together. -/
theorem wit_WindowsAndRemoteOperations :
  (∃ (n : Nat) (s : State) (j : Job),
    opJob s n 0x0A20 = some j ∧
    openErr s j = none ∧
    (j.bits 41 0 1 = 1 → inRegion s (part s j) (j.va 16) (j.fld 24 8) = false)) ∧
  (∃ (n : Nat) (s : State) (j : Job),
    opJob s n 0x0A21 = some j ∧
    closeErr s j = none) ∧
  (∃ (n : Nat) (s : State) (j : Job),
    opJob s n 0x0A22 = some j ∧
    remoteErr s j = none ∧
    j.fld 24 8 / 2 ^ 52 ≠ moduleNo s ∧
    reachable s (j.fld 24 8 / 2 ^ 52) = true ∧
    CanAccess s n [rd (part s j) (j.va 16) (j.fld 40 4)]) ∧
  (∃ (n : Nat) (s : State) (j : Job),
    opJob s n 0x0A23 = some j ∧
    remoteErr s j = none ∧
    regionErr s [wr (part s j) (j.va 16) (j.fld 40 4)] = none ∧
    j.fld 24 8 / 2 ^ 52 ≠ moduleNo s ∧
    reachable s (j.fld 24 8 / 2 ^ 52) = true) ∧
  (∃ (n : Nat) (s : State) (j : Job) (w : Win),
    opJob s n 0x0A22 = some j ∧
    remoteErr s j = none ∧
    j.fld 24 8 / 2 ^ 52 = moduleNo s ∧
    winOf s (j.fld 24 8 / 2 ^ 44 % 256) = some w ∧
    windowErr s (j.fld 24 8 / 2 ^ 44 % 256) (BitVec.ofNat 64 (j.fld 32 8)) (moduleNo s) (j.fld 24 8 % 2 ^ 44)
        (j.fld 40 4) true = none ∧
    CanAccess s n [⟨part s j, j.va 16, j.fld 40 4, false⟩, ⟨w.p, w.base + j.fld 24 8 % 2 ^ 44, j.fld 40 4, true⟩]) ∧
  (∃ (n : Nat) (s : State) (j : Job) (w : Win),
    opJob s n 0x0A23 = some j ∧
    remoteErr s j = none ∧
    regionErr s [wr (part s j) (j.va 16) (j.fld 40 4)] = none ∧
    j.fld 24 8 / 2 ^ 52 = moduleNo s ∧
    winOf s (j.fld 24 8 / 2 ^ 44 % 256) = some w ∧
    windowErr s (j.fld 24 8 / 2 ^ 44 % 256) (BitVec.ofNat 64 (j.fld 32 8)) (moduleNo s) (j.fld 24 8 % 2 ^ 44)
        (j.fld 40 4) false = none ∧
    CanAccess s n [⟨part s j, j.va 16, j.fld 40 4, true⟩, ⟨w.p, w.base + j.fld 24 8 % 2 ^ 44, j.fld 40 4, false⟩]) ∧
  (∃ (n : Nat) (s : State) (j : Job) (g : Nat) (x : Grp),
    opJob s n 0x080A = some j ∧
    remotePegErr s j = none ∧
    grpNamed s (part s j) (j.fld 32 2) = some (g, x) ∧
    x.members.contains (j.fld 16 8 / 2 ^ 52 + 4096 * (j.fld 16 8 % 2 ^ 44 / 2 ^ 16)) = true ∧
    j.fld 16 8 / 2 ^ 52 ≠ moduleNo s ∧
    reachable s (j.fld 16 8 / 2 ^ 52) = true) ∧
  (∃ (n : Nat) (s : State) (j : Job) (g : Nat) (x : Grp),
    opJob s n 0x080A = some j ∧
    remotePegErr s j = none ∧
    grpNamed s (part s j) (j.fld 32 2) = some (g, x) ∧
    x.members.contains (j.fld 16 8 / 2 ^ 52 + 4096 * (j.fld 16 8 % 2 ^ 44 / 2 ^ 16)) = true ∧
    j.fld 16 8 / 2 ^ 52 = moduleNo s) :=
  ⟨⟨0, issue mem1 0x0A20 [(16, 0x100000), (24, 0x1000), (32, 9), (40, 0x80), (41, 3)], J (issue mem1 0x0A20 [(16, 0x100000),
      (24, 0x1000), (32, 9), (40, 0x80), (41, 3)]) 0, by decide +kernel⟩,
   ⟨0, issue winUp 0x0A21 [(40, 0x80)], J (issue winUp 0x0A21 [(40, 0x80)]) 0, by decide +kernel⟩,
   ⟨0, issue (inGroup mem1 grp2) 0x0A22 [(16, 0x100000), (24, 2 ^ 52 + 0x80 * 2 ^ 44), (32, 9), (40, 0x1040)], J (issue
       (inGroup mem1 grp2) 0x0A22 [(16, 0x100000), (24, 2 ^ 52 + 0x80 * 2 ^ 44), (32, 9), (40, 0x1040)]) 0, by decide +kernel,
       by decide +kernel, by decide +kernel, by decide +kernel, canGo (by decide +kernel)⟩,
   ⟨0, issue (inGroup mem1 grp2) 0x0A23 [(16, 0x100000), (24, 2 ^ 52 + 0x80 * 2 ^ 44 + 0xFC0), (32, 9), (40, 0x80)], J (issue
       (inGroup mem1 grp2) 0x0A23 [(16, 0x100000), (24, 2 ^ 52 + 0x80 * 2 ^ 44 + 0xFC0), (32, 9), (40, 0x80)]) 0,
       by decide +kernel⟩,
   ⟨0, issue (writeAt winUp 0 0x100000 [1, 2, 3] (fun _ => false)) 0x0A22 [(16, 0x100000), (24, 0x80 * 2 ^ 44 + 0x1FC0), (32,
       9), (40, 0x40)], J (issue (writeAt winUp 0 0x100000 [1, 2, 3] (fun _ => false)) 0x0A22 [(16, 0x100000), (24,
       0x80 * 2 ^ 44 + 0x1FC0), (32, 9), (40, 0x40)]) 0, ⟨0x80, 0, 0x100000, 0x2000, 9, true, true, none⟩, by decide +kernel,
       by decide +kernel, by decide +kernel, by decide +kernel, by decide +kernel, canGo (by decide +kernel)⟩,
   ⟨0, issue (writeAt winUp 0 0x100000 [1, 2, 3] (fun _ => false)) 0x0A23 [(16, 0x103000), (24, 0x80 * 2 ^ 44), (32, 9), (40,
       0x40)], J (issue (writeAt winUp 0 0x100000 [1, 2, 3] (fun _ => false)) 0x0A23 [(16, 0x103000), (24, 0x80 * 2 ^ 44), (32,
       9), (40, 0x40)]) 0, ⟨0x80, 0, 0x100000, 0x2000, 9, true, true, none⟩, by decide +kernel, by decide +kernel,
       by decide +kernel, by decide +kernel, by decide +kernel, by decide +kernel, canGo (by decide +kernel)⟩,
   ⟨0, issue (inGroup mem1 grp2) 0x080A [(16, 2 ^ 52 + 0x50), (24, 3), (32, 5)], J (issue (inGroup mem1 grp2) 0x080A [(16,
       2 ^ 52 + 0x50), (24, 3), (32, 5)]) 0, 0, grp2, by decide +kernel⟩,
   ⟨0, issue (inGroup mem1 grp2) 0x080A [(16, 0x50), (24, 3), (32, 5)], J (issue (inGroup mem1 grp2) 0x080A [(16, 0x50), (24,
       3), (32, 5)]) 0, 0, grp2, by decide +kernel⟩⟩

/-- Every clause of `FramesLand` has its hypotheses met together. -/
theorem wit_FramesLand :
  (∃ (pt : Fin 16) (fr : Frame) (s : State) (w : Win),
    Arrives s pt.val fr ∧
    winOf s fr.window.toNat = some w ∧
    0x80 ≤ fr.window.toNat ∧
    windowErr s fr.window.toNat fr.key fr.src.toNat fr.offset.toNat fr.payload.length true = none ∧
    CanAccess s (landJob pt.val) [wr w.p (w.base + fr.offset.toNat) fr.payload.length]) ∧
  (∃ (pt : Fin 16) (fr : Frame) (s : State) (w : Win),
    Arrives s pt.val fr ∧
    winOf s fr.window.toNat = some w ∧
    0x80 ≤ fr.window.toNat ∧
    windowErr s fr.window.toNat fr.key fr.src.toNat fr.offset.toNat fr.want false = none ∧
    CanAccess s (landJob pt.val) [rd w.p (w.base + fr.offset.toNat) fr.want]) ∧
  (∃ (pt : Fin 16) (fr : Frame) (s : State) (o : RemOp) (j : Job) (k : Nat),
    Arrives s pt.val fr ∧
    remOp s fr.op = some o ∧
    o.dest = fr.src ∧
    o.left = [(fr.offset.toNat, k)] ∧
    o.stop = false ∧
    job? s o.job = some j ∧
    CanAccess s o.job [wr (part s j) (o.la + fr.offset.toNat - o.ro) fr.payload.length]) ∧
  (∃ (pt : Fin 16) (fr : Frame) (s : State) (o : RemOp) (j : Job) (k : Nat),
    Arrives s pt.val fr ∧
    remOp s fr.op = some o ∧
    o.dest = fr.src ∧
    o.left = [(fr.offset.toNat, k)] ∧
    o.stop = false ∧
    job? s o.job = some j) ∧
  (∃ (pt : Fin 16) (fr : Frame) (s : State) (o : RemOp) (j : Job) (k : Nat),
    Arrives s pt.val fr ∧
    remOp s fr.op = some o ∧
    o.dest = fr.src ∧
    o.left = [(fr.offset.toNat, k)] ∧
    o.stop = false ∧
    job? s o.job = some j) ∧
  (∃ (pt : Fin 16) (fr : Frame) (gid : BitVec 16) (epoch : Word) (s : State) (g : Nat) (x : Grp),
    Arrives s pt.val fr ∧
    ready s = true ∧
    g < 64 ∧
    grpOf s g = some x ∧
    x.gid = gid ∧
    x.epoch = epoch ∧
    x.key = fr.key ∧
    x.members.any (fun m => entryModule m == fr.src.toNat) = true ∧
    fr.offset.toNat < 2 ^ 19 ∧
    fr.offset.toNat % 16 = 0) :=
  ⟨⟨0, frame1, inGroup mem1 grp2, ⟨0x80, 0, 0x100000, 0x2000, 9, true, true, none⟩, by unfold Arrives; decide +kernel,
      by decide +kernel, by decide +kernel, by decide +kernel, canGo (by decide +kernel)⟩,
   ⟨0, { frame1 with payload := [] }, inGroup mem1 grp2, ⟨0x80, 0, 0x100000, 0x2000, 9, true, true, none⟩,
       by unfold Arrives; decide +kernel, by decide +kernel, by decide +kernel, by decide +kernel, canGo (by decide +kernel)⟩,
   ⟨0, frame1, remOn true, ⟨0, 0, 1, true, [(0x1FC0, 64)], 0x100000, 0x1FC0, false, false⟩, J (remOn true) 0, 64,
       by unfold Arrives; decide +kernel, by decide +kernel, by decide +kernel, by decide +kernel, by decide +kernel,
       by decide +kernel, canGo (by decide +kernel)⟩,
   ⟨0, frame1, remOn false, ⟨0, 0, 1, false, [(0x1FC0, 64)], 0x100000, 0x1FC0, false, false⟩, J (remOn false) 0, 64,
       by unfold Arrives; decide +kernel, by decide +kernel, by decide +kernel, by decide +kernel, by decide +kernel,
       by decide +kernel⟩,
   ⟨0, frame1, remOn false, ⟨0, 0, 1, false, [(0x1FC0, 64)], 0x100000, 0x1FC0, false, false⟩, J (remOn false) 0, 64,
       by unfold Arrives; decide +kernel, by decide +kernel, by decide +kernel, by decide +kernel, by decide +kernel,
       by decide +kernel⟩,
   ⟨0, { frame1 with offset := 0x7FFF0 }, 5, 6, inGroup mem1 grp2, 0, grp2, by unfold Arrives; decide +kernel,
       by decide +kernel, by decide +kernel, by decide +kernel, by decide +kernel, by decide +kernel, by decide +kernel,
       by decide +kernel, by decide +kernel, by decide +kernel⟩⟩

/-- Every clause of `BroadcastsAct` has its hypotheses met together. -/
theorem wit_BroadcastsAct :
  (∃ (pt : Fin 16) (origin : BitVec 12) (num : Word) (x : Notice) (s : State) (g : Nat) (y : Grp) (r : CollRun) (j : Job),
    isUp s pt.val = true ∧
    (portOf s pt.val).owed.getD 0 0 < 32 ∧
    noteCast s origin num ≠ none ∧
    g < 64 ∧
    s.ce.groups = [(g, some y)] ∧
    y.gid = x.gid ∧
    y.epoch = x.epoch ∧
    y.run = some r ∧
    r.index = x.index ∧
    job? s r.job = some j ∧
    (ringOf s j.ring).job = 0) ∧
  (∃ (pt : Fin 16) (origin : BitVec 12) (num : Word) (x : Notice) (s : State) (g : Nat) (y : Grp) (r : CollRun) (j : Job),
    isUp s pt.val = true ∧
    (portOf s pt.val).owed.getD 0 0 < 32 ∧
    noteCast s origin num ≠ none ∧
    g < 64 ∧
    s.ce.groups = [(g, some y)] ∧
    y.gid = x.gid ∧
    y.epoch = x.epoch ∧
    y.run = some r ∧
    r.index = x.index ∧
    job? s r.job = some j ∧
    (ringOf s j.ring).job = 0) ∧
  (∃ (pt : Fin 16) (origin : BitVec 12) (num : Word) (x : Notice) (s : State) (g : Nat) (y : Grp) (r : CollRun) (j : Job),
    isUp s pt.val = true ∧
    (portOf s pt.val).owed.getD 0 0 < 32 ∧
    noteCast s origin num ≠ none ∧
    g < 64 ∧
    s.ce.groups = [(g, some y)] ∧
    y.gid = x.gid ∧
    y.epoch = x.epoch ∧
    y.run = some r ∧
    r.index = x.index ∧
    job? s r.job = some j ∧
    (ringOf s j.ring).job = 0) ∧
  (∃ (pt : Fin 16) (origin : BitVec 12) (num : Word) (v : DWord) (sid : BitVec 16) (s : State),
    isUp s pt.val = true ∧
    (portOf s pt.val).owed.getD 0 0 < 32 ∧
    noteCast s origin num ≠ none ∧
    (snapOf s (sid.toNat % 4)).state = 0 ∧
    s.now.toNat < v.toNat) ∧
  (∃ (pt : Fin 16) (origin : BitVec 12) (num : Word) (v : DWord) (sid : BitVec 16) (s : State),
    isUp s pt.val = true ∧
    (portOf s pt.val).owed.getD 0 0 < 32 ∧
    noteCast s origin num ≠ none ∧
    (snapOf s (sid.toNat % 4)).state = 0 ∧
    v.toNat ≤ s.now.toNat) ∧
  (∃ (pt : Fin 16) (origin : BitVec 12) (num : Word) (v : DWord) (s : State),
    isUp s pt.val = true ∧
    (portOf s pt.val).owed.getD 0 0 < 32 ∧
    noteCast s origin num ≠ none ∧
    s.now.toNat < v.toNat ∧
    s.pw.caps.length < 8) ∧
  (∃ (pt : Fin 16) (origin : BitVec 12) (num : Word) (J : Word) (ta : DWord) (s : State),
    isUp s pt.val = true ∧
    (portOf s pt.val).owed.getD 0 0 < 32 ∧
    noteCast s origin num ≠ none ∧
    J ≠ 0 ∧
    s.ob.aborts.contains (J, ta) = false ∧
    s.hp.rings.any (fun e => (ringOf s e.1).job == J && decide ((ringOf s e.1).jobAt.toNat < ta.toNat)) = true) ∧
  (∃ (pt : Fin 16) (s : State),
    isUp s pt.val = true ∧
    (portOf s pt.val).owed.getD 0 0 < 32) :=
  ⟨⟨0, 1, 0, ⟨5, 6, 0, 1, 900⟩, runs (inGroup mem1 { grp2 with next := 1, run := some (run2 0) }) 0x0809 [(38, 5)], 0,
      { grp2 with next := 1, run := some (run2 0) }, run2 0, J (runs
      (inGroup mem1 { grp2 with next := 1, run := some (run2 0) }) 0x0809 [(38, 5)]) 0, by decide +kernel⟩,
   ⟨0, 1, 0, ⟨5, 6, 0, 1, 900⟩, runs (inGroup mem1 { grp2 with next := 1, run := some (run2 0) }) 0x0809 [(38, 5)], 0,
       { grp2 with next := 1, run := some (run2 0) }, run2 0, J (runs
       (inGroup mem1 { grp2 with next := 1, run := some (run2 0) }) 0x0809 [(38, 5)]) 0, by decide +kernel⟩,
   ⟨0, 1, 0, ⟨5, 6, 0, 1, 900⟩, runs (inGroup mem1 { grp2 with next := 1, run := some (run2 0) }) 0x0809 [(38, 5)], 0,
       { grp2 with next := 1, run := some (run2 0) }, run2 0, J (runs
       (inGroup mem1 { grp2 with next := 1, run := some (run2 0) }) 0x0809 [(38, 5)]) 0, by decide +kernel⟩,
   ⟨0, 1, 0, 1001, 7, net, by decide +kernel⟩,
   ⟨0, 1, 0, 1000, 7, net, by decide +kernel⟩,
   ⟨0, 1, 0, 1001, net, by decide +kernel⟩,
   ⟨0, 1, 0, 7, 1, setRing net 5 { ring0 with ctrl := 1, job := 7 }, by decide +kernel⟩,
   ⟨0, net, by decide +kernel⟩⟩

/-- Every clause of `GroupsFormAndEnd` has its hypotheses met together. -/
theorem wit_GroupsFormAndEnd :
  (∃ (n : Nat) (s : State) (j : Job) (g : Nat),
    opJob s n 0x0800 = some j ∧
    createErr j = none ∧
    CanAccess s n [rd (part s j) (j.va 16) (2 * j.bits 24 0 13)] ∧
    badMembers s (newGroup s j) = false ∧
    (List.range 64).find? (fun g => (grpOf s g).isNone) = some g ∧
    (newGroup s j).partners = []) ∧
  (∃ (n : Nat) (s : State) (j : Job) (g : Nat),
    opJob s n 0x0800 = some j ∧
    createErr j = none ∧
    CanAccess s n [rd (part s j) (j.va 16) (2 * j.bits 24 0 13)] ∧
    badMembers s (newGroup s j) = false ∧
    (List.range 64).find? (fun g => (grpOf s g).isNone) = some g ∧
    (newGroup s j).partners ≠ [] ∧
    (∀ m ∈ (newGroup s j).partners, reachable s (entryModule m) = true) ∧
    (∀ e ∈ s.ce.joins, e.1 ≠ (newGroup s j).gid ∨ e.2.1 ≠ (newGroup s j).epoch)) ∧
  (∃ (pt : Fin 16) (fr : Frame) (gid : BitVec 16) (epoch : Word) (s : State),
    Arrives s pt.val fr ∧
    ready s = true ∧
    s.ce.groups = [] ∧
    s.ce.gone.contains (gid, epoch) = false) ∧
  (∃ (pt : Fin 16) (fr : Frame) (gid : BitVec 16) (epoch : Word) (q : Fin 8) (hash : BitVec 128) (s : State) (g : Nat)
      (id : Nat) (x : Grp) (j : Job),
    Arrives s pt.val fr ∧
    ready s = true ∧
    g < 64 ∧
    s.ce.groups = [(g, some x)] ∧
    x.gid = gid ∧
    x.epoch = epoch ∧
    x.joining = some id ∧
    job? s id = some j ∧
    x.partners = [fr.src.toNat + 4096 * q.val] ∧
    x.hash = hash) ∧
  (∃ (g : Fin 64) (s : State) (x : Grp) (id : Nat) (j : Job),
    grpOf s g.val = some x ∧
    watchOut s x = true ∧
    x.joining = some id ∧
    job? s id = some j) ∧
  (∃ (n : Nat) (s : State) (j : Job) (g : Nat) (y : Grp),
    opJob s n 0x0801 = some j ∧
    destroyErr s j = none ∧
    grpNamed s (part s j) (j.fld 16 2) = some (g, y) ∧
    grpOf s g = some y ∧
    y.run = none) ∧
  (∃ (n : Nat) (s : State) (j : Job) (g : Nat) (y : Grp),
    opJob s n 0x0801 = some j ∧
    destroyErr s j = none ∧
    grpNamed s (part s j) (j.fld 16 2) = some (g, y) ∧
    y.run.isSome = true) :=
  ⟨⟨0, issue mem1 0x0800 [(16, 0x100000), (24, 1), (26, 5)], J (issue mem1 0x0800 [(16, 0x100000), (24, 1), (26, 5)]) 0, 0,
      by decide +kernel, by decide +kernel, canGo (by decide +kernel), by decide +kernel, by decide +kernel, by decide +kernel⟩,
   ⟨0, issue (writeAt (portIn mem1 0 3) 0 0x100002 [1] noSoil) 0x0800 [(16, 0x100000), (24, 2), (26, 5)], J (issue (writeAt
       (portIn mem1 0 3) 0 0x100002 [1] noSoil) 0x0800 [(16, 0x100000), (24, 2), (26, 5)]) 0, 0, by decide +kernel,
       by decide +kernel, canGo (by decide +kernel), by decide +kernel, by decide +kernel, by decide +kernel, by decide +kernel,
       by decide +kernel⟩,
   ⟨0, frameCe, 5, 6, net, by unfold Arrives; decide +kernel, by decide +kernel, by decide +kernel, by decide +kernel⟩,
   ⟨0, frameCe, 5, 6, 0, 0, runs (inGroup mem1 { grp2 with joining := some 0, joined := [] }) 0x0800 [], 0, 0,
       { grp2 with joining := some 0, joined := [] }, J (runs
       (inGroup mem1 { grp2 with joining := some 0, joined := [] }) 0x0800 []) 0, by unfold Arrives; decide +kernel,
       by decide +kernel, by decide +kernel, by decide +kernel, by decide +kernel, by decide +kernel, by decide +kernel,
       by decide +kernel, by decide +kernel, by decide +kernel⟩,
   ⟨0, { runs (inGroup mem1 { grp2 with joining := some 0, joined := [] }) 0x0800 [] with now := 1000000900 },
       { grp2 with joining := some 0, joined := [] }, 0, J
       ({ runs (inGroup mem1 { grp2 with joining := some 0, joined := [] }) 0x0800 [] with now := 1000000900 }) 0,
       by decide +kernel⟩,
   ⟨0, issue (inGroup mem1 grp2) 0x0801 [(16, 5)], J (issue (inGroup mem1 grp2) 0x0801 [(16, 5)]) 0, 0, grp2, by decide +kernel⟩,
   ⟨0, issue (inGroup mem1 { grp2 with run := some (run2 0) }) 0x0801 [(16, 5)], J (issue
       (inGroup mem1 { grp2 with run := some (run2 0) }) 0x0801 [(16, 5)]) 0, 0, { grp2 with run := some (run2 0) },
       by decide +kernel⟩⟩

/-- Every clause of `CollectivesComplete` has its hypotheses met together. -/
theorem wit_CollectivesComplete :
  (∃ (n : Nat) (op : Nat) (c : List Contribution → Instr) (srcs : List Contribution) (s : State) (j : Job) (g : Nat) (x : Grp)
      (r : CollRun),
    (op, c) ∈ [(0x0803, Instr.allReduce n), (0x0804, Instr.reduce n), (0x0805, Instr.reduceScatter n), (0x0806,
        Instr.allGather n), (0x0807, Instr.broadcast n), (0x0808, Instr.seqReduce n)] ∧
    job? s n = some j ∧
    j.opcode = op ∧
    j.phase = .running ∧
    grpWhere s (fun x => x.run.any (fun r => r.job == n)) = some (g, x) ∧
    grpOf s g = some x ∧
    x.run = some r ∧
    r.spin = none ∧
    r.dst = (collOf j x.members.length).dst ∧
    r.len = (collOf j x.members.length).dstBytes x.index ∧
    suspended s x.p = false ∧
    allGiven (collOf j x.members.length) x.members.length (srcs.set x.index r.mine) = true ∧
    CanAccess s n (if r.len = 0 then [] else [wr x.p r.dst (collOf j x.members.length).db])) ∧
  (∃ (n : Nat) (s : State) (j : Job) (g : Nat) (x : Grp) (r : CollRun),
    job? s n = some j ∧
    j.opcode = 0x0809 ∧
    j.phase = .running ∧
    grpWhere s (fun x => x.run.any (fun r => r.job == n)) = some (g, x) ∧
    grpOf s g = some x ∧
    x.run = some r ∧
    r.spin = none ∧
    suspended s x.p = false ∧
    r.stage ≤ (patternRounds x.members.length x.index).length ∧
    (patternRounds x.members.length x.index).all (fun e => e.2.2.all (fun i => r.rounds.contains (i, e.1))) = true) :=
  ⟨⟨0, 0x0806, Instr.allGather 0, [⟨[], []⟩, give2], runs (inGroup mem1 gather2) 0x0806 [(16, 0x100000 + 2 ^ 52), (24,
      0x101000 + 2 ^ 52), (32, 64), (38, 5)], J (runs (inGroup mem1 gather2) 0x0806 [(16, 0x100000 + 2 ^ 52), (24,
      0x101000 + 2 ^ 52), (32, 64), (38, 5)]) 0, 0, gather2, { run2 128 with mine := give2 }, by simp, by decide +kernel,
      by decide +kernel, by decide +kernel, by decide +kernel, by decide +kernel, by decide +kernel, by decide +kernel,
      by decide +kernel, by decide +kernel, by decide +kernel, by decide +kernel, canGo (by decide +kernel)⟩,
   ⟨0, runs (inGroup mem1 { grp2 with next := 1, run := some met2 }) 0x0809 [(38, 5)], J (runs
       (inGroup mem1 { grp2 with next := 1, run := some met2 }) 0x0809 [(38, 5)]) 0, 0,
       { grp2 with next := 1, run := some met2 }, met2, by decide +kernel⟩⟩

/-- Every clause of `CollectivesBegin` has its hypotheses met together. -/
theorem wit_CollectivesBegin :
  (∃ (n : Nat) (op : Nat) (c : Instr) (s : State) (j : Job) (g : Nat) (y : Grp),
    (op, c) ∈ [(0x0803, Instr.allReduce n []), (0x0804, Instr.reduce n []), (0x0805, Instr.reduceScatter n []), (0x0806,
        Instr.allGather n []), (0x0807, Instr.broadcast n []), (0x0808, Instr.seqReduce n [])] ∧
    job? s n = some j ∧
    j.opcode = op ∧
    j.phase = .checked ∧
    grpNamed s (part s j) (j.fld 38 2) = some (g, y) ∧
    g < 64 ∧
    grpOf s g = some y ∧
    collErr s j (some (g, y)) = none ∧
    awaitsTurn s j (j.fld 38 2) y = false ∧
    y.broken = none ∧
    y.firsts = [] ∧
    2 ≤ y.members.length ∧
    grpWhere s (fun x => x.run.any (fun r => r.job == n)) = none ∧
    (∀ m ∈ y.partners, reachable s (entryModule m) = true) ∧
    CanAccess s n ((if (collOf j y.members.length).srcBytes y.index = 0 then [] else [rd (part s j)
        (collOf j y.members.length).src ((collOf j y.members.length).srcBytes y.index)]) ++ (if
        (collOf j y.members.length).dstBytes y.index = 0 then [] else [wr (part s j) (collOf j y.members.length).dst
        ((collOf j y.members.length).dstBytes y.index)]))) ∧
  (∃ (pt : Fin 16) (fr : Frame) (h : CeHead) (index : Nat) (sig : Word) (s : State) (g : Nat) (x : Grp) (r : CollRun),
    ArrivesCe s pt.val fr h g x ∧
    x.broken = none ∧
    x.run = some r ∧
    r.index = index ∧
    r.sig = sig) ∧
  (∃ (pt : Fin 16) (fr : Frame) (h : CeHead) (index : Nat) (s : State) (g : Nat) (x : Grp),
    ArrivesCe s pt.val fr h g x ∧
    x.broken = none ∧
    x.run = none ∧
    x.next ≤ index) ∧
  (∃ (s : State) (w : Nat) (m : Nat) (v : Nat),
    ready s = true ∧
    s.ce.window ≤ w ∧
    (w + 1) * lagSpan s ≤ s.now.toNat ∧
    laggard s w = some (m, v)) :=
  ⟨⟨0, 0x0806, .allGather 0 [], issue (inGroup mem1 grp2) 0x0806 [(16, 0x100000 + 2 ^ 52), (24, 0x101000 + 2 ^ 52), (32, 64),
      (38, 5)], J (issue (inGroup mem1 grp2) 0x0806 [(16, 0x100000 + 2 ^ 52), (24, 0x101000 + 2 ^ 52), (32, 64), (38, 5)]) 0, 0,
      grp2, by decide +kernel, by decide +kernel, by decide +kernel, by decide +kernel, by decide +kernel, by decide +kernel,
      by decide +kernel, by decide +kernel, by decide +kernel, by decide +kernel, by decide +kernel, by decide +kernel,
      by decide +kernel, by decide +kernel, canGo (by decide +kernel)⟩,
   ⟨0, frameCe, head1, 0, 0, inGroup mem1 { grp2 with next := 1, run := some { run2 0 with heard := [] } }, 0,
       { grp2 with next := 1, run := some { run2 0 with heard := [] } }, { run2 0 with heard := [] },
       by unfold ArrivesCe Arrives; decide +kernel, by decide +kernel, by decide +kernel, by decide +kernel, by decide +kernel⟩,
   ⟨0, frameCe, head1, 0, inGroup mem1 grp2, 0, grp2, by unfold ArrivesCe Arrives; decide +kernel, by decide +kernel,
       by decide +kernel, by decide +kernel⟩,
   ⟨lagging, 1, 0, 5, by decide +kernel⟩⟩

/-- Every clause of `SpinsAndChunks` has its hypotheses met together. -/
theorem wit_SpinsAndChunks :
  (∃ (n : Nat) (s : State) (j : Job) (o : Obj) (r : Region) (g : Nat) (x : Grp),
    opJob s n 0x0802 = some j ∧
    spinErr s j = none ∧
    objNamed s (part s j) j.obj n = some o ∧
    spinRegion s j = some r ∧
    grpNamed s (part s j) (j.fld 28 2) = some (g, x) ∧
    g < 64 ∧
    grpOf s g = some x ∧
    awaitsTurn s j (j.fld 28 2) x = false ∧
    x.broken = none ∧
    x.firsts = [] ∧
    (∀ m ∈ x.partners, reachable s (entryModule m) = true) ∧
    CanAccess s n (spinSpans s j o r x)) ∧
  (∃ (pt : Fin 16) (fr : Frame) (h : CeHead) (ch : Chunk) (s : State) (g : Nat) (x : Grp) (r : CollRun),
    ArrivesCe s pt.val fr h g x ∧
    x.run = some r ∧
    r.spin = none ∧
    ch.dir.val = 2 ∧
    collTakes x r h.sender ch = true ∧
    CanAccess s r.job [chunkSpan x r ch]) ∧
  (∃ (pt : Fin 16) (fr : Frame) (h : CeHead) (ch : Chunk) (s : State) (g : Nat) (x : Grp) (r : CollRun) (y : SpinRun),
    ArrivesCe s pt.val fr h g x ∧
    x.run = some r ∧
    r.spin = some y ∧
    ch.env = true ∧
    spinTakes x y h.sender ch = true ∧
    CanAccess s r.job [chunkSpan x r ch]) ∧
  (∃ (pt : Fin 16) (fr : Frame) (h : CeHead) (ch : Chunk) (s : State) (g : Nat) (x : Grp) (r : CollRun) (y : SpinRun),
    ArrivesCe s pt.val fr h g x ∧
    x.run = some r ∧
    r.spin = some y ∧
    ch.env = false ∧
    spinTakes x y h.sender ch = true ∧
    CanAccess s r.job [chunkSpan x r ch] ∧
    ch.dir.val < y.got.length) ∧
  (∃ (g : Fin 64) (dir : Fin 2) (s : State) (x : Grp) (r : CollRun) (y : SpinRun),
    spinAt s g.val = some (x, r, y) ∧
    y.granted.getD dir.val 0 + 3 ≤ spinSteps x.members.length dir.val ∧
    (y.granted.getD dir.val 0 + 1) * y.win.chunks ≤ (pegOf s y.p (y.relPeg.getD dir.val 0) - y.rel0.getD dir.val 0).toNat ∧
    (y.granted.getD dir.val 0 + 2) * y.win.chunks ≤ y.sent.getD dir.val 0 ∧
    unacked s x (fun ch => ch.dir.val == dir.val && !ch.env && ch.step == y.granted.getD dir.val 0 + 2) = false ∧
    suspended s x.p = false) ∧
  (∃ (pt : Fin 16) (fr : Frame) (h : CeHead) (dir : Fin 2) (s : State) (g : Nat) (x : Grp) (r : CollRun) (y : SpinRun),
    ArrivesCe s pt.val fr h g x ∧
    x.run = some r ∧
    r.spin = some y ∧
    h.sender = downstream x.members.length x.index dir.val) :=
  ⟨⟨0, issue (inGroup kv1 grp2) 0x0802 [(12, 1), (16, 2), (20, 1), (26, 1), (28, 5), (32, 1), (34, 2), (36, 5), (38, 3), (40,
      4)], J (issue (inGroup kv1 grp2) 0x0802 [(12, 1), (16, 2), (20, 1), (26, 1), (28, 5), (32, 1), (34, 2), (36, 5), (38, 3),
      (40, 4)]) 0, obj 1 0x100000 0x100000, reg0, 0, grp2, by decide +kernel, by decide +kernel, by decide +kernel,
      by decide +kernel, by decide +kernel, by decide +kernel, by decide +kernel, by decide +kernel, by decide +kernel,
      by decide +kernel, by decide +kernel, canGo (by decide +kernel)⟩,
   ⟨0, frameCe, head1, ⟨2, false, 1, 0, 0, List.replicate 128 7, [false, false]⟩, runs
       (inGroup mem1 { grp2 with next := 1, run := some (run2 128) }) 0x0806 [(16, 0x100000 + 2 ^ 52), (24, 0x101000 + 2 ^ 52),
       (32, 64), (38, 5)], 0, { grp2 with next := 1, run := some (run2 128) }, run2 128,
       by unfold ArrivesCe Arrives; decide +kernel, by decide +kernel, by decide +kernel, by decide +kernel, by decide +kernel,
       canGo (by decide +kernel)⟩,
   ⟨0, frameCe, head1, ⟨0, true, 1, 1, 0, List.replicate 256 7, List.replicate 4 false⟩, runs (inGroup mem1
       (spinning 2)) 0x0802 [], 0, spinning 2, { run2 0 with spin := some spin1 }, spin1,
       by unfold ArrivesCe Arrives; decide +kernel, by decide +kernel, by decide +kernel, by decide +kernel, by decide +kernel,
       canGo (by decide +kernel)⟩,
   ⟨0, frameCe, head1, ⟨0, false, 1, 1, 0, List.replicate 8448 7, List.replicate 132 false⟩, runs (inGroup mem1
       (spinning 2)) 0x0802 [], 0, spinning 2, { run2 0 with spin := some spin1 }, spin1,
       by unfold ArrivesCe Arrives; decide +kernel, by decide +kernel, by decide +kernel, by decide +kernel, by decide +kernel,
       canGo (by decide +kernel), by decide +kernel⟩,
   ⟨0, 0, setPeg (runs (inGroup mem1 spinning6) 0x0802 []) 0 3 2, spinning6, { run2 0 with spin := some spin6 }, spin6,
       by decide +kernel⟩,
   ⟨0, frameCe, head1, 0, runs (inGroup mem1 (spinning 6)) 0x0802 [], 0, spinning 6, { run2 0 with spin := some spin1 }, spin1,
       by unfold ArrivesCe Arrives; decide +kernel, by decide +kernel, by decide +kernel, by decide +kernel⟩⟩

/-- Every clause of `SnapshotsTagsAborts` has its hypotheses met together. -/
theorem wit_SnapshotsTagsAborts :
  (∃ (n : Fin 512) (s : State) (j : Job),
    nextJob s n.val = some j ∧
    mayBegin s j = true ∧
    j.seq = (ringOf s n.val).nextSeq.toNat ∧
    headerErr j = none ∧
    accessErr s j = none ∧
    j.opcode = 0x0B00 ∧
    snapshotErr j s.now = none ∧
    j.bits 26 0 1 = 0 ∧
    (snapOf s (j.fld 24 2 % 4)).state ≠ 1) ∧
  (∃ (n : Nat) (s : State) (j : Job),
    opJob s n 0x0B00 = some j ∧
    snapshotErr j j.beginAt = none ∧
    (snapOf s (j.fld 24 2 % 4)).jobs.contains n = true) ∧
  (∃ (n : Nat) (s : State) (j : Job),
    opJob s n 0x0B00 = some j ∧
    snapshotErr j j.beginAt = none ∧
    (snapOf s (j.fld 24 2 % 4)).jobs.contains n = false) ∧
  (∃ (k : Fin 4) (s : State) (n : Nat) (j : Job),
    (snapOf s k.val).state = 1 ∧
    (snapOf s k.val).t.toNat ≤ s.now.toNat ∧
    (snapOf s k.val).jobs = [n] ∧
    job? s n = some j) ∧
  (∃ (n : Nat) (s : State) (j : Job),
    opJob s n 0x0B01 = some j ∧
    snapshotReadErr s j = none ∧
    hostOpen s (fnOfRing s j.ring) = true) ∧
  (∃ (n : Nat) (s : State) (j : Job),
    opJob s n 0x0B02 = some j ∧
    tagDrainErr j = none ∧
    hostOpen s (fnOfRing s j.ring) = true) ∧
  (∃ (n : Nat) (s : State) (j : Job),
    opJob s n 0x0B03 = some j ∧
    rsvd j 20 56 = none ∧
    j.fld 16 4 ≠ 0 ∧
    s.hp.rings.any (fun e => (ringOf s e.1).job.toNat == j.fld 16 4) = false) ∧
  (∃ (s : State),
    ready s = true) ∧
  (∃ (s : State),
    ready s = true) :=
  ⟨⟨0, withJob up (jobOn 0 0 .fetched (slotOf 0x0B00 [(16, 1001), (24, 5)]) none), J (withJob up (jobOn 0 0 .fetched
      (slotOf 0x0B00 [(16, 1001), (24, 5)]) none)) 0, by decide +kernel⟩,
   ⟨0, setSnap (issue up 0x0B00 [(16, 1001), (24, 5)]) 1 { snap0 with state := 1, sid := 5, t := 1001, jobs := [0] }, J
       (setSnap (issue up 0x0B00 [(16, 1001), (24, 5)]) 1 { snap0 with state := 1, sid := 5, t := 1001, jobs := [0] }) 0,
       by decide +kernel⟩,
   ⟨0, issue up 0x0B00 [(16, 1001), (24, 5)], J (issue up 0x0B00 [(16, 1001), (24, 5)]) 0, by decide +kernel⟩,
   ⟨1, setSnap (runs up 0x0B00 []) 1 { snap0 with state := 1, sid := 5, t := 1000, jobs := [0] }, 0, J (setSnap
       (runs up 0x0B00 []) 1 { snap0 with state := 1, sid := 5, t := 1000, jobs := [0] }) 0, by decide +kernel⟩,
   ⟨0, issue (setSnap up 1 { snap0 with state := 2, sid := 5 }) 0x0B01 [(16, 0x1000), (24, 1)], J (issue
       (setSnap up 1 { snap0 with state := 2, sid := 5 }) 0x0B01 [(16, 0x1000), (24, 1)]) 0, by decide +kernel⟩,
   ⟨0, issue { up with ob := { up.ob with tags := [⟨9, true, [1]⟩] } } 0x0B02 [(16, 0x1000), (24, 1024)], J
       (issue { up with ob := { up.ob with tags := [⟨9, true, [1]⟩] } } 0x0B02 [(16, 0x1000), (24, 1024)]) 0, by decide +kernel⟩,
   ⟨0, issue up 0x0B03 [(16, 7)], J (issue up 0x0B03 [(16, 7)]) 0, by decide +kernel⟩,
   ⟨up, by decide +kernel⟩,
   ⟨up, by decide +kernel⟩⟩

/-- Every clause of `StitchAdverts` has its hypotheses met together. -/
theorem wit_StitchAdverts :
  (∃ (pt : Fin 16) (s : State),
    isUp s pt.val = true) ∧
  (∃ (pt : Fin 16) (s : State),
    isUp s pt.val = true ∧
    (portOf s pt.val).owed.getD 0 0 < 32) ∧
  (∃ (pt : Fin 16) (s : State) (a : Advert),
    tget (fun _ => none) s.ob.adverts pt.val = some a ∧
    a.at'.toNat + 3 * 10 ^ 6 ≤ s.now.toNat) :=
  ⟨⟨0, net, by decide +kernel⟩,
   ⟨0, net, by decide +kernel⟩,
   ⟨15, { up with now := 3000005, ob := { up.ob with adverts := [(15, some ⟨0, 0, 0, true, true, 5, 0, 0⟩)] } }, ⟨0, 0, 0, true,
       true, 5, 0, 0⟩, by decide +kernel⟩⟩

/-- Every clause of `FrayGrades` has its hypotheses met together. -/
theorem wit_FrayGrades :
  (∃ (m : FrayMeasure) (s : State) (w : Nat) (days : Option Nat),
    s.ob.counting = true ∧
    w = FrayMeasure.wear m ∧
    days = lifeOf { s with ob := { s.ob with hours := s.ob.hours + 1 } } m.unit.val w) :=
  ⟨⟨0, 60000, 1⟩, up, 1000000, lifeOf { up with ob := { up.ob with hours := up.ob.hours + 1 } } 0 1000000, by decide +kernel⟩

/-- Every clause of `RetirementsEnd` has its hypotheses met together. -/
theorem wit_RetirementsEnd :
  (∃ (n : Nat) (s : State) (j : Job),
    opJob s n 0x0B10 = some j ∧
    retireCoreErr j = none ∧
    retiring s (j.fld 16 1) = false ∧
    s.boot.retired.getLsbD (j.fld 16 1) = false ∧
    lastCore s (j.fld 16 1) = false ∧
    j.bits 17 0 1 = 0 ∧
    coreJobs (retireCore s (j.fld 16 1)) (j.fld 16 1) = []) ∧
  (∃ (n : Nat) (s : State) (j : Job),
    opJob s n 0x0B10 = some j ∧
    retireCoreErr j = none ∧
    retiring s (j.fld 16 1) = false ∧
    s.boot.retired.getLsbD (j.fld 16 1) = true) ∧
  (∃ (n : Nat) (s : State) (j : Job),
    opJob s n 0x0B11 = some j ∧
    retireThimbleErr j = none ∧
    bitOf (rfield s rThimble 0 16) (j.fld 16 1) = true ∧
    thimblesOk (rfield s rThimble 0 16 - 2 ^ j.fld 16 1) = true) ∧
  (∃ (n : Nat) (s : State) (j : Job),
    opJob s n 0x0B11 = some j ∧
    retireThimbleErr j = none ∧
    bitOf (rfield s rThimble 0 16) (j.fld 16 1) = true ∧
    thimblesOk (rfield s rThimble 0 16 - 2 ^ j.fld 16 1) = false) ∧
  (∃ (n : Nat) (spares : Nat) (s : State) (j : Job),
    opJob s n 0x0B12 = some j ∧
    hbmRowErr j = none ∧
    s.tm.rows.contains (j.fld 16 1, j.fld 17 1, j.fld 18 1, j.fld 20 4) = false ∧
    0 < spares) ∧
  (∃ (n : Nat) (s : State) (j : Job),
    opJob s n 0x0B12 = some j ∧
    hbmRowErr j = none ∧
    s.tm.rows.contains (j.fld 16 1, j.fld 17 1, j.fld 18 1, j.fld 20 4) = false) ∧
  (∃ (n : Nat) (spares : Nat) (s : State) (j : Job),
    opJob s n 0x0B13 = some j ∧
    sramRemapErr j = none ∧
    j.fld 24 8 < 2 ^ 31 ∧
    s.tm.remaps.contains (j.fld 16 1, j.fld 24 8 / 64) = false ∧
    0 < spares) ∧
  (∃ (n : Nat) (s : State) (j : Job),
    opJob s n 0x0B14 = some j ∧
    flashBlockErr j = none ∧
    deepReady s = true ∧
    s.tm.blocks.contains (j.fld 16 1, j.fld 20 4) = false) ∧
  (∃ (n : Nat) (s : State) (j : Job),
    opJob s n 0x0B15 = some j ∧
    retireLaneErr j = none ∧
    trained s (j.fld 16 1) = true ∧
    j.bits 18 0 1 = 1 ∧
    (portOf s (j.fld 16 1)).txFail.getLsbD (j.fld 17 1) = false ∧
    (portOf s (j.fld 16 1)).txAct &&& laneBit (j.fld 17 1) = 0 ∧
    (portOf s (j.fld 16 1)).txSpare &&& laneBit (j.fld 17 1) ≠ 0 ∧
    4 < laneCount (portOf s (j.fld 16 1)).txAct + laneCount (portOf s (j.fld 16 1)).txSpare) :=
  ⟨⟨0, issue up 0x0B10 [(16, 63)], J (issue up 0x0B10 [(16, 63)]) 0, by decide +kernel⟩,
   ⟨0, issue { up with boot := { bootReset with retired := 1 } } 0x0B10 [(16, 0)], J
       (issue { up with boot := { bootReset with retired := 1 } } 0x0B10 [(16, 0)]) 0, by decide +kernel⟩,
   ⟨0, issue (wreg up rThimble 0xFFFF) 0x0B11 [(16, 15)], J (issue (wreg up rThimble 0xFFFF) 0x0B11 [(16, 15)]) 0,
       by decide +kernel⟩,
   ⟨0, issue (wreg up rThimble 0x3101) 0x0B11 [(16, 0)], J (issue (wreg up rThimble 0x3101) 0x0B11 [(16, 0)]) 0,
       by decide +kernel⟩,
   ⟨0, 1, issue up 0x0B12 [(16, 11), (17, 31), (18, 63), (20, 5)], J (issue up 0x0B12 [(16, 11), (17, 31), (18, 63), (20,
       5)]) 0, by decide +kernel⟩,
   ⟨0, issue up 0x0B12 [(16, 11), (17, 31), (18, 63), (20, 5)], J (issue up 0x0B12 [(16, 11), (17, 31), (18, 63), (20, 5)]) 0,
       by decide +kernel⟩,
   ⟨0, 1, issue up 0x0B13 [(16, 7), (24, 0x7FFFFFFF)], J (issue up 0x0B13 [(16, 7), (24, 0x7FFFFFFF)]) 0, by decide +kernel⟩,
   ⟨0, issue (wfield up rDtStatus 30 1 1) 0x0B14 [(16, 31), (20, 5)], J (issue (wfield up rDtStatus 30 1 1) 0x0B14 [(16, 31),
       (20, 5)]) 0, by decide +kernel⟩,
   ⟨0, issue net 0x0B15 [(17, 16), (18, 1)], J (issue net 0x0B15 [(17, 16), (18, 1)]) 0, by decide +kernel⟩⟩

/-- Every clause of `PowerCapsAndRails` has its hypotheses met together. -/
theorem wit_PowerCapsAndRails :
  (∃ (v : Word) (s : State),
    booting s = true ∧
    36 ≤ bitsOf v.toNat 0 7 ∧
    bitsOf v.toNat 0 7 ≤ 72 ∧
    s.pw.sysLimit < 128) ∧
  (∃ (n : Nat) (s : State) (j : Job),
    opJob s n 0x0B04 = some j ∧
    powerCapErr j = none ∧
    j.fld 24 8 = 0 ∧
    s.pw.sysLimit < 128) ∧
  (∃ (n : Nat) (s : State) (j : Job),
    opJob s n 0x0B04 = some j ∧
    powerCapErr j = none ∧
    j.fld 24 8 ≠ 0 ∧
    j.bits 17 0 1 = 0 ∧
    s.pw.caps.length < 8) ∧
  (∃ (s : State) (c : SchedCap) (n : Nat) (j : Job),
    s.pw.caps = [c] ∧
    c.t.toNat ≤ s.now.toNat ∧
    c.job = some n ∧
    job? s n = some j ∧
    s.pw.sysLimit < 128 ∧
    c.steps < 127) ∧
  (∃ (s : State),
    s.ob.counting = true ∧
    s.pw.stby = true ∧
    s.pw.sysLimit < 128) ∧
  (∃ (r : Fin 10) (s : State),
    s.pw.pwrGood = true ∧
    railMv s r.val ≠ railTarget s r.val ∧
    railMv s r.val + 5 < 1024 ∧
    5 < railMv s r.val) ∧
  (∃ (s : State),
    s.ob.counting = true) ∧
  (∃ (s : State),
    s.pw.pwrGood = true) :=
  ⟨⟨0xA048, up, by decide +kernel⟩,
   ⟨0, issue up 0x0B04 [(16, 72)], J (issue up 0x0B04 [(16, 72)]) 0, by decide +kernel⟩,
   ⟨0, issue { up with pw := { up.pw with caps := List.replicate 7 ⟨2000, 40, none⟩ } } 0x0B04 [(16, 36), (24, 1001)], J
       (issue { up with pw := { up.pw with caps := List.replicate 7 ⟨2000, 40, none⟩ } } 0x0B04 [(16, 36), (24, 1001)]) 0,
       by decide +kernel⟩,
   ⟨runs { up with pw := { up.pw with caps := [⟨1000, 72, some 0⟩], sysLimit := 40 } } 0x0B04 [], ⟨1000, 72, some 0⟩, 0, J
       (runs { up with pw := { up.pw with caps := [⟨1000, 72, some 0⟩], sysLimit := 40 } } 0x0B04 []) 0, by decide +kernel⟩,
   ⟨up, by decide +kernel⟩,
   ⟨7, up, by decide +kernel⟩,
   ⟨up, by decide +kernel⟩,
   ⟨up, by decide +kernel⟩⟩

/-- Every clause of `PowerLossAndStandby` has its hypotheses met together. -/
theorem wit_PowerLossAndStandby :
  (∃ (s : State),
    s.pw.pwrGood = true) ∧
  (∃ (s : State),
    s.pw.pwrGood = true ∧
    s.pw.stby = true) ∧
  (∃ (s : State),
    s.pw.pwrGood = true) ∧
  (∃ (s : State),
    s.pw.pwrGood = true ∧
    s.pw.stby = true) ∧
  (∃ (s : State),
    s.pw.stby = true) ∧
  (∃ (v : BitVec 16) (s : State),
    s.pw.stby = true ∧
    36 ≤ v.toNat ∧
    v.toNat ≤ 72) ∧
  (∃ (s : State),
    s.pw.stby = true) ∧
  (∃ (s : State),
    s.pw.stby = true) ∧
  (∃ (s : State),
    s.pw.stby = false) ∧
  (∃ (firmware : Bool) (addr : BitVec 16) (bs : List Byte) (s : State),
    s.pw.stby = true ∧
    ((firmware = true ∧ 0x9000 ≤ addr.toNat ∧ addr.toNat + bs.length ≤ 0xD000) ∨ (firmware = false ∧ 0xD000 ≤ addr.toNat ∧
        addr.toNat + bs.length ≤ 0x10000))) ∧
  (∃ (s : State),
    s.ob.counting = true) :=
  ⟨⟨mem1, by decide +kernel⟩,
   ⟨mem1, by decide +kernel⟩,
   ⟨mem1, by decide +kernel⟩,
   ⟨mem1, by decide +kernel⟩,
   ⟨up, by decide +kernel⟩,
   ⟨72, up, by decide +kernel⟩,
   ⟨up, by decide +kernel⟩,
   ⟨up, by decide +kernel⟩,
   ⟨{ up with pw := { up.pw with stby := false } }, by decide +kernel⟩,
   ⟨true, 0xCFFE, [1, 2], up, by decide +kernel⟩,
   ⟨up, by decide +kernel⟩⟩

/-- Every clause of `SwapFreesHalf` has its hypotheses met together. -/
theorem wit_SwapFreesHalf :
  (∃ (n : Fin 512) (q : Nat) (s : State) (j : Job),
    nextJob s n.val = some j ∧
    mayBegin s j = true ∧
    j.seq = (ringOf s n.val).nextSeq.toNat ∧
    headerErr j = none ∧
    accessErr s j = none ∧
    j.opcode = 0x0101 ∧
    partOfRing s n.val ≠ none ∧
    queueNamed s j = some q) ∧
  (∃ (n : Nat) (q : Nat) (k : Nat) (s : State) (j : Job),
    opJob s n 0x0101 = some j ∧
    fields ([rsvd j 16 48, rsvd j 51 56] ++ queueErr s j) = none ∧
    queueNamed s j = some q ∧
    (s.se.found.find? (fun e => e.1 == n)).bind (fun e => e.2.2) = some k) ∧
  (∃ (n : Nat) (q : Nat) (s : State) (j : Job),
    opJob s n 0x0101 = some j ∧
    fields ([rsvd j 16 48, rsvd j 51 56] ++ queueErr s j) = none ∧
    queueNamed s j = some q ∧
    (s.se.found.find? (fun e => e.1 == n)).bind (fun e => e.2.2) = none) :=
  ⟨⟨0, 1280, withJob (setQueue up 1280 { queue0 with full := [5, 4] }) (jobOn 0 0 .fetched (slotOf 0x0101 [(48, 2)]) none), J
      (withJob (setQueue up 1280 { queue0 with full := [5, 4] }) (jobOn 0 0 .fetched (slotOf 0x0101 [(48, 2)]) none)) 0,
      by decide +kernel⟩,
   ⟨0, 1280, 4, begin' (setQueue up 1280 { queue0 with full := [5, 4] }) 0x0101 [(48, 2)], J (begin'
       (setQueue up 1280 { queue0 with full := [5, 4] }) 0x0101 [(48, 2)]) 0, by decide +kernel⟩,
   ⟨0, 1280, begin' up 0x0101 [(48, 2)], J (begin' up 0x0101 [(48, 2)]) 0, by decide +kernel⟩⟩

/-- Every clause of `StreamsArmAndMove` has its hypotheses met together. -/
theorem wit_StreamsArmAndMove :
  (∃ (n : Nat) (q : Nat) (s : State) (j : Job),
    opJob s n 0x0100 = some j ∧
    fields (armFields s j (armingOf s j)) = none ∧
    queueNamed s j = some q ∧
    (queueOf s q).pend = none ∧
    (armsBegun s q).any (fun k => decide (k.order < j.order)) = false ∧
    halfErr (queueOf s q) (armingOf s j) = none ∧
    armRegion s (armingOf s j) = none ∧
    (¬ ((armingOf s j).dspace = 3 ∧ cacheSets s ((q - 1024) / 32) = 0)) ∧
    (queueOf s q).run = none) ∧
  (∃ (n : Nat) (q : Nat) (s : State) (j : Job) (b : _),
    opJob s n 0x0100 = some j ∧
    fields (armFields s j (armingOf s j)) = none ∧
    queueNamed s j = some q ∧
    (queueOf s q).pend = none ∧
    (armsBegun s q).any (fun k => decide (k.order < j.order)) = false ∧
    halfErr (queueOf s q) (armingOf s j) = none ∧
    armRegion s (armingOf s j) = none ∧
    (¬ ((armingOf s j).dspace = 3 ∧ cacheSets s ((q - 1024) / 32) = 0)) ∧
    (queueOf s q).run = some b) ∧
  (∃ (n : Nat) (q : Nat) (s : State) (j : Job),
    opJob s n 0x0102 = some j ∧
    fields ([rsvd j 16 48, rsvd j 51 56] ++ queueErr s j) = none ∧
    queueNamed s j = some q ∧
    (queueOf s q).run = none ∧
    (queueOf s q).pend = none) ∧
  (∃ (n : Nat) (q : Nat) (s : State) (j : Job),
    opJob s n 0x0102 = some j ∧
    fields ([rsvd j 16 48, rsvd j 51 56] ++ queueErr s j) = none ∧
    queueNamed s j = some q ∧
    ((queueOf s q).run ≠ none ∨ (queueOf s q).pend ≠ none)) ∧
  (∃ (e : Fin 73) (q : Nat) (s : State) (a : Arming) (y : Piece),
    nextQueue s e.val = some q ∧
    (queueOf s q).run = some a ∧
    a.merge = false ∧
    a.two = false ∧
    nextOf s q (queueOf s q) a = .piece y false ∧
    ((queuesOf e.val).map (fun m => (issuedOf s m).length)).sum < engineCap e.val) ∧
  (∃ (q : Fin 1344) (k : Nat) (s : State) (x : Piece) (g : Group) (a : Arming),
    (issuedOf s q.val)[k]? = some x ∧
    s.se.groups.find? (fun h => h.issued && h.pieces.contains x) = some g ∧
    g.pieces = [x] ∧
    landsAfter s x = false ∧
    (queueOf s x.q).run = some a ∧
    a.conv = false ∧
    x.pad = false ∧
    a.two = false ∧
    a.sspace ≤ 1 ∧
    a.dspace ≤ 1 ∧
    (a.dspace = 0 → inRegion s a.p x.dst x.dlen = false) ∧
    (a.dspace = 1 → x.dst + x.len ≤ bufBytes) ∧
    (tierSays s a.job (pieceSpans a x).1).1 = .go ∧
    (tierSays s a.job (pieceSpans a x).2).1 = .go ∧
    CanAccess s a.job ((pieceSpans a x).1 ++ (pieceSpans a x).2)) :=
  ⟨⟨0, 0, issue mem1 0x0100 armFs, J (issue mem1 0x0100 armFs) 0, by decide +kernel⟩,
   ⟨1, 0, issue arming 0x0100 armFs, J (issue arming 0x0100 armFs) 1, arm0, by decide +kernel⟩,
   ⟨0, 0, issue mem1 0x0102 [], J (issue mem1 0x0102 []) 0, by decide +kernel⟩,
   ⟨1, 0, issue arming 0x0102 [], J (issue arming 0x0102 []) 1, by decide +kernel⟩,
   ⟨0, 0, arming, arm0, piece0, by decide +kernel⟩,
   ⟨0, 0, flowing, piece0, ⟨0, [piece0], 900, true⟩, arm0.pass 64, by decide +kernel, by decide +kernel, by decide +kernel,
       by decide +kernel, by decide +kernel, by decide +kernel, by decide +kernel, by decide +kernel, by decide +kernel,
       by decide +kernel, by decide +kernel, by decide +kernel, by decide +kernel, by decide +kernel, canGo (by decide +kernel)⟩⟩

/-- Every clause of `ObjectsAndRanges` has its hypotheses met together. -/
theorem wit_ObjectsAndRanges :
  (∃ (n : Nat) (s : State) (j : Job),
    opJob s n 0x0700 = some j ∧
    objCreateErr s j = none ∧
    j.fld 33 1 ≠ 2) ∧
  (∃ (n : Nat) (s : State) (j : Job) (l : _),
    opJob s n 0x0700 = some j ∧
    objCreateErr s j = none ∧
    j.fld 33 1 = 2 ∧
    placePages (2 ^ (12 + j.fld 32 1)) (scratchOf s (j.fld 34 1)) (j.va 24 / 2 ^ (12 + j.fld 32 1)) (pinned s
        (j.fld 34 1)) = some l) ∧
  (∃ (n : Nat) (s : State) (j : Job),
    opJob s n 0x0700 = some j ∧
    objCreateErr s j = none ∧
    j.fld 33 1 = 2 ∧
    placePages (2 ^ (12 + j.fld 32 1)) (scratchOf s (j.fld 34 1)) (j.va 24 / 2 ^ (12 + j.fld 32 1)) (pinned s
        (j.fld 34 1)) = none) ∧
  (∃ (c : Instr) (n : Nat) (op : Nat) (kind : Nat) (s : State) (j : Job),
    ((c = .objFree n ∧ op = 0x0701 ∧ kind = 0) ∨ (c = .kvFree n ∧ op = 0x0603 ∧ kind = 1) ∨ (c = .idxFree n ∧ op = 0x0901 ∧
        kind = 2 ∧ idxErr s (part s j) false = none)) ∧
    opJob s n op = some j ∧
    freeErr s j kind = none) ∧
  (∃ (n : Nat) (s : State) (j : Job),
    opJob s n 0x0702 = some j ∧
    objPolicyErr s j n = none) ∧
  (∃ (n : Nat) (s : State) (j : Job) (ps : List Nat) (far : List (Nat × Page)),
    opJob s n 0x0703 = some j ∧
    rangeErr s j true = none ∧
    ps = (rangePages s j).map (fun e => e.2) ∧
    far = absentPages s (part s j) ps ∧
    (far = [] ∨ deepErr s (part s j) = none)) ∧
  (∃ (n : Nat) (s : State) (j : Job),
    opJob s n 0x0704 = some j ∧
    rangeErr s j false = none) ∧
  (∃ (n : Nat) (s : State) (j : Job) (u : State) (k : Nat),
    opJob s n 0x0705 = some j ∧
    rangeErr s j false = none ∧
    writePages s (part s j) ((rangePages s j).map (fun e => e.2)) = (u, k, none)) ∧
  (∃ (n : Nat) (s : State) (j : Job),
    opJob s n 0x0706 = some j ∧
    rangeErr s j false = none ∧
    (∀ e ∈ rangePages s j, ∀ g, pageOf s (part s j) e.2 = some g → g.dirty = 0 ∨ g.tier ≠ 1)) :=
  ⟨⟨0, issue up 0x0700 [(12, 7), (16, 0x200000), (24, 8192), (33, 1)], J (issue up 0x0700 [(12, 7), (16, 0x200000), (24, 8192),
      (33, 1)]) 0, by decide +kernel⟩,
   ⟨0, issue scratch 0x0700 [(12, 7), (16, 0x200000), (24, 8192), (33, 2)], J (issue scratch 0x0700 [(12, 7), (16, 0x200000),
       (24, 8192), (33, 2)]) 0, [0, 4096], by decide +kernel⟩,
   ⟨0, issue up 0x0700 [(12, 7), (16, 0x200000), (24, 8192), (33, 2)], J (issue up 0x0700 [(12, 7), (16, 0x200000), (24, 8192),
       (33, 2)]) 0, by decide +kernel⟩,
   ⟨.objFree 0, 0, 0x0701, 0, issue mem1 0x0701 [(12, 1)], J (issue mem1 0x0701 [(12, 1)]) 0, .inl ⟨rfl, rfl, rfl⟩,
       by decide +kernel, by decide +kernel⟩,
   ⟨0, issue mem1 0x0702 [(12, 1), (16, 3)], J (issue mem1 0x0702 [(12, 1), (16, 3)]) 0, by decide +kernel⟩,
   ⟨0, issue (paged 2 0 0) 0x0703 [(12, 1), (16, 0x100000), (24, 4096), (32, 1)], J (issue (paged 2 0 0) 0x0703 [(12, 1), (16,
       0x100000), (24, 4096), (32, 1)]) 0, [0x100000], [(0x100000, page1 2 0 0)], by decide +kernel, by decide +kernel,
       by decide +kernel, by decide +kernel, .inr (by decide +kernel)⟩,
   ⟨0, issue (paged 1 0 0) 0x0704 [(12, 1), (16, 0x100000), (24, 4096)], J (issue (paged 1 0 0) 0x0704 [(12, 1), (16, 0x100000),
       (24, 4096)]) 0, by decide +kernel⟩,
   ⟨0, issue (paged 1 0 1) 0x0705 [(12, 1), (16, 0x100000), (24, 4096)], J (issue (paged 1 0 1) 0x0705 [(12, 1), (16, 0x100000),
       (24, 4096)]) 0, (writePages (issue (paged 1 0 1) 0x0705 [(12, 1), (16, 0x100000), (24, 4096)]) 0 [0x100000]).1, 1,
       by decide +kernel⟩,
   ⟨0, issue (paged 1 0 0) 0x0706 [(12, 1), (16, 0x100000), (24, 4096)], J (issue (paged 1 0 0) 0x0706 [(12, 1), (16, 0x100000),
       (24, 4096)]) 0, by decide +kernel, by decide +kernel, ofOpts (by decide +kernel)⟩⟩

/-- Every clause of `CheckpointsAndKeys` has its hypotheses met together. -/
theorem wit_CheckpointsAndKeys :
  (∃ (n : Nat) (s : State) (j : Job) (k : DeepKey),
    opJob s n 0x070B = some j ∧
    keyLoadErr j = none ∧
    k = ⟨BitVec.ofNat 64 (j.fld 16 8), BitVec.ofNat 256 (j.xfld 0 32), BitVec.ofNat 256 (j.xfld 32 32)⟩ ∧
    (∀ x ∈ keysInUse s, x.id = k.id → keyCheck x = keyCheck k) ∧
    (∀ q < 8, q ≠ part s j → ∀ x, keyOf s q = some x → x.id ≠ k.id) ∧
    keyOf s (part s j) = none) ∧
  (∃ (n : Nat) (s : State) (j : Job) (k : DeepKey),
    opJob s n 0x070B = some j ∧
    keyLoadErr j = none ∧
    k = ⟨BitVec.ofNat 64 (j.fld 16 8), BitVec.ofNat 256 (j.xfld 0 32), BitVec.ofNat 256 (j.xfld 32 32)⟩ ∧
    (∀ x ∈ keysInUse s, x.id = k.id → keyCheck x = keyCheck k) ∧
    (∀ q < 8, q ≠ part s j → ∀ x, keyOf s q = some x → x.id ≠ k.id) ∧
    keyOf s (part s j) = some k) ∧
  (∃ (n : Nat) (s : State) (u : State) (j : Job) (x : Shot) (ids : List Nat) (os : List Obj) (key : DeepKey),
    opJob s n 0x0707 = some j ∧
    checkpointErr j = none ∧
    tierSays s n [rd (part s j) (j.va 16) (4 * j.fld 24 2)] = (.go, []) ∧
    u = accessed s n (dieOfJob s n) [rd (part s j) (j.va 16) (4 * j.fld 24 2)] [] ∧
    x = shotOf u (part s j) n ∧
    ids = (List.range (j.fld 24 2)).map (fun i => numAt u (part s j) (j.va 16 + 4 * i) 4) ∧
    ids.map (fun i => x.objs.find? (fun o => o.id == i && mayReach u o n)) = os.map some ∧
    deepErr u (part s j) = none ∧
    keyOf u (part s j) = some key ∧
    ckptTaken u j = false ∧
    (∀ c ∈ ckptsOf u (part s j), c.cid ≠ BitVec.ofNat 64 (j.fld 32 8)) ∧
    (ckptsOf u (part s j)).length < 256 ∧
    deepRoom u (part s j) (saveObjs x key os u).2.2.bytes = true) ∧
  (∃ (n : Nat) (s : State) (u : State) (j : Job) (k : DeepKey) (c : Ckpt),
    opJob s n 0x0708 = some j ∧
    restoreErr j = none ∧
    deepErr s (part s j) = none ∧
    keyOf s (part s j) = some k ∧
    (ckptsOf s (part s j)).find? (fun c => c.cid.toNat == j.fld 32 8) = some c ∧
    digestOk s k c = true ∧
    restoreBlocked s (part s j) c.objs = false ∧
    restoreObjs s (part s j) c.objs = some u) ∧
  (∃ (n : Nat) (s : State) (j : Job) (key : DeepKey),
    opJob s n 0x0709 = some j ∧
    checkpointDropErr j = none ∧
    deepErr s (part s j) = none ∧
    keyOf s (part s j) = some key ∧
    (∃ c ∈ s.tm.ckpts, c.key.id = key.id ∧ c.cid.toNat = j.fld 32 8)) ∧
  (∃ (n : Nat) (s : State) (j : Job) (bs : List Byte),
    opJob s n 0x070A = some j ∧
    catalogErr j = none ∧
    deepErr s (part s j) = none ∧
    bs = catalogBytes s (part s j) ∧
    regionErr s [wr (part s j) (j.va 16) bs.length] = none ∧
    CanAccess s n [wr (part s j) (j.va 16) bs.length]) ∧
  (∃ (n : Nat) (s : State) (j : Job),
    opJob s n 0x070C = some j ∧
    queryErr j = none ∧
    regionErr s [wr (part s j) (j.va 24) 16] = none ∧
    CanAccess s n [wr (part s j) (j.va 24) 16]) :=
  ⟨⟨0, issueX up 0x070B [(16, 1)] [(0, 2), (32, 3)], J (issueX up 0x070B [(16, 1)] [(0, 2), (32, 3)]) 0, ⟨1, 2, 3⟩,
      by decide +kernel, by decide +kernel, by decide +kernel, by decide +kernel, ofKeys (by decide +kernel), by decide +kernel⟩,
   ⟨0, issueX deep1 0x070B [(16, 1)] [(0, 2), (32, 3)], J (issueX deep1 0x070B [(16, 1)] [(0, 2), (32, 3)]) 0, ⟨1, 2, 3⟩,
       by decide +kernel, by decide +kernel, by decide +kernel, by decide +kernel, ofKeys (by decide +kernel), by decide +kernel⟩,
   ⟨0, saving, accessed saving 0 (dieOfJob saving 0) [rd 0 0x200008 4] [], J saving 0, shotOf (accessed saving 0
       (dieOfJob saving 0) [rd 0 0x200008 4] []) 0 0, [1], [{ obj 1 0x100000 0x100000 with policy := 3 }], ⟨1, 2, 3⟩,
       by decide +kernel⟩,
   ⟨0, issue kept 0x0708 [(32, 77)], (restoreObjs (issue kept 0x0708 [(32, 77)]) 0 ckpt1.objs).getD (issue kept 0x0708 [(32,
       77)]), J (issue kept 0x0708 [(32, 77)]) 0, ⟨1, 2, 3⟩, ckpt1, by decide +kernel⟩,
   ⟨0, issue kept 0x0709 [(32, 77)], J (issue kept 0x0709 [(32, 77)]) 0, ⟨1, 2, 3⟩, by decide +kernel⟩,
   ⟨0, issue kept1 0x070A [(16, 0x100000)], J (issue kept1 0x070A [(16, 0x100000)]) 0, [1, 0, 0, 0, 0, 0, 0, 0, 77, 0, 0, 0, 0,
       0, 0, 0], by decide +kernel, by decide +kernel, by decide +kernel, by decide +kernel, by decide +kernel, canGo
       (by decide +kernel)⟩,
   ⟨0, issue (paged 1 0 1) 0x070C [(16, 0x100010), (24, 0x101000)], J (issue (paged 1 0 1) 0x070C [(16, 0x100010), (24,
       0x101000)]) 0, by decide +kernel, by decide +kernel, by decide +kernel, canGo (by decide +kernel)⟩⟩

/-- Every clause of `TierEvents` has its hypotheses met together. -/
theorem wit_TierEvents :
  (∃ (p : Fin 8) (va : Nat) (s : State) (w : TierWait) (g : Page),
    s.tm.waits.find? (fun w => w.p == p.val && w.page == va && decide (w.st ≤ 1)) = some w ∧
    w.st = 0 ∧
    pageOf s p.val va = some g ∧
    g.tier = 2 ∧
    g.moving ≠ 1 ∧
    deepErr s p.val = none ∧
    roomFor s p.val g.size = true) ∧
  (∃ (p : Fin 8) (va : Nat) (lost : List Nat) (s : State) (g : Page) (k : DeepKey),
    pageOf s p.val va = some g ∧
    g.moving = 1 ∧
    keyOf s p.val = some k ∧
    (∀ k ∈ lost, k < g.size / 4096)) ∧
  (∃ (p : Fin 8) (va : Nat) (lost : List Nat) (s : State) (g : Page) (k : DeepKey),
    pageOf s p.val va = some g ∧
    g.moving = 1 ∧
    keyOf s p.val = some k ∧
    (∃ k ∈ lost, g.size / 4096 ≤ k)) ∧
  (∃ (p : Fin 8) (va : Nat) (b : Nat) (s : State) (o : Obj) (g : Page),
    objAt s p.val va = some o ∧
    b = pageBase o va ∧
    objAt s p.val b = some o ∧
    pageOf s p.val b = some g ∧
    g.moving = 2 ∧
    bitOf g.dirty ((va - b) / 4096) = true ∧
    deepErr s p.val = none ∧
    deepRoom s p.val (((tileFrame s p.val b g ((va - b) / 4096)).getD []).length) = true) ∧
  (∃ (p : Option (Fin 8)) (s : State) (u : State) (ok : Nat → Bool) (e : Nat × Nat × Page),
    (match p with | some q => quotaBinds s q.val = true ∧ u = s ∧ ok = (fun k => k == q.val) | none => (rfield
        (noteSpill s) rTmStatus 31 1 = 1 ∨ ∃ w ∈ s.tm.waits, w.st ≤ 1) ∧ u = noteSpill s ∧ ok = (fun k => mayTake s 8 k)) ∧
    pageOf u e.1 e.2.1 = some e.2.2 ∧
    oldest (evictDeep u ok) = some e) ∧
  (∃ (p : Option (Fin 8)) (s : State) (u : State) (ok : Nat → Bool) (e : Nat × Nat × Page),
    (match p with | some q => quotaBinds s q.val = true ∧ u = s ∧ ok = (fun k => k == q.val) | none => (rfield
        (noteSpill s) rTmStatus 31 1 = 1 ∨ ∃ w ∈ s.tm.waits, w.st ≤ 1) ∧ u = noteSpill s ∧ ok = (fun k => mayTake s 8 k)) ∧
    pageOf u e.1 e.2.1 = some e.2.2 ∧
    evictDeep u ok = [] ∧
    oldEntry u ok = none ∧
    oldest (evictPages u ok) = some e) ∧
  (∃ (d : Fin 8) (v : Word) (s : State),
    ready s = true ∧
    bitsOf v.toNat 0 4 ≤ 8 ∧
    (∀ e ∈ pinned s d.val, e.1 + e.2 ≤ bitsOf v.toNat 0 4 * 2 ^ 27)) ∧
  (∃ (d : Fin 8) (v : Word) (s : State),
    ready s = true ∧
    bitsOf v.toNat 0 4 ≤ 8 ∧
    bitsOf v.toNat 0 4 < tget (fun _ => 0) s.tm.split d.val ∧
    (∃ e ∈ pinned s d.val, bitsOf v.toNat 0 4 * 2 ^ 27 < e.1 + e.2)) ∧
  (∃ (d : Fin 8) (s : State),
    rfield s (rPoolStatus d.val) 31 1 = 1) ∧
  (∃ (i : Fin 12) (s : State),
    ready s = true ∧
    rfield s (rHm i.val + 4) 16 1 = 1) :=
  ⟨⟨0, 0x100000, { paged 2 0 0 with tm := { (paged 2 0 0).tm with waits := [⟨0, 0x100000, 1, 0, 0, 0⟩] } }, ⟨0, 0x100000, 1, 0,
      0, 0⟩, page1 2 0 0, by decide +kernel⟩,
   ⟨0, 0x100000, [0], paged 2 1 0, page1 2 1 0, ⟨1, 2, 3⟩, by decide +kernel⟩,
   ⟨0, 0x100000, [1], paged 2 1 0, page1 2 1 0, ⟨1, 2, 3⟩, by decide +kernel⟩,
   ⟨0, 0x100000, 0x100000, paged 1 2 1, { obj 1 0x100000 0x100000 with policy := 3 }, page1 1 2 1, by decide +kernel⟩,
   ⟨some 0, { paged 1 0 0 with tm := { (paged 1 0 0).tm with waits := [⟨0, 0x103000, 1, 0, 1, 0⟩] } },
       ({ paged 1 0 0 with tm := { (paged 1 0 0).tm with waits := [⟨0, 0x103000, 1, 0, 1, 0⟩] } }), fun k => k ==
       (0 : Fin 8).val, (0, 0x100000, page1 1 0 0), ⟨by decide +kernel, rfl, rfl⟩, by decide +kernel, by decide +kernel⟩,
   ⟨some 0, { paged 1 0 1 with tm := { (paged 1 0 1).tm with waits := [⟨0, 0x103000, 1, 0, 1, 0⟩] } },
       ({ paged 1 0 1 with tm := { (paged 1 0 1).tm with waits := [⟨0, 0x103000, 1, 0, 1, 0⟩] } }), fun k => k ==
       (0 : Fin 8).val, (0, 0x100000, page1 1 0 1), ⟨by decide +kernel, rfl, rfl⟩, by decide +kernel, by decide +kernel,
       by decide +kernel, by decide +kernel⟩,
   ⟨7, 8, up, by decide +kernel⟩,
   ⟨0, 0, pinnedUp, by decide +kernel⟩,
   ⟨0, wreg (wfield scratch (rPoolStatus 0) 31 1 1) (rPoolCfg 0) 3, by decide +kernel⟩,
   ⟨11, wfield (paged 1 0 0) (rHm 11 + 4) 16 1 1, by decide +kernel⟩⟩

/-- Every clause of `KvRegionsGrowAndShare` has its hypotheses met together. -/
theorem wit_KvRegionsGrowAndShare :
  (∃ (n : Nat) (s : State) (j : Job),
    opJob s n 0x0600 = some j ∧
    kvCreateErr s j = none ∧
    CanAccess (kvCreated s j) n [wr (part s j) (j.va 16) 4096]) ∧
  (∃ (n : Nat) (s : State) (j : Job) (r : Region) (u : State),
    opJob s n 0x0601 = some j ∧
    kvNamed s j = some r ∧
    (∀ a ∈ r.appends, a.job ≠ n) ∧
    appendBehind s r j = false ∧
    appendErr s j r = none ∧
    u = modRegion s r.p r.id
        (fun x => { x with res := tset (fun _ => 0) x.res (appendF j).layer ((appendF j).start + (appendF j).t), appends := x.appends ++ [⟨(appendF j).layer, (appendF j).start, (appendF j).t, n, 0⟩] }) ∧
    CanAccess u n (appendReads r j ++ appendWrites r j)) ∧
  (∃ (n : Nat) (s : State) (j : Job) (r : Region) (late : List Nat),
    job? s n = some j ∧
    j.phase = .running ∧
    j.opcode = 0x0601 ∧
    regionOf s (part s j) j.obj = some r ∧
    late = (List.range r.hkv).filter (fun h => decide (treeCovered s r (appendF j).layer h < (raiseTo r
        (appendF j).layer n).getD 0 / 4096)) ∧
    late = []) ∧
  (∃ (n : Nat) (s : State) (j : Job) (r : Region) (late : List Nat),
    job? s n = some j ∧
    j.phase = .running ∧
    j.opcode = 0x0601 ∧
    regionOf s (part s j) j.obj = some r ∧
    late = (List.range r.hkv).filter (fun h => decide (treeCovered s r (appendF j).layer h < (raiseTo r
        (appendF j).layer n).getD 0 / 4096)) ∧
    late ≠ [] ∧
    late.any (treeBusy r (appendF j).layer) = false ∧
    CanAccess s n (late.flatMap (fun h => shadowSpans s r (appendF j).layer h ((raiseTo r (appendF j).layer n).getD 0 / 4096)))) ∧
  (∃ (n : Nat) (m : Nat) (s : State) (j : Job) (r : Region),
    opJob s n 0x0602 = some j ∧
    kvNamed s j = some r ∧
    m = j.fld 16 6 ∧
    rsvd j 22 56 = none ∧
    (cutTrees s r m).any (fun e => treeBusy r e.1 e.2.1) = false ∧
    CanAccess s n (truncateSpans s r m)) ∧
  (∃ (n : Nat) (s : State) (j : Job) (r : Region),
    opJob s n 0x0604 = some j ∧
    kvNamed s j = some r ∧
    shareErr j r true = none ∧
    (4096 ≤ 64 * (attachHits s j r).length → ∀ l < r.layers, ∀ h < r.hkv, treeBusy r l h = false) ∧
    CanAccess s n (rd r.p (j.va 16) (256 * j.fld 24 4) :: attachTree s j r)) ∧
  (∃ (n : Nat) (s : State) (j : Job) (r : Region),
    opJob s n 0x0605 = some j ∧
    kvNamed s j = some r ∧
    shareErr j r false = none ∧
    CanAccess s n [rd r.p (j.va 16) (256 * j.fld 24 4)]) :=
  ⟨⟨0, issue mem1 0x0600 [(12, 7), (16, 0x4000000), (24, 4096), (30, 1), (32, 1), (34, 1), (35, 2), (38, 12)], J
      (issue mem1 0x0600 [(12, 7), (16, 0x4000000), (24, 4096), (30, 1), (32, 1), (34, 1), (35, 2), (38, 12)]) 0,
      by decide +kernel, by decide +kernel, canGo (by decide +kernel)⟩,
   ⟨0, issue kv1 0x0601 [(12, 2), (16, 0x20000000100000), (24, 0x20000000110000), (40, 4096), (48, 1)], J
       (issue kv1 0x0601 [(12, 2), (16, 0x20000000100000), (24, 0x20000000110000), (40, 4096), (48, 1)]) 0, reg0, modRegion
       (issue kv1 0x0601 [(12, 2), (16, 0x20000000100000), (24, 0x20000000110000), (40, 4096), (48, 1)]) 0 2
       (fun x => { x with res := [(0, 4097)], appends := [⟨0, 4096, 1, 0, 0⟩] }), by decide +kernel, by decide +kernel,
       by decide +kernel, by decide +kernel, by decide +kernel, by decide +kernel, canGo (by decide +kernel)⟩,
   ⟨0, runs (kvWith (appended 0 1)) 0x0601 [(12, 2), (48, 1)], J (runs (kvWith (appended 0 1)) 0x0601 [(12, 2), (48, 1)]) 0,
       appended 0 1, [], by decide +kernel⟩,
   ⟨0, runs (kvWith (appended 4096 1)) 0x0601 [(12, 2), (40, 4096), (48, 1)], J (runs (kvWith (appended 4096 1)) 0x0601 [(12,
       2), (40, 4096), (48, 1)]) 0, appended 4096 1, [0], by decide +kernel, by decide +kernel, by decide +kernel,
       by decide +kernel, by decide +kernel, by decide +kernel, by decide +kernel, canGo (by decide +kernel)⟩,
   ⟨0, 64, issue kv1 0x0602 [(12, 2), (16, 64)], J (issue kv1 0x0602 [(12, 2), (16, 64)]) 0, reg0, by decide +kernel,
       by decide +kernel, by decide +kernel, by decide +kernel, by decide +kernel, canGo (by decide +kernel)⟩,
   ⟨0, issue (kvWith { reg0 with share := true, vis := [], res := [] }) 0x0604 [(12, 2), (16, 0x100000), (24, 1)], J (issue
       (kvWith { reg0 with share := true, vis := [], res := [] }) 0x0604 [(12, 2), (16, 0x100000), (24, 1)]) 0,
       { reg0 with share := true, vis := [], res := [] }, by decide +kernel, by decide +kernel, by decide +kernel,
       by decide +kernel, canGo (by decide +kernel)⟩,
   ⟨0, issue shared1 0x0605 [(12, 2), (16, 0x100000), (24, 1)], J (issue shared1 0x0605 [(12, 2), (16, 0x100000), (24, 1)]) 0,
       { reg0 with share := true }, by decide +kernel, by decide +kernel, by decide +kernel, canGo (by decide +kernel)⟩⟩

/-- Every clause of `RecallAndGenerations` has its hypotheses met together. -/
theorem wit_RecallAndGenerations :
  (∃ (n : Nat) (s : State) (j : Job) (r : Region),
    opJob s n 0x0607 = some j ∧
    pressErr s j (pressF j) ⟨false, false, true⟩ = none ∧
    kvNamed s j = some r ∧
    fmtErr (pressF j).fmts (kTag r.k4) (vTag r.v4) = none ∧
    recallBusy r (j.xfld 6 2) (pressF j).heads = false ∧
    regionErr s [wr r.p (pressF j).ra ((pressF j).rows * ((pressF j).kc * r.g) * recBytes r.d)] = none ∧
    (match s.tm.leaves.find? (fun w => w.job == n) with | some w => w.groups = [] | none => selectGroups s j r = []) ∧
    CanAccess s n (recallIns j r ++ recallOuts j r)) ∧
  (∃ (n : Nat) (s : State) (j : Job) (r : Region),
    opJob s n 0x0608 = some j ∧
    kvNamed s j = some r ∧
    recallCloseErr j r = none) ∧
  (∃ (n : Nat) (s : State) (j : Job),
    opJob s n 0x0609 = some j ∧
    (patsOf s (part s j)).shadow = none ∧
    (patsOf s (part s j)).drain = none ∧
    patternRebuildErr s j = none ∧
    regionErr s [wr (part s j) (j.va 16) (64 * 2 ^ j.fld 24 1)] = none ∧
    CanAccess s n [wr (part s j) (j.va 16) (64 * 2 ^ j.fld 24 1)]) ∧
  (∃ (p : Fin 8) (s : State) (tab : PatTable) (n : Nat) (w : DWord) (j : Job),
    (patsOf s p.val).shadow = some (tab, n, w) ∧
    w ≤ s.now ∧
    job? s n = some j) ∧
  (∃ (p : Fin 8) (o : Nat) (l : Nat) (h : Nat) (s : State) (r : Region) (x : TreeShadow),
    regionOf s p.val o = some r ∧
    r.shadows.find? (fun e => e.layer == l && e.head == h) = some x ∧
    (∀ e, r.cutting = some e → e.1 = x.job → (job? s x.job).any (olderGone s) = true)) ∧
  (∃ (p : Fin 8) (o : Nat) (l : Nat) (h : Nat) (n : Nat) (s : State) (r : Region) (x : RecallSet),
    regionOf s p.val o = some r ∧
    r.recallNew.find? (fun e => e.2.layer == l && e.2.head == h) = some (n, x) ∧
    (∀ w ∈ s.tm.waits, w.job = n → w.st = 2)) ∧
  (∃ (p : Fin 8) (o : Nat) (s : State) (x : Index) (m : MergeShadow) (j : Job),
    indexOf s p.val o = some x ∧
    x.shadow = some m ∧
    m.t ≤ s.now ∧
    job? s m.job = some j) ∧
  (∃ (p : Fin 8) (s : State) (d : PatTable × List Nat),
    (patsOf s p.val).drain = some d ∧
    d.2.all (gone s) = true) ∧
  (∃ (p : Fin 8) (o : Nat) (s : State) (r : Region),
    regionOf s p.val o = some r) ∧
  (∃ (p : Fin 8) (o : Nat) (s : State) (r : Region),
    regionOf s p.val o = some r) ∧
  (∃ (p : Fin 8) (o : Nat) (s : State) (x : Index) (d : List Nat × List Nat),
    indexOf s p.val o = some x ∧
    x.drain = some d ∧
    d.1.all (gone s) = true) :=
  ⟨⟨0, issueX kvOne 0x0607 (pressFs 13 ++ [(40, 0x110000)]) [(16, 0x3F800000), (20, 0x3F800000), (24, 0x120000)], J
      (issueX kvOne 0x0607 (pressFs 13 ++ [(40, 0x110000)]) [(16, 0x3F800000), (20, 0x3F800000), (24, 0x120000)]) 0,
      { reg0 with vis := [(0, 1)], res := [(0, 1)] }, by decide +kernel, by decide +kernel, by decide +kernel,
      by decide +kernel, by decide +kernel, by decide +kernel, (show selectGroups _ _ _ = [] by decide +kernel), canGo
      (by decide +kernel)⟩,
   ⟨0, issue (kvWith recall1) 0x0608 [(12, 2), (19, 1)], J (issue (kvWith recall1) 0x0608 [(12, 2), (19, 1)]) 0, recall1,
       by decide +kernel⟩,
   ⟨0, issue mem1 0x0609 [(16, 0x120000), (24, 10), (32, 5)], J (issue mem1 0x0609 [(16, 0x120000), (24, 10), (32, 5)]) 0,
       by decide +kernel, by decide +kernel, by decide +kernel, by decide +kernel, by decide +kernel, canGo (by decide +kernel)⟩,
   ⟨0, runs (patterned ⟨none, some (⟨0x120000, 10, 1, []⟩, 0, 5), none⟩) 0x0609 [], ⟨0x120000, 10, 1, []⟩, 0, 5, J (runs
       (patterned ⟨none, some (⟨0x120000, 10, 1, []⟩, 0, 5), none⟩) 0x0609 []) 0, by decide +kernel⟩,
   ⟨0, 2, 0, 0, runs (kvWith { reg0 with shadows := [⟨0, 0, 1, 0⟩] }) 0x0602 [], { reg0 with shadows := [⟨0, 0, 1, 0⟩] }, ⟨0, 0,
       1, 0⟩, by decide +kernel, by decide +kernel, ofOpt (by decide +kernel)⟩,
   ⟨0, 2, 0, 0, 0, runs (kvWith { reg0 with recallNew := [(0, ⟨0, 0, 0, 0, 0, []⟩)] }) 0x0607 [],
       { reg0 with recallNew := [(0, ⟨0, 0, 0, 0, 0, []⟩)] }, ⟨0, 0, 0, 0, 0, []⟩, by decide +kernel⟩,
   ⟨0, 3, runs (indexed { index1 with shadow := some ⟨0, 2, 5, [], [], 0⟩ }) 0x0905 [],
       { index1 with shadow := some ⟨0, 2, 5, [], [], 0⟩ }, ⟨0, 2, 5, [], [], 0⟩, J (runs
       (indexed { index1 with shadow := some ⟨0, 2, 5, [], [], 0⟩ }) 0x0905 []) 0, by decide +kernel⟩,
   ⟨0, patterned ⟨none, none, some (⟨0x120000, 10, 1, []⟩, [9])⟩, (⟨0x120000, 10, 1, []⟩, [9]), by decide +kernel⟩,
   ⟨0, 2, kv1, reg0, by decide +kernel⟩,
   ⟨0, 2, kv1, reg0, by decide +kernel⟩,
   ⟨0, 3, indexed { index1 with drain := some ([9], [64]) }, { index1 with drain := some ([9], [64]) }, ([9], [64]),
       by decide +kernel⟩⟩

/-- Every clause of `PressReadsAndWrites` has its hypotheses met together. -/
theorem wit_PressReadsAndWrites :
  (∃ (n : Nat) (s : State) (j : Job) (src : KvSrc),
    opJob s n 0x0500 = some j ∧
    pressErr s j (pressF j) ⟨false, false, false⟩ = none ∧
    ((pressF j).prio = true ∧ j.demoted = false ∨ (coreAt s (part s j) (j.fld 55 1)).any (behindPriority s) = false) ∧
    sourceOf s j (pressF j) true true = .inr src ∧
    pressClash j src = false ∧
    regionErr s (pressOuts s j src) = none ∧
    CanAccess s n (pressIns s j src ++ pressOuts s j src)) ∧
  (∃ (c : Instr) (n : Nat) (op : Nat) (s : State) (j : Job) (src : KvSrc),
    ((c = .bound n ∧ op = 0x0505 ∧ (coreAt s (part s j) (j.fld 55 1)).any (behindPriority s) = false) ∨ (c = .recallBound n ∧
        op = 0x0606 ∧ (match s.tm.leaves.find?
        (fun w => w.job == n) with | some w => w.groups = [] | none => boundFar s j = []))) ∧
    opJob s n op = some j ∧
    pressErr s j (pressF j) ⟨true, false, false⟩ = none ∧
    sourceOf s j (pressF j) false false = .inr src ∧
    regionErr s (boundOuts s j src) = none ∧
    CanAccess s n (boundIns s j src ++ boundOuts s j src)) ∧
  (∃ (n : Nat) (s : State) (j : Job),
    opJob s n 0x0503 = some j ∧
    (coreAt s (part s j) (j.fld 55 1)).any (behindPriority s) = false ∧
    finishErr s j = none ∧
    regionErr s (finishSpans s j) = none ∧
    CanAccess s n (finishSpans s j)) ∧
  (∃ (n : Nat) (s : State) (j : Job) (src : KvSrc),
    opJob s n 0x0504 = some j ∧
    pressErr s j (pressF j) ⟨false, true, false⟩ = none ∧
    (coreAt s (part s j) (j.fld 55 1)).any (behindPriority s) = false ∧
    sourceOf s j (pressF j) false false = .inr src ∧
    regionErr s (pleatOuts s j src) = none ∧
    CanAccess s n (pleatIns s j src ++ pleatOuts s j src)) ∧
  (∃ (n : Nat) (s : State) (j : Job) (r : Region),
    opJob s n 0x0502 = some j ∧
    kvNamed s j = some r ∧
    (coreAt s (part s j) (j.fmt 48)).any (behindPriority s) = false ∧
    backwardErr s j r = none ∧
    regionErr s (backwardSpans s j r) = none ∧
    CanAccess s n (backwardSpans s j r)) ∧
  (∃ (n : Nat) (s : State) (j : Job),
    opJob s n 0x0507 = some j ∧
    (coreAt s (part s j) (j.fld 46 1)).any (behindPriority s) = false ∧
    gradDrainErr s j = none ∧
    regionErr s (gradDrainSpans s j) = none ∧
    CanAccess s n (gradDrainSpans s j)) ∧
  (∃ (n : Nat) (s : State) (u : State) (j : Job) (k : Nat),
    opJob s n 0x0501 = some j ∧
    240 ≤ k ∧
    k < 256 ∧
    (ticketOf s (part s j) k).job = none ∧
    batchErr j = none ∧
    tierSays s n [rd (part s j) (j.va 16) (32 * j.fld 32 2)] = (.go, []) ∧
    u = accessed s n (dieOfJob s n) [rd (part s j) (j.va 16) (32 * j.fld 32 2)] [] ∧
    (∀ i < j.fld 32 2, (batchEntry s (part s j) (j.va 16) i).ok = true ∧ batchRegion s (part s j) n (batchEntry s (part s j)
        (j.va 16) i) ≠ none) ∧
    batchWrong u j n = none ∧
    regionErr u (batchOuts u j n) = none) :=
  ⟨⟨0, issueX kvOne 0x0500 (pressFs 3 ++ [(24, 0x20000000110000)]) alpha1, J (issueX kvOne 0x0500 (pressFs 3 ++ [(24,
      0x20000000110000)]) alpha1) 0, (sourceOf (issueX kvOne 0x0500 (pressFs 3 ++ [(24, 0x20000000110000)]) alpha1) (J
      (issueX kvOne 0x0500 (pressFs 3 ++ [(24, 0x20000000110000)]) alpha1) 0) (pressF (J (issueX kvOne 0x0500 (pressFs 3 ++
      [(24, 0x20000000110000)]) alpha1) 0)) true true).elim (fun _ => ⟨⟨64, 1, 1, false, false⟩, 0, 0, false, []⟩) id,
      by decide +kernel, by decide +kernel, by decide +kernel, by decide +kernel, by decide +kernel, by decide +kernel, canGo
      (by decide +kernel)⟩,
   ⟨.bound 0, 0, 0x0505, issueX kvOne 0x0505 (pressFs 0) [(16, 0x3F800000), (24, 0x110000)], J (issueX kvOne 0x0505
       (pressFs 0) [(16, 0x3F800000), (24, 0x110000)]) 0, (sourceOf (issueX kvOne 0x0505 (pressFs 0) [(16, 0x3F800000), (24,
       0x110000)]) (J (issueX kvOne 0x0505 (pressFs 0) [(16, 0x3F800000), (24, 0x110000)]) 0) (pressF (J (issueX kvOne 0x0505
       (pressFs 0) [(16, 0x3F800000), (24, 0x110000)]) 0)) false false).elim (fun _ => ⟨⟨64, 1, 1, false, false⟩, 0, 0, false,
       []⟩) id, .inl ⟨rfl, rfl, by decide +kernel⟩, by decide +kernel, by decide +kernel, by decide +kernel, by decide +kernel,
       canGo (by decide +kernel)⟩,
   ⟨0, issue mem1 0x0503 [(24, 0x20000000110000), (40, 0x120000), (48, 1), (50, 2)], J (issue mem1 0x0503 [(24,
       0x20000000110000), (40, 0x120000), (48, 1), (50, 2)]) 0, by decide +kernel, by decide +kernel, by decide +kernel,
       by decide +kernel, canGo (by decide +kernel)⟩,
   ⟨0, issueX kvOne 0x0504 (pressFs 3 ++ [(24, 0x20000000110000)]) alpha1, J (issueX kvOne 0x0504 (pressFs 3 ++ [(24,
       0x20000000110000)]) alpha1) 0, (sourceOf (issueX kvOne 0x0504 (pressFs 3 ++ [(24, 0x20000000110000)]) alpha1) (J
       (issueX kvOne 0x0504 (pressFs 3 ++ [(24, 0x20000000110000)]) alpha1) 0) (pressF (J (issueX kvOne 0x0504 (pressFs 3 ++
       [(24, 0x20000000110000)]) alpha1) 0)) false false).elim (fun _ => ⟨⟨64, 1, 1, false, false⟩, 0, 0, false, []⟩) id,
       by decide +kernel, by decide +kernel, by decide +kernel, by decide +kernel, by decide +kernel, canGo (by decide +kernel)⟩,
   ⟨0, issueX kvOne 0x0502 [(12, 2), (16, 0x20000000100000), (24, 0x110000), (32, 0x20000000120000), (40, 0x20000000130000),
       (48, 0x140000)] [(16, 0x3F800000), (24, 0x150000), (56, 1), (59, 1)], J (issueX kvOne 0x0502 [(12, 2), (16,
       0x20000000100000), (24, 0x110000), (32, 0x20000000120000), (40, 0x20000000130000), (48, 0x140000)] [(16, 0x3F800000),
       (24, 0x150000), (56, 1), (59, 1)]) 0, { reg0 with vis := [(0, 1)], res := [(0, 1)] }, by decide +kernel,
       by decide +kernel, by decide +kernel, by decide +kernel, by decide +kernel, canGo (by decide +kernel)⟩,
   ⟨0, issue mem1 0x0507 [(16, 0x100000), (24, 0x20000000110000), (32, 1), (36, 2)], J (issue mem1 0x0507 [(16, 0x100000), (24,
       0x20000000110000), (32, 1), (36, 2)]) 0, by decide +kernel, by decide +kernel, by decide +kernel, by decide +kernel,
       canGo (by decide +kernel)⟩,
   ⟨0, batching, accessed batching 0 (dieOfJob batching 0) [rd 0 0x100000 32] [], J batching 0, 240, by decide +kernel⟩⟩

/-- Every clause of `IndexesAndCarrier` has its hypotheses met together. -/
theorem wit_IndexesAndCarrier :
  (∃ (n : Nat) (s : State) (j : Job),
    opJob s n 0x0900 = some j ∧
    idxCreateErr s j = none ∧
    idxErr s (part s j) true = none ∧
    CanAccess (idxCreated s j) n (idxCreateSpans s j)) ∧
  (∃ (n : Nat) (s : State) (u : State) (j : Job) (x : Index),
    opJob s n 0x0902 = some j ∧
    indexNamed s j = some x ∧
    (∀ e ∈ x.opened, e.2.2 ≠ n) ∧
    numbersAhead s x j = false ∧
    insertErr j x false = none ∧
    idxErr s x.p true = none ∧
    u = takeNumbers s x n (j.fld 40 4) ∧
    tierSays u n (insertIns j x) = (.go, []) ∧
    sideRoom (accessed u n (dieOfJob u n) (insertIns j x) []) x (j.fld 40 4) = true) ∧
  (∃ (n : Nat) (s : State) (u : State) (j : Job) (x : Index),
    opJob s n 0x0903 = some j ∧
    indexNamed s j = some x ∧
    (∀ e ∈ x.opened, e.2.2 ≠ n) ∧
    numbersAhead s x j = false ∧
    deleteErr j x false = none ∧
    idxErr s x.p true = none ∧
    u = takeNumbers s x n (j.fld 40 4) ∧
    tierSays u n [rd x.p (j.va 24) (8 * j.fld 40 4)] = (.go, [])) ∧
  (∃ (n : Nat) (v : Nat) (s : State) (u : State) (j : Job) (x : Index) (k : DeepKey),
    opJob s n 0x0905 = some j ∧
    indexNamed s j = some x ∧
    rsvd j 24 56 = none ∧
    idxErr s x.p true = none ∧
    x.shadow = none ∧
    x.drain = none ∧
    tierSays s n [rd x.p (x.base + 4096) (x.c * centroidBytes x.dim x.w)] = (.go, []) ∧
    u = accessed s n (dieOfJob s n) [rd x.p (x.base + 4096) (x.c * centroidBytes x.dim x.w)] [] ∧
    v = (boundIndex s n x).visible ∧
    keyOf s x.p = some k ∧
    deepRoom u x.p (16384 * ((mergePages x (mergeLists u x v).1).map (fun y => y.2.2.length)).sum) = true) ∧
  (∃ (n : Nat) (s : State) (j : Job) (z : Index) (x : Index),
    opJob s n 0x0904 = some j ∧
    indexNamed s j = some z ∧
    x = boundIndex s n z ∧
    searchErr s j x = none ∧
    idxErr s x.p false = none ∧
    (∀ y ∈ s.tm.searches, y.job ≠ n) ∧
    CanAccess s n (searchIns j x ++ [resultSpan x.p j])) ∧
  (∃ (ch : Fin 32) (ue : List (Nat × Nat)) (s : State) (w : LeafWork) (e : Nat × Nat × Nat),
    deepReady s = true ∧
    nextLeaves (loseContexts s ch.val ue) ch.val = some (w, e)) ∧
  (∃ (ch : Fin 32) (ue : List (Nat × Nat)) (s : State) (x : Search) (l : Nat) (pg : Nat),
    deepReady s = true ∧
    nextLeaves (loseContexts s ch.val ue) ch.val = none ∧
    nextPage (loseContexts s ch.val ue) ch.val = some (x, l, pg)) ∧
  (∃ (s : State),
    s.ob.counting = true) ∧
  (∃ (s : State),
    rfield s rDtStatus 29 1 = 1) ∧
  (∃ (s : State),
    deepReady s = true) :=
  ⟨⟨0, issue deep1 0x0900 [(12, 7), (16, 0x4000000), (24, 8192), (32, 0x20000000100000), (40, 32), (42, 8), (44, 1)], J
      (issue deep1 0x0900 [(12, 7), (16, 0x4000000), (24, 8192), (32, 0x20000000100000), (40, 32), (42, 8), (44, 1)]) 0,
      by decide +kernel, by decide +kernel, by decide +kernel, canGo (by decide +kernel)⟩,
   ⟨0, issue (indexed index1) 0x0902 [(12, 3), (16, 0x20000000100000), (24, 0x110000), (40, 1)], takeNumbers (issue
       (indexed index1) 0x0902 [(12, 3), (16, 0x20000000100000), (24, 0x110000), (40, 1)]) index1 0 1, J (issue
       (indexed index1) 0x0902 [(12, 3), (16, 0x20000000100000), (24, 0x110000), (40, 1)]) 0, index1, by decide +kernel⟩,
   ⟨0, issue (indexed index1) 0x0903 [(12, 3), (24, 0x110000), (40, 1)], takeNumbers (issue (indexed index1) 0x0903 [(12, 3),
       (24, 0x110000), (40, 1)]) index1 0 1, J (issue (indexed index1) 0x0903 [(12, 3), (24, 0x110000), (40, 1)]) 0, index1,
       by decide +kernel⟩,
   ⟨0, 0, begin' (indexed index1) 0x0905 [(12, 3), (16, 2000)], accessed (begin' (indexed index1) 0x0905 [(12, 3), (16,
       2000)]) 0 (dieOfJob (begin' (indexed index1) 0x0905 [(12, 3), (16, 2000)]) 0) [rd 0 0x4001000 48] [], J (begin'
       (indexed index1) 0x0905 [(12, 3), (16, 2000)]) 0, index1, ⟨1, 2, 3⟩, by decide +kernel⟩,
   ⟨0, begin' (indexed index1) 0x0904 [(12, 3), (16, 0x20000000100000), (24, 0x110000), (40, 1), (42, 1), (44, 1)], J (begin'
       (indexed index1) 0x0904 [(12, 3), (16, 0x20000000100000), (24, 0x110000), (40, 1), (42, 1), (44, 1)]) 0, index1, index1,
       by decide +kernel, by decide +kernel, by decide +kernel, by decide +kernel, by decide +kernel, by decide +kernel, canGo
       (by decide +kernel)⟩,
   ⟨0, [], runs leafing 0x0606 [], ⟨0, 0, 2, [(0, 0, 0, 0)], [0]⟩, (0, 0, 0), by decide +kernel⟩,
   ⟨0, [], runs { indexed index1 with tm := { (indexed index1).tm with searches := [search1], asks := [0] } } 0x0904 [(12, 3),
       (16, 0x20000000100000), (24, 0x110000), (40, 1), (42, 1), (44, 1)], search1, 0, 0, by decide +kernel⟩,
   ⟨up, by decide +kernel⟩,
   ⟨wfield up rDtStatus 29 1 1, by decide +kernel⟩,
   ⟨deep1, by decide +kernel⟩⟩

/-- Every clause of `RowOperationsAndPrograms` has its hypotheses met together. -/
theorem wit_RowOperationsAndPrograms :
  (∃ (c : Instr) (n : Nat) (op : Nat) (k : Nat) (s : State) (j : Job),
    ((c = .apply n ∧ op = 0x0400) ∨ (c = .gate n ∧ op = 0x0401) ∨ (c = .stats n ∧ op = 0x0402) ∨ (c = .norm n ∧ op = 0x0403) ∨
        (c = .softmax n ∧ op = 0x0404)) ∧
    opJob s n op = some j ∧
    rowErr s j (rowOp j) = none ∧
    k = (coreAt s (part s j) (j.fld 43 1)).getD 0) ∧
  (∃ (n : Nat) (s : State) (j : Job) (d : Option Nat) (code : Nat) (x : FnProg),
    opJob s n 0x0405 = some j ∧
    loadProgramErr j = none ∧
    (begunOf s (part s j) 0x0405 (fun x => x.bits 24 0 5 == j.bits 24 0 5 && decide (x.order < j.order) &&
        (loadProgramErr x).isNone)).isEmpty = true ∧
    CanAccess s n (loadProgramSpans s j) ∧
    loadCheck (bytesAt s (part s j) (j.va 16) (1088 + numAt s (part s j) (j.va 16 + 4) 2)) (progValid s (part s j)
        (j.bits 24 0 5) || (unloadsOf s (part s j) (j.bits 24 0 5)).any (fun x => decide (x.order < j.order))) = (code, d, x)) ∧
  (∃ (n : Nat) (s : State) (j : Job),
    opJob s n 0x0406 = some j ∧
    unloadProgramErr j = none ∧
    unloadsNow s (part s j) (j.bits 24 0 5) j = true) ∧
  (∃ (n : Nat) (s : State) (j : Job),
    opJob s n 0x0406 = some j ∧
    unloadProgramErr j = none ∧
    unloadsNow s (part s j) (j.bits 24 0 5) j = false) :=
  ⟨⟨.apply 0, 0, 0x0400, 0, issue up 0x0400 [(24, 0x1000), (28, 0xFFFFFFFF), (32, 1), (36, 1), (38, 2), (39, 2)], J
      (issue up 0x0400 [(24, 0x1000), (28, 0xFFFFFFFF), (32, 1), (36, 1), (38, 2), (39, 2)]) 0, .inl ⟨rfl, rfl⟩,
      by decide +kernel, by decide +kernel, by decide +kernel⟩,
   ⟨0, issue imaged 0x0405 [(16, 0x100000), (24, 31)], J (issue imaged 0x0405 [(16, 0x100000), (24, 31)]) 0, some 0, 0, ⟨2, 0,
       0, [0x07C00000], [], none⟩, by decide +kernel, by decide +kernel, by decide +kernel, canGo (by decide +kernel),
       by decide +kernel⟩,
   ⟨0, issue up 0x0406 [(24, 31)], J (issue up 0x0406 [(24, 31)]) 0, by decide +kernel⟩,
   ⟨1, issue inUse 0x0406 [(24, 31)], J (issue inUse 0x0406 [(24, 31)]) 1, by decide +kernel⟩⟩

/-- Every clause of `ArraysHoldAndMultiply` has its hypotheses met together. -/
theorem wit_ArraysHoldAndMultiply :
  (∃ (n : Nat) (c : Nat) (s : State) (j : Job),
    opJob s n 0x0200 = some j ∧
    holdErr s j = none ∧
    c = (coreAt s (part s j) (j.fld 39 1)).getD 0 ∧
    (∀ a ∈ maskArrs (j.fld 38 1 % 16), holdWaits (j.fld 36 1 != 1) (arrOf s c a) = false)) ∧
  (∃ (n : Nat) (c : Nat) (s : State) (u : State) (j : Job),
    opJob s n 0x0201 = some j ∧
    c = (coreAt s (part s j) (j.fld 55 1)).getD 0 ∧
    (productBegun s j = true ∧ u = s ∨ productBegun s j = false ∧ productErr s j = none ∧ u = beginProduct s j) ∧
    CanAccess u n (productSpans u j)) ∧
  (∃ (c : Fin 64) (a : Fin 4) (s : State) (p : Prod) (ps : List Prod),
    (arrOf s c.val a.val).queue = p :: ps ∧
    (drySpinOn s = false ∨ (arrOf s c.val a.val).flight ≠ [] ∨ (4 ≤ (arrOf s c.val a.val).level ∧
        (arrOf s c.val a.val).rising = false)) ∧
    p.ready = true ∧
    drainAhead s c.val a.val p.job = false ∧
    (p.chain = false ∨ (arrOf s c.val a.val).flight = []) ∧
    (arrOf s c.val a.val).flight.length < 301) ∧
  (∃ (c : Fin 64) (a : Fin 4) (s : State) (p : Prod) (ps : List Prod),
    (arrOf s c.val a.val).flight = p :: ps) ∧
  (∃ (n : Nat) (c : Nat) (s : State) (j : Job),
    opJob s n 0x0202 = some j ∧
    drainFields s j = none ∧
    drainWaits s j = false ∧
    drainErr s j = none ∧
    c = (coreAt s (part s j) (j.fld 41 1)).getD 0 ∧
    CanAccess s n (drainSpans s j)) ∧
  (∃ (n : Nat) (s : State) (j : Job) (out : Span),
    opJob s n 0x0300 = some j ∧
    needleErr s j = none ∧
    out = wr (part s j) (j.va 48) (j.fld 45 1 * j.fld 40 2 * elemSize (j.fld 44 1)) ∧
    regionErr s (needleReads s j ++ [out]) = none ∧
    CanAccess s n (needleReads s j ++ [out])) ∧
  (∃ (n : Nat) (c : Nat) (s : State) (j : Job),
    opJob s n 0x0203 = some j ∧
    drySpinErr s j = none ∧
    c = (coreAt s (part s j) (j.fld 22 1)).getD 0 ∧
    (∀ a ∈ maskArrs (j.fld 21 1 % 16), (arrOf s c a).queue = [])) ∧
  (∃ (c : Fin 64) (a : Fin 4) (s : State) (x : Arr),
    x = arrOf s c.val a.val ∧
    drySpinOn s = true ∧
    x.flight = [] ∧
    x.queue = [] ∧
    x.level ≠ 0) ∧
  (∃ (c : Fin 64) (a : Fin 4) (s : State) (x : Arr),
    x = arrOf s c.val a.val ∧
    drySpinOn s = true ∧
    x.flight = [] ∧
    x.queue ≠ [] ∧
    (x.level < 4 ∨ x.rising = true)) ∧
  (∃ (s : State),
    ready s = true) :=
  ⟨⟨0, 0, issue up 0x0200 [(20, 32), (32, 1), (34, 32), (36, 1), (38, 1)], J (issue up 0x0200 [(20, 32), (32, 1), (34, 32), (36,
      1), (38, 1)]) 0, by decide +kernel⟩,
   ⟨0, 0, issue holding 0x0201 [(16, 0x100000), (24, 0x110000), (44, 32), (48, 1), (50, 0x47), (54, 0x81)], beginProduct
       (issue holding 0x0201 [(16, 0x100000), (24, 0x110000), (44, 32), (48, 1), (50, 0x47), (54, 0x81)]) (J
       (issue holding 0x0201 [(16, 0x100000), (24, 0x110000), (44, 32), (48, 1), (50, 0x47), (54, 0x81)]) 0), J
       (issue holding 0x0201 [(16, 0x100000), (24, 0x110000), (44, 32), (48, 1), (50, 0x47), (54, 0x81)]) 0, by decide +kernel,
       by decide +kernel, by decide +kernel, canGo (by decide +kernel)⟩,
   ⟨0, 0, withArr up { arr0 with queue := [prod1], level := 8 }, prod1, [], by decide +kernel⟩,
   ⟨0, 0, withArr (runs up 0x0201 []) { arr0 with flight := [prod1] }, prod1, [], by decide +kernel⟩,
   ⟨0, 0, opened, J opened 0, by decide +kernel, by decide +kernel, by decide +kernel, by decide +kernel, by decide +kernel,
       canGo (by decide +kernel)⟩,
   ⟨0, issue mem1 0x0300 [(16, 0x100000), (24, 0x110000), (36, 32), (40, 1), (42, 0x47), (43, 2), (44, 2), (45, 1), (48,
       0x120000)], J (issue mem1 0x0300 [(16, 0x100000), (24, 0x110000), (36, 32), (40, 1), (42, 0x47), (43, 2), (44, 2), (45,
       1), (48, 0x120000)]) 0, wr 0 0x120000 2, by decide +kernel, by decide +kernel, by decide +kernel, by decide +kernel,
       canGo (by decide +kernel)⟩,
   ⟨0, 0, issue up 0x0203 [(16, 8), (20, 8), (21, 1)], J (issue up 0x0203 [(16, 8), (20, 8), (21, 1)]) 0, by decide +kernel⟩,
   ⟨0, 0, withArr (wfield up rDrySpin 16 1 1) { arr0 with level := 3 }, { arr0 with level := 3 }, by decide +kernel⟩,
   ⟨0, 0, withArr (wfield up rDrySpin 16 1 1) { arr0 with queue := [prod1] }, { arr0 with queue := [prod1] }, by decide +kernel⟩,
   ⟨up, by decide +kernel⟩⟩

/-- Every clause of `TileProgramsAndTickets` has its hypotheses met together. -/
theorem wit_TileProgramsAndTickets :
  (∃ (n : Nat) (k : Nat) (hd : Nat) (ls : List Nat) (s : State) (j : Job),
    opJob s n 0x0A10 = some j ∧
    tpLoadErr j = none ∧
    k = j.bits 24 0 6 ∧
    (tpLoads s (part s j) k).any (fun x => decide (x.order < j.order)) = false ∧
    hd = numAt s (part s j) (j.va 16) 64 ∧
    ls = (List.range (min 24 (bitsOf hd 24 4 + bitsOf hd 28 4 + bitsOf hd 32 4))).map (fun i => numAt s (part s j)
        (j.va 16 + 64 + 4 * i) 4) ∧
    CanAccess s n (tpLoadSpans s j) ∧
    tpLoaderErr hd ls ((tpSlot s (part s j) k).isSome || (tpUnloads s (part s j) k).any (fun x => decide
        (x.order < j.order))) = none ∧
    ((tpParse hd ls).m = 0 ∨ (tpParse hd ls).n = 0 ∨ (tpParse hd ls).k = 0 ∨ issueCheck (tpParse hd ls) (tpParse hd ls).m
        (tpParse hd ls).n (tpParse hd ls).k 0 = none)) ∧
  (∃ (n : Nat) (k : Nat) (s : State) (j : Job),
    opJob s n 0x0A11 = some j ∧
    tpUnloadErr j = none ∧
    k = j.bits 24 0 6 ∧
    unloadDue s j = true) ∧
  (∃ (n : Nat) (k : Nat) (s : State) (j : Job),
    opJob s n 0x0A11 = some j ∧
    tpUnloadErr j = none ∧
    k = j.bits 24 0 6 ∧
    unloadDue s j = false) ∧
  (∃ (n : Nat) (s : State) (u : State) (j : Job) (g : TpProg) (r : TpRun),
    opJob s n 0x0A12 = some j ∧
    tpFor s (part s j) (j.bits 48 0 6) j = some g ∧
    r = tpRunOf s j g ∧
    tierSays s n (tpRunLists r) = (.go, []) ∧
    u = accessed s n (dieOfJob s n) (tpRunLists r) [] ∧
    (tpRunErr u j g r <|> issueCheck g r.M r.N r.K r.base) = none ∧
    regionErr u (tpRunOuts u r) = none ∧
    (j.fld 3 1 = 0 ∨ j.fld 3 1 = 3)) ∧
  (∃ (n : Nat) (s : State) (u : State) (j : Job) (g : TpProg) (r : TpRun),
    opJob s n 0x0A12 = some j ∧
    tpFor s (part s j) (j.bits 48 0 6) j = some g ∧
    r = tpRunOf s j g ∧
    tierSays s n (tpRunLists r) = (.go, []) ∧
    u = accessed s n (dieOfJob s n) (tpRunLists r) [] ∧
    (tpRunErr u j g r <|> issueCheck g r.M r.N r.K r.base) = none ∧
    regionErr u (tpRunOuts u r) = none ∧
    j.fld 3 1 ≠ 0 ∧
    j.fld 3 1 ≠ 3) ∧
  (∃ (n : Nat) (s : State) (j : Job) (g : TpProg) (r : TpRun) (x : TpShare),
    job? s n = some j ∧
    j.phase = .running ∧
    j.opcode = 0x0A12 ∧
    shareOf s n = some x ∧
    tpSlot s (part s j) (j.bits 48 0 6) = some g ∧
    r = tpRunOf s j g ∧
    tpRunErr s j g r = none ∧
    shareFree s r x = true ∧
    CanAccess s n (r.allSpans s)) ∧
  (∃ (n : Nat) (s : State) (j : Job) (x : Ticket),
    opJob s n 0x0A18 = some j ∧
    ticketReadErr j = none ∧
    x = ticketOf s (part s j) (j.fld 16 1) ∧
    regionErr s [wr (part s j) (j.va 24) 16] = none ∧
    CanAccess s n [wr (part s j) (j.va 24) 16]) ∧
  (∃ (n : Nat) (s : State) (j : Job),
    opJob s n 0x0A19 = some j ∧
    ticketResetErr s j = none) ∧
  (∃ (p : Fin 8) (k : Fin 256) (c : Fin 64) (s : State) (x : Ticket),
    x = ticketOf s p.val k.val ∧
    x.job ≠ none ∧
    c.val ∈ coresOf s p.val ∧
    s.boot.retired.getLsbD c.val = false) ∧
  (∃ (p : Fin 8) (k : Fin 256) (c : Fin 64) (v : Nat) (gen : BitVec 16) (s : State) (x : Ticket),
    x = ticketOf s p.val k.val ∧
    (c.val, v, gen) ∈ x.late) ∧
  (∃ (p : Fin 8) (k : Fin 256) (c : Fin 64) (v : Nat) (gen : BitVec 16) (s : State) (x : Ticket) (n : Nat) (j : Job)
      (g : TpProg) (r : TpRun),
    x = ticketOf s p.val k.val ∧
    (c.val, v, gen) ∉ x.late ∧
    (c.val, v, gen) ∈ x.out ∧
    x.job = some n ∧
    job? s n = some j ∧
    j.opcode ≠ 0x0501 ∧
    tpSlot s p.val (j.bits 48 0 6) = some g ∧
    r = tpRunOf s j g ∧
    (r.g.needle = true ∨ tpArraysFree s r c.val = true) ∧
    CanAccess s n (r.spans s v)) :=
  ⟨⟨0, 63, numAt tpImage 0 0x100000 64, [], issue tpImage 0x0A10 [(16, 0x100000), (24, 63)], J (issue tpImage 0x0A10 [(16,
      0x100000), (24, 63)]) 0, by decide +kernel, by decide +kernel, by decide +kernel, by decide +kernel, by decide +kernel,
      by decide +kernel, canGo (by decide +kernel), by decide +kernel, by decide +kernel⟩,
   ⟨0, 0, issue progs 0x0A11 [], J (issue progs 0x0A11 []) 0, by decide +kernel⟩,
   ⟨1, 0, issue (issueX progs 0x0A12 (runFs ++ [(51, 5)]) []) 0x0A11 [], J (issue (issueX progs 0x0A12 (runFs ++ [(51,
       5)]) []) 0x0A11 []) 1, by decide +kernel⟩,
   ⟨0, issueX progs 0x0A12 (runFs ++ [(51, 5)]) [], (issueX progs 0x0A12 (runFs ++ [(51, 5)]) []), J (issueX progs 0x0A12
       (runFs ++ [(51, 5)]) []) 0, prog1, tpRunOf (issueX progs 0x0A12 (runFs ++ [(51, 5)]) []) (J (issueX progs 0x0A12 (runFs ++
       [(51, 5)]) []) 0) prog1, by decide +kernel⟩,
   ⟨0, issueX progs 0x0A12 (runFs ++ [(3, 1), (50, 1)]) [], (issueX progs 0x0A12 (runFs ++ [(3, 1), (50, 1)]) []), J
       (issueX progs 0x0A12 (runFs ++ [(3, 1), (50, 1)]) []) 0, prog1, tpRunOf (issueX progs 0x0A12 (runFs ++ [(3, 1), (50,
       1)]) []) (J (issueX progs 0x0A12 (runFs ++ [(3, 1), (50, 1)]) []) 0) prog1, by decide +kernel⟩,
   ⟨0, piping, J piping 0, prog1, tpRunOf piping (J piping 0) prog1, ⟨0, 0, [0], [(0, [0])]⟩, by decide +kernel,
       by decide +kernel, by decide +kernel, by decide +kernel, by decide +kernel, by decide +kernel, by decide +kernel,
       by decide +kernel, canGo (by decide +kernel)⟩,
   ⟨0, issue mem1 0x0A18 [(16, 255), (24, 0x100000)], J (issue mem1 0x0A18 [(16, 255), (24, 0x100000)]) 0, ticket0,
       by decide +kernel, by decide +kernel, by decide +kernel, by decide +kernel, canGo (by decide +kernel)⟩,
   ⟨0, issue (ticketed up { ticket0 with limit := 5 }) 0x0A19 [(16, 5)], J (issue
       (ticketed up { ticket0 with limit := 5 }) 0x0A19 [(16, 5)]) 0, by decide +kernel⟩,
   ⟨0, 5, 0, ticketed up { ticket0 with job := some 0, limit := 2 }, { ticket0 with job := some 0, limit := 2 },
       by decide +kernel⟩,
   ⟨0, 5, 0, 3, 1, ticketed up { ticket0 with late := [(0, 3, 1)] }, { ticket0 with late := [(0, 3, 1)] }, by decide +kernel⟩,
   ⟨0, 5, 0, 0, 0, drawn, { ticket0 with job := some 0, limit := 1, out := [(0, 0, 0)] }, 0, J drawn 0, prog1, tpRunOf drawn
       (J drawn 0) prog1, by decide +kernel, by decide +kernel, by decide +kernel, by decide +kernel, by decide +kernel,
       by decide +kernel, by decide +kernel, by decide +kernel, by decide +kernel, canGo (by decide +kernel)⟩⟩

/-- Commands that `FramesOfHost` names answer a next state. -/
theorem wit_FramesOfHost : ∀ c ∈ ([.hostStallBegin, .pcieHotReset, .pcieLinkDown, .hostWrite 0, .snapshotRead 0,
    .hpDbCmdTail 0 0 0, .hpDbCplHead 0 0 0,
     .jobAbort 0, .retireLane 0, .nop 0, .snapshot 0, .pegAdd 0, .pegSet 0, .ringDisable 0 0 0, .ringEnable 0 0 0,
     .standbyPowerLoss, .standbyPowerReturn, .coldReset false, .perstAssert, .moduleResetCommand 0,
     .inputFaultShutdown .overvoltage, .inputPowerLoss, .thermtrip] : List Instr),
    ∃ t, exec c up = .next t :=
  runsAll (by decide +kernel)

/-- Commands that `FramesOfLinks` names answer a next state. -/
theorem wit_FramesOfLinks_1 : ∀ c ∈ ([.allGather 0 [], .allReduce 0 [], .broadcast 0 [], .reduce 0 [], .reduceScatter 0 [],
    .seqReduce 0 [], .barrier 0,
     .spin 0, .creditReturnTimer 0, .idleFrameTimer 0, .linkAckTimer 0, .discoveryWindowClose, .joinTimeout,
     .frameAcknowledgement 0 frame1, .frameReadRequest 0 frame1, .frameReadResponse 0 frame1, .frameWrite 0 frame1,
     .laneBerFail 0 0, .laneChangeNotice 0 0, .lossOfLight 0 0, .laneChangeDone 0, .portDisable 0, .portQuarantine 0,
     .portSilenceTimeout 0] : List Instr),
    ∃ t, exec c up = .next t :=
  runsAll (by decide +kernel)

/-- Commands that `FramesOfLinks` names answer a next state. -/
theorem wit_FramesOfLinks_2 : ∀ c ∈ ([.lightReceived 0, .portEnable 0, .trainingRetry 0, .lostNotice 0 0 0 ⟨5, 6, 0, 1, 900⟩,
     .mismatchNotice 0 0 0 ⟨5, 6, 0, 1, 900⟩, .timeoutNotice 0 0 0 ⟨5, 6, 0, 1, 900⟩, .partResume 0 0, .partSuspend 0 0,
     .remoteRead 0, .remoteWrite 0, .windowClose 0, .windowOpen 0] : List Instr),
    ∃ t, exec c up = .next t :=
  runsAll (by decide +kernel)

/-- Commands that `FramesOfMemory` names answer a next state. -/
theorem wit_FramesOfMemory : ∀ c ∈ ([.catalog 0, .patternRebuild 0, .query 0, .halfReset 0, .swap 0, .insert 0, .merge 0,
    .kvAppend 0, .kvAppendComplete 0,
     .kvAttach 0, .kvPublish 0, .kvFree 0, .objFree 0, .recallBound 0, .search 0] : List Instr),
    ∃ t, exec c up = .next t :=
  runsAll (by decide +kernel)

/-- Commands that `FramesOfCompute` names answer a next state. -/
theorem wit_FramesOfCompute : ∀ c ∈ ([.apply 0, .gate 0, .norm 0, .softmax 0, .stats 0, .bound 0, .finish 0, .needle 0,
    .pleat 0, .press 0, .pressBackward 0,
     .pressGradDrain 0, .ticketRead 0, .drain 0, .product 0, .dryspinRampStep 0 0, .productIssue 0 0] : List Instr),
    ∃ t, exec c up = .next t :=
  runsAll (by decide +kernel)

/-! ## Witnesses of statements over every state -/

/-- `StepRunsFrontCommand` and `CommandsKeepTheQueue`: a queue with a command in front, and a command that runs. -/
theorem wit_StepRunsFrontCommand : ∃ (c : Instr) (cs : List Instr) (s : State), s.pending = c :: cs :=
  ⟨.go 1, [.nop 0], { up with pending := [.go 1, .nop 0] }, rfl⟩

theorem wit_CommandsKeepTheQueue : ∃ (c : Instr) (s t : State), exec c s = .next t ∧ s.pending ≠ [] := by
  obtain ⟨t, h⟩ := answersNext (o := exec (.go 1) { up with pending := [.nop 0] }) (by decide +kernel)
  exact ⟨_, _, t, h, by decide⟩

/-- `IdleStepPassesTime`: an empty queue. -/
theorem wit_IdleStepPassesTime : ∃ s : State, s.pending = [] := ⟨State.reset, by decide +kernel⟩

/-- `MemoryStaysCanonical`: memory that lists a byte, and a step. -/
theorem wit_MemoryStaysCanonical : ∃ s t : State, Memory.wf s.tm.mem ∧ step s = .next t ∧ s.tm.mem ≠ [] := by
  let s := { writeAt mem1 0 0x100000 [7] noSoil with pending := [.bar4Write 0 0x100001 [9] false] }
  obtain ⟨t, h⟩ := answersNext (o := step s) (by decide +kernel)
  exact ⟨s, t, by decide +kernel, h, by decide +kernel⟩

/-! ## Witnesses that hang on values the spec leaves open

What a signature check answers, and the fused keys, are opaque constants of Config. -/

/-- A plan of one island whose module 0 has the fingerprint F. -/
def planHead : List Byte := [0x4C, 0x54, 0x57, 0x50, 1, 0, 1, 1] ++ List.replicate 56 0
def planTail : List Byte := 1 :: List.replicate 1007 0
def planFor (F : List Byte) : List Byte := planHead ++ (F ++ planTail)

/-- What the plan reads as outside its fingerprint. -/
theorem planFor_take (F : List Byte) (k : Nat) (h : k ≤ 64) : (planFor F).take k = planHead.take k :=
  List.take_append_of_le_length (by simpa [planHead] using h)

theorem planFor_drop (F : List Byte) (hl : F.length = 16) (k : Nat) (h : 80 ≤ k) : (planFor F).drop k = planTail.drop
    (k - 80) := by
  have h1 : planHead.length = 64 := by decide
  rw [planFor, List.drop_append, List.drop_append, h1, hl, List.drop_eq_nil_of_le (by omega), List.drop_eq_nil_of_le (by omega)]
  simp only [List.nil_append]
  congr 1

theorem planFor_head (F : List Byte) (o n : Nat) (h : o + n ≤ 64) : numOf (planFor F) o n = numOf planHead o n := by
  rw [numOf, numOf, List.take_drop, List.take_drop, planFor_take F (o + n) h]

theorem planFor_tail (F : List Byte) (hl : F.length = 16) (o n : Nat) (h : 80 ≤ o) :
    numOf (planFor F) o n = numOf planTail (o - 80) n := by
  rw [numOf, numOf, planFor_drop F hl o h]

theorem planFor_first (F : List Byte) (hl : F.length = 16) (a b : Nat) (h : 80 ≤ a) :
    firstSet (planFor F) a b = ((((planTail.drop (a - 80)).take (b - a)).zipIdx a).find? (fun e => e.1 != 0)).map
        (fun e => e.2) := by
  rw [firstSet, List.drop_take, planFor_drop F hl a h]

theorem planFor_length (F : List Byte) (hl : F.length = 16) : (planFor F).length = 1088 := by
  have h1 : planHead.length = 64 := by decide
  have h2 : planTail.length = 1008 := by rw [planTail, List.length_cons, List.length_replicate]
  rw [planFor, List.length_append, List.length_append, hl, h1, h2]

theorem planFor_format (F : List Byte) (hl : F.length = 16) : planFormat (planFor F) = false := by
  have hf : firstSet (planFor F) 16 64 = none := by
    rw [firstSet, planFor_take F 64 (by omega)]
    decide
  have h6 : numOf planHead 6 1 = 1 := by decide
  have h7 : numOf planHead 7 1 = 1 := by decide
  have hn := planFor_length F hl
  have hm (m : Nat) : 64 + 32 * m + 16 - 80 = 32 * m ∧ 64 + 32 * m + 17 - 80 = 32 * m + 1 ∧
      64 + 32 * m + 22 - 80 = 32 * m + 6 := by
    omega
  have ha (m : Nat) : numOf (planFor F) (64 + 32 * m + 16) 1 = numOf planTail (32 * m) 1 := by
    rw [planFor_tail F hl _ _ (by omega), (hm m).1]
  have hb (m : Nat) := planFor_first F hl (64 + 32 * m + 17) (64 + 32 * m + 20) (by omega)
  have hc (m : Nat) := planFor_first F hl (64 + 32 * m + 22) (64 + 32 * m + 32) (by omega)
  simp only [planFormat, planFor_head F 6 1 (by omega), planFor_head F 7 1 (by omega), planFor_head F 0 4 (by omega),
    planFor_head F 4 2 (by omega), h6, h7, hn, hf, ha, hb, hc]
  decide +kernel

theorem planFor_ok (h : (fingerprint identityKey).length = 16) : planErr (bootAt 2) (planFor (fingerprint identityKey)) = none ∧
    planErr up (planFor (fingerprint identityKey)) = none := by
  have hp := planFor_format _ h
  have ht : ((planFor (fingerprint identityKey)).drop 64).take 16 = fingerprint identityKey := by
    have h1 : planHead.length = 64 := by decide
    rw [planFor, List.drop_append, h1, List.drop_eq_nil_of_le (by omega)]
    simp [h]
  have h1 : numOf (planFor (fingerprint identityKey)) 80 1 = 1 := by rw [planFor_tail _ h _ _ (by omega)]; decide
  have h2 : moduleNo (bootAt 2) = 0 := by decide +kernel
  have h3 : moduleNo up = 0 := by decide +kernel
  have h6 : numOf (planFor (fingerprint identityKey)) 6 1 = 1 := by rw [planFor_head _ _ _ (by omega)]; decide
  have h7 : numOf (planFor (fingerprint identityKey)) 7 1 = 1 := by rw [planFor_head _ _ _ (by omega)]; decide
  constructor <;> simp [planErr, hp, ht, h1, h2, h3, h6, h7]

theorem keccakF_length (a : List DWord) (h : a.length = 25) : (keccakF a).length = 25 := by
  have step (n : Nat) : (((List.range n).foldl (fun (e : List DWord × Nat) _ =>
      let rc := iotaRound e.2
      let b := bendRows (turnLanes (mixColumns5 e.1))
      ((b.headD 0 ^^^ BitVec.ofNat 64 rc.1) :: b.drop 1, rc.2)) (a, 1)).1).length = 25 := by
    induction n with
    | zero => exact h
    | succ n _ => simp [List.range_succ, List.foldl_append, bendRows, turnLanes]
  exact step 24

theorem absorb_length (n : Nat) (a : List DWord) (bs : List Byte) (h : a.length = 25) : (absorb n a bs).length = 25 := by
  induction n generalizing a bs with
  | zero => exact h
  | succ n ih => exact ih _ _ (keccakF_length _ (by simp [h, lanesOf]))

theorem fingerprint_length (k : List Byte) : (fingerprint k).length = 16 := by
  have h (a : List DWord) (ha : a.length = 25) : ((squeeze 1 a).take 16).length = 16 := by
    match a, ha with
    | w0 :: w1 :: _, _ => simp [squeeze, leBytes]
  exact h _ (absorb_length _ _ _ (by simp))

/-- `PlanAndAttestation`: the plan that a running module takes. -/
theorem wit_PlanAndAttestation_1 : ∃ (n : Nat) (s : State) (j : Job) (b : List Byte), opJob s n 0x0A30 = some j ∧
    rsvd j 28 56 = none ∧ hostOpen s (fnOfRing s j.ring) = true ∧ plansBefore s j = false ∧ b.length = j.fld 24 4 ∧
        planErr s b = none ∧
    ∀ pt, pt < 16 → portState s pt = 0 ∨ portState s pt = 5 := by
  let s := issue up 0x0A30 [(16, 0x1000), (24, 1088)]
  have hp : planErr s (planFor (fingerprint identityKey)) = none := (planFor_ok (fingerprint_length _)).2
  have hl := planFor_length _ (fingerprint_length identityKey)
  refine ⟨0, s, J s 0, planFor (fingerprint identityKey), by decide +kernel, by decide +kernel, by decide +kernel,
    by decide +kernel, ?_, hp, by decide +kernel⟩
  rw [hl]
  decide +kernel

/-- An image of three sections in format, with sections of no bytes, whose key is 64 zero bytes. -/
def image1 : List Byte :=
  leBytes 4 0x5746544C ++ leBytes 2 1 ++ leBytes 2 3 ++ leBytes 4 30304 ++ List.replicate 244 0 ++
  ([1, 2, 3].map (fun k => leBytes 4 k ++ leBytes 4 512 ++ leBytes 8 0)).flatten ++ List.replicate 30000 0

/-- A boot that verifies, its image of 30,304 bytes and its plan of 1,088. -/
def verifying : State := wreg (wreg (wreg (bootAt 2) rImgLen 30304) rPlanLen 1088) rRecAddr 0x1000

/-- `BootVerifies`: where the fused key and the signature check take that image, a boot in VERIFY takes it with its plan. -/
theorem wit_BootVerifies_1
    (hk : Config.keyDigest 0 = BitVec.ofNat 512 (ofLe (shake256 64 (imageKey image1))))
    (hs : Config.slhVerify256s (imageKey image1) (image1.take 512) ("LIASTIN-FW".toList.map (fun c => BitVec.ofNat 8 c.toNat))
      (image1.drop 512) = true) :
    ∃ (img rec plan : List Byte) (s : State), booting s = true ∧ bootState s = 2 ∧ img.length = (rreg s rImgLen).toNat ∧
      rec.length = 64 ∧ (rreg s rRecAddr ≠ 0 ∨ rreg s (rRecAddr + 4) ≠ 0) ∧ plan.length = (rreg s rPlanLen).toNat ∧
      imageErr s img (rreg s rImgLen).toNat = none ∧ recordErr rec = none ∧ planErr s plan = none := by
  have hp := (planFor_ok (fingerprint_length identityKey)).1
  have hm : planErr verifying (planFor (fingerprint identityKey)) = planErr (bootAt 2) (planFor (fingerprint identityKey)) := by
    have h : moduleNo verifying = moduleNo (bootAt 2) := by decide +kernel
    simp only [planErr, h]
  have hf : imageFormat image1 30304 = none := by decide +kernel
  have hl : (rreg verifying rImgLen).toNat = 30304 := by decide +kernel
  have hn : numOf image1 20 1 = 0 := by decide +kernel
  have hv : numOf image1 12 4 = 0 := by decide +kernel
  have hu : verifying.boot.fuseSvn = 0 := by decide +kernel
  have hb : (30304 : Nat) - sigBytes = 512 := by decide
  have hi : imageErr verifying image1 30304 = none := by
    simp only [imageErr, hf, hn, hv, hu, hb, hs]
    simp [hk, bitOf, bitsOf]
  refine ⟨image1, List.replicate 64 0 |>.set 0 1, planFor (fingerprint identityKey), verifying, by decide +kernel,
      by decide +kernel,
    by decide +kernel, by decide +kernel, by decide +kernel, ?_, by rw [hl]; exact hi, by decide +kernel, by rw [hm]; exact hp⟩
  rw [planFor_length _ (fingerprint_length identityKey)]
  decide +kernel

/-- A hello of the zero key that module 0 port 2 sent, and port 0 that trained with it. -/
def hello1 : BitVec 12 × Nat × BitVec 256 × BitVec 512 := (0, 2, 3, 0)
def greeted (s : State) : State := modPort (portIn s 0 2) 0 (fun x => { x with hello := some hello1 })

/-- `PortAuthentication`: without a plan, a signature that is taken meets a module that is not expected, and one that is not taken
is refused; which of the two the check answers is open. -/
theorem wit_PortAuthentication_3_4 : ∃ (pt : Fin 16) (sig : List Byte) (s : State)
    (h : BitVec 12 × Nat × BitVec 256 × BitVec 512) (r : Nat),
    portState s pt.val = 2 ∧ (portOf s pt.val).hello = some h ∧ planFault s pt.val h = some r ∧
    (Config.slhVerify256f (leBytes 64 h.2.2.2.toNat) (portTranscript s pt.val (portOf s pt.val).nonce h) linkContext sig = true ∨
     Config.slhVerify256f (leBytes 64 h.2.2.2.toNat) (portTranscript s pt.val
         (portOf s pt.val).nonce h) linkContext sig = false) :=
  ⟨0, [], greeted up, hello1, 1, by decide +kernel, by decide +kernel, by decide +kernel,
    (Bool.eq_false_or_eq_true _)⟩

/-- A plan of one island in which every module has the zero key and every port is cabled. -/
def plan0 : Plan := ⟨List.replicate 6 0 ++ [1, 1] ++ List.replicate 56 0 ++
  (List.replicate 32 (fingerprint (leBytes 64 0) ++ [1, 0, 0, 0, 255, 255] ++ List.replicate 10 0)).flatten⟩

/-- The hello of module 1 port 2 that this plan expects on port 0, and the port that trained with it. -/
def hello0 : BitVec 12 × Nat × BitVec 256 × BitVec 512 := (1, 2, 3, 0)
def greeted0 : State := modPort (portIn (withPlan up plan0) 0 2) 0 (fun x => { x with hello := some hello0 })

/-- `PortAuthentication`: with that plan, a signature that is taken meets no fault, where the check takes it. -/
theorem wit_PortAuthentication_2
    (hv : Config.slhVerify256f (leBytes 64 hello0.2.2.2.toNat) (portTranscript greeted0 (0 : Fin 16).val
      (portOf greeted0 (0 : Fin 16).val).nonce hello0) linkContext [] = true) :
    ∃ (pt : Fin 16) (sig : List Byte) (s : State) (h : BitVec 12 × Nat × BitVec 256 × BitVec 512),
      portState s pt.val = 2 ∧ (portOf s pt.val).hello = some h ∧ planFault s pt.val h = none ∧
      Config.slhVerify256f (leBytes 64 h.2.2.2.toNat) (portTranscript s pt.val
          (portOf s pt.val).nonce h) linkContext sig = true :=
  ⟨0, [], greeted0, hello0, by decide +kernel, by decide +kernel, by decide +kernel, hv⟩

/-! ## Ill-formed commands -/

/-- A frame without payload. -/
def frame0 : Frame := { frame1 with payload := [], want := 64 }

theorem test_wf_offset : Instr.wf (.registerWrite 0 2 0) = false ∧ Instr.wf (.pairLoRead 0 1) = false := by decide
theorem test_wf_ticket : Instr.wf (.ticketComplete 0 0 0 (2 ^ 32) 0) = false := by decide
theorem test_wf_plan_length : ∀ b : List Byte, 2 ^ 18 ≤ b.length → Instr.wf (.planLoad 0 (some b)) = false := by
  intro b h
  simp only [Instr.wf, Option.all_some]
  exact decide_eq_false (by omega)
theorem test_wf_page_address : Instr.wf (.tierFaultResolved 0 (2 ^ 52)) = false ∧ Instr.wf (.pageFetchDone 0 (2 ^ 52) ⟨[],
    0⟩) = false ∧
    Instr.wf (.frameWriteDone 0 (2 ^ 52)) = false := by decide
theorem test_wf_lost_twice : Instr.wf (.pageFetchDone 0 0 ⟨[3, 3], 0⟩) = false := by decide
theorem test_wf_buffer_unit : Instr.wf (.sramScrub 0 0 [] [(0, 1835008)] ⟨[], [], []⟩) = false := by decide
theorem test_wf_slot : Instr.wf (.sramScrub 0 0 [] [] ⟨[(0, 0, 2048, 0)], [], []⟩) = false ∧
    Instr.wf (.sramScrub 0 0 [] [] ⟨[(0, 0, 0, 256)], [], []⟩) = false := by decide
theorem test_wf_pool_unit : Instr.wf (.sramScrub 0 0 [] [] ⟨[], [2 ^ 24], []⟩) = false := by decide
theorem test_wf_table : Instr.wf (.sramScrub 0 0 [] [] ⟨[], [], [(0, 0xA0, true)]⟩) = false := by decide
theorem test_wf_contribution : ([.allReduce 0 [⟨[1], []⟩], .reduce 0 [⟨[1], []⟩], .reduceScatter 0 [⟨[1], []⟩],
    .allGather 0 [⟨[1], []⟩],
    .broadcast 0 [⟨[1], []⟩], .seqReduce 0 [⟨[1], []⟩]] : List Instr).all (fun c => !c.wf) = true := by decide
theorem test_wf_chunk : Instr.wf (.chunkArrival ⟨0, frameCe, head1, ⟨2, false, 1, 0, 0, [1], []⟩⟩) = false := by decide
theorem test_wf_engine_frame : ([.joinFrameReceive 0 { frameCe with offset := 1 } 0 ⟨5, 6⟩ 0,
    .collFirstFrame 0 { frameCe with offset := 1 } head1 0 0,
    .chunkArrival ⟨0, { frameCe with offset := 1 }, head1, ⟨3, false, 1, 0, 0, [], []⟩⟩,
    .spinSlotGrant (.take 0 { frameCe with offset := 1 } head1) 0 3] : List Instr).all (fun c => !c.wf) = true := by decide
theorem test_wf_spare : Instr.wf (.carrierReady 15 ⟨1001, false⟩) = false ∧ Instr.wf (.garbageCollection 0 ⟨1001, 0,
    []⟩) = false := by decide
theorem test_wf_flash_twice : Instr.wf (.garbageCollection 0 ⟨20, 0, [(5, 7, 9), (5, 8, 9)]⟩) = false := by decide
theorem test_wf_stacks : Instr.wf (.hbmTrainingDone ⟨0, List.replicate 13 0⟩) = false := by decide
theorem test_wf_transfer : Instr.wf (.transferLanded 0 0 (List.replicate 4097 0) false) = false := by decide +kernel
theorem test_wf_pages_twice : Instr.wf (.hbmRow 0 0 true [(0, 5), (0, 5)]) = false := by decide
theorem test_wf_unit_twice : Instr.wf (.frayEvaluate [⟨0, 1, 1⟩, ⟨0, 2, 1⟩]) = false := by decide
theorem test_wf_signature : Instr.wf (.authSignature 0 [1]) = false := by decide
theorem test_wf_credit : Instr.wf (.creditReturn 0 0 0) = false ∧ Instr.wf (.creditReturn 0 0 257) = false := by decide
theorem test_wf_frame : ([.frameWrite 0 { frame1 with payload := [1] }, .frameReadResponse 0 { frame1 with offset := 1 },
    .frameRefusal 0 { frame1 with payload := [1] } 0, .frameAcknowledgement 0 { frame1 with offset := 32 },
    .remotePegAddFrame 0 { frame1 with payload := [1] } 0 0 0] : List Instr).all (fun c => !c.wf) = true := by decide
theorem test_wf_payload : Instr.wf (.frameWrite 0 { frame1 with payload := List.replicate 4160 0 }) = false := by decide +kernel
theorem test_wf_read_request : Instr.wf (.frameReadRequest 0 frame1) = false ∧ Instr.wf
    (.frameReadRequest 0 { frame0 with want := 0 }) = false ∧
    Instr.wf (.frameReadRequest 0 { frame0 with want := 4097 }) = false ∧ Instr.wf
        (.frameReadRequest 0 frame0) = true := by decide +kernel
theorem test_wf_jobs : Instr.wf (.jobListReceive 0 [7, 7]) = false ∧
    Instr.wf (.jobListReceive 0 ((List.range 513).map (BitVec.ofNat 32))) = false :=
  ⟨by decide, by simp [Instr.wf]⟩
theorem test_wf_cap : Instr.wf (.powerCapBroadcast 0 0 0 35 0) = false ∧ Instr.wf
    (.powerCapBroadcast 0 0 0 73 0) = false := by decide
theorem test_wf_hops : Instr.wf (.syncFrame 0 ⟨0, 10, 20, 30, 0, 1, 32, 0, true, true⟩) = false := by decide
theorem test_wf_link : Instr.wf (.pcieLinkUp 3 16 true) = false ∧ Instr.wf (.pcieLinkUp 7 16 true) = false ∧
    Instr.wf (.pcieLinkUp 6 0 true) = false ∧ Instr.wf (.pcieLinkUp 6 17 true) = false := by decide
theorem test_wf_sample : Instr.wf (.powerSample { sample1 with temps := [] }) = false ∧
    Instr.wf (.powerSample { sample1 with stackTemps := [] }) = false ∧ Instr.wf
        (.powerSample { sample1 with rates := [] }) = false ∧
    Instr.wf (.powerSample { sample1 with energies := [] }) = false ∧ Instr.wf
        (.powerSample { sample1 with monitors := [] }) = false ∧
    Instr.wf (.powerSample { sample1 with temps := List.replicate 17 128 }) = false ∧
    Instr.wf (.powerSample { sample1 with stackTemps := List.replicate 12 (-129) }) = false := by decide
theorem test_wf_eeprom : Instr.wf (.i2cEepromWrite true 0 []) = false ∧ Instr.wf (.i2cEepromWrite true 65535 [1,
    2]) = false := by decide
theorem test_wf_boot_record : Instr.wf (.bootInputsFetched none (some [1]) none) = false := by decide
theorem test_wf_boot_plan : ∀ b : List Byte, 2 ^ 18 ≤ b.length → Instr.wf (.bootInputsFetched none none (some b)) = false := by
  intro b h
  simp only [Instr.wf, Option.all_some, Option.all_none, Bool.true_and]
  exact decide_eq_false (by omega)
theorem test_wf_bar4 : Instr.wf (.bar4Read 0 0 0) = false ∧ Instr.wf (.bar4Read 0 (2 ^ 40) 1) = false ∧
    Instr.wf (.bar4Write 0 0 [] false) = false ∧ Instr.wf (.bar4Write 0 (2 ^ 40) [1] false) = false := by decide
theorem test_wf_boot_image : ∀ b : List Byte, 2 ^ 26 < b.length → Instr.wf (.bootInputsFetched (some b) none none) = false := by
  intro b h
  simp only [Instr.wf, Option.all_some, Option.all_none, Bool.and_true]
  exact decide_eq_false (by omega)

/-! ## Single steps

What each is expected to give is computed by hand from the rule that it names. -/

/-- The table gives no row any bits. -/
theorem test_decode_none : decodeTableWord 32 5 = none := rfl

/-- `step` takes the front command: the link goes down, and the rest of the queue stays. -/
theorem test_step_front : (match step { up with pending := [.pcieLinkDown, .nop 0] } with
    | .next t => decide (t.pending = [.nop 0]) && !t.hp.linkUp
    | _ => false) = true := by decide +kernel

/-- FIPS 202: SHAKE256 of the empty message begins 46 B9 DD 2B. -/
theorem test_shake_empty : shake256 4 [] = [0x46, 0xB9, 0xDD, 0x2B] := by decide +kernel

/-- IEEE 802.3: the CRC-32 of "123456789" is CBF43926. -/
theorem test_crc32 : crc32 ("123456789".toList.map (fun c => BitVec.ofNat 8 c.toNat)) = 0xCBF43926 := by decide +kernel

/-- FIPS 197, C.3: AES-256 of the example block under the example key. -/
theorem test_aes : aesEnc (roundKeys (natBytes (List.range 32))) (natBytes ((List.range 16).map (17 * ·))) =
    natBytes [0x8E, 0xA2, 0xB7, 0xCA, 0x51, 0x67, 0x45, 0xBF, 0xEA, 0xFC, 0x49, 0x90, 0x4B, 0x49, 0x60, 0x89] := by decide +kernel

/-- `aesDec` undoes it. -/
theorem test_aes_back : aesDec (roundKeys (natBytes (List.range 32)))
    (natBytes [0x8E, 0xA2, 0xB7, 0xCA, 0x51, 0x67, 0x45, 0xBF, 0xEA, 0xFC, 0x49, 0x90, 0x4B, 0x49, 0x60, 0x89]) =
    natBytes ((List.range 16).map (17 * ·)) := by decide +kernel

/-- 14 R448, worked example: a wear of 0.75 after two years leaves 2,346 days. -/
theorem test_power_days : powerDays (730 * 24) 750000 = some 2346 := by decide +kernel

/-- 01 R38: PEG_ADD of 2 to the largest value wraps to 1. -/
theorem test_peg_add_wraps : pegOf (after (.pegAdd 0) (setPeg (issue up 0x0A01 [(16, 4095), (24,
    2)]) 0 4095 0xFFFFFFFFFFFFFFFF)) 0 4095 = 1 := by
  decide +kernel

/-- 02 R63, worked example: FP32 0x40490FDB is 0x4049 in BF16. R60's nearest E4M3 value is 3.25, 0x45
    (notes/assumptions/121.md). -/
theorem test_pi_rounds : bf16.encode .rne (fp32.decode 0x40490FDB) = (0x4049, false) ∧
    e4m3.encode .rne (fp32.decode 0x40490FDB) = (0x45, false) := by decide +kernel

/-- 02 R63, worked example: 300 is 0x79 in E4M3 and 0x5D in E5M2; 450 gives 448 and sets nothing; 1,000 under RTZ saturates. -/
theorem test_saturation : e4m3.encode .rne (.fin false 300) = (0x79, false) ∧ e5m2.encode .rne (.fin false 300) = (0x5D, false) ∧
    e4m3.encode .rne (.fin false 450) = (0x7E, false) ∧ e4m3.encode .rtz (.fin false 1000) = (0x7E, true) := by decide +kernel

/-- 02 R59, worked example: keys from −0.3 to 0.3 have the envelope 0xAA to 0x2A. -/
theorem test_envelope : envLo (.fin true (3 / 10)) = 0xAA ∧ envHi (.fin false (3 / 10)) = 0x2A := by decide +kernel

/-- 02 R71, worked example: 1.5, 0.40625 and −0.75 under WS32 have the wire bytes 7F, 7D and 7E, and with 7F add to 0x25000. -/
theorem test_ws32 : ([0x3FC0, 0x3ED0, 0xBF40].map (fun x => wsByte [bf16.decode x])) = [0x7F, 0x7D, 0x7E] ∧
    ([0x3FC0, 0x3ED0, 0xBF40].map (fun x => wsInt 0xC1 0x7F (bf16.decode x))).sum = 0x25000 := by decide +kernel

/-- 06 R176, worked example: a K4 group whose largest magnitude is 2.9 has the scale 0x2E, and 2.9 and −1.0 become 7 and −2. -/
theorem test_k4_group : ((kvGroup 4 .rne ([.fin false (29 / 10), .fin true 1] ++ List.replicate 30
    (.fin false 0))).1.take 2).map (fun c => c.1) = [7, -2] ∧
    (kvGroup 4 .rne ([.fin false (29 / 10), .fin true 1] ++ List.replicate 30 (.fin false 0))).2.1 = 0x2E := by decide +kernel

/-- 13 R413, worked example: slot 18 of rack 38 reads 0xC4D204D2. -/
theorem test_straps : rreg (after (.strapsDone 0x04D2) (bootAt 0)) rStraps = 0xC4D204D2 := by decide +kernel

end Sys2Proof.Tests
end

namespace Sys2Proof.Machine

/-! ## Rows that ask a condition, and the bits of a number -/

section
variable {s : State}

/-- A row whose condition holds answers its state. -/
theorem runIf_of_true {b : Bool} {t : State} (h : b = true) : runIf s b t = .next t := by simp [runIf, h]

theorem bitOf_eq_testBit (v i : Nat) : bitOf v i = v.testBit i := by
  simp [bitOf, bitsOf, Nat.testBit_eq_decide_div_mod_eq, beq_eq_decide]

theorem testBit_bitsOf (v lo len i : Nat) : (bitsOf v lo len).testBit i = (decide (i < len) && v.testBit (lo + i)) := by
  simp [bitsOf, Nat.testBit_div_two_pow, Nat.add_comm]

/-- A number by the part above bit lo + len, the field between and the part below bit lo. -/
theorem three_parts (x lo len : Nat) :
    x = 2 ^ lo * (2 ^ len * (x / 2 ^ lo / 2 ^ len) + bitsOf x lo len) + x % 2 ^ lo := by
  rw [bitsOf, Nat.div_add_mod, Nat.div_add_mod]

/-- `putBits` writes the bits of its field and leaves the others. -/
theorem testBit_putBits (w : Word) (lo len v : Nat) {i : Nat} (hi : i < 32) :
    (putBits w lo len v).toNat.testBit i =
      if lo ≤ i ∧ i < lo + len then v.testBit (i - lo) else w.toNat.testBit i := by
  have hparts := three_parts w.toNat lo len
  generalize w.toNat / 2 ^ lo / 2 ^ len = top at hparts
  have hval : w.toNat - bitsOf w.toNat lo len * 2 ^ lo + v % 2 ^ len * 2 ^ lo =
      2 ^ lo * (2 ^ len * top + v % 2 ^ len) + w.toNat % 2 ^ lo := by
    rw [Nat.mul_add] at hparts ⊢
    have e1 := Nat.mul_comm (2 ^ lo) (bitsOf w.toNat lo len)
    have e2 := Nat.mul_comm (2 ^ lo) (v % 2 ^ len)
    omega
  have hlow : w.toNat % 2 ^ lo < 2 ^ lo := Nat.mod_lt _ (Nat.two_pow_pos lo)
  have hnew : v % 2 ^ len < 2 ^ len := Nat.mod_lt _ (Nat.two_pow_pos len)
  have hold : bitsOf w.toNat lo len < 2 ^ len := Nat.mod_lt _ (Nat.two_pow_pos len)
  have hw : w.toNat.testBit i = (2 ^ lo * (2 ^ len * top + bitsOf w.toNat lo len) + w.toNat % 2 ^ lo).testBit i := by
    rw [← hparts]
  rw [putBits, BitVec.toNat_ofNat, Nat.testBit_mod_two_pow, hval, hw]
  simp only [Nat.testBit_two_pow_mul_add _ hlow, Nat.testBit_two_pow_mul_add _ hnew, Nat.testBit_two_pow_mul_add _ hold,
    Nat.testBit_mod_two_pow, hi, decide_true, Bool.true_and]
  by_cases h1 : i < lo
  · simp [h1, Nat.not_le.mpr h1]
  · by_cases h2 : i - lo < len
    · simp [h1, h2, Nat.not_lt.mp h1, show i < lo + len by omega]
    · simp [h1, h2, show ¬ i < lo + len by omega]

/-- A field written leaves every field apart from it. -/
theorem rfield_wfield_apart (s : State) (o : Nat) {lo len v lo' len' : Nat} (h : lo' + len' ≤ lo ∨ lo + len ≤ lo')
    (h32 : lo' + len' ≤ 32) : rfield (wfield s o lo len v) o lo' len' = rfield s o lo' len' := by
  simp only [rfield, wfield, rreg_wreg_same]
  refine Nat.eq_of_testBit_eq (fun i => ?_)
  rw [testBit_bitsOf, testBit_bitsOf]
  by_cases hi : i < len'
  · rw [testBit_putBits _ _ _ _ (by omega), if_neg (by omega)]
  · simp [hi]

/-- A register written leaves every field of another one. -/
theorem rfield_wreg_ne {o p : Nat} (h : p ≠ o) (w : Word) (lo len : Nat) : rfield (wreg s o w) p lo len = rfield s p lo len := by
  simp [rfield, rreg_wreg_ne h]

end

/-! ## Stain bits -/

section
variable (s : State) (o b : Nat)

/-- A Stain bit that is 1 stays, and nothing changes. -/
theorem setStain_of_set (h : bitOf (rreg s o).toNat b = true) : setStain s o b = s := by simp [setStain, h]

/-- A Stain bit that was 0 enters its register by an or. -/
theorem regs_setStain_of_clear (h : ¬ bitOf (rreg s o).toNat b = true) :
    (setStain s o b).regs = (wreg s o (rreg s o ||| BitVec.ofNat 32 (2 ^ b))).regs := by
  unfold setStain
  rw [if_neg h]
  dsimp only
  split
  · rfl
  · split <;> rfl

theorem otherRegs_setStain : OtherRegs [o] s (setStain s o b) := by
  by_cases h : bitOf (rreg s o).toNat b = true
  · rw [setStain_of_set s o b h]
    exact fun _ _ => rfl
  · intro p hp
    rw [rreg_congr (regs_setStain_of_clear s o b h), otherRegs_wreg s o _ p hp]

/-- A Stain bit that is set reads 1. -/
theorem bitOf_setStain (hb : b < 32) : bitOf (rreg (setStain s o b) o).toNat b = true := by
  by_cases h : bitOf (rreg s o).toNat b = true
  · rwa [setStain_of_set s o b h]
  · have hpow : 2 ^ b < 2 ^ 32 := Nat.pow_lt_pow_right (by decide) hb
    rw [rreg_congr (regs_setStain_of_clear s o b h), rreg_wreg_same, bitOf_eq_testBit, BitVec.toNat_or, Nat.testBit_or,
      BitVec.toNat_ofNat, Nat.mod_eq_of_lt hpow, Nat.testBit_two_pow_self, Bool.or_true]

end

/-! ## TC_BOOT_STATUS: a boot step's outcome, a failed check, ports that go dark -/

section
variable (s : State) (code detail st : Nat)

/-- The write of the three fields of TC_BOOT_STATUS with which a check and GO give the boot its next state (13 R412, R420). -/
def bootOutcome (s : State) (code detail st : Nat) : State :=
  setBoot (wfield (wfield s rBootStatus 16 8 code) rBootStatus 0 16 detail) st

theorem bootError_eq : bootError s code detail st = setStain (bootOutcome s code (sat 65535 detail) st) rTcStain 2 := rfl

theorem bootState_setBoot : bootState (setBoot s st) = st % 16 := rfield_wfield_same s rBootStatus (by decide)

theorem setBoot_only : OnlyParts [.regs] s (setBoot s st) := wfield_only s _ _ _ _

theorem otherRegs_setBoot : OtherRegs [rBootStatus] s (setBoot s st) := otherRegs_wfield s _ _ _ _

theorem bootState_bootOutcome : bootState (bootOutcome s code detail st) = st % 16 := bootState_setBoot _ _

theorem error_bootOutcome : rfield (bootOutcome s code detail st) rBootStatus 16 8 = code % 2 ^ 8 := by
  rw [bootOutcome, setBoot, rfield_wfield_apart _ _ (by omega) (by omega), rfield_wfield_apart _ _ (by omega) (by omega),
    rfield_wfield_same _ _ (by omega)]

theorem detail_bootOutcome : rfield (bootOutcome s code detail st) rBootStatus 0 16 = detail % 2 ^ 16 := by
  rw [bootOutcome, setBoot, rfield_wfield_apart _ _ (by omega) (by omega), rfield_wfield_same _ _ (by omega)]

theorem otherRegs_bootOutcome : OtherRegs [rBootStatus] s (bootOutcome s code detail st) :=
  ((otherRegs_wfield s _ _ _ _).trans (otherRegs_wfield _ _ _ _ _)).trans (otherRegs_setBoot _ _)

theorem bootOutcome_only : OnlyParts [.regs] s (bootOutcome s code detail st) :=
  ((wfield_only s _ _ _ _).trans (wfield_only _ _ _ _ _)).trans (setBoot_only _ _)

/-- A failed check leaves in TC_BOOT_STATUS what `bootOutcome` wrote: its Stain bit lies in another register. -/
theorem rfield_bootError (lo len : Nat) :
    rfield (bootError s code detail st) rBootStatus lo len =
      rfield (bootOutcome s code (sat 65535 detail) st) rBootStatus lo len := by
  rw [bootError_eq, rfield, otherRegs_setStain _ _ _ _ (by decide), rfield]

theorem bootState_bootError : bootState (bootError s code detail st) = st % 16 :=
  (rfield_bootError s _ _ _ _ _).trans (bootState_bootOutcome _ _ _ _)

theorem error_bootError : rfield (bootError s code detail st) rBootStatus 16 8 = code % 2 ^ 8 :=
  (rfield_bootError s _ _ _ _ _).trans (error_bootOutcome _ _ _ _)

/-- DETAIL saturates, so its 16 bits hold it. -/
theorem detail_bootError : rfield (bootError s code detail st) rBootStatus 0 16 = sat 65535 detail := by
  rw [rfield_bootError, detail_bootOutcome, sat]
  split <;> omega

/-- A failed check sets BOOT_FAILED. -/
theorem bootFailed_bootError : bitOf (rreg (bootError s code detail st) rTcStain).toNat 2 = true :=
  bitOf_setStain _ _ _ (by decide)

theorem bootError_only : OnlyParts [.regs, .log] s (bootError s code detail st) :=
  ((bootOutcome_only s _ _ _).mono (by simp)).trans (setStain_only _ _ _)

theorem setPortState_only (pt reason : Nat) : OnlyParts [.regs] s (setPortState s pt st reason) :=
  (wfield_only s _ _ _ _).trans (wfield_only _ _ _ _ _)

theorem otherRegs_setPortState (pt reason : Nat) : OtherRegs [rPort pt] s (setPortState s pt st reason) :=
  (otherRegs_wfield s _ _ _ _).trans (otherRegs_wfield _ _ _ _ _)

/-- A fold keeps a register that each of its steps keeps. -/
theorem rreg_foldl {α : Type} {f : State → α → State} {o : Nat} (h : ∀ t x, rreg (f t x) o = rreg t o)
    (l : List α) (s : State) : rreg (l.foldl f s) o = rreg s o := by
  induction l generalizing s with
  | nil => rfl
  | cons x l ih => exact (ih (f s x)).trans (h s x)

/-- Ports that go dark change no register below theirs. -/
theorem rreg_portsDark {o : Nat} (h : o < rPort 0) : rreg (portsDark s) o = rreg s o := by
  have hport (pt : Nat) : o ∉ [rPort pt] := by
    simp only [rPort, List.mem_singleton] at h ⊢
    omega
  refine (rreg_foldl (fun t pt => ?_) _ _).trans (rreg_congr rfl o)
  rw [rreg_congr (setPort_regs _ _ _), otherRegs_setPortState t 0 pt 0 o (hport pt)]

theorem rfield_portsDark {o : Nat} (h : o < rPort 0) (lo len : Nat) : rfield (portsDark s) o lo len = rfield s o lo len := by
  rw [rfield, rreg_portsDark s h, rfield]

theorem portsDark_only : OnlyParts [.regs, .ports, .boot] s (portsDark s) := by
  have hboot : OnlyParts [.regs, .ports, .boot] s { s with boot := { s.boot with litAt := none } } := fun p hp => by
    cases p <;> simp_all [Part.same]
  refine hboot.trans (OnlyParts.foldl (fun t pt => ?_) _ _)
  exact ((setPortState_only t 0 pt 0).mono (by simp)).trans ((setPort_only _ _ _).mono (by simp))

end

/-! ## BOOT_START, STRAPS_DONE and GO -/

section
variable {s : State}

/-- BOOT_START with power good and the reset asserted lets the boot run from Stitch time 0. -/
theorem exec_bootStart (hgood : s.pw.pwrGood = true) (hrst : s.pw.perst = true) :
    exec .bootStart s = .next { s with now := 0, pw := { s.pw with perst := false } } :=
  runIf_of_true (by simp [hgood, hrst])

theorem exec_strapsDone_odd {raw : BitVec 13} (hb : booting s = true) (h0 : bootState s = 0)
    (hodd : ((List.range 13).filter (raw.getLsbD ·)).length % 2 = 1) :
    exec (.strapsDone raw) s = .next (setBoot (wreg s rStraps
      (BitVec.ofNat 32 (3 * 2 ^ 30 + raw.toNat % 4096 * 2 ^ 16 + raw.toNat))) 1) := by
  show execStrapsDone raw s = _
  rw [execStrapsDone, runIf_of_true (by simp [hb, h0])]
  simp [hodd]

theorem exec_strapsDone_even {raw : BitVec 13} (hb : booting s = true) (h0 : bootState s = 0)
    (heven : ((List.range 13).filter (raw.getLsbD ·)).length % 2 = 0) :
    exec (.strapsDone raw) s = .next (portsDark (bootError (wreg s rStraps (BitVec.ofNat 32 (2 ^ 31 + raw.toNat)))
      1 raw.toNat 9)) := by
  show execStrapsDone raw s = _
  rw [execStrapsDone, runIf_of_true (by simp [hb, h0])]
  simp [heven]

theorem exec_go_wait {v : Word} (hb : booting s = true) (h1 : bootState s = 1) :
    exec (.go v) s = .next (bootOutcome (wreg s rBootCtrl (v &&& 2)) 0 0 2) := by
  show execGo v s = _
  rw [execGo, runIf_of_true hb, if_pos h1, bootOutcome]

/-- TC_STRAPS as 13 strap bits n of odd parity leave it holds under VALID and the parity flag the module number. -/
theorem strapsWord_module {n : Nat} (h : n < 2 ^ 13) :
    bitsOf (BitVec.ofNat 32 (3 * 2 ^ 30 + n % 4096 * 2 ^ 16 + n)).toNat 16 12 = n % 4096 := by
  have hlt : 3 * 2 ^ 30 + n % 4096 * 2 ^ 16 + n < 2 ^ 32 := by omega
  have hdiv : (3 * 2 ^ 30 + n % 4096 * 2 ^ 16 + n) / 2 ^ 16 = 3 * 2 ^ 14 + n % 4096 := by omega
  rw [bitsOf, BitVec.toNat_ofNat, Nat.mod_eq_of_lt hlt, hdiv]
  omega

/-- TC_STRAPS holds the strap bits as they were read. -/
theorem strapsWord_raw {n : Nat} (h : n < 2 ^ 13) :
    bitsOf (BitVec.ofNat 32 (3 * 2 ^ 30 + n % 4096 * 2 ^ 16 + n)).toNat 0 13 = n := by
  rw [bitsOf, BitVec.toNat_ofNat]
  omega

end

/-- Settles O24: each row's condition holds, and its state is made of register writes whose fields read back. -/
theorem bootStraps : Obligations.BootStraps := by
  refine ⟨?bootStart, ?odd, ?even, ?go⟩
  case bootStart =>
    intro s hgood hrst
    refine ⟨_, exec_bootStart hgood hrst, by simp [booting, hgood], rfl, fun p hp => ?_⟩
    cases p <;> simp_all [Part.same]
  case odd =>
    intro raw s hb h0 hodd
    have hstraps (w : Word) (lo len : Nat) : rfield (setBoot (wreg s rStraps w) 1) rStraps lo len = bitsOf w.toNat lo len := by
      rw [setBoot, wfield, rfield_wreg_ne (by decide), rfield, rreg_wreg_same]
    exact ⟨_, exec_strapsDone_odd hb h0 hodd, bootState_setBoot _ _,
      (hstraps _ _ _).trans (strapsWord_module raw.isLt), (hstraps _ _ _).trans (strapsWord_raw raw.isLt),
      ((otherRegs_wreg s _ _).mono (by simp)).trans ((otherRegs_setBoot _ _).mono (by simp)),
      (wreg_only s _ _).trans (setBoot_only _ _)⟩
  case even =>
    intro raw s hb h0 heven
    have hraw : sat 65535 raw.toNat = raw.toNat := if_pos (by have := raw.isLt; omega)
    have hstatus : rBootStatus < rPort 0 := by decide
    exact ⟨_, exec_strapsDone_even hb h0 heven, (rfield_portsDark _ hstatus _ _).trans (bootState_bootError _ _ _ _),
      (rfield_portsDark _ hstatus _ _).trans (error_bootError _ _ _ _),
      ((rfield_portsDark _ hstatus _ _).trans (detail_bootError _ _ _ _)).trans hraw,
      by rw [rreg_portsDark _ (by decide), bootFailed_bootError],
      (((wreg_only s _ _).mono (by simp)).trans ((bootError_only _ _ _ _).mono (by simp))).trans
        ((portsDark_only _).mono (by simp))⟩
  case go =>
    intro v s hb h1
    exact ⟨_, exec_go_wait hb h1, bootState_bootOutcome _ _ _ _, error_bootOutcome _ _ _ _, detail_bootOutcome _ _ _ _,
      by rw [otherRegs_bootOutcome _ _ _ _ _ (by decide), rreg_wreg_same],
      ((otherRegs_wreg s _ _).mono (by simp)).trans ((otherRegs_bootOutcome _ _ _ _).mono (by simp)),
      (wreg_only s _ _).trans (bootOutcome_only _ _ _ _)⟩

/-! ## Whole-module resets -/

section
variable (k : ResetKind) (s : State)

/-- A register that the reset's kind keeps reads as before, every other one its reset value. -/
theorem rreg_resetModule (off : Nat) :
    rreg (resetModule k s) off = if keepsReg k off then rreg s off else regReset off := by
  show tget regReset (s.regs.filter (fun e => keepsReg k e.1)) off = _
  split
  · next h => exact tget_filter (fun e _ he => by rw [he, h])
  · next h => exact tget_of_not_mem (fun e he hk => h (hk ▸ (List.mem_filter.mp he).2))

theorem rreg_resetModule_kept {off : Nat} (h : keepsReg k off = true) : rreg (resetModule k s) off = rreg s off := by
  rw [rreg_resetModule, if_pos h]

theorem rreg_resetModule_cleared {off : Nat} (h : keepsReg k off = false) : rreg (resetModule k s) off = regReset off := by
  rw [rreg_resetModule, if_neg (by simp [h])]

/-- After a reset of any kind the boot stands in STRAPS. -/
theorem bootState_resetModule : bootState (resetModule k s) = 0 := by
  have h : keepsReg k rBootStatus = false := by cases k <;> decide
  rw [bootState, rfield, rreg_resetModule_cleared k s h]
  decide

theorem regs_resetModule_cold : (resetModule .cold s).regs = [] := by simp [resetModule, keepsReg]

theorem keepsReg_command_iff (off : Nat) : keepsReg .command off = true ↔
    (stainAt off).isSome = true ∨ off = rLink ∨ off = rGrace ∨ rPartCfg 0 ≤ off ∧ off < rPartCfg 8 := by
  simp [keepsReg, or_assoc]

/-- A reset of any kind clears the counts, the descriptors, the objects and every byte. That a byte then reads 0,
in the core buffers too, is the model's choice (notes/assumptions/3.md, 58.md). -/
theorem resetModule_clears : (resetModule k s).counts = [] ∧ (resetModule k s).hp.jobs = [] ∧
    (resetModule k s).tm.objs = [] ∧ ∀ p a, byteAt (resetModule k s) p a = 0 :=
  ⟨rfl, by cases k <;> rfl, rfl, fun _ _ => rfl⟩

/-- A reset of any kind keeps the fuses, the EEPROM and what the Deep carrier holds (notes/assumptions/7.md). -/
theorem resetModule_keeps : (resetModule k s).boot = { State.reset.boot with fuseSvn := s.boot.fuseSvn } ∧
    (resetModule k s).pw.eeprom = s.pw.eeprom ∧ (resetModule k s).tm.ckpts = s.tm.ckpts ∧
    (resetModule k s).tm.deep = s.tm.deep :=
  ⟨rfl, rfl, rfl, rfl⟩

end

section
variable {s : State}

theorem exec_coldReset (s : State) : exec (.coldReset false) s = .next { resetModule .cold s with
    pw := { (resetModule .cold s).pw with pwrEn := true, pwrGood := true, perst := true } } := rfl

theorem exec_perstAssert (hb : booting s = true) : exec .perstAssert s = .next { resetModule .warm s with
    pw := { (resetModule .warm s).pw with perst := true } } := runIf_of_true hb

theorem exec_moduleResetCommand {v : Word} (hb : booting s = true) (h9 : bootState s ≠ 9)
    (hv : bitsOf v.toNat 0 16 = 0xD1A5) : exec (.moduleResetCommand v) s = .next (resetModule .command s) :=
  runIf_of_true (by simp [hb, h9, hv])

end

/-- Settles O21: each of the three is `resetModule` of its kind, which keeps the registers that `keepsReg` names
(00 R8, 01 R24). What a byte reads after it is the model's choice (notes/assumptions/3.md, 58.md). -/
theorem whatEachResetKeeps : Obligations.WhatEachResetKeeps := by
  refine ⟨?cold, ?warm, ?command⟩
  case cold =>
    intro s
    obtain ⟨hcounts, hjobs, hobjs, hbytes⟩ := resetModule_clears .cold s
    obtain ⟨hboot, heeprom, hckpts, hdeep⟩ := resetModule_keeps .cold s
    exact ⟨_, exec_coldReset s, regs_resetModule_cold s, hcounts, hjobs, hobjs, hbytes, hboot, heeprom, hckpts, hdeep, rfl, rfl,
      bootState_resetModule .cold s⟩
  case warm =>
    intro s hb
    obtain ⟨hcounts, hjobs, hobjs, hbytes⟩ := resetModule_clears .warm s
    obtain ⟨hboot, heeprom, hckpts, hdeep⟩ := resetModule_keeps .warm s
    exact ⟨_, exec_perstAssert hb, fun _ h => rreg_resetModule_kept .warm s h,
      fun _ h => rreg_resetModule_cleared .warm s (by simp [keepsReg, h]), hcounts, hjobs, hobjs, hbytes, hboot, heeprom, hckpts,
      hdeep, rfl, by simp [booting]⟩
  case command =>
    intro v s hb h9 hv
    obtain ⟨hcounts, hjobs, hobjs, hbytes⟩ := resetModule_clears .command s
    obtain ⟨hboot, heeprom, hckpts, hdeep⟩ := resetModule_keeps .command s
    refine ⟨_, exec_moduleResetCommand hb h9 hv, fun off h => rreg_resetModule_kept .command s ((keepsReg_command_iff off).mpr h),
      fun off hst hlink hgrace hcfg => rreg_resetModule_cleared .command s ?_, hcounts, hjobs, hobjs, hbytes, hboot, heeprom,
      bootState_resetModule .command s, hb, hckpts, hdeep, rfl, rfl⟩
    rw [← Bool.not_eq_true, keepsReg_command_iff]
    simp [hst, hlink, hgrace]
    omega

/-! ## Reads of a 64-bit pair -/

section
variable {s : State}

/-- Function f's latch for the pair at o of the PF's BAR0 holds w (00 R5). -/
def latchHigh (s : State) (f o : Nat) (w : Word) : State :=
  { s with hp := { s.hp with latches := tset (fun _ => none) s.hp.latches (f * 2 ^ 32 + o) (some w) } }

theorem latchHigh_only (s : State) (f o : Nat) (w : Word) : OnlyParts [.latches] s (latchHigh s f o w) := fun p hp => by
  cases p <;> simp_all [Part.same, latchHigh]

@[simp] theorem latchHigh_latches (s : State) (f o : Nat) (w : Word) :
    (latchHigh s f o w).hp.latches = tset (fun _ => none) s.hp.latches (f * 2 ^ 32 + o) (some w) := rfl

theorem exec_pairLoRead {f : Fin 9} {off : Word} {o : Nat} (hr : ready s = true) (hb : booting s = true)
    (ho : barOffset s f.val off.toNat = some o) (hp : isPairLo o = true) :
    exec (.pairLoRead f off) s = .next (emit (latchHigh s f.val o (wordOf ((pairValue s o).toNat / 2 ^ 32)))
      (.regData f.val off.toNat (wordOf ((pairValue s o).toNat % 2 ^ 32)))) := by
  show execPairLoRead f off s = _
  simp [execPairLoRead, ho, hp, hb, hr, latchHigh]

end

/-- Settles O19: the read latches the pair's high half under the function's key and emits its low half. -/
theorem pairReadsLatchHigh : Obligations.PairReadsLatchHigh := by
  intro f off s o hr hb ho hp
  refine ⟨_, exec_pairLoRead hr hb ho hp, rfl, ?_, fun k hk => ?_, ?_⟩
  · rw [emit_hp, latchHigh_latches, tget_tset_same, wordOf]
  · rw [emit_hp, latchHigh_latches, tget_tset_ne hk]
  · exact ((latchHigh_only s _ _ _).mono (by simp)).trans ((emit_only _ _).mono (by simp))

/-! ## Writes to Stain registers -/

/-- What `inst` finds is below the number of registers and gives the offset. -/
theorem inst_eq_some {base stride n off i : Nat} (h : inst base stride n off = some i) : i < n ∧ off = base + i * stride := by
  unfold inst at h
  split at h
  · next hin =>
    obtain ⟨hle, hlt, hmod⟩ := hin
    cases h
    have hmul : (off - base) / stride * stride = off - base := Nat.div_mul_cancel (Nat.dvd_of_mod_eq_zero hmod)
    refine ⟨Nat.div_lt_of_lt_mul ?_, by omega⟩
    rw [Nat.mul_comm]
    omega
  · cases h

/-- Off the offsets of n strided registers `inst` finds none. -/
theorem inst_eq_none {r : Nat → Nat} {k n off : Nat} (hr : ∀ c, r c = r 0 + c * k) (hne : ∀ c, c < n → ¬ r c = off) :
    inst (r 0) k n off = none := by
  rw [Option.eq_none_iff_forall_ne_some]
  intro c hc
  obtain ⟨hcn, hoff⟩ := inst_eq_some hc
  exact hne c hcn ((hr c).trans hoff.symm)

/-- `stainRegs` lists every offset at which `stainAt` finds a Stain register. -/
theorem mem_stainRegs {off : Nat} (h : (stainAt off).isSome = true) : off ∈ stainRegs := by
  by_contra hn
  simp only [stainRegs, List.mem_append, List.mem_cons, List.not_mem_nil, or_false, List.mem_map, List.mem_range, not_or,
    not_exists, not_and] at hn
  obtain ⟨⟨⟨⟨⟨⟨⟨hhp, hdt, htm, hkv, hse, hce, htc, hpw, hob⟩, hmx⟩, hfn⟩, hpr⟩, hsc⟩, hhm⟩, hol⟩ := hn
  have emx := inst_eq_none (r := rMxStain) (k := 0x2000) (n := 64) (fun c => by simp [rMxStain]) hmx
  have efn := inst_eq_none (r := rFnStain) (k := 0x10) (n := 64) (fun c => by simp [rFnStain]) hfn
  have epr := inst_eq_none (r := rPrStain) (k := 0x10) (n := 64) (fun c => by simp [rPrStain]) hpr
  have esc := inst_eq_none (r := rScStain) (k := 0x10) (n := 8) (fun c => by simp [rScStain]) hsc
  have ehm := inst_eq_none (r := rHmStain) (k := 0x10000) (n := 12) (fun c => by simp [rHmStain]) hhm
  have eol := inst_eq_none (r := rOlStain) (k := 0x10000) (n := 16) (fun c => by simp [rOlStain]) hol
  simp [stainAt, hhp, hdt, htm, hkv, hse, hce, htc, hpw, hob, emx, efn, epr, esc, ehm, eol] at h

/-- A write at offset o of the PF's BAR0 has no effect but that of the field rules of 00 R6, and no field there is RW. -/
def onlyW1c (o : Nat) : Bool :=
  o % 4 == 0 && decide (o < 2 ^ 26) && regRw o == 0 &&
  (o == rHpStain || decide (rBootStatus ≤ o) && !([rBootCtrl, rModuleReset, rPwrCap, rLagCfg, rTagCfg, rLogCtrl].contains o) &&
    inst (rPoolCfg 0) 0x10 8 o == none && inst (rPort 0 + 4) 0x10000 16 o == none)

theorem onlyW1c_stainRegs : ∀ o ∈ stainRegs, onlyW1c o = true := by decide +kernel

theorem onlyW1c_iff (o : Nat) : onlyW1c o = true ↔ o % 4 = 0 ∧ o < 2 ^ 26 ∧ regRw o = 0 ∧
    (o = rHpStain ∨ rBootStatus ≤ o ∧ o ∉ [rBootCtrl, rModuleReset, rPwrCap, rLagCfg, rTagCfg, rLogCtrl] ∧
      inst (rPoolCfg 0) 0x10 8 o = none ∧ inst (rPort 0 + 4) 0x10000 16 o = none) := by
  simp [onlyW1c, and_assoc]

section
variable {s : State}

theorem hpWrite_stain (v : Word) (hr : ready s = true) : hpWrite 0 rHpStain v s = plainWrite s rHpStain v := by
  have hcfg : inst (rPartCfg 0) 0x10 8 rHpStain = none := by decide
  have hctrl : inst (rPartCtrl 0) 0x10 8 rHpStain = none := by decide
  have hring : ¬ (rRing 0 ≤ rHpStain ∧ rHpStain < rRing 512) := by decide
  have hpeg : ¬ rPeg 0 0 ≤ rHpStain := by decide
  have hmsix : ¬ (0x2000 ≤ rHpStain ∧ rHpStain < 0x4000) := by decide
  simp [hpWrite, hr, hcfg, hctrl, hring, hpeg, hmsix]

theorem blockWrite_plain {o : Nat} (v : Word) (hr : ready s = true ∨ o < 0x200000)
    (hown : o ∉ [rBootCtrl, rModuleReset, rPwrCap, rLagCfg, rTagCfg, rLogCtrl])
    (hpool : inst (rPoolCfg 0) 0x10 8 o = none) (hport : inst (rPort 0 + 4) 0x10000 16 o = none) :
    blockWrite o v s = plainWrite s o v := by
  simp only [List.mem_cons, List.not_mem_nil, or_false, not_or] at hown
  obtain ⟨hboot, hreset, hcap, hlag, htag, hlog⟩ := hown
  rcases hr with hr | hr
  · simp [blockWrite, hboot, hreset, hcap, hlag, htag, hlog, hpool, hport, hr]
  · simp [blockWrite, hboot, hreset, hcap, hr]

/-- A write of the PF to a Stain register follows the field rules of 00 R6 alone. -/
theorem exec_registerWrite_stain {off v : Word} (hst : (stainAt off.toNat).isSome = true) (hb : booting s = true)
    (hr : ready s = true ∨ (rBootStatus ≤ off.toNat ∧ off.toNat < 0x200000)) :
    exec (.registerWrite 0 off v) s = .next (plainWrite s off.toNat v) := by
  obtain ⟨hmod, hlt, -, hplace⟩ := (onlyW1c_iff _).mp (onlyW1c_stainRegs _ (mem_stainRegs hst))
  have hbar : barOffset s 0 off.toNat = some off.toNat := by simpa [barOffset, inBar, barOf] using hlt
  have hgo : exec (.registerWrite 0 off v) s =
      .next (if off.toNat < rBootStatus then hpWrite 0 off.toNat v s else blockWrite off.toNat v s) := by
    show execRegisterWrite 0 off v s = _
    simp [execRegisterWrite, hbar, hb, hmod]
  rw [hgo]
  rcases hplace with hhp | ⟨hle, hown, hpool, hport⟩
  · have hready : ready s = true := hr.resolve_right (fun h => absurd (hhp ▸ h.1) (by decide))
    rw [hhp, if_pos (by decide), hpWrite_stain v hready]
  · rw [if_neg (Nat.not_lt.mpr hle), blockWrite_plain v (hr.imp_right (·.2)) hown hpool hport]

/-- At a Stain register the field rules clear the defined bits that are written as 1. -/
theorem regWritten_stain {o k i n : Nat} (hst : stainAt o = some (k, i, n)) (cur w : Word) :
    regWritten o cur w = cur &&& ~~~ (w &&& BitVec.ofNat 32 (2 ^ n - 1)) := by
  obtain ⟨-, -, hrw, -⟩ := (onlyW1c_iff _).mp (onlyW1c_stainRegs o (mem_stainRegs (by simp [hst])))
  simp only [regWritten, regW1c, hst, hrw, BitVec.ofNat_eq_ofNat, BitVec.zero_and, BitVec.not_zero,
    BitVec.and_allOnes, BitVec.and_zero, BitVec.or_zero]

end

/-- Settles O6: the write follows the field rules, which at a Stain register are those of its W1C fields. -/
theorem stainClearsByWritingOne : Obligations.StainClearsByWritingOne := by
  intro off v s k i n hst hb hr
  refine ⟨_, exec_registerWrite_stain (by simp [hst]) hb hr, ?_, otherRegs_wreg s _ _, wreg_only s _ _⟩
  rw [plainWrite, rreg_wreg_same, regWritten_stain hst]

end Sys2Proof.Machine

namespace Sys2Proof.Machine

-- The whole text is compiled at once under a memory limit, so its proofs are elaborated one after another.
set_option Elab.async false

/-! ## Frames in a row -/

section
variable {ps qs : List Part} {s t u : State}

/-- A frame with further parts listed. -/
theorem OnlyParts.sub (h : OnlyParts ps s t) (hq : ps ⊆ qs := by decide) : OnlyParts qs s t := h.mono hq

/-- A frame followed by one of parts that it lists. -/
theorem OnlyParts.seq (h : OnlyParts ps s t) (k : OnlyParts qs t u) (hq : qs ⊆ ps := by decide) : OnlyParts ps s u :=
  h.trans (k.mono hq)

end

/-! ## Rings, pegs and vectors: a read after a write -/

section
variable {ps : List Part} {s t : State} {n m p q i k : Nat}

@[simp] theorem ringOf_setRing_same (s : State) (n : Nat) (r : Ring) : ringOf (setRing s n r) n = r := tget_tset_same

theorem ringOf_setRing_ne (h : m ≠ n) (r : Ring) : ringOf (setRing s n r) m = ringOf s m := tget_tset_ne h

theorem ringOf_congr (h : t.hp.rings = s.hp.rings) (n : Nat) : ringOf t n = ringOf s n := by rw [ringOf, h, ringOf]

/-- A frame without the rings keeps every ring. -/
theorem OnlyParts.ringOf (h : OnlyParts ps s t) (n : Nat) (hp : Part.rings ∉ ps := by decide) :
    Machine.ringOf t n = Machine.ringOf s n := ringOf_congr (h .rings hp) n

@[simp] theorem pegOf_setPeg_same (s : State) (p i : Nat) (v : DWord) : pegOf (setPeg s p i v) p i = v := tget_tset_same

theorem pegOf_setPeg_ne (hi : i < 4096) (hk : k < 4096) (h : q ≠ p ∨ k ≠ i) (v : DWord) :
    pegOf (setPeg s p i v) q k = pegOf s q k := tget_tset_ne (by omega)

theorem pegOf_congr (h : t.hp.pegs = s.hp.pegs) (p i : Nat) : pegOf t p i = pegOf s p i := by rw [pegOf, h, pegOf]

@[simp] theorem msixOf_setMsix_same (s : State) (g : Nat) (m : Msix) : msixOf (setMsix s g m) g = m := tget_tset_same

theorem msixOf_setMsix_ne (h : n ≠ m) (x : Msix) : msixOf (setMsix s m x) n = msixOf s n := tget_tset_ne h

theorem bitsOf_lt (v lo len : Nat) : bitsOf v lo len < 2 ^ len := Nat.mod_lt _ (Nat.two_pow_pos len)

/-- A peg number in a descriptor lies in its partition's 4,096. -/
theorem Job.peg_lt (j : Job) (off lo : Nat) : j.bits off lo 12 < 4096 := bitsOf_lt _ _ 12

end

/-- Settles O3: every clause reads the reset state, in which every table is empty. That memory then reads 0 is the model's
choice where no object covers it (notes/assumptions/3.md). -/
theorem resetState : Obligations.ResetState := by
  have hstain : ∀ off ∈ stainRegs, regReset off = 0 := by decide +kernel
  have hring : ring0.enabled = false := by decide
  exact ⟨by decide, reset_mem_wf, hstain, fun _ => ⟨hring, rfl, rfl, rfl, rfl, rfl⟩, fun _ _ => rfl, fun _ _ => rfl, by decide,
    rfl, rfl, rfl, rfl, rfl, rfl⟩

/-! ## Doorbells -/

section
variable {s : State} {f g n : Nat}

theorem bar2Ring_pf (hg : g < 512) : bar2Ring s 0 g = some g := by
  have hin : g * 4096 < 2 ^ 21 := by omega
  simpa [bar2Ring, inBar, barOf] using hin

/-- A VF's BAR2 has 64 pages: 56 for its rings and eight inert ones. -/
theorem bar2Ring_vf (hf : f ≠ 0) (hp : present s f = true) :
    bar2Ring s f g = if g < 56 then some (ringBase f + g) else none := by
  have hin : inBar s f 2 (g * 4096) = decide (g * 4096 < 2 ^ 18) := by simp [inBar, barOf, hf]
  by_cases h : g < 56
  · have hlt : g * 4096 < 2 ^ 18 := by omega
    rw [bar2Ring, hin, decide_eq_true hlt]
    simp [hf, hp, h]
  · simp [bar2Ring, hf, h]

variable {v : Word} {size : Ring → Nat} {put : Ring → Nat → Ring}

theorem doorbell_none (h : bar2Ring s f g = none) : doorbell s f g v size put = s := by simp [doorbell, h]

section
variable (hr : ready s = true) (hb : bar2Ring s f g = some n) (hm : mayRing s f n = true) (he : (ringOf s n).enabled = true)
include hr hb hm he

/-- A doorbell in range puts its index into its ring. -/
theorem doorbell_in_range (hk : bitsOf v.toNat 0 16 < size (ringOf s n)) :
    ∃ t, Host.Outcome.next (doorbell s f g v size put) = (.next t : Out) ∧
      ringOf t n = put (ringOf s n) (bitsOf v.toNat 0 16) ∧ (∀ m, m ≠ n → ringOf t m = ringOf s m) ∧ OnlyParts [.rings] s t := by
  have hd : doorbell s f g v size put = setRing s n (put (ringOf s n) (bitsOf v.toNat 0 16)) := by
    simp [doorbell, hb, hr, hm, he, Nat.not_le.mpr hk]
  exact ⟨_, congrArg _ hd, ringOf_setRing_same _ _ _, fun m h => ringOf_setRing_ne h _, setRing_only _ _ _⟩

/-- A doorbell out of range leaves its pointer and shows in two error registers. -/
theorem doorbell_out_of_range (hk : size (ringOf s n) ≤ bitsOf v.toNat 0 16) :
    ∃ t, Host.Outcome.next (doorbell s f g v size put) = (.next t : Out) ∧
      ringOf t n = { ringOf s n with err := (ringOf s n).err ||| 2 } ∧ bitOf (rreg t rHpStain).toNat 4 = true ∧
      OnlyParts [.rings, .regs, .log] s t := by
  have hd : doorbell s f g v size put = doorbellRange s n := by simp [doorbell, hb, hr, hm, he, hk]
  exact ⟨_, congrArg _ hd, ((setStain_only _ _ _).ringOf n).trans (ringOf_setRing_same _ _ _),
    bitOf_setStain _ _ _ (by decide), (setRing_only _ _ _).sub.seq (setStain_only _ _ _)⟩

end

end

/-- Settles O9: a doorbell in range writes its ring, one out of range shows in the error registers (01 R28). -/
theorem doorbellsMoveTailAndHead : Obligations.DoorbellsMoveTailAndHead :=
  ⟨fun g _ => bar2Ring_pf g.isLt, fun _ _ _ hf hp => bar2Ring_vf (fun h => hf (Fin.ext h)) hp,
    fun _ _ _ _ h => ⟨congrArg Host.Outcome.next (doorbell_none h), congrArg Host.Outcome.next (doorbell_none h)⟩,
    fun _ _ _ _ _ hr hb hm he hk => doorbell_in_range hr hb hm he hk,
    fun _ _ _ _ _ hr hb hm he hk => doorbell_in_range hr hb hm he hk,
    fun _ _ _ _ _ hr hb hm he hk => doorbell_out_of_range hr hb hm he hk,
    fun _ _ _ _ _ hr hb hm he hk => doorbell_out_of_range hr hb hm he hk⟩

/-! ## Pegs -/

section
variable {s : State} {n : Nat} {j : Job} {e : Ending}

theorem exec_pegWindowAdd {f : Fin 9} {p : Fin 8} (i : Fin 4096) (v : Word) (hr : ready s = true)
    (hf : f = 0 ∨ present s f.val = true ∧ partOf s.hp.own f.val = some p.val) :
    exec (.pegWindowAdd f p i v) s = .next (addPeg s p.val i.val (v.setWidth 64)) := by
  refine runIf_of_true ?_
  obtain rfl | ⟨hp, ho⟩ := hf
  · simp [hr]
  · simp [hr, hp, ho]

theorem exec_pegAdd (h : opJob s n 0x0A01 = some j) (hf : pegFields s j = none) : exec (.pegAdd n) s =
    .next (finish (addPeg s (pegPart s j).1 (j.bits 16 0 12) (BitVec.ofNat 64 (j.fld 24 8))) n (stDone, 0)) :=
  (runOp_ready h).trans (by simp [hf])

theorem exec_pegSet (h : opJob s n 0x0A02 = some j) (hf : pegFields s j = none) : exec (.pegSet n) s =
    .next (finish (setPeg s (pegPart s j).1 (j.bits 16 0 12) (BitVec.ofNat 64 (j.fld 24 8))) n (stDone, 0)) :=
  (runOp_ready h).trans (by simp [hf])

theorem exec_pegAdd_bad (h : opJob s n 0x0A01 = some j) (hf : pegFields s j = some e) :
    exec (.pegAdd n) s = .next (finish s n e) := (runOp_ready h).trans (by simp [hf])

theorem exec_pegSet_bad (h : opJob s n 0x0A02 = some j) (hf : pegFields s j = some e) :
    exec (.pegSet n) s = .next (finish s n e) := (runOp_ready h).trans (by simp [hf])

end

/-- Settles O10: each row is one `setPeg` of the peg named, then the descriptor's ending. -/
theorem pegsAddAndSet : Obligations.PegsAddAndSet := by
  refine ⟨?window, ?add, ?set, ?bad⟩
  case window =>
    intro f p i v s hr hf
    exact ⟨_, exec_pegWindowAdd i v hr hf, pegOf_setPeg_same _ _ _ _,
      fun q k hk h => pegOf_setPeg_ne i.isLt hk h _, addPeg_only _ _ _ _⟩
  case add =>
    intro n s j h hf
    have hj := (opJob_some.mp h).1
    exact ⟨_, exec_pegAdd h hf, decided_finish (s := addPeg s _ _ _) hj _, otherJobs_finish (s := addPeg s _ _ _) _,
      pegOf_setPeg_same _ _ _ _, fun q k hk hne => pegOf_setPeg_ne (j.peg_lt _ _) hk hne _,
      (addPeg_only _ _ _ _).sub.seq (finish_only _ _ _)⟩
  case set =>
    intro n s j h hf
    have hj := (opJob_some.mp h).1
    exact ⟨_, exec_pegSet h hf, decided_finish (s := setPeg s _ _ _) hj _, otherJobs_finish (s := setPeg s _ _ _) _,
      pegOf_setPeg_same _ _ _ _, fun q k hk hne => pegOf_setPeg_ne (j.peg_lt _ _) hk hne _,
      (setPeg_only _ _ _ _).sub.seq (finish_only _ _ _)⟩
  case bad =>
    intro n s j e hf
    exact ⟨fun h => ⟨_, exec_pegAdd_bad h hf, decided_finish (opJob_some.mp h).1 e, otherJobs_finish e, finish_only _ _ _⟩,
      fun h => ⟨_, exec_pegSet_bad h hf, decided_finish (opJob_some.mp h).1 e, otherJobs_finish e, finish_only _ _ _⟩⟩

/-! ## NOP and HOST_WRITE -/

section
variable {s : State} {n : Nat} {j : Job}

theorem markWaits_only (s : State) (n : Nat) : OnlyParts [.jobs] s (markWaits s n) := modJob_only _ _ _

@[simp] theorem count_out (s : State) (i k : Nat) : (count s i k).out = s.out := count_only s i k .out (by decide)

@[simp] theorem emit_out (s : State) (o : Output) : (emit s o).out = s.out ++ [o] := rfl

@[simp] theorem hostPut_out (s : State) (f a : Nat) (bs : List Byte) (b : Bool) :
    (hostPut s f a bs b).out = s.out ++ [.hostWrite f a bs b] := count_out _ _ _

theorem exec_nop (h : opJob s n 0x0A00 = some j) (hz : rsvd j 16 56 = none) :
    exec (.nop n) s = .next (finish s n (stDone, 0)) := (runOp_ready h).trans (by simp [fields, hz])

section
variable (h : opJob s n 0x0A03 = some j) (hlo : rsvd j 16 24 = none) (hhi : rsvd j 40 56 = none) (ha : j.fld 24 8 % 8 = 0)
include h hlo hhi ha

theorem exec_hostWrite_open (ho : hostOpen s (fnOfRing s j.ring) = true) : exec (.hostWrite n) s =
    .next (finish (hostPut s (fnOfRing s j.ring) (j.fld 24 8) (leBytes 8 (j.fld 32 8)) false) n (stDone, 0)) :=
  (runOp_ready h).trans (by simp [fields, bad, aligned, hlo, hhi, ha, ho])

theorem exec_hostWrite_shut (ho : hostOpen s (fnOfRing s j.ring) = false) : exec (.hostWrite n) s = .next (markWaits s n) :=
  (runOp_ready h).trans (by simp [fields, bad, aligned, hlo, hhi, ha, ho])

end
end

/-- Settles O11: both rows end their descriptor, HOST_WRITE where host memory is open, and else it waits. -/
theorem nopAndHostWrite : Obligations.NopAndHostWrite := by
  refine ⟨?nop, ?opened, ?shut⟩
  case nop =>
    intro n s j h hz
    exact ⟨_, exec_nop h hz, decided_finish (opJob_some.mp h).1 _, otherJobs_finish _, finish_only _ _ _⟩
  case opened =>
    intro n s j h hlo hhi ha ho
    have hput := hostPut_only s (fnOfRing s j.ring) (j.fld 24 8) (leBytes 8 (j.fld 32 8)) false
    have hjobs := hput .jobs (by decide)
    exact ⟨_, exec_hostWrite_open h hlo hhi ha ho,
      decided_finish ((job?_congr hjobs.1 n).trans (opJob_some.mp h).1) _,
      (OtherJobs.of_jobs hjobs.1).trans (otherJobs_finish _), hostPut_out _ _ _ _ _, hput.sub.seq (finish_only _ _ _)⟩
  case shut =>
    intro n s j h hlo hhi ha ho
    exact ⟨_, exec_hostWrite_shut h hlo hhi ha ho, job?_modJob (fun _ => rfl) (opJob_some.mp h).1,
      otherJobs_modJob (fun _ => rfl), markWaits_only _ _⟩

/-! ## DESCRIPTOR_FETCH -/

section
variable {s : State} {n : Nat} {j : Job}

theorem lastRing_only (s : State) (n : Nat) : OnlyParts [.link] s { s with hp := { s.hp with lastRing := n } } := fun p hp => by
  cases p <;> simp_all [Part.same]

theorem passSlot_only (s : State) (n : Nat) : OnlyParts [.rings, .link] s (passSlot s n) :=
  (setRing_only _ _ _).sub.seq (lastRing_only _ _)

theorem ringOf_passSlot (s : State) (n : Nat) :
    ringOf (passSlot s n) n = { ringOf s n with cmdHead := ((ringOf s n).cmdHead + 1) % (ringOf s n).cmdSize } :=
  ringOf_setRing_same _ _ _

theorem ringOf_passSlot_ne {m : Nat} (h : m ≠ n) : ringOf (passSlot s n) m = ringOf s m := ringOf_setRing_ne h _

/-- The descriptor that a slot fetched for ring n becomes (01 R30). -/
def fetchedJob (s : State) (n : Nat) (slot : Slot) (tag : Bool) : Job :=
  ⟨s.nextId, n, slot, none, slot.getLsbD 19, 0, .fetched, false, 0, [], false, 0, 0, 0, tag, false, s.now, 0, false, 0xFF, 0, 0, []⟩

/-- A descriptor joins those in flight, with its tag record where it is tagged; the tag sequence then stands at x. -/
def addFetched (s : State) (j : Job) (x : Word) : State := { s with
  nextId := s.nextId + 1
  hp := { s.hp with jobs := s.hp.jobs ++ [j] }
  ob := { s.ob with lfsr := x, tags := if j.tagged then s.ob.tags ++ [⟨j.id, false, []⟩] else s.ob.tags } }

theorem addFetched_only (s : State) (j : Job) (x : Word) : OnlyParts [.jobs, .lfsr, .tags, .nextId] s (addFetched s j x) :=
  fun p hp => by cases p <;> simp_all [Part.same, addFetched]

/-- A slot taken passes the ring's slot and adds a descriptor; the rest of it counts. -/
theorem takeSlot_counts (s : State) (n : Nat) (slot : Slot) : ∃ tag, OnlyParts [.counts]
    (addFetched (passSlot s n) (fetchedJob s n slot tag) (lfsrStep s.ob.lfsr)) (takeSlot s n slot) := by
  refine ⟨tagWanted s (slot.getLsbD 18) (lfsrStep s.ob.lfsr) && decide (s.ob.tags.length < 1024), ?_⟩
  unfold takeSlot
  exact ((count_only _ _ _).seq (count_only _ _ _)).trans
    (.ite (count_only _ _ _) (.ite (count_only _ _ _) (.refl _ _)))

theorem exec_descriptorFetch_slot (slot : Slot) (h : nextRing s = some n) (hw : wantsExt s n = none) :
    exec (.descriptorFetch slot) s = .next (takeSlot s n slot) := by
  show execDescriptorFetch slot s = _
  simp [execDescriptorFetch, h, hw]

theorem exec_descriptorFetch_ext (slot : Slot) (h : nextRing s = some n) (hw : wantsExt s n = some j) :
    exec (.descriptorFetch slot) s = .next (takeExt s n j slot) := by
  show execDescriptorFetch slot s = _
  simp [execDescriptorFetch, h, hw]

/-- What is kept of the extension's descriptor is all but the extension. -/
def withExt (s : State) (n : Nat) (slot : Slot) (k : Job) : Job :=
  { k with ext := some slot, needExt := false, extAddr := (ringOf s n).cmdBase.toNat + 64 * (ringOf s n).cmdHead }

theorem takeExt_eq (s : State) (n : Nat) (j : Job) (slot : Slot) :
    takeExt s n j slot = passSlot (count (modJob s j.id (withExt s n slot)) 1477 64) n := rfl

/-- A failed fetch halts its ring and sets two error bits. -/
def fetchFailed (s : State) (n : Nat) : State :=
  setStain (setRing s n { ringOf s n with halted := true, err := (ringOf s n).err ||| 4 }) rHpStain 5

theorem fetchFailed_only (s : State) (n : Nat) : OnlyParts [.rings, .regs, .log] s (fetchFailed s n) :=
  (setRing_only _ _ _).sub.seq (setStain_only _ _ _)

theorem ringOf_fetchFailed (s : State) (n m : Nat) : ringOf (fetchFailed s n) m =
    ringOf (setRing s n { ringOf s n with halted := true, err := (ringOf s n).err ||| 4 }) m :=
  (setStain_only _ _ _).ringOf m

/-- Beside `fetchFailed`, only the descriptor whose extension was to come goes, with its tag record. -/
theorem exec_descriptorFetchFail (h : nextRing s = some n) :
    ∃ t, exec .descriptorFetchFail s = .next t ∧ OnlyParts [.jobs, .link, .tags] (fetchFailed s n) t := by
  refine ⟨_, by rw [show exec .descriptorFetchFail s = execDescriptorFetchFail s from rfl, execDescriptorFetchFail, h], ?_⟩
  dsimp only
  split <;> intro p hp <;> cases p <;> simp_all [Part.same, fetchFailed]

end

/-- Settles O12: a slot passes the ring's head and becomes a descriptor or an extension; a failed fetch halts the ring. -/
theorem descriptorFetchTakesSlot : Obligations.DescriptorFetchTakesSlot := by
  refine ⟨?slot, ?ext, ?fail⟩
  case slot =>
    intro slot s n h hw
    obtain ⟨tag, hcounts⟩ := takeSlot_counts s n slot
    have hframe := (passSlot_only s n).sub.seq (addFetched_only _ (fetchedJob s n slot tag) (lfsrStep s.ob.lfsr))
      |>.seq (ps := [.jobs, .rings, .link, .lfsr, .tags, .counts, .nextId]) hcounts
    exact ⟨_, fetchedJob s n slot tag, exec_descriptorFetch_slot slot h hw, (hcounts .jobs (by decide)).1, rfl, rfl, rfl, rfl, rfl,
      rfl, rfl, hcounts .nextId (by decide), by rw [hcounts.ringOf n]; exact congrArg Ring.cmdHead (ringOf_passSlot s n),
      fun m hm => (hcounts.ringOf m).trans (ringOf_passSlot_ne hm), hframe⟩
  case ext =>
    intro slot s n j h hw hj
    have hmod := modJob_only s j.id (withExt s n slot)
    have hcount := count_only (modJob s j.id (withExt s n slot)) 1477 64
    have hpass := passSlot_only (count (modJob s j.id (withExt s n slot)) 1477 64) n
    have hjobs := ((hcount.sub (qs := [.counts, .rings, .link])).seq hpass) .jobs (by decide)
    have hring (m : Nat) := ((hmod.sub (qs := [.jobs, .counts])).seq hcount).ringOf m
    refine ⟨_, withExt s n slot j, exec_descriptorFetch_ext slot h hw, ?_, rfl, rfl, rfl, rfl, ?_, ?_, fun m hm => ?_,
      (hmod.sub.seq hcount).seq hpass⟩
    · exact (job?_congr hjobs.1 _).trans (job?_modJob (fun _ => rfl) hj)
    · exact (otherJobs_modJob (f := withExt s n slot) (fun _ => rfl)).trans (.of_jobs hjobs.1)
    · rw [takeExt_eq, ringOf_passSlot, hring]
    · rw [takeExt_eq, ringOf_passSlot_ne hm, hring]
  case fail =>
    intro s n h
    obtain ⟨t, ht, hframe⟩ := exec_descriptorFetchFail h
    refine ⟨t, ht, ?_, ?_, fun m hm => ?_, (fetchFailed_only s n).sub.seq hframe⟩
    · rw [hframe.ringOf, ringOf_fetchFailed, ringOf_setRing_same]
    · rw [rreg_congr (hframe .regs (by decide))]
      exact bitOf_setStain _ _ _ (by decide)
    · rw [hframe.ringOf, ringOf_fetchFailed, ringOf_setRing_ne hm]

/-! ## Functions of the host port, by what a frame leaves -/

section
variable {ps : List Part} {s t : State}

/-- A frame without the link keeps who owns what. -/
theorem OnlyParts.own (h : OnlyParts ps s t) (hp : Part.link ∉ ps := by decide) : t.hp.own = s.hp.own := by
  obtain ⟨-, -, hown, -⟩ := h .link hp
  exact hown

theorem OnlyParts.present (h : OnlyParts ps s t) (f : Nat) (hp : Part.link ∉ ps := by decide) :
    Machine.present t f = Machine.present s f := by
  obtain ⟨hnum, hon, -⟩ := h .link hp
  simp [Machine.present, hnum, hon]

theorem OnlyParts.hostOpen (h : OnlyParts ps s t) (f : Nat) (hp : Part.link ∉ ps := by decide) :
    Machine.hostOpen t f = Machine.hostOpen s f := by
  obtain ⟨-, -, -, hbme, hstall, hup, -⟩ := h .link hp
  simp [Machine.hostOpen, h.present f hp, hbme, hstall, hup]

theorem OnlyParts.fnOfRing (h : OnlyParts ps s t) (n : Nat) (hp : Part.link ∉ ps := by decide) :
    Machine.fnOfRing t n = Machine.fnOfRing s n := by simp [Machine.fnOfRing, h.own hp]

theorem OnlyParts.partOfRing (h : OnlyParts ps s t) (n : Nat) (hp : Part.link ∉ ps := by decide) :
    Machine.partOfRing t n = Machine.partOfRing s n := by simp [Machine.partOfRing, h.own hp]

end

/-! ## Vectors and completion entries -/

section
variable {s : State} {n g : Nat}

theorem owe_only (s : State) (g : Nat) : OnlyParts [.owed] s (owe s g) := fun p hp => by
  unfold owe
  split <;> cases p <;> simp_all [Part.same]

@[simp] theorem owe_out (s : State) (g : Nat) : (owe s g).out = s.out := owe_only s g .out (by decide)

theorem raise_masked (h : (msixOf s g).mask = true) : raise s g = setMsix s g { msixOf s g with pend := true } := by
  simp [raise, h]

theorem raise_open (h : (msixOf s g).mask = false) (ho : hostOpen s (vecOwner s.hp.own g) = true) :
    raise s g = emit s (.msix (vecOwner s.hp.own g) g (msixOf s g).addr (msixOf s g).data) := by simp [raise, h, ho]

/-- A raised vector adds to what has left the module. -/
theorem raise_out (s : State) (g : Nat) : s.out <+: (raise s g).out := by
  unfold raise
  dsimp only
  split
  · exact List.prefix_rfl
  · split
    · exact List.prefix_append _ _
    · rw [owe_out]

theorem foldl_raise_out (l : List Nat) (s : State) : s.out <+: (l.foldl raise s).out := by
  induction l generalizing s with
  | nil => exact List.prefix_rfl
  | cons g l ih => exact (raise_out s g).trans (ih _)

theorem setOwed_only (s : State) (l : List Nat) : OnlyParts [.owed] s { s with hp := { s.hp with owed := l } } := fun p hp => by
  cases p <;> simp_all [Part.same]

theorem sendOwed_only (s : State) : OnlyParts [.out, .msix, .owed] s (sendOwed s) :=
  (setOwed_only _ _).sub.trans (.foldl (fun _ _ => (raise_only _ _).sub) _ _)

theorem sendOwed_out (s : State) : s.out <+: (sendOwed s).out := by
  refine List.IsPrefix.trans ?_ (foldl_raise_out _ _)
  exact List.prefix_rfl

theorem ringInterrupt_vector (s : State) (n : Nat) (late : Bool) : OnlyParts [.out, .msix, .owed]
    (setRing s n { ringOf s n with since := 0, firstAt := 0 }) (ringInterrupt s n late) := by
  unfold ringInterrupt
  cases late
  · exact (raise_only _ _).sub
  · exact (owe_only _ _).sub

theorem ringInterrupt_only (s : State) (n : Nat) (late : Bool) :
    OnlyParts [.rings, .out, .msix, .owed] s (ringInterrupt s n late) :=
  (setRing_only _ _ _).sub.seq (ringInterrupt_vector _ _ _)

theorem ringInterrupt_out (s : State) (n : Nat) (late : Bool) : s.out <+: (ringInterrupt s n late).out := by
  cases late
  · refine List.IsPrefix.trans ?_ (raise_out _ _)
    exact List.prefix_rfl
  · rw [show (ringInterrupt s n true).out = s.out from owe_out _ _]

theorem ringOf_ringInterrupt (s : State) (n m : Nat) (late : Bool) : ringOf (ringInterrupt s n late) m =
    ringOf (setRing s n { ringOf s n with since := 0, firstAt := 0 }) m := (ringInterrupt_vector s n late).ringOf m

/-- Whether the next entry is the last of the completion ring, after which the phase bit is inverted (01 R42). -/
def Ring.wraps (r : Ring) : Bool := r.cplTail + 1 == r.cplSize

/-- A ring whose completion tail has moved past an entry written. -/
def Ring.wrote (r : Ring) (since : Nat) (at' : DWord) : Ring := { r with
  cplTail := if r.wraps then 0 else r.cplTail + 1, phase := if r.wraps then !r.phase else r.phase, since := since, firstAt := at' }

theorem Ring.wrote_cplTail (r : Ring) (k : Nat) (at' : DWord) :
    (r.wrote k at').cplTail = if r.cplTail + 1 = r.cplSize then 0 else r.cplTail + 1 := by
  by_cases h : r.cplTail + 1 = r.cplSize <;> simp [wrote, wraps, h]

theorem Ring.wrote_phase (r : Ring) (k : Nat) (at' : DWord) :
    (r.wrote k at').phase = if r.cplTail + 1 = r.cplSize then !r.phase else r.phase := by
  by_cases h : r.cplTail + 1 = r.cplSize <;> simp [wrote, wraps, h]

/-- An entry written: 16 bytes leave for host memory, the tail moves, and a vector may be raised. -/
theorem writeEntry_cases (s : State) (n : Nat) (e : Entry) : ∃ u since at',
    u = setRing (hostPut s (fnOfRing s n) ((ringOf s n).cplBase.toNat + 16 * (ringOf s n).cplTail)
      (entryBytes e (ringOf s n).phase) false) n ((ringOf s n).wrote since at') ∧
    (OnlyParts [.counts] u (writeEntry s n e) ∨
      ∃ v, OnlyParts [.counts] u v ∧ writeEntry s n e = ringInterrupt v n e.shut) := by
  refine ⟨_, (ringOf s n).since + 1, if (ringOf s n).since = 0 then s.now else (ringOf s n).firstAt, rfl, ?_⟩
  by_cases hi : (e.intr || (e.status != stDone && e.status != stDoneSoiled) || (bitsOf (ringOf s n).ctrl.toNat 8 8 != 0 &&
      decide (bitsOf (ringOf s n).ctrl.toNat 8 8 ≤ (ringOf s n).since + 1))) = true
  · exact .inr ⟨count _ 1480 1, count_only _ _ _, if_pos hi⟩
  · rw [show writeEntry s n e = count _ 1480 1 from if_neg hi]
    exact .inl (count_only _ _ _)

theorem writeEntry_only (s : State) (n : Nat) (e : Entry) :
    OnlyParts [.rings, .out, .counts, .msix, .owed] s (writeEntry s n e) := by
  obtain ⟨u, since, at', rfl, hw⟩ := writeEntry_cases s n e
  have hu := (hostPut_only s (fnOfRing s n) ((ringOf s n).cplBase.toNat + 16 * (ringOf s n).cplTail)
    (entryBytes e (ringOf s n).phase) false).sub.seq (ps := [.rings, .out, .counts, .msix, .owed])
    (setRing_only _ n ((ringOf s n).wrote since at'))
  obtain hw | ⟨v, hv, hw⟩ := hw
  · exact hu.seq hw
  · exact hw ▸ (hu.seq hv).seq (ringInterrupt_only _ _ _)

theorem writeEntry_out (s : State) (n : Nat) (e : Entry) :
    s.out ++ [.hostWrite (fnOfRing s n) ((ringOf s n).cplBase.toNat + 16 * (ringOf s n).cplTail)
      (entryBytes e (ringOf s n).phase) false] <+: (writeEntry s n e).out := by
  obtain ⟨u, since, at', rfl, hw⟩ := writeEntry_cases s n e
  obtain hw | ⟨v, hv, hw⟩ := hw
  · rw [hw .out (by decide), setRing_out, hostPut_out]
  · have hout := hv .out (by decide)
    rw [Part.same, setRing_out, hostPut_out] at hout
    rw [hw, ← hout]
    exact ringInterrupt_out _ _ _

/-- The ring after an entry is written, but for its coalescing. -/
theorem ringOf_writeEntry (s : State) (n : Nat) (e : Entry) :
    ∃ since at', ringOf (writeEntry s n e) n = (ringOf s n).wrote since at' := by
  obtain ⟨u, since, at', rfl, hw⟩ := writeEntry_cases s n e
  obtain hw | ⟨v, hv, hw⟩ := hw
  · exact ⟨since, at', by rw [hw.ringOf, ringOf_setRing_same]⟩
  · exact ⟨0, 0, by rw [hw, ringOf_ringInterrupt, ringOf_setRing_same, hv.ringOf, ringOf_setRing_same]; rfl⟩

theorem ringOf_writeEntry_ne {m : Nat} (h : m ≠ n) (e : Entry) : ringOf (writeEntry s n e) m = ringOf s m := by
  obtain ⟨u, since, at', rfl, hw⟩ := writeEntry_cases s n e
  have hput (k a : Nat) (bs : List Byte) : ringOf (hostPut s k a bs false) m = ringOf s m := (hostPut_only s k a bs false).ringOf m
  obtain hw | ⟨v, hv, hw⟩ := hw
  · rw [hw.ringOf, ringOf_setRing_ne h, hput]
  · rw [hw, ringOf_ringInterrupt, ringOf_setRing_ne h, hv.ringOf, ringOf_setRing_ne h, hput]

theorem exec_heldCompletionWrite {n : Fin 512} {e : Entry} {es : List Entry} (hh : (ringOf s n.val).held = e :: es)
    (ho : hostOpen s (fnOfRing s n.val) = true) (hf : cplFull (ringOf s n.val) = false) : exec (.heldCompletionWrite n) s =
    .next (sendOwed (writeEntry (setRing s n.val { ringOf s n.val with held := es }) n.val e)) := by
  show execHeldCompletionWrite n s = _
  simp [execHeldCompletionWrite, hh, ho, hf]

theorem exec_coalTimeExpire {n : Fin 512} (ht : bitsOf (ringOf s n.val).ctrl.toNat 16 16 ≠ 0) (hs : (ringOf s n.val).since ≠ 0)
    (hd : (ringOf s n.val).firstAt.toNat + 1000 * bitsOf (ringOf s n.val).ctrl.toNat 16 16 ≤ s.now.toNat) :
    exec (.coalTimeExpire n) s = .next (ringInterrupt s n.val false) := runIf_of_true (by simp [ht, hs, hd])

theorem exec_msixUnmask {f : Fin 9} {vec : Fin 512} (h : vecOf s f.val vec.val = some g) :
    exec (.msixUnmask f vec) s = .next (unmask s g) := by
  show execMsixUnmask f vec s = _
  simp [execMsixUnmask, h]

theorem unmask_idle (h : (msixOf s g).pend = false) :
    unmask s g = setMsix s g { msixOf s g with mask := false, pend := false } := by simp [unmask, h]

/-- The message that waited for the mask leaves, where host memory is open. -/
theorem unmask_pending (h : (msixOf s g).pend = true) (ho : hostOpen s (vecOwner s.hp.own g) = true) :
    unmask s g = emit (setMsix s g { msixOf s g with mask := false, pend := false })
      (.msix (vecOwner s.hp.own g) g (msixOf s g).addr (msixOf s g).data) := by
  have hset := setMsix_only s g { msixOf s g with mask := false, pend := false }
  have hopen : hostOpen (setMsix s g { msixOf s g with mask := false, pend := false })
      (vecOwner (setMsix s g { msixOf s g with mask := false, pend := false }).hp.own g) = true := by
    rw [hset.own, hset.hostOpen, ho]
  simp only [unmask, h, if_true]
  rw [raise_open (by simp) hopen, hset.own, msixOf_setMsix_same]

end

/-- Settles O14: the entry written is `writeEntry`'s, the coalescing `ringInterrupt`'s, the mask `unmask`'s. -/
theorem completionEntries : Obligations.CompletionEntries := by
  refine ⟨?held, ?coal, ?idle, ?pending⟩
  case held =>
    intro n s e es hh ho hf
    have hset := setRing_only s n.val { ringOf s n.val with held := es }
    have hout := (writeEntry_out (setRing s n.val { ringOf s n.val with held := es }) n.val e).trans (sendOwed_out _)
    obtain ⟨since, at', hring⟩ := ringOf_writeEntry (setRing s n.val { ringOf s n.val with held := es }) n.val e
    rw [hset.fnOfRing, ringOf_setRing_same, setRing_out] at hout
    rw [ringOf_setRing_same] at hring
    obtain ⟨o, hout⟩ := hout
    have hlast (m : Nat) := (sendOwed_only (writeEntry (setRing s n.val { ringOf s n.val with held := es }) n.val e)).ringOf m
    refine ⟨_, o, exec_heldCompletionWrite hh ho hf, ?_, ?_, ?_, ?_, fun m hm => ?_,
      (hset.sub.seq (writeEntry_only _ _ _)).seq (sendOwed_only _)⟩
    · rw [hlast, hring]
      rfl
    · rw [← hout, List.append_assoc]
      rfl
    · rw [hlast, hring]
      exact Ring.wrote_cplTail _ _ _
    · rw [hlast, hring]
      exact Ring.wrote_phase _ _ _
    · rw [hlast, ringOf_writeEntry_ne hm, ringOf_setRing_ne hm]
  case coal =>
    intro n s ht hs hd hm
    have hset := setRing_only s n.val { ringOf s n.val with since := 0, firstAt := 0 }
    have hgo : ringInterrupt s n.val false = _ := raise_masked (s := setRing s n.val _) hm
    refine ⟨_, (exec_coalTimeExpire ht hs hd).trans (congrArg _ hgo), ringOf_setRing_same _ _ _, ?_,
      hset.sub.seq (setMsix_only _ _ _)⟩
    exact congrArg Msix.pend (msixOf_setMsix_same _ _ _)
  case idle =>
    intro f vec s g h hp
    exact ⟨_, (exec_msixUnmask h).trans (congrArg _ (unmask_idle hp)), msixOf_setMsix_same _ _ _,
      fun k hk => msixOf_setMsix_ne hk _, setMsix_only _ _ _⟩
  case pending =>
    intro f vec s g h hp ho
    exact ⟨_, (exec_msixUnmask h).trans (congrArg _ (unmask_pending hp ho)), msixOf_setMsix_same _ _ _, rfl,
      (setMsix_only _ _ _).sub.seq (emit_only _ _)⟩

/-! ## DESCRIPTOR_COMPLETE of a decided descriptor -/

section
variable {s : State} {n : Nat} {j : Job}

/-- The pegs after descriptor j has signalled (01 R38). -/
def signalled (s : State) (j : Job) : State :=
  match partOfRing s j.ring with
  | some p => if (j.status == stDone || j.status == stDoneSoiled) && j.bits 11 7 1 == 1 then addPeg s p (j.bits 10 0 12) 1 else s
  | none => s

theorem signalled_only (s : State) (j : Job) : OnlyParts [.pegs] s (signalled s j) := by
  unfold signalled
  split
  · exact .ite (addPeg_only _ _ _ _) (.refl _ _)
  · exact .refl _ _

theorem signalled_well {p : Nat} (hp : partOfRing s j.ring = some p) (hst : j.status = stDone ∨ j.status = stDoneSoiled)
    (hen : j.bits 11 7 1 = 1) : signalled s j = addPeg s p (j.bits 10 0 12) 1 := by simp [signalled, hp, hst, hen]

theorem signalled_not (h : partOfRing s j.ring = none ∨ (j.status ≠ stDone ∧ j.status ≠ stDoneSoiled) ∨ j.bits 11 7 1 = 0) :
    signalled s j = s := by
  unfold signalled
  split
  · next p hp =>
    obtain h | ⟨h1, h2⟩ | h := h
    · simp [hp] at h
    · simp [h1, h2]
    · simp [h]
  · rfl

/-- Descriptor j is gone from the tables of those in flight and of what they captured. -/
def leaving (s : State) (j : Job) : State := { s with
  hp := { s.hp with jobs := s.hp.jobs.filter (fun k => k.id != j.id) }
  tm := { s.tm with
    leaves := s.tm.leaves.filter (fun w => w.job != j.id)
    shots := s.tm.shots.filter (fun x => x.job != j.id)
    bound := s.tm.bound.filter (fun e => e.1 != j.id) }
  se := { s.se with found := s.se.found.filter (fun e => e.1 != j.id) } }

theorem leaving_only (s : State) (j : Job) : OnlyParts [.jobs, .searches, .shots, .queues] s (leaving s j) := fun p hp => by
  cases p <;> simp_all [Part.same, leaving]

theorem finishTag_only (s : State) (j : Job) : OnlyParts [.tags] s (finishTag s j) := by
  unfold finishTag
  refine .ite (fun p hp => ?_) (.refl _ _)
  cases p <;> simp_all [Part.same]

/-- Before its entry, a descriptor that completes signals and leaves; then come a tag record, a count, and a KEY_LOAD's wipe. -/
theorem completeJob_cases (s : State) (j : Job) : ∃ u, OnlyParts [.tags, .counts, .out] (leaving (signalled s j) j) u ∧
    s.out <+: u.out ∧ completeJob s j = if hostOpen u (fnOfRing s j.ring) && (ringOf u j.ring).held.isEmpty && !cplFull (ringOf u j.ring)
      then writeEntry u j.ring (entryOf j)
      else setRing u j.ring { ringOf u j.ring with
        held := (ringOf u j.ring).held ++ [{ entryOf j with shut := !hostOpen u (fnOfRing s j.ring) }] } := by
  have hout : (leaving (signalled s j) j).out = s.out :=
    ((signalled_only s j).sub.seq (ps := [.pegs, .jobs, .searches, .shots, .queues]) (leaving_only _ _)) .out (by decide)
  have htag := finishTag_only (leaving (signalled s j) j) j
  have hcount : OnlyParts [.tags, .counts] (leaving (signalled s j) j)
      (if j.engine < 64 then count (finishTag (leaving (signalled s j) j) j) (16 * j.engine + 14) 1
        else finishTag (leaving (signalled s j) j) j) := htag.sub.trans (.ite (count_only _ _ _).sub (.refl _ _))
  by_cases hkey : j.opcode = 0x070B ∧ j.extAddr ≠ 0
  · refine ⟨_, hcount.sub.seq (hostPut_only _ (fnOfRing s j.ring) j.extAddr (List.replicate 64 0) false), ?_, ?_⟩
    · rw [hostPut_out, hcount .out (by decide), hout]
      exact List.prefix_append _ _
    · simp only [completeJob, if_pos hkey]
      rfl
  · refine ⟨_, hcount.sub, ?_, ?_⟩
    · rw [hcount .out (by decide), hout]
    · simp only [completeJob, if_neg hkey]
      rfl

theorem job?_filter_same (l : List Job) (n : Nat) : (l.filter (fun k => k.id != n)).find? (fun k => k.id == n) = none := by
  simp [List.find?_eq_none]

theorem job?_filter_other (l : List Job) {n k : Nat} (h : k ≠ n) :
    (l.filter (fun j => j.id != n)).find? (fun j => j.id == k) = l.find? (fun j => j.id == k) := by
  rw [List.find?_filter]
  congr 1
  funext j
  by_cases hj : j.id = k <;> simp [hj, h]

/-- The entry touches rings, messages and counts alone. -/
theorem completeJob_entry (s : State) (j : Job) :
    OnlyParts [.tags, .counts, .out, .rings, .msix, .owed] (leaving (signalled s j) j) (completeJob s j) := by
  obtain ⟨u, hu, -, hc⟩ := completeJob_cases s j
  rw [hc]
  exact hu.sub.trans (.ite (writeEntry_only _ _ _).sub (setRing_only _ _ _).sub)

theorem jobs_completeJob (s : State) (j : Job) : (completeJob s j).hp.jobs = s.hp.jobs.filter (fun k => k.id != j.id) := by
  rw [(completeJob_entry s j .jobs (by decide)).1, ← (signalled_only s j .jobs (by decide)).1]
  rfl

theorem pegs_completeJob (s : State) (j : Job) : (completeJob s j).hp.pegs = (signalled s j).hp.pegs :=
  (completeJob_entry s j .pegs (by decide)).trans (leaving_only (signalled s j) j .pegs (by decide))

theorem job?_completeJob (s : State) (j : Job) : job? (completeJob s j) j.id = none := by
  rw [job?, jobs_completeJob]
  exact job?_filter_same _ _

theorem otherJobs_completeJob (s : State) (j : Job) : OtherJobs j.id s (completeJob s j) := fun k hk => by
  rw [job?, jobs_completeJob]
  exact job?_filter_other _ hk

/-- A descriptor that completes well signals its peg. -/
theorem pegOf_completeJob {p : Nat} (hp : partOfRing s j.ring = some p) (hst : j.status = stDone ∨ j.status = stDoneSoiled)
    (hen : j.bits 11 7 1 = 1) :
    pegOf (completeJob s j) p (j.bits 10 0 12) = pegOf s p (j.bits 10 0 12) + 1 ∧
      ∀ q k, k < 4096 → (q ≠ p ∨ k ≠ j.bits 10 0 12) → pegOf (completeJob s j) q k = pegOf s q k := by
  have hpegs (q k : Nat) : pegOf (completeJob s j) q k = pegOf (addPeg s p (j.bits 10 0 12) 1) q k := by
    rw [pegOf_congr (pegs_completeJob s j), signalled_well hp hst hen]
  exact ⟨(hpegs _ _).trans (pegOf_setPeg_same _ _ _ _), fun q k hk h => (hpegs _ _).trans (pegOf_setPeg_ne (j.peg_lt _ _) hk h _)⟩

theorem pegs_completeJob_not (h : partOfRing s j.ring = none ∨ (j.status ≠ stDone ∧ j.status ≠ stDoneSoiled) ∨ j.bits 11 7 1 = 0) :
    (completeJob s j).hp.pegs = s.hp.pegs := by rw [pegs_completeJob, signalled_not h]

theorem exec_descriptorComplete_decided (hj : job? s n = some j) (hm : mayComplete s j = true) :
    exec (.descriptorComplete n) s = .next (completeJob s j) := by
  have hph : j.phase = .decided := by
    simp only [mayComplete, Bool.and_eq_true, beq_iff_eq] at hm
    exact hm.1.1.1
  show execDescriptorComplete n s = _
  simp [execDescriptorComplete, hj, hph, hm]

end

/-- Settles O15: `completeJob` signals, then writes the entry or holds it; each clause reads one of the two. -/
theorem descriptorCompletes : Obligations.DescriptorCompletes := by
  intro n s j hj hm
  obtain rfl := job?_id hj
  obtain ⟨u, hu, hout, hc⟩ := completeJob_cases s j
  have hbefore : OnlyParts [.tags, .counts, .out, .pegs, .jobs, .searches, .shots, .queues] s u :=
    ((signalled_only s j).sub.seq (leaving_only _ _)).seq hu
  have hring := hbefore.ringOf
  simp only [hbefore.hostOpen, hring] at hc
  refine ⟨_, exec_descriptorComplete_decided hj hm, job?_completeJob s j, otherJobs_completeJob s j,
    fun p hp hst hen => pegOf_completeJob hp hst hen, pegs_completeJob_not, ?written, ?held, fun m hm => ?other⟩
  case written =>
    intro ho hh hf
    rw [if_pos (by simp [ho, hh, hf])] at hc
    obtain ⟨since, at', hw⟩ := ringOf_writeEntry u j.ring (entryOf j)
    obtain ⟨a, ha⟩ := hout
    obtain ⟨b, hb⟩ := writeEntry_out u j.ring (entryOf j)
    refine ⟨by rw [hc, hw, hring]; exact hh, a, b, ?_⟩
    rw [hc, ← hb, ← ha, hbefore.fnOfRing, hring, List.append_assoc _ [_] b]
    rfl
  case held =>
    intro h
    rw [if_neg (by simpa [or_iff_not_imp_left] using h)] at hc
    rw [hc, ringOf_setRing_same]
  case other =>
    rw [hc, ← hring m]
    split
    · exact ringOf_writeEntry_ne hm _
    · exact ringOf_setRing_ne hm _

/-- Settles O17: a wait peg below its threshold keeps its descriptor from beginning; the signal is `pegOf_completeJob`'s. -/
theorem waitAndSignalPegs : Obligations.WaitAndSignalPegs := by
  refine ⟨?wait, ?signal⟩
  case wait =>
    intro n s j p hn hp hen hlow
    have hmay : mayBegin s j = false := by simp [mayBegin, hp, hen, Nat.not_le.mpr hlow]
    show execDescriptorBegin n s = _
    simp [execDescriptorBegin, hn, hmay]
  case signal =>
    intro n s j p hj hm hp
    obtain rfl := job?_id hj
    exact ⟨_, exec_descriptorComplete_decided hj hm, job?_completeJob s j, fun h => pegOf_completeJob hp h.1 h.2,
      fun h => pegs_completeJob_not (.inr h)⟩

/-! ## The peg window -/

section
variable {s : State} (p : Fin 8) (i : Fin 4096)

theorem rPeg_lt : rPeg p.val i.val + 16 ≤ rBootStatus := by
  have := p.isLt
  have := i.isLt
  simp only [rPeg, rBootStatus]
  omega

theorem rPeg_ge : rPeg 0 0 ≤ rPeg p.val i.val := by
  simp only [rPeg]
  omega

/-- An offset of the window comes through the PF's BAR0 as it is. -/
theorem peg_offset_toNat {o : Nat} (ho : o < 16) :
    (BitVec.ofNat 32 (rPeg p.val i.val + o)).toNat = rPeg p.val i.val + o := by
  have hlt := rPeg_lt p i
  simp only [rBootStatus] at hlt
  rw [BitVec.toNat_ofNat, Nat.mod_eq_of_lt (by omega)]

theorem barOffset_peg {o : Nat} (ho : o < 16) :
    barOffset s (0 : Fin 9).val (rPeg p.val i.val + o) = some (rPeg p.val i.val + o) := by
  have hlt := rPeg_lt p i
  have hin : rPeg p.val i.val + o < 2 ^ 26 := by
    simp only [rBootStatus] at hlt
    omega
  simpa [barOffset, inBar, barOf] using hin

/-- A write to the window's offset o of a peg does nothing but at ADD (01 R40). -/
theorem hpWrite_peg (v : Word) {o : Nat} (ho : o < 16) :
    hpWrite 0 (rPeg p.val i.val + o) v s = if o = 8 then stateOf s (execPegWindowAdd 0 p i v s) else s := by
  have hp := p.isLt
  have hi := i.isLt
  have hring : ¬ (rRing 0 ≤ rPeg p.val i.val + o ∧ rPeg p.val i.val + o < rRing 512) := by
    simp only [rPeg, rRing]
    omega
  have hge : rPeg 0 0 ≤ rPeg p.val i.val + o := Nat.le_trans (rPeg_ge p i) (Nat.le_add_right _ o)
  have hnum : (rPeg p.val i.val + o - rPeg 0 0) / 0x10 = p.val * 4096 + i.val := by
    simp only [rPeg]
    omega
  have hoff : (rPeg p.val i.val + o) % 16 = o := by
    simp only [rPeg]
    omega
  have hpart : Fin.ofNat 8 ((p.val * 4096 + i.val) / 4096) = p := Fin.ext (by simp only [Fin.ofNat]; omega)
  have hpeg : Fin.ofNat 4096 (p.val * 4096 + i.val) = i := Fin.ext (by simp only [Fin.ofNat]; omega)
  simp only [hpWrite, if_neg hring, if_pos hge, hoff, hnum, hpart, hpeg]

theorem exec_registerWrite_peg (v : Word) (hb : booting s = true) {o : Nat} (ho : o < 16) :
    exec (.registerWrite 0 (BitVec.ofNat 32 (rPeg p.val i.val + o)) v) s =
      .next (if o = 8 then stateOf s (execPegWindowAdd 0 p i v s) else s) := by
  have hlt : rPeg p.val i.val + o < rBootStatus := Nat.lt_of_lt_of_le (Nat.add_lt_add_left ho _) (rPeg_lt p i)
  show execRegisterWrite 0 _ v s = _
  rw [execRegisterWrite, peg_offset_toNat p i ho, barOffset_peg p i ho]
  dsimp only
  rw [if_pos hlt, hpWrite_peg p i v ho]
  by_cases h8 : o = 8
  · have h4 : (rPeg p.val i.val + o) % 4 = 0 := by
      simp only [rPeg]
      omega
    simp [hb, h4]
  · simp [h8]

end

/-! ## Instances of strided registers -/

/-- `inst` finds block i at its offset. -/
theorem inst_hit {base k n i : Nat} (hk : 0 < k) (hi : i < n) : inst base k n (base + i * k) = some i := by
  have hlt : i * k < n * k := (Nat.mul_lt_mul_right hk).mpr hi
  simp [inst, Nat.mul_div_cancel _ hk, hlt]

/-- `inst` finds none below the first block. -/
theorem inst_below {base k n off : Nat} (h : off < base) : inst base k n off = none := by simp [inst, Nat.not_le.mpr h]

/-- `inst` finds none past the last block. -/
theorem inst_above {base k n off : Nat} (h : base + n * k ≤ off) : inst base k n off = none := by simp [inst, Nat.not_lt.mpr h]

/-- No count lies below the compute dies' units. -/
theorem isCount_of_lt {off : Nat} (h : off < 0x400000) : isCount off = false := by
  have hne {x : Nat} (hx : 0x400000 ≤ x) : (off == x) = false := beq_eq_false_iff_ne.mpr (by omega)
  have hno {b k n : Nat} (hb : 0x400000 ≤ b) : inst b k n off = none := inst_below (by omega)
  simp (disch := decide) only [isCount, List.contains_cons, List.contains_nil, hne, hno, Option.isSome_none, Bool.or_self]

section
variable {s : State} (p : Fin 8) (i : Fin 4096)

theorem inst_peg : inst (rPeg 0 0) 0x10 32768 (rPeg p.val i.val) = some (p.val * 4096 + i.val) := by
  have hp := p.isLt
  have hi := i.isLt
  have hoff : rPeg p.val i.val = rPeg 0 0 + (p.val * 4096 + i.val) * 0x10 := by
    simp only [rPeg]
    omega
  rw [hoff]
  exact inst_hit (by decide) (by omega)

theorem isPairLo_peg : isPairLo (rPeg p.val i.val) = true := by
  simp only [isPairLo, inst_peg, Option.isSome_some, Bool.or_true, Bool.true_or]

/-- VALUE is the peg (01 R40). -/
theorem pairValue_peg : pairValue s (rPeg p.val i.val) = pegOf s p.val i.val := by
  have hlt := rPeg_lt p i
  have hge := rPeg_ge p i
  have hcount : isCount (rPeg p.val i.val) = false := isCount_of_lt (Nat.lt_of_lt_of_le (by omega) (by decide : rBootStatus ≤ _))
  have hst : ¬ rPeg p.val i.val = rStitch := fun h => absurd (h ▸ hlt) (by decide)
  have hcmd : inst (rRing 0) 0x40 512 (rPeg p.val i.val) = none := inst_above (Nat.le_trans (by decide) hge)
  have hcpl : inst (rRing 0 + 8) 0x40 512 (rPeg p.val i.val) = none := inst_above (Nat.le_trans (by decide) hge)
  simp only [pairValue, hcount, if_neg hst, hcmd, hcpl, inst_peg, pegOf]
  rfl

/-- A _HI register of the PF reads its latched half (00 R5). -/
theorem readBar_hi {o : Nat} {w : Word} (hbar : barOffset s (0 : Fin 9).val (o + 4) = some (o + 4))
    (hl : tget (fun _ => none) s.hp.latches ((0 : Fin 9).val * 2 ^ 32 + o) = some w) (hlo : isPairLo o = true) :
    readBar s 0 (o + 4) = w := by
  rw [readBar, show barOffset s 0 (o + 4) = some (o + 4) from hbar]
  dsimp only
  rw [if_neg (by simp), Nat.add_sub_cancel, show tget (fun _ => none) s.hp.latches (0 * 2 ^ 32 + o) = some w from hl]
  simp [hlo]

end

/-- Settles O16: a write reaches `addPeg` at ADD alone; VALUE_LO latches the half that VALUE_HI reads. -/
theorem pegWindowOffsets : Obligations.PegWindowOffsets := by
  intro p i v s hr hb
  refine ⟨?add, ?other, ?value⟩
  case add =>
    have hadd : execPegWindowAdd 0 p i v s = .next (addPeg s p.val i.val (v.setWidth 64)) := exec_pegWindowAdd i v hr (.inl rfl)
    refine ⟨_, exec_registerWrite_peg p i v hb (o := 8) (by omega), ?_⟩
    rw [if_pos rfl, hadd]
    exact ⟨pegOf_setPeg_same _ _ _ _, fun q k hk h => pegOf_setPeg_ne i.isLt hk h _, addPeg_only _ _ _ _⟩
  case other =>
    intro o ho h8
    rw [exec_registerWrite_peg p i v hb ho, if_neg h8]
  case value =>
    have hoff : (BitVec.ofNat 32 (rPeg p.val i.val)).toNat = rPeg p.val i.val := peg_offset_toNat p i (o := 0) (by omega)
    have hbar : barOffset s (0 : Fin 9).val (BitVec.ofNat 32 (rPeg p.val i.val)).toNat = some (rPeg p.val i.val) := by
      rw [hoff]
      exact barOffset_peg p i (o := 0) (by omega)
    refine ⟨_, exec_pairLoRead hr hb hbar (isPairLo_peg p i), ?_, ?_,
      (latchHigh_only _ _ _ _).sub.seq (ps := [.out, .latches]) (emit_only _ _)⟩
    · rw [emit_out, hoff, pairValue_peg]
      rfl
    · refine readBar_hi (barOffset_peg p i (by omega)) ?_ (isPairLo_peg p i)
      rw [emit_hp, latchHigh_latches, tget_tset_same, pairValue_peg, wordOf]

/-! ## What leaves on the ports -/

section

theorem modPort_only (s : State) (n : Nat) (f : Port → Port) : OnlyParts [.ports] s (modPort s n f) := setPort_only s n _

theorem portCount_only (s : State) (p k n : Nat) : OnlyParts [.counts] s (portCount s p k n) := count_only s _ _

theorem putOut_only (s : State) (pt : Nat) (w : Waiting) : OnlyParts [.out, .counts, .ports] s (putOut s pt w) := by
  unfold putOut
  exact (((OnlyParts.ite (setPort_only _ _ _).sub (.refl _ _)).seq (setPort_only _ _ _)).seq (portCount_only _ _ _ _)).seq
    (send_only _ _)

theorem pump_only (n : Nat) (s : State) (pt : Nat) : OnlyParts [.out, .counts, .ports] s (pump n s pt) := by
  induction n generalizing s with
  | zero => exact .refl _ _
  | succ n ih =>
    rw [pump]
    split
    · exact .refl _ _
    · exact ((modPort_only _ _ _).sub.seq (putOut_only _ _ _)).seq (ih _)

theorem flushWait_only (s : State) (pt : Nat) : OnlyParts [.out, .counts, .ports] s (flushWait s pt) := pump_only _ _ _

theorem enqueue_only (s : State) (pt : Nat) (w : Waiting) : OnlyParts [.out, .counts, .ports] s (enqueue s pt w) :=
  (modPort_only _ _ _).sub.seq (flushWait_only _ _)

theorem push_only (s : State) (pt vc : Nat) (m : Msg) : OnlyParts [.out, .counts, .ports] s (push s pt vc m) :=
  enqueue_only _ _ _

theorem flood_only (s : State) (but : Option Nat) (origin : BitVec 12) (num : Word) (c : Cast) :
    OnlyParts [.out, .counts, .ports] s (flood s but origin num c) := .foldl (fun _ _ => push_only _ _ _ _) _ _

theorem casts_only (s : State) (k : Word) (l : List Cast) :
    OnlyParts [.casts] s { s with ol := { s.ol with cast := k, casts := l } } := fun p hp => by cases p <;> simp_all [Part.same]

theorem pumpCasts_only (n : Nat) (s : State) : OnlyParts [.out, .counts, .ports, .casts] s (pumpCasts n s) := by
  induction n generalizing s with
  | zero => exact .refl _ _
  | succ n ih =>
    rw [pumpCasts]
    split
    · exact .refl _ _
    · exact .ite (.refl _ _) ((((flood_only _ _ _ _ _).sub.seq (casts_only _ _ _)).seq (count_only _ _ _)).seq (ih _))

theorem originate_only (s : State) (c : Cast) : OnlyParts [.out, .counts, .ports, .casts] s (originate s c) :=
  (casts_only s s.ol.cast _).sub.seq (pumpCasts_only _ _)

theorem noteJobs_only (s : State) : OnlyParts [.jobLists, .ports, .counts, .out] s (noteJobs s) := by
  have hsent (l : List Word) : OnlyParts [.jobLists] s { s with ob := { s.ob with sentJobs := l } } := fun p hp => by
    cases p <;> simp_all [Part.same]
  exact .ite (.refl _ _) ((hsent _).sub.trans (.foldl (fun _ _ => (push_only _ _ _ _).sub) _ _))

end

/-! ## RING_ENABLE and RING_DISABLE -/

section
variable {s : State} {n : Nat} {w : Word}

/-- A ring as RING_ENABLE starts it (01 R26). -/
def Ring.started (r : Ring) (w : Word) (now : DWord) : Ring := { r with
  ctrl := w &&& 0xFFFFFF00 ||| 1, cmdHead := 0, cmdTail := 0, cplTail := 0, cplHead := 0, phase := true, halted := false, jobAt := now }

theorem ringCtrl_starts (hw : w.getLsbD 0 = true) (he : (ringOf s n).enabled = false)
    (hc : ringCfgOk s n (ringOf s n) = true) (hi : ringIdle s n = true) :
    ringCtrl s n w = noteJobs (setRing s n ((ringOf s n).started w s.now)) := by
  simp [ringCtrl, hw, he, hc, hi, Ring.started]

theorem ringCtrl_refuses (hw : w.getLsbD 0 = true) (he : (ringOf s n).enabled = false)
    (h : ringCfgOk s n (ringOf s n) = false ∨ ringIdle s n = false) :
    ringCtrl s n w = setRing s n { ringOf s n with ctrl := w &&& 0xFFFFFF00, err := (ringOf s n).err ||| 8 } := by
  have hno : (ringCfgOk s n (ringOf s n) && ringIdle s n) = false := by
    obtain h | h := h <;> simp [h]
  simp [ringCtrl, hw, he, hno]

theorem ringCtrl_stops (hw : w.getLsbD 0 = false) :
    ringCtrl s n w = noteJobs (setRing s n { ringOf s n with ctrl := w &&& 0xFFFFFF00 }) :=
  if_neg (by rw [hw]; exact Bool.false_ne_true)

/-- The coalescing fields of a value written leave ENABLE 0. -/
theorem coalescing_not_enabled (r : Ring) (w e : Word) : Ring.enabled { r with ctrl := w &&& 0xFFFFFF00, err := e } = false := by
  simp [Ring.enabled]

variable {f : Fin 9} {n : Fin 512} {v : Word} (hr : ready s = true) (hm : mayRing s f.val n.val = true)
include hr hm

theorem exec_ringEnable : exec (.ringEnable f n v) s = .next (ringCtrl s n.val (v ||| 1)) := runIf_of_true (by simp [hr, hm])

theorem exec_ringDisable : exec (.ringDisable f n v) s = .next (ringCtrl s n.val (v &&& 0xFFFFFFFE)) :=
  runIf_of_true (by simp [hr, hm])

end

/-- Settles O8: each case of `ringCtrl` stores its ring; the job lists that then go out leave every ring. -/
theorem ringsStartAndStop : Obligations.RingsStartAndStop := by
  have hset (v : Word) : (v ||| 1).getLsbD 0 = true := by simp
  have hclear (v : Word) : (v &&& 0xFFFFFFFE).getLsbD 0 = false := by simp
  have hnote (s : State) (n m : Nat) (r : Ring) : ringOf (noteJobs (setRing s n r)) m = ringOf (setRing s n r) m :=
    (noteJobs_only _).ringOf m
  have hframe (s : State) (n : Nat) (r : Ring) : OnlyParts [.rings, .jobLists, .ports, .counts, .out] s (noteJobs (setRing s n r)) :=
    (setRing_only _ _ _).sub.seq (noteJobs_only _)
  refine ⟨?starts, ?refuses, ?stops⟩
  case starts =>
    intro f n v s hr hm he hc hi
    have hring := (hnote s n.val n.val ((ringOf s n.val).started (v ||| 1) s.now)).trans (ringOf_setRing_same _ _ _)
    refine ⟨_, (exec_ringEnable hr hm).trans (congrArg _ (ringCtrl_starts (hset v) he hc hi)), ?_⟩
    rw [hring]
    exact ⟨by simp [Ring.started, Ring.enabled], rfl, rfl, rfl, rfl, rfl, rfl, rfl,
      fun m h => (hnote _ _ _ _).trans (ringOf_setRing_ne h _), hframe _ _ _⟩
  case refuses =>
    intro f n v s hr hm he h
    refine ⟨_, (exec_ringEnable hr hm).trans (congrArg _ (ringCtrl_refuses (hset v) he h)), ?_⟩
    rw [ringOf_setRing_same]
    exact ⟨coalescing_not_enabled _ _ _, rfl, fun m h => ringOf_setRing_ne h _, setRing_only _ _ _⟩
  case stops =>
    intro f n v s hr hm
    have hcoal : v &&& 0xFFFFFFFE &&& 0xFFFFFF00 = v &&& 0xFFFFFF00 := by
      rw [BitVec.and_assoc, show (0xFFFFFFFE : Word) &&& 0xFFFFFF00 = 0xFFFFFF00 from by decide]
    have hstop := ringCtrl_stops (s := s) (n := n.val) (hclear v)
    rw [hcoal] at hstop
    refine ⟨_, (exec_ringDisable hr hm).trans (congrArg _ hstop), ?_⟩
    rw [(hnote _ _ _ _).trans (ringOf_setRing_same _ _ _)]
    exact ⟨rfl, coalescing_not_enabled _ _ _, fun m h => (hnote _ _ _ _).trans (ringOf_setRing_ne h _), hframe _ _ _⟩

/-! ## DESCRIPTOR_BEGIN -/

section
variable {s t : State} {n : Nat} {j : Job} {e : Ending}

/-- What a change of every descriptor that keeps its number does to one. -/
theorem job?_map {f : Job → Job} (hf : ∀ j, (f j).id = j.id) (h : t.hp.jobs = s.hp.jobs.map f) (n : Nat) :
    job? t n = (job? s n).map f := by
  rw [job?, h, List.find?_map]
  congr 2
  funext j
  simp [hf]

theorem addTrigger_only (s : State) (sid : Nat) (t : DWord) (l : List Nat) : OnlyParts [.snaps] s (addTrigger s sid t l) :=
  setSnap_only _ _ _

theorem triggerAt_only (s : State) (j : Job) :
    OnlyParts [.regs, .log, .snaps, .out, .counts, .ports, .casts] s (triggerAt s j) := by
  have htrigger := addTrigger_only s (j.fld 24 2) (BitVec.ofNat 64 (j.fld 16 8)) [j.id]
  exact .ite (.refl _ _) (.ite (setStain_only _ _ _).sub
    (.ite (htrigger.sub.seq (originate_only _ _)) htrigger.sub))

theorem captureAt_only (s : State) (n : Nat) (j : Job) : OnlyParts [.shots, .searches, .queues] s (captureAt s n j) := by
  unfold captureAt
  split
  · refine .ite ?_ (.ite ?_ (.ite ?_ (.refl _ _)))
    · intro p hp
      cases p <;> simp_all [Part.same]
    · split
      · intro p hp
        cases p <;> simp_all [Part.same]
      · exact .refl _ _
    · split
      · intro p hp
        cases p <;> simp_all [Part.same]
      · exact .refl _ _
  · exact .refl _ _

theorem takeAt_only (s : State) (n : Nat) (j : Job) :
    OnlyParts [.shots, .searches, .queues, .snaps, .regs, .log, .casts, .ports, .out, .counts] s (takeAt s n j) :=
  .ite (triggerAt_only _ _).sub (captureAt_only _ _ _).sub

/-- Only a CHECKPOINT, a SEARCH, a MERGE, a SWAP and a SNAPSHOT take something as they begin. -/
theorem takeAt_plain (h : j.opcode ∉ [0x0707, 0x0904, 0x0905, 0x0101, 0x0B00]) : takeAt s n j = s := by
  simp only [List.mem_cons, List.not_mem_nil, or_false, not_or] at h
  obtain ⟨h1, h2, h3, h4, h5⟩ := h
  simp only [takeAt, if_neg h5, captureAt, h1, h2, h3, h4, or_self, if_false]
  split <;> rfl

/-- What descriptor k is as it begins as j: its time, its place, the lengths it sees. -/
def begunAs (s : State) (n : Nat) (j k : Job) : Job :=
  { k with beginAt := s.now, order := s.hp.begun + 1, seen := seenNow s n, demoted := demotes s j }

/-- The state in which j's checks find it: its ring has moved on, and its place in the order is taken. -/
def beginning (s : State) (n : Nat) (j : Job) : State :=
  let t := setRing s n { ringOf s n with nextSeq := (ringOf s n).nextSeq + 1 }
  modJob { t with hp := { t.hp with begun := s.hp.begun + 1 } } j.id (begunAs s n j)

theorem beginning_only (s : State) (n : Nat) (j : Job) : OnlyParts [.jobs, .rings] s (beginning s n j) := by
  have hbegun (t : State) (k : Nat) : OnlyParts [.jobs] t { t with hp := { t.hp with begun := k } } := fun p hp => by
    cases p <;> simp_all [Part.same]
  exact ((setRing_only _ _ _).sub.seq (hbegun _ _)).seq (modJob_only _ _ _)

theorem job?_beginning (hj : job? s j.id = some j) : job? (beginning s n j) j.id = some (begunAs s n j j) :=
  job?_modJob (s := { setRing s n { ringOf s n with nextSeq := (ringOf s n).nextSeq + 1 } with hp := _ }) (fun _ => rfl) hj

theorem otherJobs_beginning : OtherJobs j.id s (beginning s n j) :=
  otherJobs_modJob (s := { setRing s n { ringOf s n with nextSeq := (ringOf s n).nextSeq + 1 } with hp := _ })
    (f := begunAs s n j) (fun _ => rfl)

theorem ringOf_beginning (s : State) (n : Nat) (j : Job) :
    ringOf (beginning s n j) n = { ringOf s n with nextSeq := (ringOf s n).nextSeq + 1 } := ringOf_setRing_same _ _ _

theorem beginJob_bad (hs : j.seq = (ringOf s n).nextSeq.toNat) (he : headerErr j = some e ∨ headerErr j = none ∧ accessErr s j = some e) :
    beginJob s n j = finish (beginning s n j) j.id e := by
  have herr : (headerErr j <|> accessErr s j) = some e := by
    obtain he | ⟨hh, ha⟩ := he
    · simp [he]
    · simp [hh, ha]
  simp only [beginJob, hs, ne_eq, not_true, if_false, herr]
  rfl

theorem beginJob_good (hs : j.seq = (ringOf s n).nextSeq.toNat) (hh : headerErr j = none) (ha : accessErr s j = none) :
    beginJob s n j = modJob (takeAt (beginning s n j) n j) j.id (fun k => { k with phase := .checked }) := by
  have herr : (headerErr j <|> accessErr s j) = none := by simp [hh, ha]
  simp only [beginJob, hs, ne_eq, not_true, if_false, herr]
  rfl

theorem exec_descriptorBegin {n : Fin 512} (hn : nextJob s n.val = some j) (hb : mayBegin s j = true) :
    exec (.descriptorBegin n) s = .next (beginJob s n.val j) := by
  show execDescriptorBegin n s = _
  simp [execDescriptorBegin, hn, hb]

/-- What a sequence halt at j makes of descriptor k (01 R32). -/
def haltedAt (s : State) (n : Nat) (j k : Job) : Job :=
  if k.ring = n ∧ j.id ≤ k.id ∧ k.phase = .fetched then
    { k with phase := .decided, status := stBad, detail := 0x0408, decidedAt := s.now, ordered := true } else k

theorem haltedAt_id (s : State) (n : Nat) (j k : Job) : (haltedAt s n j k).id = k.id := by
  unfold haltedAt
  split <;> rfl

/-- The ring halts with its error bits; then its fetched descriptors from j on are decided. -/
theorem seqHalt_eq (s : State) (n : Nat) (j : Job) : ∃ u,
    u = setStain (setRing s n { ringOf s n with halted := true, err := (ringOf s n).err ||| 1 }) rHpStain 6 ∧
    seqHalt s n j = { u with hp := { u.hp with jobs := u.hp.jobs.map (haltedAt s n j) } } := ⟨_, rfl, rfl⟩

theorem jobsMap_only (s : State) (l : List Job) : OnlyParts [.jobs] s { s with hp := { s.hp with jobs := l } } := fun p hp => by
  cases p <;> simp_all [Part.same]

end

/-- Settles O13: the checks meet `beginning`; a wrong sequence number halts the ring as `haltedAt` says. -/
theorem descriptorBeginChecks : Obligations.DescriptorBeginChecks := by
  refine ⟨?good, ?bad, ?sequence⟩
  case good =>
    intro n s j hn hj hb hs hh ha
    have htake := takeAt_only (beginning s n.val j) n.val j
    have hbegin := beginning_only s n.val j
    obtain ⟨hjobs, hbegun⟩ := htake .jobs (by decide)
    refine ⟨_, (exec_descriptorBegin hn hb).trans (congrArg _ (beginJob_good hs hh ha)), hbegun, ?_, ?_, ?_, ?_, fun hop => ?_⟩
    · exact job?_modJob (f := fun k => { k with phase := .checked }) (fun _ => rfl) ((job?_congr hjobs _).trans (job?_beginning hj))
    · exact (otherJobs_beginning.trans (.of_jobs hjobs)).trans
        (otherJobs_modJob (f := fun k => { k with phase := .checked }) (fun _ => rfl))
    · rw [(modJob_only _ _ _).ringOf, htake.ringOf, ringOf_beginning]
    · exact (hbegin.sub.seq htake).seq (modJob_only _ _ _)
    · rw [takeAt_plain hop]
      exact hbegin.seq (modJob_only _ _ _)
  case bad =>
    intro n s j e hn hj hb hs he
    have hfin := finish_only (beginning s n.val j) j.id e
    exact ⟨_, (exec_descriptorBegin hn hb).trans (congrArg _ (beginJob_bad hs he)), decided_finish (job?_beginning hj) e,
      otherJobs_beginning.trans (otherJobs_finish e), (hfin.ringOf _).trans (ringOf_beginning _ _ _),
      (beginning_only _ _ _).seq hfin⟩
  case sequence =>
    intro n s j hn hb hs
    obtain ⟨u, rfl, hhalt⟩ := seqHalt_eq s n.val j
    have hring := setRing_only s n.val { ringOf s n.val with halted := true, err := (ringOf s n.val).err ||| 1 }
    have hstain := setStain_only (setRing s n.val { ringOf s n.val with halted := true, err := (ringOf s n.val).err ||| 1 }) rHpStain 6
    have hjobs : ∀ m, job? (seqHalt s n.val j) m = (job? s m).map (haltedAt s n.val j) := job?_map (haltedAt_id _ _ _) (by
      rw [hhalt]
      exact congrArg _ (hstain .jobs (by decide)).1)
    have hgo : beginJob s n.val j = seqHalt s n.val j := if_pos hs
    refine ⟨_, (exec_descriptorBegin hn hb).trans (congrArg _ hgo), ?_, fun m k hk h1 h2 h3 => ?_, fun m k hk h => ?_, ?_, ?_⟩
    · rw [hhalt]
      exact (hstain.ringOf _).trans (ringOf_setRing_same _ _ _)
    · refine ⟨haltedAt s n.val j k, by rw [hjobs, hk]; rfl, ?_⟩
      rw [haltedAt, if_pos ⟨h1, h2, h3⟩]
      exact ⟨rfl, rfl, rfl⟩
    · have hno : ¬ (k.ring = n.val ∧ j.id ≤ k.id ∧ k.phase = .fetched) := by
        rintro ⟨h1, h2, h3⟩
        obtain h | h | h := h
        · exact h h1
        · omega
        · exact h h3
      rw [hjobs, hk, Option.map_some, haltedAt, if_neg hno]
    · rw [hhalt]
      exact bitOf_setStain _ _ _ (by decide)
    · rw [hhalt]
      exact (hring.sub.seq hstain).seq (jobsMap_only _ _)

/-! ## Suspension -/

section
variable {s t : State} {p : Nat} {w : Word}

theorem restartWatches_only (s : State) (p : Nat) : OnlyParts [.groups] s (restartWatches s p) := fun q hq => by
  cases q <;> simp_all [Part.same, restartWatches]

theorem suspended_eq (s : State) (p : Nat) : suspended s p = (rreg s (rPartCtrl p)).getLsbD 0 := by
  rw [BitVec.getLsbD, ← bitOf_eq_testBit]
  rfl

theorem suspended_congr (h : rreg t (rPartCtrl p) = rreg s (rPartCtrl p)) : suspended t p = suspended s p := by
  rw [suspended_eq, suspended_eq, h]

@[simp] theorem suspended_wreg (s : State) (p : Nat) (w : Word) : suspended (wreg s (rPartCtrl p) w) p = w.getLsbD 0 := by
  rw [suspended_eq, rreg_wreg_same]

/-- Whether a partition is quiet after a write to its control register hangs on SUSPEND as written. -/
theorem quiet_wreg (s : State) (p : Nat) (w : Word) :
    quiet (wreg s (rPartCtrl p) w) p = (w.getLsbD 0 && !partRunning s p) := by
  rw [quiet, suspended_wreg]
  rfl

theorem partStatus_ne_partCtrl (p : Nat) : rPartStatus p ≠ rPartCtrl p := by
  simp only [rPartStatus, rPartCtrl]
  omega

/-- The registers after SUSPEND is written 1 without FLUSH. -/
theorem partCtrl_suspend (h0 : w.getLsbD 0 = true) (h1 : w.getLsbD 1 = false) :
    partCtrl s p w = wreg s (rPartCtrl p) (w &&& 0x35) := by
  rw [partCtrl, h0, h1]
  simp

theorem partCtrl_flush (h0 : w.getLsbD 0 = true) (h1 : w.getLsbD 1 = true) (hq : quiet (wreg s (rPartCtrl p) (w &&& 0x35)) p = true) :
    partCtrl s p w = flush (wreg s (rPartCtrl p) (w &&& 0x35)) p := by
  simp only [partCtrl, h0, h1, Bool.not_true, Bool.false_eq_true, if_true, if_false, if_pos hq]

/-- SUSPEND written 0 ends a held flush and lets the watchdogs start anew. -/
theorem partCtrl_resume (h0 : w.getLsbD 0 = false) : ∃ u, OnlyParts [.groups] (wreg s (rPartCtrl p) (w &&& 0x35)) u ∧
    (u = wreg s (rPartCtrl p) (w &&& 0x35) ∨ u = restartWatches (wreg s (rPartCtrl p) (w &&& 0x35)) p) ∧
    partCtrl s p w = wfield u (rPartStatus p) 4 1 0 := by
  refine ⟨if suspended s p then restartWatches (wreg s (rPartCtrl p) (w &&& 0x35)) p else wreg s (rPartCtrl p) (w &&& 0x35),
    .ite (restartWatches_only _ _) (.refl _ _), ?_, by rw [partCtrl, h0]; simp⟩
  split
  · exact .inr rfl
  · exact .inl rfl

/-- What a flush of partition p makes of descriptor j (01 R20). -/
def flushedAs (s : State) (p : Nat) (j : Job) : Job :=
  if partOfRing s j.ring = some p ∧ j.phase = .fetched then
    { j with phase := .decided, status := stSuspended, detail := 0, decidedAt := s.now } else j

theorem flushedAs_id (s : State) (p : Nat) (j : Job) : (flushedAs s p j).id = j.id := by
  unfold flushedAs
  split <;> rfl

theorem flush_only (s : State) (p : Nat) : OnlyParts [.regs, .jobs] s (flush s p) :=
  (jobsMap_only _ _).sub.seq (wfield_only _ _ _ _ _)

theorem otherRegs_flush (s : State) (p : Nat) : OtherRegs [rPartStatus p] s (flush s p) :=
  (OtherRegs.of_regs _ rfl).trans (otherRegs_wfield _ _ _ _ _)

/-- A flush ends what is fetched of the partition, leaves what is not, and is held no longer. -/
theorem flush_spec (s : State) (p : Nat) : rfield (flush s p) (rPartStatus p) 4 1 = 0 ∧
    (∀ n j, job? s n = some j → partOfRing s j.ring = some p → j.phase = .fetched → Decided (flush s p) n stSuspended 0) ∧
    (∀ n j, job? s n = some j → (partOfRing s j.ring ≠ some p ∨ j.phase ≠ .fetched) → job? (flush s p) n = some j) := by
  have hjobs : ∀ n, job? (flush s p) n = (job? s n).map (flushedAs s p) := job?_map (flushedAs_id s p) rfl
  refine ⟨rfield_wfield_same _ _ (by decide), fun n j hj hp hf => ?_, fun n j hj h => ?_⟩
  · refine ⟨flushedAs s p j, by rw [hjobs, hj]; rfl, ?_⟩
    rw [flushedAs, if_pos ⟨hp, hf⟩]
    exact ⟨rfl, rfl, rfl⟩
  · rw [hjobs, hj, Option.map_some, flushedAs, if_neg (by tauto)]

theorem portOf_setPort (s : State) (n : Nat) (x : Port) (m : Nat) : portOf (setPort s n x) m = if m = n then x else portOf s m :=
  tget_tset

/-- Where no frame stands held, releasing the held frames leaves every port. -/
theorem takeHeld_idle (h : ∀ n, n < 16 → (portOf s n).stalled = []) :
    OnlyParts [.ports] s (takeHeld s) ∧ ∀ n, portOf (takeHeld s) n = portOf s n := by
  refine List.foldlRecOn (motive := fun t => OnlyParts [.ports] s t ∧ ∀ n, portOf t n = portOf s n)
    (List.range 16) _ ⟨.refl _ _, fun _ => rfl⟩ (fun t ⟨hframe, hports⟩ pt hpt => ?_)
  have hst : (portOf t pt).stalled = [] := by rw [hports, h pt (List.mem_range.mp hpt)]
  simp only [hst, List.foldl_nil]
  refine ⟨hframe.seq (modPort_only _ _ _), fun n => ?_⟩
  rw [modPort, portOf_setPort, ← hports n]
  split
  · next hn =>
    subst hn
    rw [← hst]
  · rfl

/-- Where also no group of the partition runs an operation, nothing goes on as the partition resumes. -/
theorem resumeCe_idle (h : ∀ n, n < 16 → (portOf s n).stalled = [])
    (hg : ∀ g x, g < 64 → grpOf s g = some x → x.p = p → x.run = none) :
    OnlyParts [.ports] s (resumeCe s p) ∧ ∀ n, portOf (resumeCe s p) n = portOf s n := by
  unfold resumeCe
  split
  · exact ⟨.refl _ _, fun _ => rfl⟩
  · obtain ⟨hframe, hports⟩ := takeHeld_idle h
    refine List.foldlRecOn (motive := fun t => OnlyParts [.ports] s t ∧ ∀ n, portOf t n = portOf s n)
      (List.range 64) _ ⟨hframe, hports⟩ (fun t ⟨ht, hp⟩ g hmem => ?_)
    have hgrp : grpOf t g = grpOf s g := by rw [grpOf, (ht .groups (by decide)).1, grpOf]
    rw [hgrp]
    split
    · next x hx =>
      split
      · next r hr =>
        have hne : x.p ≠ p := fun he => by simp [hg g x (List.mem_range.mp hmem) hx he] at hr
        rw [if_pos hne]
        exact ⟨ht, hp⟩
      · exact ⟨ht, hp⟩
    · exact ⟨ht, hp⟩

theorem resumeCe_suspended (h : suspended s p = true) : resumeCe s p = s := if_pos h

theorem tget_map_value {α : Type} {d : Nat → α} {f : α → α} (hd : ∀ k, f (d k) = d k) (t : Tab α) (k : Nat) :
    tget d (t.map (fun e => (e.1, f e.2))) k = f (tget d t k) := by
  induction t with
  | nil => exact (hd k).symm
  | cons e t ih =>
    simp only [List.map_cons, tget, ih]
    split <;> rfl

/-- A watchdog that starts anew leaves what its group runs. -/
theorem grpOf_restartWatches {g : Nat} {x : Grp} (h : grpOf (restartWatches s p) g = some x) :
    ∃ y, grpOf s g = some y ∧ y.p = x.p ∧ y.run = x.run := by
  have hmap : grpOf (restartWatches s p) g = (grpOf s g).map (fun y => if y.p = p then { y with watch := s.now } else y) :=
    tget_map_value (f := Option.map fun y : Grp => if y.p = p then { y with watch := s.now } else y) (fun _ => rfl) _ _
  obtain ⟨y, hy, rfl⟩ := Option.map_eq_some_iff.mp (hmap ▸ h)
  refine ⟨y, hy, ?_⟩
  split <;> exact ⟨rfl, rfl⟩

theorem partSuspend_out (v : Word) (h1 : v.getLsbD 1 = false) : partWrite s p (v ||| 1) = wreg s (rPartCtrl p) ((v ||| 1) &&& 0x35) ∧
    suspended (partWrite s p (v ||| 1)) p = true := by
  have h0 : (v ||| 1).getLsbD 0 = true := by simp
  have hctrl : partCtrl s p (v ||| 1) = wreg s (rPartCtrl p) ((v ||| 1) &&& 0x35) := partCtrl_suspend h0 (by simpa using h1)
  have hsus : suspended (wreg s (rPartCtrl p) ((v ||| 1) &&& 0x35)) p = true := by simp
  have hout : partWrite s p (v ||| 1) = wreg s (rPartCtrl p) ((v ||| 1) &&& 0x35) := by
    rw [partWrite, hctrl, resumeCe_suspended hsus]
  exact ⟨hout, hout ▸ hsus⟩

/-- A resume of a partition with nothing held and nothing running for it. -/
theorem partResume_out (v : Word) (hst : ∀ n, n < 16 → (portOf s n).stalled = [])
    (hg : ∀ g x, g < 64 → grpOf s g = some x → x.p = p → x.run = none) :
    suspended (partWrite s p (v &&& 0xFFFFFFFE)) p = false ∧ rfield (partWrite s p (v &&& 0xFFFFFFFE)) (rPartStatus p) 4 1 = 0 ∧
    (∀ n, portOf (partWrite s p (v &&& 0xFFFFFFFE)) n = portOf s n) ∧
    OtherRegs [rPartCtrl p, rPartStatus p] s (partWrite s p (v &&& 0xFFFFFFFE)) ∧
    OnlyParts [.regs, .groups, .ports] s (partWrite s p (v &&& 0xFFFFFFFE)) := by
  generalize hw : v &&& (0xFFFFFFFE : Word) = w
  have h0 : w.getLsbD 0 = false := by simp [← hw]
  obtain ⟨u, hu, hcase, hctrl⟩ := partCtrl_resume (s := s) (p := p) h0
  have hframe : OnlyParts [.regs, .groups] s (partCtrl s p w) :=
    hctrl ▸ ((wreg_only _ _ _).sub.seq hu).seq (wfield_only _ _ _ _ _)
  have hport : ∀ n, portOf (partCtrl s p w) n = portOf s n := fun n => by
    rw [portOf, (hframe .ports (by decide) : (partCtrl s p w).ol.ports = _), portOf]
  have hgrp : ∀ g x, g < 64 → grpOf (partCtrl s p w) g = some x → x.p = p → x.run = none := fun g x hlt hx hp => by
    have hx' : grpOf u g = some x := by
      rw [hctrl] at hx
      exact hx
    rcases hcase with rfl | rfl
    · exact hg g x hlt hx' hp
    · obtain ⟨y, hy, hyp, hrun⟩ := grpOf_restartWatches hx'
      exact hrun ▸ hg g y hlt hy (hyp.trans hp)
  obtain ⟨hresume, hports⟩ := resumeCe_idle (fun n hn => by rw [hport, hst n hn]) hgrp
  have hregs : (partWrite s p w).regs = (wfield u (rPartStatus p) 4 1 0).regs := (hresume .regs (by decide)).trans (by rw [hctrl])
  have hureg : u.regs = (wreg s (rPartCtrl p) (w &&& 0x35)).regs := hu .regs (by decide)
  refine ⟨?_, ?_, fun n => (hports n).trans (hport n), ?_, hframe.sub.seq hresume⟩
  · rw [suspended_eq, rreg_congr hregs, otherRegs_wfield _ _ _ _ _ _ (by simpa using (partStatus_ne_partCtrl p).symm),
      rreg_congr hureg, rreg_wreg_same]
    simpa using h0
  · rw [rfield, rreg_congr hregs]
    exact rfield_wfield_same _ _ (by decide)
  · exact (((otherRegs_wreg _ _ _).mono (by simp)).trans (OtherRegs.of_regs _ hureg)).trans
      (((otherRegs_wfield _ _ _ _ _).mono (by simp)).trans (OtherRegs.of_regs _ hregs))

/-- A flush of a partition that is suspended with nothing running takes place at once. -/
theorem partFlush_out (hq : quiet s p = true) : ∃ t, OnlyParts [.regs] s t ∧ OtherRegs [rPartCtrl p] s t ∧ suspended t p = true ∧
    partCtrl s p (rreg s (rPartCtrl p) ||| 2) = flush t p := by
  obtain ⟨hsus, hrun⟩ := Bool.and_eq_true_iff.mp hq
  have h0 : (rreg s (rPartCtrl p) ||| 2).getLsbD 0 = true := by simp [← suspended_eq, hsus]
  exact ⟨_, wreg_only _ _ _, otherRegs_wreg _ _ _, by simp [← suspended_eq, hsus],
    partCtrl_flush h0 (by simp) (by rw [quiet_wreg]; simp [← suspended_eq, hsus, hrun])⟩

theorem suspended_flush (s : State) (p : Nat) : suspended (flush s p) p = suspended s p :=
  suspended_congr (otherRegs_flush s p _ (by simpa using (partStatus_ne_partCtrl p).symm))

end

/-! ## What accesses through the tiers change -/

section
variable {s t : State}

/-- `OnlyParts.seq` with the last change first, for a goal that names it. -/
theorem OnlyParts.after {ps qs : List Part} {u : State} (k : OnlyParts qs t u) (h : OnlyParts ps s t) (hq : qs ⊆ ps := by decide) :
    OnlyParts ps s u := h.seq k hq

theorem cacheSet_only (s : State) (c : Tab (Option Line)) : OnlyParts [.cache] s { s with tm := { s.tm with cache := c } } := fun p hp => by
  cases p <;> simp_all [Part.same]

theorem hbmMove_only (s : State) (g : Page) (off n : Nat) (write : Bool) : OnlyParts [.counts] s (hbmMove s g off n write) :=
  count_only _ _ _

theorem hbmSpan_only (s : State) (g : Page) (x y : Nat) (write : Bool) : OnlyParts [.counts] s (hbmSpan s g x y write) :=
  .foldl (fun _ _ => hbmMove_only _ _ _ _ _) _ _

theorem writeBackLine_only (s : State) (d : Nat) (l : Line) : OnlyParts [.counts] s (writeBackLine s d l) := by
  unfold writeBackLine
  split
  · exact (count_only _ _ _).seq (hbmMove_only _ _ _ _ _)
  · exact count_only _ _ _

theorem dropLines_only (s : State) (f : Nat → Nat → Bool) : OnlyParts [.cache, .counts] s (dropLines s f) := by
  refine .seq (.foldl (fun t e => ?_) _ _) (cacheSet_only _ _)
  split
  · exact .ite (writeBackLine_only _ _ _).sub (.refl _ _)
  · exact .refl _ _

theorem flushPool_only (s : State) (d : Nat) : OnlyParts [.cache, .counts] s (flushPool s d) := dropLines_only _ _

theorem cacheLine_only (s : State) (d k : Nat) (g : Page) (off : Nat) (write : Bool) :
    OnlyParts [.cache, .counts] s (cacheLine s d k g off write) := by
  unfold cacheLine
  dsimp only
  split
  · exact (cacheSet_only _ _).sub.seq (count_only _ _ _)
  · refine .after (hbmMove_only _ _ _ _ _) (.after (count_only _ _ _) (.after (cacheSet_only _ _) ?_))
    refine .after (.foldl (ps := [.cache]) (fun t w => ?_) _ _) ?_
    · split
      · exact .ite (cacheSet_only _ _) (.refl _ _)
      · exact .refl _ _
    · split
      · exact .ite (writeBackLine_only _ _ _).sub (.refl _ _)
      · exact .refl _ _

theorem poolAccess_only (s : State) (who : Option Nat) (p va : Nat) (g : Page) (x y : Nat) (write : Bool) :
    OnlyParts [.cache, .counts] s (poolAccess s who p va g x y write) := by
  unfold poolAccess
  dsimp only
  split
  · refine .ite (.after (hbmSpan_only _ _ _ _ _) ?_) (.after (.foldl (fun _ _ => cacheLine_only _ _ _ _ _ _) _ _) ?_)
    · exact .ite (dropLines_only _ _) (.refl _ _)
    · exact .ite (dropLines_only _ _) (.refl _ _)
  · exact .after (hbmSpan_only _ _ _ _ _) (.ite (dropLines_only _ _) (.refl _ _))

theorem badNodesSet_only (s : State) (l : List (Nat × Nat × Nat × Nat)) :
    OnlyParts [.nodes] s { s with tm := { s.tm with badNodes := l } } := fun p hp => by
  cases p <;> simp_all [Part.same]

theorem walk_only (s : State) (p va size : Nat) : OnlyParts [.nodes, .regs, .log] s (walk s p va size) :=
  .ite (.refl _ _) (.foldl (fun _ _ => .ite ((badNodesSet_only _ _).sub.seq (setStain_only _ _ _)) (.refl _ _)) _ _)

theorem noteShots_only (s : State) (p va bits : Nat) : OnlyParts [.shots] s (noteShots s p va bits) := by
  refine .ite (.refl _ _) (fun p hp => ?_)
  cases p <;> simp_all [Part.same]

/-- What reaching the pages of an access may change. -/
def touchParts : List Part := [.pages, .pats, .shots, .cache, .nodes, .regs, .log, .counts]

theorem touchBy_only (s : State) (who : Option Nat) (x : Span) : OnlyParts touchParts s (touchBy s who x) := by
  refine .ite (.refl _ _) (.foldl (fun t pg => ?_) _ _)
  dsimp only
  split
  · exact .refl _ _
  · next g _ =>
    have hpage : ∀ b : Bool, ∀ g : Page, OnlyParts touchParts t
        (if b then setOwn t x.place pg.2.1 (some g) else setPage t x.place pg.2.1 (some g)) := fun _ _ =>
      .ite (setOwn_only _ _ _ _).sub (setPage_only _ _ _ _).sub
    have hwalk : ∀ (u : State) (bits : Nat), OnlyParts touchParts u
        (walk (if x.write then noteShots u x.place pg.2.1 bits else u) x.place pg.2.1 pg.2.2) := fun u _ =>
      .seq (.ite (noteShots_only _ _ _ _).sub (.refl _ _)) (walk_only _ _ _ _)
    exact .ite (((hpage _ _).trans (hwalk _ _)).seq (poolAccess_only _ _ _ _ _ _ _ _)) ((hpage _ _).trans (hwalk _ _))

theorem touchSpan_only (s : State) (x : Span) : OnlyParts touchParts s (touchSpan s x) := touchBy_only s none x

theorem freeSet_only (s : State) (n : Nat) : OnlyParts [.free] s { s with free := n } := fun p hp => by
  cases p <;> simp_all [Part.same]

theorem freeFill_only (s : State) (x : Span) : OnlyParts [.mem, .soil, .nans, .free] s (freeFill s x) := by
  have hput : ∀ (t : State) (k a n : Nat) (bs : List Byte), OnlyParts [.mem, .soil, .nans, .free] t
      { writeAt t k a bs noSoil with free := n } := fun t k a n bs => (writeAt_only _ _ _ _ _).sub.seq (freeSet_only _ _)
  refine .ite (hput _ _ _ _ _) (.foldl (fun t pg => ?_) _ _)
  dsimp only
  split
  · exact .refl _ _
  · exact hput _ _ _ _ _

theorem noteSpill_only (s : State) : OnlyParts [.regs] s (noteSpill s) :=
  .ite (wfield_only _ _ _ _ _) (.ite (wfield_only _ _ _ _ _) (.refl _ _))

theorem otherRegs_noteSpill (s : State) : OtherRegs [rTmStatus] s (noteSpill s) := by
  unfold noteSpill
  dsimp only
  split
  · exact otherRegs_wfield _ _ _ _ _
  · split
    · exact otherRegs_wfield _ _ _ _ _
    · exact .of_regs _ rfl

theorem searchesSet_only (s : State) (xs : List Search) (ls : List LeafWork) (as : List Nat) :
    OnlyParts [.searches] s { s with tm := { s.tm with searches := xs, leaves := ls, asks := as } } := fun p hp => by
  cases p <;> simp_all [Part.same]

theorem grantJob_only (acc : State × Tab Nat) (n : Nat) : OnlyParts [.searches] acc.1 (grantJob acc n).1 := by
  unfold grantJob
  dsimp only
  split
  · exact searchesSet_only _ _ _ _
  · exact searchesSet_only _ _ _ _
  · exact .refl _ _

theorem grantContexts_only (s : State) : OnlyParts [.searches] s (grantContexts s) := by
  have hfold : ∀ (l : List Nat) (acc : State × Tab Nat), OnlyParts [.searches] acc.1 (l.foldl grantJob acc).1 := fun l => by
    induction l with
    | nil => exact fun acc => .refl _ _
    | cons n l ih => exact fun acc => (grantJob_only acc n).trans (ih _)
  exact (searchesSet_only _ _ _ _).trans (hfold _ _)

end

/-! ## What a job abort may change -/

section
variable {s t : State}

theorem dropHold_only (s : State) (p b : Nat) : OnlyParts [.holds] s (dropHold s p b) := setHolds_only _ _ _ _

theorem dropPrefetch_only (s : State) (j : Job) : OnlyParts [.waits, .holds] s (dropPrefetch s j) :=
  .ite (.after (.foldl (fun _ _ => dropHold_only _ _ _) _ _) (dropWaits_only _ _).sub) (dropWaits_only _ _).sub

theorem dropShot_only (s : State) (n : Nat) : OnlyParts [.shots] s (dropShot s n) := fun p hp => by
  cases p <;> simp_all [Part.same, dropShot]

theorem unholdSpin_only (s : State) (x : SpinRun) : OnlyParts [.holds] s (unholdSpin s x) :=
  .foldl (fun _ _ => dropHold_only _ _ _) _ _

theorem endRun_only (s : State) (g : Nat) (e : Ending) : OnlyParts [.holds, .groups, .jobs, .counts] s (endRun s g e) := by
  unfold endRun
  split
  · exact .refl _ _
  · split
    · exact .refl _ _
    · refine .after (count_only _ _ _) (.after (finish_only _ _ _) (.after (setGrp_only _ _ _) ?_))
      split
      · exact (unholdSpin_only _ _).sub
      · exact .refl _ _

theorem collStain_only (s : State) (st : Nat) : OnlyParts [.regs, .log] s (collStain s st) :=
  .ite (setStain_only _ _ _) (.ite (setStain_only _ _ _) (.ite (setStain_only _ _ _) (.refl _ _)))

/-- What the end of a group's operation without its result may change. -/
def breakParts : List Part := [.mem, .soil, .nans, .free, .holds, .groups, .jobs, .counts, .regs, .log]

theorem breakRun_only (s : State) (g : Nat) (e : Ending) (m : Nat) : OnlyParts breakParts s (breakRun s g e m) := by
  unfold breakRun
  split
  · exact .refl _ _
  · next x _ =>
    have hloose : OnlyParts breakParts s (match x.run with | some r => (runLoose x r).foldl freeFill s | none => s) := by
      split
      · exact .after (.foldl freeFill_only _ _) (.refl _ _)
      · exact .refl _ _
    have hend := (hloose.seq (endRun_only _ g e)).seq (collStain_only _ e.1)
    dsimp only
    split
    · exact hend.seq (setGrp_only _ _ _)
    · exact hend

theorem dropLeaves_only (s : State) (n : Nat) : OnlyParts [.searches] s (dropLeaves s n) :=
  .ite (.after (grantContexts_only _) (searchesSet_only _ _ _ _)) (.refl _ _)

theorem dropSearch_only (s : State) (n : Nat) : OnlyParts [.searches] s (dropSearch s n) :=
  .after (grantContexts_only _) (searchesSet_only _ _ _ _)

theorem dropRecall_only (s : State) (n : Nat) : OnlyParts [.waits, .searches, .holds, .regions] s (dropRecall s n) := by
  refine .after (.foldl (ps := [.holds, .regions]) (fun t r => ?_) _ _) (.after (dropLeaves_only _ _) (dropWaits_only _ _).sub)
  refine .after (modRegion_only _ _ _ _) (.foldl (fun u e => .foldl (fun v b => (dropHold_only v r.p b).sub) _ _) _ _)

theorem setIndex_only (s : State) (p n : Nat) (f : Index → Index) :
    OnlyParts (touchParts ++ [.indexes, .mem, .soil, .nans]) s (setIndex s p n f) := by
  unfold setIndex
  dsimp only
  split
  · exact .after (writeAt_only _ _ _ _ _) (.after (touchSpan_only _ _) (modIndex_only _ _ _ _).sub)
  · exact (modIndex_only _ _ _ _).sub

theorem pieceGroupsSet_only (s : State) (gs : List Group) : OnlyParts [.transfers] s { s with se := { s.se with groups := gs } } := fun p hp => by
  cases p <;> simp_all [Part.same]

theorem startArming_only (s : State) (q : Nat) (a : Arming) : OnlyParts [.queues, .counts, .jobs] s (startArming s q a) :=
  .after (modJob_only _ _ _) (.after (wcnt_only _ _ _) (setQueue_only _ _ _).sub)

theorem noteParked_only (s : State) (q : Nat) : OnlyParts [.jobs] s (noteParked s q) := by
  unfold noteParked
  dsimp only
  split
  · exact .refl _ _
  · exact modJob_only _ _ _

theorem settleQueue_only (s : State) (q : Nat) : OnlyParts [.queues, .counts, .jobs, .waits] s (settleQueue s q) := by
  unfold settleQueue
  dsimp only
  split
  · exact .refl _ _
  · refine .ite (.after (noteParked_only _ _) ?_) (noteParked_only _ _).sub
    have hfin : ∀ x n e, OnlyParts [.queues, .counts, .jobs, .waits] s (finish (dropWaits (setQueue s q x) n) n e) := fun x n e =>
      .after (finish_only _ _ _) (.after (dropWaits_only _ _) (setQueue_only _ _ _).sub)
    split
    · exact .after (startArming_only _ _ _) (hfin _ _ _)
    · exact hfin _ _ _

theorem stopQueue_only (s : State) (q : Nat) (f : Nat → Bool) (e : Ending) :
    OnlyParts [.queues, .counts, .jobs, .waits, .transfers] s (stopQueue s q f e) := by
  have hpend : OnlyParts [.queues, .counts, .jobs, .waits, .transfers] s (match (queueOf s q).pend with
      | some b => if f b.job then finish (setQueue s q { queueOf s q with pend := none }) b.job e else s
      | none => s) := by
    split
    · exact .ite (.after (finish_only _ _ _) (setQueue_only _ _ _).sub) (.refl _ _)
    · exact .refl _ _
  unfold stopQueue
  dsimp only
  split
  · exact .ite (.after (settleQueue_only _ _) (.after (pieceGroupsSet_only _ _) (.after (setQueue_only _ _ _) hpend))) hpend
  · exact hpend

theorem sharesSet_only (s : State) (l : List TpShare) : OnlyParts [.tileProgs] s { s with tp := { s.tp with shares := l } } := fun p hp => by
  cases p <;> simp_all [Part.same]

theorem stopShare_only (s : State) (n : Nat) : OnlyParts [.mem, .soil, .nans, .free, .tileProgs] s (stopShare s n) := by
  have hdrop : OnlyParts [.tileProgs] s (dropShare s n) := sharesSet_only _ _
  unfold stopShare
  split
  · split
    · exact .after (.foldl freeFill_only _ _) hdrop.sub
    · exact hdrop.sub
  · exact .refl _ _

theorem freeTicket_only (s : State) (p k : Nat) : OnlyParts [.tickets] s (freeTicket s p k) := setTicket_only _ _ _ _

theorem dropTickets_only (s : State) (n : Nat) : OnlyParts [.mem, .soil, .nans, .free, .tickets] s (dropTickets s n) := by
  refine .foldl (fun u e => ?_) _ _
  refine .ite (.refl _ _) ?_
  dsimp only
  have hfree : OnlyParts [.mem, .soil, .nans, .free, .tickets] u (freeTicket u (e.1 / 256) (e.1 % 256)) := (freeTicket_only _ _ _).sub
  split
  · exact hfree
  · refine .ite ?_ (.trans hfree (.foldl (fun w q => ?_) _ _))
    · split
      · exact .after (.foldl freeFill_only _ _) hfree
      · exact hfree
    · split
      · exact .after (.foldl freeFill_only _ _) (.refl _ _)
      · exact .refl _ _

theorem dropProducts_only (s : State) (n : Nat) : OnlyParts [.arrays] s (dropProducts s n) := .foldl (fun _ _ => setArr_only _ _ _ _) _ _

theorem markAppend_only (s : State) (p o n st : Nat) : OnlyParts [.regions] s (markAppend s p o n st) := modRegion_only _ _ _ _

theorem dropAppend_only (s : State) (j : Job) : OnlyParts [.regions] s (dropAppend s j) :=
  (modRegion_only _ _ _ _).trans (markAppend_only _ _ _ _ _)

theorem dropUpdate_only (s : State) (j : Job) : OnlyParts (touchParts ++ [.indexes, .mem, .soil, .nans]) s (dropUpdate s j) :=
  .ite (setIndex_only _ _ _ _) (.refl _ _)

theorem patsSet_only (s : State) (x : Tab Patterns) : OnlyParts [.pats] s { s with tm := { s.tm with pats := x } } := fun p hp => by
  cases p <;> simp_all [Part.same]

theorem opsSet_only (s : State) (l : List RemOp) : OnlyParts [.ops] s { s with ol := { s.ol with ops := l } } := fun p hp => by
  cases p <;> simp_all [Part.same]

theorem snapsSet_only (s : State) (l : Tab Snap) : OnlyParts [.snaps] s { s with ob := { s.ob with snaps := l } } := fun p hp => by
  cases p <;> simp_all [Part.same]

theorem capsSet_only (s : State) (l : List SchedCap) : OnlyParts [.caps] s { s with pw := { s.pw with caps := l } } := fun p hp => by
  cases p <;> simp_all [Part.same]

theorem abortsSet_only (s : State) (l : List (Word × DWord)) : OnlyParts [.aborts] s { s with ob := { s.ob with aborts := l } } := fun p hp => by
  cases p <;> simp_all [Part.same]

/-- Where a descriptor that has begun may stand: what abandoning it reaches. -/
def abandonParts : List Part := tierParts ++ [.snaps, .caps, .holds, .regions, .indexes, .searches, .arrays, .tileProgs, .tickets, .queues,
  .transfers, .ops, .groups]

theorem abandon_only (s : State) (j : Job) : OnlyParts abandonParts s (abandon s j).1 := by
  have hpick : ∀ {b : Prop} [Decidable b] {x y : State × Bool}, OnlyParts abandonParts s x.1 → OnlyParts abandonParts s y.1 →
      OnlyParts abandonParts s (if b then x else y).1 := fun hx hy => by split <;> assumption
  unfold abandon
  refine hpick (dropProducts_only _ _).sub (hpick (dropAppend_only _ _).sub (hpick (.ite (patsSet_only _ _).sub (.refl _ _))
    (hpick (dropLeaves_only _ _).sub (hpick (dropRecall_only _ _).sub (hpick (.ite (dropPrefetch_only _ _).sub (.refl _ _))
    (hpick (dropShot_only _ _).sub (hpick (dropUpdate_only _ _).sub (hpick (dropSearch_only _ _).sub
    (hpick (.ite (modIndex_only _ _ _ _).sub (.refl _ _)) (hpick (.after (stopShare_only _ _) (dropTickets_only _ _).sub)
    (hpick ?_ (hpick ?_ (hpick (opsSet_only _ _).sub (hpick (snapsSet_only _ _).sub (hpick (.refl _ _)
    (hpick (capsSet_only _ _).sub (hpick (modJob_only _ _ _).sub (.refl _ _))))))))))))))))))
  · dsimp only
    split
    · exact (setGrp_only _ _ _).sub
    · exact .refl _ _
  · dsimp only
    split
    · exact (breakRun_only _ _ _ _).sub
    · exact .refl _ _

theorem abortJobOf_only (s : State) (j : Job) : OnlyParts abortParts s (abortJobOf s j) := by
  have hrest : OnlyParts abortParts s (abandon (dropWaits s j.id) j).1 := (dropWaits_only _ _).sub.seq (abandon_only _ _)
  exact .ite (.refl _ _) (.ite (finish_only _ _ _).sub (.ite (.foldl (fun _ _ => (stopQueue_only _ _ _ _).sub) _ _)
    (.ite (hrest.seq (finish_only _ _ _)) hrest)))

theorem abortRings_only (s : State) (f : Nat → Bool) : OnlyParts abortParts s (abortRings s f) := by
  refine .trans (.foldl (fun u j => ?_) _ _) (.foldl (fun _ _ => .ite (setRing_only _ _ _).sub (.refl _ _)) _ _)
  split
  · exact abortJobOf_only _ _
  · exact .refl _ _

theorem abortLocal_only (s : State) (J : Word) (ta : DWord) (cause origin : Nat) :
    OnlyParts abortParts s (abortLocal s J ta cause origin) :=
  .ite (.refl _ _) (.after (setStain_only _ _ _) (.after (wreg_only _ _ _) (.after (wreg_only _ _ _)
    ((abortsSet_only _ _).sub.seq (abortRings_only _ _)))))

theorem abortFrom_only (s : State) (J : Word) (ta : DWord) (cause : Nat) : OnlyParts abortParts s (abortFrom s J ta cause) :=
  .ite (.refl _ _) ((abortLocal_only _ _ _ _ _).seq (originate_only _ _))

end

/-! ## Resets of functions and partitions -/

section
variable {α : Type} {d : Nat → α}

/-- A dropped key reads as its default and every other one as before. -/
theorem tget_tdrop (t : Tab α) (f : Nat → Bool) (k : Nat) : tget d (tdrop t f) k = if f k then d k else tget d t k := by
  split
  · next h => exact tget_of_not_mem (fun e he hk => by simp_all [tdrop])
  · next h => exact tget_filter (fun e _ hk => by simp_all)

end

section
variable {s t u : State} {p n : Nat}

/-! ### What a reset may change -/

theorem wipeKeys_only (s : State) (f : Job → Bool) : OnlyParts [.out, .counts] s (wipeKeys s f) :=
  .foldl (fun _ _ => (hostPut_only _ _ _ _ _).sub) _ _

/-- What the reset of a function's rings may change. -/
def ringResetParts : List Part := [.out, .counts, .jobs, .tags, .snaps, .caps, .ops, .ports, .waits, .searches, .shots, .queues,
  .latches, .rings, .owed]

theorem discardJobs_only (s : State) (f : Job → Bool) : OnlyParts ringResetParts s (discardJobs s f) := by
  intro p hp
  have h := wipeKeys_only s f p
  cases p <;> simp_all [Part.same, discardJobs, ringResetParts]

theorem resetRings_only (s : State) (f : Nat) : OnlyParts ringResetParts s (resetRings s f) :=
  (discardJobs_only s (fun j => ringOwner s.hp.own j.ring == some f)).trans (fun p hp => by
    cases p <;> simp_all [Part.same, resetRings, ringResetParts])

theorem clearQueue_only (s : State) (q : Nat) : OnlyParts [.queues, .counts, .transfers] s (clearQueue s q) :=
  .after (pieceGroupsSet_only _ _) (.after (wcnt_only _ _ _) (setQueue_only _ _ _).sub)

/-- What the reset of a partition's memory may change. -/
def memoryResetParts : List Part := [.mem, .soil, .nans, .pages, .holds, .objs, .regions, .waits, .keys, .pats, .shots, .nodes,
  .cache, .indexes, .searches]

theorem resetMemory_only (s : State) (p : Nat) : OnlyParts memoryResetParts s (resetMemory s p) := fun q hq => by
  cases q <;> simp_all [Part.same, resetMemory, memoryResetParts]

/-- What the reset of a partition's engines may change. -/
def engineResetParts : List Part := [.queues, .counts, .transfers, .regs, .arrays, .programs, .tileProgs, .tickets, .pegs, .wins,
  .groups]

theorem resetEngines_only (s : State) (p : Nat) : OnlyParts engineResetParts s (resetEngines s p) :=
  .trans (t := (queuesOfPart s p).foldl clearQueue s) (.foldl (fun t q => (clearQueue_only t q).sub) _ _) (fun q hq => by
    cases q <;> simp_all [Part.same, resetEngines, engineResetParts])

theorem latchesSet_only (s : State) (l : Tab (Option Word)) : OnlyParts [.latches] s { s with hp := { s.hp with latches := l } } := fun q hq => by
  cases q <;> simp_all [Part.same]

/-- What the reset of a partition may change. -/
def partResetParts : List Part := ringResetParts ++ memoryResetParts ++ engineResetParts

/-- The state in which a partition's reset begins: what was latched of its pairs is gone, and its owner's rings are reset. -/
def ringsGone (s : State) (p : Nat) (f : Option Nat) : State :=
  let t := { s with hp := { s.hp with latches := tdrop s.hp.latches (fun k => partPair s p (k % 2 ^ 32)) } }
  match f with
  | some k => resetRings t k
  | none => t

theorem resetPart_eq (s : State) (p : Nat) (f : Option Nat) : resetPart s p f =
    wfield (noteSpill (grantContexts (resetMemory (resetEngines (ringsGone s p f) p) p))) (rPartStatus p) 2 1 1 := by
  cases f <;> rfl

theorem ringsGone_only (s : State) (p : Nat) (f : Option Nat) : OnlyParts ringResetParts s (ringsGone s p f) := by
  cases f with
  | none => exact (latchesSet_only _ _).sub
  | some k => exact (latchesSet_only _ _).sub.seq (resetRings_only _ _)

theorem resetPart_only (s : State) (p : Nat) (f : Option Nat) : OnlyParts partResetParts s (resetPart s p f) := by
  rw [resetPart_eq]
  exact .after (wfield_only _ _ _ _ _) (.after (noteSpill_only _) (.after (grantContexts_only _)
    (.after (resetMemory_only _ _) (.after (resetEngines_only _ _) (ringsGone_only _ _ _).sub))))

theorem resetFunction_only (s : State) (f : Nat) : OnlyParts partResetParts s (resetFunction s f) := by
  unfold resetFunction
  split
  · exact resetPart_only _ _ _
  · exact (resetRings_only _ _).sub

theorem bootSet_only (s : State) (b : Boot) : OnlyParts [.boot] s { s with boot := b } := fun p hp => by
  cases p <;> simp_all [Part.same]

theorem settleCores_only (s : State) : OnlyParts [.boot] s (settleCores s) := bootSet_only _ _

/-! ### What a reset clears stays clear -/

/-- t is s with things reset, and nothing put in their place. -/
structure Subsides (s t : State) : Prop where
  own : t.hp.own = s.hp.own
  peg : ∀ p i, pegOf t p i = pegOf s p i ∨ pegOf t p i = 0
  byte : ∀ p a, byteAt t p a = byteAt s p a ∨ byteAt t p a = 0
  objs : t.tm.objs ⊆ s.tm.objs
  key : ∀ p, keyOf t p = keyOf s p ∨ keyOf t p = none
  resetting : ∀ p, p < 8 → rfield t (rPartStatus p) 2 1 = rfield s (rPartStatus p) 2 1 ∨ rfield t (rPartStatus p) 2 1 = 1
  status : ∀ p i, p < 8 → i < 32 → i ≠ 2 → rfield t (rPartStatus p) i 1 = rfield s (rPartStatus p) i 1
  ring : ∀ n, ringOf t n = ringOf s n ∨ ringOf t n = ring0
  jobs : t.hp.jobs ⊆ s.hp.jobs

theorem eq_or_trans {β : Type} {x y z c : β} (h : y = x ∨ y = c) (k : z = y ∨ z = c) : z = x ∨ z = c := by
  rcases k with rfl | rfl
  · exact h
  · exact .inr rfl

theorem eq_of_eq_or {β : Type} {x y c : β} (h : y = x ∨ y = c) (k : x = c) : y = c := h.elim (·.trans k) id

theorem Subsides.refl (s : State) : Subsides s s :=
  ⟨rfl, fun _ _ => .inl rfl, fun _ _ => .inl rfl, List.Subset.refl _, fun _ => .inl rfl, fun _ _ => .inl rfl, fun _ _ _ _ _ => rfl,
    fun _ => .inl rfl, List.Subset.refl _⟩

theorem Subsides.trans (h : Subsides s t) (k : Subsides t u) : Subsides s u where
  own := k.own.trans h.own
  peg p i := eq_or_trans (h.peg p i) (k.peg p i)
  byte p a := eq_or_trans (h.byte p a) (k.byte p a)
  objs := fun _ ho => h.objs (k.objs ho)
  key p := eq_or_trans (h.key p) (k.key p)
  resetting p hp := eq_or_trans (h.resetting p hp) (k.resetting p hp)
  status p i hp h32 hi := (k.status p i hp h32 hi).trans (h.status p i hp h32 hi)
  ring n := eq_or_trans (h.ring n) (k.ring n)
  jobs := fun _ hj => h.jobs (k.jobs hj)

theorem rfield_of_rreg {o : Nat} (h : rreg t o = rreg s o) (lo len : Nat) : rfield t o lo len = rfield s o lo len := by
  rw [rfield, h, rfield]

/-- The parts that `Subsides` speaks of. -/
def clearedParts : List Part := [.link, .pegs, .mem, .objs, .keys, .regs, .rings, .jobs]

/-- A frame in which beside parts that do not matter only registers change, and no partition's status register. -/
theorem Subsides.of_regs {ps : List Part} (h : OnlyParts ps s t) (hreg : ∀ p, p < 8 → rreg t (rPartStatus p) = rreg s (rPartStatus p))
    (hps : ∀ p ∈ clearedParts, p ≠ .regs → p ∉ ps := by decide) : Subsides s t where
  own := h.own (hps _ (by decide) (by decide))
  peg p i := .inl (pegOf_congr (h .pegs (hps _ (by decide) (by decide))) p i)
  byte p a := .inl (by rw [byteAt, (h .mem (hps _ (by decide) (by decide)) : t.tm.mem = _), byteAt])
  objs := (h .objs (hps _ (by decide) (by decide)) : t.tm.objs = _) ▸ List.Subset.refl _
  key p := .inl (by rw [keyOf, (h .keys (hps _ (by decide) (by decide)) : t.tm.keys = _), keyOf])
  resetting p hp := .inl (rfield_of_rreg (hreg p hp) _ _)
  status p i hp _ _ := rfield_of_rreg (hreg p hp) _ _
  ring n := .inl (h.ringOf n (hps _ (by decide) (by decide)))
  jobs := (h .jobs (hps _ (by decide) (by decide))).1 ▸ List.Subset.refl _

theorem Subsides.of_only {ps : List Part} (h : OnlyParts ps s t) (hps : ∀ p ∈ clearedParts, p ∉ ps := by decide) : Subsides s t :=
  .of_regs h (fun _ _ => rreg_congr (h .regs (hps _ (by decide))) _) (fun p hp _ => hps p hp)

theorem ringOf_resetRings (s : State) (f n : Nat) :
    ringOf (resetRings s f) n = if ringOwner s.hp.own n == some f then ring0 else ringOf s n :=
  tget_tdrop (d := fun _ => ring0) s.hp.rings (fun n => ringOwner s.hp.own n == some f) n

theorem subsides_resetRings (s : State) (f : Nat) : Subsides s (resetRings s f) where
  own := rfl
  peg _ _ := .inl rfl
  byte _ _ := .inl rfl
  objs := fun _ ho => ho
  key _ := .inl rfl
  resetting _ _ := .inl (rfield_of_rreg (rreg_congr (resetRings_only s f .regs (by decide)) _) _ _)
  status _ _ _ _ _ := rfield_of_rreg (rreg_congr (resetRings_only s f .regs (by decide)) _) _ _
  ring n := by
    rw [ringOf_resetRings]
    split
    · exact .inr rfl
    · exact .inl rfl
  jobs := List.filter_subset_self _

theorem subsides_ringsGone (s : State) (p : Nat) (f : Option Nat) : Subsides s (ringsGone s p f) := by
  cases f with
  | none => exact .of_only (latchesSet_only _ _)
  | some k => exact .trans (.of_only (latchesSet_only _ _)) (subsides_resetRings _ _)

/-- No status register of a partition is among the registers that a reset clears. -/
theorem partRegs_contains_partStatus {p q : Nat} (hq : q < 8) : (partRegs p).contains (rPartStatus q) = false := by
  simp only [partRegs, rTmPart, rPattern, rTpLoad, rFnLoad, rPartStatus, List.contains_eq_mem, List.mem_cons, List.not_mem_nil,
    or_false, decide_eq_false_iff_not]
  omega

theorem pegOf_resetEngines (s : State) (p q i : Nat) : pegOf (resetEngines s p) q i =
    if (q * 4096 + i) / 4096 == p then 0 else pegOf ((queuesOfPart s p).foldl clearQueue s) q i :=
  tget_tdrop (d := dw0) _ (fun k => k / 4096 == p) _

theorem subsides_resetEngines (s : State) (p : Nat) : Subsides s (resetEngines s p) := by
  have hregs : ∀ q, q < 8 → rreg (resetEngines s p) (rPartStatus q) = rreg ((queuesOfPart s p).foldl clearQueue s) (rPartStatus q) :=
    fun q hq => (tget_tdrop _ _ _).trans (if_neg (by rw [partRegs_contains_partStatus hq]; exact Bool.false_ne_true))
  refine .trans (t := (queuesOfPart s p).foldl clearQueue s) (.of_only (.foldl clearQueue_only _ _)) ?_
  exact {
    own := rfl
    peg := fun q i => by
      rw [pegOf_resetEngines]
      split
      · exact .inr rfl
      · exact .inl rfl
    byte := fun _ _ => .inl rfl
    objs := fun _ ho => ho
    key := fun _ => .inl rfl
    resetting := fun q hq => .inl (rfield_of_rreg (hregs q hq) _ _)
    status := fun q _ hq _ _ => rfield_of_rreg (hregs q hq) _ _
    ring := fun _ => .inl rfl
    jobs := fun _ hj => hj }

theorem byteAt_resetMemory (s : State) (p q a : Nat) :
    byteAt (resetMemory s p) q a = if inPlace p (akey q a) then 0 else byteAt s q a := tget_tdrop (d := byte0) _ (inPlace p) _

theorem keyOf_resetMemory (s : State) (p q : Nat) : keyOf (resetMemory s p) q = if q = p then none else keyOf s q :=
  tget_tset (d := fun _ => none) (t := s.tm.keys) (k := p) (j := q) (v := none)

theorem subsides_resetMemory (s : State) (p : Nat) : Subsides s (resetMemory s p) where
  own := rfl
  peg _ _ := .inl rfl
  byte q a := by
    rw [byteAt_resetMemory]
    split
    · exact .inr rfl
    · exact .inl rfl
  objs := List.filter_subset_self _
  key q := by
    rw [keyOf_resetMemory]
    split
    · exact .inr rfl
    · exact .inl rfl
  resetting _ _ := .inl rfl
  status _ _ _ _ _ := rfl
  ring _ := .inl rfl
  jobs := fun _ hj => hj

theorem subsides_noteSpill (s : State) : Subsides s (noteSpill s) :=
  .of_regs (noteSpill_only s) (fun p hp => otherRegs_noteSpill s _ (by
    simp only [rPartStatus, rTmStatus, List.mem_singleton]
    omega))

theorem partStatus_inj {p q : Nat} (h : rPartStatus p = rPartStatus q) : p = q := by
  simp only [rPartStatus] at h
  omega

/-- Writing RESETTING of a partition leaves every other bit of the partitions' status. -/
theorem subsides_resetting (s : State) (p : Nat) : Subsides s (wfield s (rPartStatus p) 2 1 1) := by
  have hframe := wfield_only s (rPartStatus p) 2 1 1
  have hother : ∀ q, q ≠ p → rreg (wfield s (rPartStatus p) 2 1 1) (rPartStatus q) = rreg s (rPartStatus q) := fun q hq =>
    otherRegs_wfield _ _ _ _ _ _ (by simpa using fun h => hq (partStatus_inj h))
  exact {
    own := rfl
    peg := fun _ _ => .inl rfl
    byte := fun _ _ => .inl rfl
    objs := fun _ ho => ho
    key := fun _ => .inl rfl
    resetting := fun q _ => by
      by_cases hq : q = p
      · exact .inr (hq ▸ rfield_wfield_same _ _ (by decide))
      · exact .inl (rfield_of_rreg (hother q hq) _ _)
    status := fun q i _ h32 hi => by
      by_cases hq : q = p
      · exact hq ▸ rfield_wfield_apart _ _ (by omega) (by omega)
      · exact rfield_of_rreg (hother q hq) _ _
    ring := fun _ => .inl rfl
    jobs := fun _ hj => hj }

theorem subsides_afterMemory (s : State) (p : Nat) : Subsides s (wfield (noteSpill (grantContexts s)) (rPartStatus p) 2 1 1) :=
  (Subsides.of_only (grantContexts_only s)).trans ((subsides_noteSpill _).trans (subsides_resetting _ _))

theorem subsides_resetPart (s : State) (p : Nat) (f : Option Nat) : Subsides s (resetPart s p f) := by
  rw [resetPart_eq]
  exact (((subsides_ringsGone s p f).trans (subsides_resetEngines _ p)).trans (subsides_resetMemory _ p)).trans
    (subsides_afterMemory _ p)

theorem subsides_resetFunction (s : State) (f : Nat) : Subsides s (resetFunction s f) := by
  unfold resetFunction
  split
  · exact subsides_resetPart _ _ _
  · exact subsides_resetRings _ _

theorem subsides_resetFunctions (fs : List Nat) (s : State) : Subsides s (fs.foldl resetFunction s) := by
  induction fs generalizing s with
  | nil => exact .refl s
  | cons f fs ih => exact (subsides_resetFunction s f).trans (ih _)

/-! ### What a reset clears -/

/-- Partition p as its reset leaves it. -/
structure PartCleared (t : State) (p : Nat) : Prop where
  resetting : rfield t (rPartStatus p) 2 1 = 1
  pegs : ∀ i, i < 4096 → pegOf t p i = 0
  bytes : ∀ a, a < 2 ^ 52 → byteAt t p a = 0
  objs : t.tm.objs.all (fun o => o.p != p) = true
  key : keyOf t p = none

/-- Ring n as a reset leaves it. -/
structure RingCleared (t : State) (n : Nat) : Prop where
  ring : ringOf t n = ring0
  jobs : t.hp.jobs.all (fun j => j.ring != n) = true

theorem all_of_subset {β : Type} {l m : List β} {f : β → Bool} (hs : m ⊆ l) (h : l.all f = true) : m.all f = true :=
  List.all_eq_true.mpr (fun x hx => List.all_eq_true.mp h x (hs hx))

theorem PartCleared.mono (h : PartCleared s p) (hs : Subsides s t) (hp : p < 8) : PartCleared t p where
  resetting := eq_of_eq_or (hs.resetting p hp) h.resetting
  pegs i hi := eq_of_eq_or (hs.peg p i) (h.pegs i hi)
  bytes a ha := eq_of_eq_or (hs.byte p a) (h.bytes a ha)
  objs := all_of_subset hs.objs h.objs
  key := eq_of_eq_or (hs.key p) h.key

theorem RingCleared.mono (h : RingCleared s n) (hs : Subsides s t) : RingCleared t n where
  ring := eq_of_eq_or (hs.ring n) h.ring
  jobs := all_of_subset hs.jobs h.jobs

theorem ringCleared_resetRings {f : Nat} (h : ringOwner s.hp.own n = some f) : RingCleared (resetRings s f) n where
  ring := by rw [ringOf_resetRings, h, beq_self_eq_true, if_pos rfl]
  jobs := List.all_eq_true.mpr (fun j hj => by
    have hkeep : (!(ringOwner s.hp.own j.ring == some f)) = true := (List.mem_filter.mp hj).2
    rw [bne_iff_ne]
    rintro rfl
    simp [h] at hkeep)

theorem ringCleared_resetPart {f : Nat} (h : ringOwner s.hp.own n = some f) : RingCleared (resetPart s p (some f)) n := by
  have hgone : RingCleared (ringsGone s p (some f)) n := ringCleared_resetRings h
  rw [resetPart_eq]
  exact hgone.mono (((subsides_resetEngines _ p).trans (subsides_resetMemory _ p)).trans (subsides_afterMemory _ p))

theorem ringCleared_resetFunction {f : Nat} (h : ringOwner s.hp.own n = some f) : RingCleared (resetFunction s f) n := by
  unfold resetFunction
  split
  · exact ringCleared_resetPart h
  · exact ringCleared_resetRings h

theorem partCleared_resetPart (s : State) (p : Nat) (f : Option Nat) : PartCleared (resetPart s p f) p := by
  have hmem := subsides_afterMemory (resetMemory (resetEngines (ringsGone s p f) p) p) p
  rw [resetPart_eq]
  exact {
    resetting := rfield_wfield_same _ _ (by decide)
    pegs := fun i hi => eq_of_eq_or (((subsides_resetMemory _ p).trans hmem).peg p i) (by
      rw [pegOf_resetEngines, if_pos (by rw [beq_iff_eq]; omega)])
    bytes := fun a ha => eq_of_eq_or (hmem.byte p a) (by
      rw [byteAt_resetMemory, if_pos (by rw [inPlace, akey, beq_iff_eq]; omega)])
    objs := all_of_subset hmem.objs (List.all_eq_true.mpr (fun o ho => (List.mem_filter.mp ho).2))
    key := eq_of_eq_or (hmem.key p) (by rw [keyOf_resetMemory, if_pos rfl]) }

theorem partCleared_resetFunction {f : Nat} (h : partOf s.hp.own f = some p) : PartCleared (resetFunction s f) p := by
  rw [resetFunction, h]
  exact partCleared_resetPart s p (some f)

/-- The reset of several functions clears what each of them owns. -/
theorem cleared_resetFunctions {fs : List Nat} {g : Nat} (hg : g ∈ fs) (s : State) :
    (∀ p, partOf s.hp.own g = some p → p < 8 → PartCleared (fs.foldl resetFunction s) p) ∧
    (∀ n, ringOwner s.hp.own n = some g → RingCleared (fs.foldl resetFunction s) n) := by
  induction fs generalizing s with
  | nil => cases hg
  | cons f fs ih =>
    rcases List.mem_cons.mp hg with rfl | hmem
    · exact ⟨fun p h hp => (partCleared_resetFunction h).mono (subsides_resetFunctions fs _) hp,
        fun n h => (ringCleared_resetFunction h).mono (subsides_resetFunctions fs _)⟩
    · have hown := (subsides_resetFunction s f).own
      exact hown ▸ ih hmem (resetFunction s f)

end

/-! ## Partition resets and die sets -/

section
variable {s t u : State} {p n : Nat}

theorem foldl_resetFunction_only (fs : List Nat) (s : State) : OnlyParts partResetParts s (fs.foldl resetFunction s) :=
  .foldl (fun _ _ => resetFunction_only _ _) _ _

/-- The functions that a PARTITION_RESET by function f resets. -/
def resetBy (s : State) (f : Nat) : List Nat := if f = 0 then List.range (s.hp.own + 1) else [f]

theorem mem_resetBy {f g : Nat} (h : g = f ∨ f = 0) (hg : g ≤ s.hp.own) : g ∈ resetBy s f := by
  unfold resetBy
  split
  · exact List.mem_range.mpr (by omega)
  · exact List.mem_singleton.mpr (by omega)

theorem partOf_le {v g : Nat} (h : partOf v g = some p) : g ≤ v := by
  unfold partOf at h
  split at h
  · split at h
    · omega
    · cases h
  · split at h
    · omega
    · cases h

/-- The module after a PARTITION_RESET by function f. -/
def afterPartitionReset (s : State) (f : Nat) : State :=
  let t := resetFunctions s (resetBy s f)
  { t with hp := { t.hp with
    msix := tdrop t.hp.msix (fun g => (resetBy s f).contains (vecOwner s.hp.own g))
    bme := if f = 0 then 0 else t.hp.bme &&& ~~~ BitVec.ofNat 9 (2 ^ f)
    numVfs := if f = 0 then 0 else t.hp.numVfs
    vfOn := f != 0 && t.hp.vfOn
    own := if f = 0 then 0 else t.hp.own
    bar4 := if f = 0 then [] else tdel t.hp.bar4 f } }

theorem exec_partitionReset (f : Fin 9) (s : State) :
    exec (.partitionReset f) s = runIf s (booting s && present s f.val) (afterPartitionReset s f.val) := rfl

theorem configSet_only (s : State) (m : Tab Msix) (b : BitVec 9) (v : Nat) (on : Bool) (o : Nat) (r : Tab Nat) :
    OnlyParts [.msix, .link] s { s with hp := { s.hp with msix := m, bme := b, numVfs := v, vfOn := on, own := o, bar4 := r } } :=
  fun p hp => by cases p <;> simp_all [Part.same]

/-- The aborts that precede a reset of functions. -/
def resetAborts (s : State) (fs : List Nat) : State := (jobsOf s (fs.contains ·)).foldl (fun t J => abortFrom t J s.now 6) s

theorem resetAborts_only (s : State) (fs : List Nat) : OnlyParts abortParts s (resetAborts s fs) :=
  .foldl (fun _ _ => abortFrom_only _ _ _ _) _ _

theorem afterReset_only (s : State) : OnlyParts [.jobLists, .ports, .counts, .out, .boot] s (settleCores (noteJobs s)) :=
  .after (settleCores_only _) (noteJobs_only _).sub

/-- What follows the reset of the functions' rings and partitions leaves what it cleared. -/
theorem afterPartitionReset_tail (s : State) (f : Nat) :
    OnlyParts [.jobLists, .ports, .counts, .out, .boot, .msix, .link] ((resetBy s f).foldl resetFunction (resetAborts s (resetBy s f)))
      (afterPartitionReset s f) := (afterReset_only _).sub.seq (configSet_only _ _ _ _ _ _ _)

theorem PartCleared.of_only {ps : List Part} (h : PartCleared s p) (hf : OnlyParts ps s t)
    (hps : ∀ q ∈ [Part.regs, .pegs, .mem, .objs, .keys], q ∉ ps := by decide) : PartCleared t p where
  resetting := (rfield_of_rreg (rreg_congr (hf .regs (hps _ (by decide))) _) _ _).trans h.resetting
  pegs i hi := (pegOf_congr (hf .pegs (hps _ (by decide))) p i).trans (h.pegs i hi)
  bytes a ha := by rw [byteAt, (hf .mem (hps _ (by decide)) : t.tm.mem = _), ← byteAt, h.bytes a ha]
  objs := (hf .objs (hps _ (by decide)) : t.tm.objs = _) ▸ h.objs
  key := by rw [keyOf, (hf .keys (hps _ (by decide)) : t.tm.keys = _), ← keyOf, h.key]

theorem RingCleared.of_only {ps : List Part} (h : RingCleared s n) (hf : OnlyParts ps s t)
    (hps : ∀ q ∈ [Part.rings, .jobs], q ∉ ps := by decide) : RingCleared t n where
  ring := (hf.ringOf n (hps _ (by decide))).trans h.ring
  jobs := (hf .jobs (hps _ (by decide))).1 ▸ h.jobs

/-- A PARTITION_RESET clears what each function that it resets owns. -/
theorem cleared_afterPartitionReset {f g : Nat} (hg : g ∈ resetBy s f) :
    (∀ p, partOf s.hp.own g = some p → p < 8 → PartCleared (afterPartitionReset s f) p) ∧
    (∀ n, ringOwner s.hp.own n = some g → RingCleared (afterPartitionReset s f) n) := by
  have hown := (resetAborts_only s (resetBy s f)).own
  obtain ⟨hparts, hrings⟩ := cleared_resetFunctions hg (resetAborts s (resetBy s f))
  rw [hown] at hparts hrings
  exact ⟨fun p h hp => (hparts p h hp).of_only (afterPartitionReset_tail s f), fun n h => (hrings n h).of_only (afterPartitionReset_tail s f)⟩

theorem partCfg_ne_partStatus (p q : Nat) : rPartCfg p ≠ rPartStatus q := by
  simp only [rPartCfg, rPartStatus]
  omega

/-- The module after the reset of partition p has ended. -/
def afterResetDone (s : State) (p : Nat) : State :=
  let t := wfield s (rPartStatus p) 2 1 0
  match tget (fun _ => none) s.hp.newDies p with
  | some d => wfield { t with hp := { t.hp with newDies := tdel t.hp.newDies p } } (rPartCfg p) 0 8 d
  | none => t

theorem exec_partitionResetDone (p : Fin 8) (s : State) :
    exec (.partitionResetDone p) s = runIf s (rfield s (rPartStatus p.val) 2 1 == 1) (afterResetDone s p.val) := rfl

theorem newDiesSet_only (s : State) (t : Tab (Option Nat)) : OnlyParts [.link] s { s with hp := { s.hp with newDies := t } } := fun p hp => by
  cases p <;> simp_all [Part.same]

theorem afterResetDone_only (s : State) (p : Nat) : OnlyParts [.regs, .link] s (afterResetDone s p) := by
  unfold afterResetDone
  dsimp only
  split
  · exact .after (wfield_only _ _ _ _ _) (.after (newDiesSet_only _ _) (wfield_only _ _ _ _ _).sub)
  · exact (wfield_only _ _ _ _ _).sub

theorem afterResetDone_some {d : Nat} (h : tget (fun _ => none) s.hp.newDies p = some d) :
    rfield (afterResetDone s p) (rPartStatus p) 2 1 = 0 ∧ diesOf (afterResetDone s p) p = d % 256 ∧
    OtherRegs [rPartStatus p, rPartCfg p] s (afterResetDone s p) := by
  rw [afterResetDone, h]
  refine ⟨?_, rfield_wfield_same _ _ (by decide), ?_⟩
  · exact (rfield_wreg_ne (partCfg_ne_partStatus p p).symm _ _ _).trans (rfield_wfield_same _ _ (by decide))
  · exact ((otherRegs_wfield _ _ _ _ _).mono (by simp)).trans ((otherRegs_wfield _ _ _ _ _).mono (by simp))

theorem afterResetDone_none (h : tget (fun _ => none) s.hp.newDies p = none) :
    rfield (afterResetDone s p) (rPartStatus p) 2 1 = 0 ∧ diesOf (afterResetDone s p) p = diesOf s p ∧
    OtherRegs [rPartStatus p, rPartCfg p] s (afterResetDone s p) := by
  rw [afterResetDone, h]
  exact ⟨rfield_wfield_same _ _ (by decide), rfield_wreg_ne (partCfg_ne_partStatus p p) _ _ _,
    (otherRegs_wfield _ _ _ _ _).mono (by simp)⟩

end

/-- Settles O22: a reset drops what belongs to the function's rings and partition, and nothing that follows puts it back. -/
theorem partitionResetClears : Obligations.PartitionResetClears := by
  refine ⟨fun f s hb hp => ⟨afterPartitionReset s f.val,
    (exec_partitionReset f s).trans (runIf_of_true (by simp [hb, hp])), fun g p hg hpart hlt => ?_, fun g n hg hown hn => ?_⟩,
    fun p s hr => ⟨afterResetDone s p.val, (exec_partitionResetDone p s).trans (runIf_of_true (by simp [hr])), ?_⟩⟩
  · have hmem := mem_resetBy (hg.imp_right (fun h => by rw [h]; rfl)) (partOf_le hpart)
    obtain ⟨hres, hpegs, hbytes, hobjs, hkey⟩ := (cleared_afterPartitionReset hmem).1 p hpart hlt
    exact ⟨hres, hpegs, hbytes, hobjs, hkey⟩
  · have hmem := mem_resetBy (hg.imp_right (fun h => by rw [h]; rfl)) hown
    obtain ⟨hring, hjobs⟩ := (cleared_afterPartitionReset hmem).2 n hn
    exact ⟨hring, hjobs⟩
  · rcases hdies : tget (fun _ => none) s.hp.newDies p.val with _ | d
    · obtain ⟨hres, hsame, hregs⟩ := afterResetDone_none hdies
      exact ⟨hres, fun d _ h => by simp at h, fun _ => hsame, hregs, afterResetDone_only s p.val⟩
    · obtain ⟨hres, hnew, hregs⟩ := afterResetDone_some hdies
      refine ⟨hres, fun e he h => ?_, fun h => by simp at h, hregs, afterResetDone_only s p.val⟩
      obtain rfl : d = e := Option.some.inj h
      exact hnew.trans (Nat.mod_eq_of_lt he)

section
variable {s t : State} {p : Nat}

/-! ### HP_PART_CFG (01 R15, R18, R19) -/

/-- Whether another partition has some of the dies d, or is about to. -/
def diesClash (s : State) (p d : Nat) : Bool :=
  (List.range 8).any (fun q => q != p && (d &&& (diesSoon s q ||| diesOf s q)) != 0)

/-- Whether a ring of the partition's owner is not idle. -/
def ownerBusy (s : State) (p : Nat) : Bool :=
  match partOwner s.hp.own p with
  | some f => (List.range 512).any (fun n => ringOwner s.hp.own n == some f && !ringIdle s n)
  | none => false

/-- CFG_ERR is clear, and the pools of the dies that leave are written back. -/
def diesLeft (s : State) (p d : Nat) : State :=
  ((partDies s p).filter (fun k => !bitOf d k)).foldl flushPool (wfield s (rPartStatus p) 3 1 0)

/-- A new die set d waits for the end of the partition's reset. -/
def newDiesReset (s : State) (p d : Nat) : State :=
  let t := resetPart (diesLeft s p d) p (partOwner s.hp.own p)
  { t with hp := { t.hp with newDies := tset (fun _ => none) t.hp.newDies p (some d) } }

theorem exec_partCfgWrite (p : Fin 8) (v : Word) (s : State) : exec (.partCfgWrite p v) s = runIf s (ready s)
    (if !diesOk (bitsOf v.toNat 0 8) || diesClash s p.val (bitsOf v.toNat 0 8) ||
        (bitsOf v.toNat 0 8 != diesSoon s p.val && ownerBusy s p.val) then wfield s (rPartStatus p.val) 3 1 1
     else if bitsOf v.toNat 0 8 = diesSoon s p.val then wfield s (rPartStatus p.val) 3 1 0
     else newDiesReset s p.val (bitsOf v.toNat 0 8)) := rfl

theorem diesClash_eq_false {d : Nat} (h : ∀ q, q < 8 → q ≠ p → d &&& (diesSoon s q ||| diesOf s q) = 0) : diesClash s p d = false :=
  List.any_eq_false.mpr (fun q hq => by
    by_cases hp : q = p
    · simp [hp]
    · simp [h q (List.mem_range.mp hq) hp])

theorem diesClash_eq_true {d q : Nat} (hq : q < 8) (hp : q ≠ p) (h : d &&& (diesSoon s q ||| diesOf s q) ≠ 0) : diesClash s p d = true :=
  List.any_eq_true.mpr ⟨q, List.mem_range.mpr hq, by simp [hp, h]⟩

theorem ownerBusy_eq_false (h : ∀ f n, n < 512 → partOwner s.hp.own p = some f → ringOwner s.hp.own n = some f → ringIdle s n = true) :
    ownerBusy s p = false := by
  unfold ownerBusy
  split
  · next f hf =>
    refine List.any_eq_false.mpr (fun n hn => ?_)
    by_cases ho : ringOwner s.hp.own n = some f
    · simp [h f n (List.mem_range.mp hn) hf ho]
    · simp [ho]
  · rfl

theorem diesLeft_only (s : State) (p d : Nat) : OnlyParts [.cache, .counts] (wfield s (rPartStatus p) 3 1 0) (diesLeft s p d) :=
  .foldl flushPool_only _ _

theorem newDiesReset_only (s : State) (p d : Nat) :
    OnlyParts [.link] (resetPart (diesLeft s p d) p (partOwner s.hp.own p)) (newDiesReset s p d) := newDiesSet_only _ _

theorem newDies_newDiesReset (s : State) (p d : Nat) : tget (fun _ => none) (newDiesReset s p d).hp.newDies p = some d := by
  simp only [newDiesReset, tget_tset_same]

theorem cfgErr_newDiesReset (s : State) {p : Nat} (d : Nat) (hp : p < 8) : rfield (newDiesReset s p d) (rPartStatus p) 3 1 = 0 := by
  have hset := rfield_of_rreg (rreg_congr (newDiesReset_only s p d .regs (by decide)) (rPartStatus p)) 3 1
  have hreset := (subsides_resetPart (diesLeft s p d) p (partOwner s.hp.own p)).status p 3 hp (by decide) (by decide)
  have hleft := rfield_of_rreg (rreg_congr (diesLeft_only s p d .regs (by decide)) (rPartStatus p)) 3 1
  rw [hset, hreset, hleft]
  exact rfield_wfield_same _ _ (by decide)

theorem partCleared_newDiesReset (s : State) (p d : Nat) : PartCleared (newDiesReset s p d) p :=
  (partCleared_resetPart (diesLeft s p d) p (partOwner s.hp.own p)).of_only (newDiesReset_only s p d)

end

/-- Settles O7: a flush maps the partition's fetched descriptors, a resume without held frames and operations starts nothing, and the
reset of a partition leaves CFG_ERR. -/
theorem partitionControl : Obligations.PartitionControl := by
  refine ⟨fun p v s hr h1 => ?_, fun p v s hr hst hg => ⟨_, runIf_of_true hr, partResume_out v hst hg⟩, fun p s hr hq => ?_,
    fun p s hf hq => ?_, fun p v s hr hok hclash hne hidle => ?_, fun p v s hr hok hclash heq => ?_, fun p v s hr hbad => ?_⟩
  · obtain ⟨hout, hsus⟩ := partSuspend_out (s := s) (p := p.val) v h1
    exact ⟨_, runIf_of_true hr, hsus, hout ▸ otherRegs_wreg _ _ _, hout ▸ wreg_only _ _ _⟩
  · obtain ⟨t, ht, hregs, hsus, hctrl⟩ := partFlush_out hq
    obtain ⟨hheld, hdone, hkept⟩ := flush_spec t p.val
    have hjob : ∀ n, job? t n = job? s n := fun n => by rw [job?, (ht .jobs (by decide)).1, job?]
    have hpart : ∀ n, partOfRing t n = partOfRing s n := ht.partOfRing
    refine ⟨_, runIf_of_true hr, ?_⟩
    rw [hctrl]
    refine ⟨(suspended_flush t p.val).trans hsus, hheld, fun n j hj hp hf => hdone n j (hjob n ▸ hj) (hpart j.ring ▸ hp) hf,
      fun n j hj h => hkept n j (hjob n ▸ hj) (hpart j.ring ▸ h), ?_, ht.sub.seq (flush_only _ _)⟩
    exact (hregs.mono (by simp)).trans ((otherRegs_flush _ _).mono (by simp))
  · obtain ⟨hheld, hdone, hkept⟩ := flush_spec s p.val
    exact ⟨_, runIf_of_true (by simp [hf, hq]), hheld, hdone, hkept, otherRegs_flush _ _, flush_only _ _⟩
  · obtain ⟨hres, hpegs, hbytes, -, -⟩ := partCleared_newDiesReset s p.val (bitsOf v.toNat 0 8)
    refine ⟨newDiesReset s p.val (bitsOf v.toNat 0 8), ?_, hres, cfgErr_newDiesReset s _ p.isLt, newDies_newDiesReset _ _ _, hpegs, hbytes⟩
    rw [exec_partCfgWrite, runIf_of_true hr, hok, diesClash_eq_false hclash, ownerBusy_eq_false hidle]
    simp [hne]
  · refine ⟨wfield s (rPartStatus p.val) 3 1 0, ?_, rfield_wfield_same _ _ (by decide), otherRegs_wfield _ _ _ _ _, wfield_only _ _ _ _ _⟩
    rw [exec_partCfgWrite, runIf_of_true hr, hok, diesClash_eq_false hclash]
    simp [heq]
  · refine ⟨wfield s (rPartStatus p.val) 3 1 1, ?_, rfield_wfield_same _ _ (by decide), otherRegs_wfield _ _ _ _ _, wfield_only _ _ _ _ _⟩
    rw [exec_partCfgWrite, runIf_of_true hr]
    rcases hbad with hok | ⟨q, hq, hp, hbad⟩
    · simp [hok]
    · simp [diesClash_eq_true hq hp hbad]

/-! ## BAR4 -/

section
variable {s t : State} {p va off len : Nat} {xs : List Span}

theorem byteAt_of_mem (h : t.tm.mem = s.tm.mem) (k a : Nat) : byteAt t k a = byteAt s k a := by
  rw [byteAt, h, byteAt]

theorem OnlyParts.bytesOutside {ps : List Part} (h : OnlyParts ps s t) (xs : List Span) (hp : Part.mem ∉ ps := by decide) :
    BytesOutside xs s t := fun k a _ => byteAt_of_mem (h .mem hp) k a

/-- A write reaches no byte outside the span that it writes. -/
theorem bytesOutside_writeAt (s : State) (k a : Nat) (bs : List Byte) (f : Nat → Bool) :
    BytesOutside [wr k a bs.length] s (writeAt s k a bs f) := fun q b h => by
  have hout := h _ List.mem_cons_self
  simp only [wr, not_and_or, not_le, not_lt] at hout
  unfold writeAt
  split
  · rfl
  · exact tget_tsetMany_out hout

theorem bytesAt_writeAt (s : State) (k a : Nat) (bs : List Byte) (f : Nat → Bool) :
    bytesAt (writeAt s k a bs f) k a bs.length = bs := by
  refine List.ext_getElem (by simp [bytesAt, tgetMany]) (fun i _ hi => ?_)
  have hbyte := byteAt_writeAt_in (s := s) (k := k) (a := a) (f := f) hi
  rw [byteAt, akey, ← Nat.add_assoc] at hbyte
  simpa [bytesAt, tgetMany, akey] using hbyte

/-- The pages that a BAR4_WRITE of n bytes at va would back. -/
def barBacks (s : State) (p va n : Nat) : List (Nat × Nat × Nat × Nat) :=
  (pagesIn s p (n / 4096 + 2) va (va + n)).filterMap (fun e => match e.1 with
    | some o => if needsPage s p e.2.1 then some (p, e.2.1, e.2.2, o.id) else none
    | none => none)

/-- The state after a BAR4_WRITE at va of partition p. -/
def barWrite (s : State) (p va : Nat) (bs : List Byte) (poison : Bool) : State :=
  let new := barBacks s p va bs.length
  let s1 := stainIf poison s rHpStain 8
  if barOk s p va bs.length && !inRegion s p va bs.length && (new.isEmpty || roomFor s p ((new.map (fun e => e.2.2.1)).sum)) then
    writeAt (touchSpan (new.foldl backPage s1) (wr p va bs.length)) p va bs (if poison then allSoil else noSoil)
  else setStain s1 rHpStain 7

/-- A write whose pages are all backed backs none. -/
theorem barBacks_eq_nil {n : Nat} (hown : ∀ e ∈ pagesIn s p (n / 4096 + 2) va (va + n), ownPage s p e.2.1 ≠ none) :
    barBacks s p va n = [] := by
  refine List.filterMap_eq_nil_iff.mpr (fun e he => ?_)
  have hneeds : needsPage s p e.2.1 = false := by
    rw [needsPage, Option.isNone_eq_false_iff]
    exact Option.isSome_iff_ne_none.mpr (hown e he)
  split
  · simp [hneeds]
  · rfl

theorem barWrite_backed {bs : List Byte} {poison : Bool} (hok : barOk s p va bs.length = true) (hreg : inRegion s p va bs.length = false)
    (hown : ∀ e ∈ pagesIn s p (bs.length / 4096 + 2) va (va + bs.length), ownPage s p e.2.1 ≠ none) :
    barWrite s p va bs poison = writeAt (touchSpan (stainIf poison s rHpStain 8) (wr p va bs.length)) p va bs
      (if poison then allSoil else noSoil) := by
  simp [barWrite, barBacks_eq_nil hown, hok, hreg]

theorem stainIf_out (c : Bool) (s : State) (o b : Nat) : (stainIf c s o b).out = s.out := stainIf_only c s o b .out (by decide)

section
variable {f : Fin 9} (hr : ready s = true) (hat : barAt s f.val off = some (p, va))
include hr hat

theorem exec_bar4Read_ok (hok : barOk s p va len = true) (hlen : 0 < len) : exec (.bar4Read f off len) s = .next
    (stainIf (soiledAt s p va len) (emit (touchSpan s (rd p va len)) (.barData f.val (bytesAt s p va len) (soiledAt s p va len)))
      rHpStain 8) := by
  show execBar4Read f off len s = _
  simp [execBar4Read, hr, hat, hok, hlen]

theorem exec_bar4Read_bad (hok : barOk s p va len = false) : exec (.bar4Read f off len) s = .next
    (setStain (emit s (.barAbort f.val)) rHpStain 7) := by
  show execBar4Read f off len s = _
  simp [execBar4Read, hr, hat, hok]

theorem exec_bar4Write (bs : List Byte) (poison : Bool) : exec (.bar4Write f off bs poison) s = .next (barWrite s p va bs poison) := by
  show execBar4Write f off bs poison s = _
  simp only [execBar4Write, hr, hat]
  rfl

end

theorem exec_bar4Write_nowhere {f : Fin 9} {bs : List Byte} {poison : Bool} (hr : ready s = true) (hat : barAt s f.val off = none) :
    exec (.bar4Write f off bs poison) s = .next (setStain s rHpStain 7) := by
  show execBar4Write f off bs poison s = _
  simp [execBar4Write, hr, hat]

end

/-- Settles O20: an access through BAR4 reaches the pages of its bytes, and only a write stores, at its own span. -/
theorem bar4ReachesMemory : Obligations.Bar4ReachesMemory := by
  refine ⟨fun f off len p va s hr hat hok hlen => ⟨_, exec_bar4Read_ok hr hat hok hlen, ?_⟩,
    fun f off len p va s hr hat hok => ⟨_, exec_bar4Read_bad hr hat hok, ?_⟩,
    fun f off p va bs poison s hr hat hok hreg hown => ⟨_, exec_bar4Write hr hat bs poison, ?_⟩,
    fun f off bs poison s hr hat => ⟨_, exec_bar4Write_nowhere hr hat, bitOf_setStain _ _ _ (by decide),
      (setStain_only _ _ _).bytesOutside _, setStain_only _ _ _⟩⟩
  · have hframe : OnlyParts [.out, .regs, .log, .counts, .pages, .pats, .shots, .cache, .nodes] s (stainIf (soiledAt s p va len)
        (emit (touchSpan s (rd p va len)) (.barData f.val (bytesAt s p va len) (soiledAt s p va len))) rHpStain 8) :=
      .after (stainIf_only _ _ _ _) (.after (emit_only _ _) (touchSpan_only _ _).sub)
    have htouch : (touchSpan s (rd p va len)).out = s.out := touchSpan_only s (rd p va len) .out (by decide)
    exact ⟨by rw [stainIf_out, emit_out, htouch], hframe.bytesOutside _, hframe⟩
  · have hframe : OnlyParts [.out, .regs, .log] s (setStain (emit s (.barAbort f.val)) rHpStain 7) :=
      .after (setStain_only _ _ _) (emit_only _ _).sub
    have hout : (setStain (emit s (.barAbort f.val)) rHpStain 7).out = (emit s (.barAbort f.val)).out := setStain_only _ _ _ .out (by decide)
    exact ⟨hout.trans (emit_out _ _), bitOf_setStain _ _ _ (by decide), hframe.bytesOutside _, hframe⟩
  · have hbefore : OnlyParts touchParts s (touchSpan (stainIf poison s rHpStain 8) (wr p va bs.length)) :=
      (stainIf_only _ _ _ _).sub.trans (touchSpan_only _ _)
    have hkeep : BytesOutside [] s (touchSpan (stainIf poison s rHpStain 8) (wr p va bs.length)) := hbefore.bytesOutside []
    rw [barWrite_backed hok hreg hown]
    exact ⟨bytesAt_writeAt _ _ _ _ _, fun k a h => (bytesOutside_writeAt _ p va bs _ k a h).trans (hkeep k a (fun _ hx => by cases hx)),
      .after (writeAt_only _ _ _ _ _) (.after (touchSpan_only _ _) (stainIf_only _ _ _ _).sub)⟩

/-! ## The PCIe link and the host -/

section
variable {s t : State}

/-- What changes of the functions and the link is one part. -/
theorem linkSet_only (s : State) (v : Nat) (on : Bool) (o : Nat) (b : BitVec 9) (st up : Bool) (at' : Option DWord) (r : Tab Nat) :
    OnlyParts [.link] s { s with hp := { s.hp with
      numVfs := v, vfOn := on, own := o, bme := b, stall := st, linkUp := up, downAt := at', bar4 := r } } := fun p hp => by
  cases p <;> simp_all [Part.same]

theorem rLink_ne_rHpStain : rLink ≠ rHpStain := by decide

theorem bitsOf_ofNat {n lo len : Nat} (h : n < 2 ^ 32) : bitsOf (BitVec.ofNat 32 n).toNat lo len = bitsOf n lo len := by
  rw [BitVec.toNat_ofNat, Nat.mod_eq_of_lt h]

/-- HP_LINK as a link that comes up shows it (01 R24). -/
def linkWord (speed width : Nat) (flit : Bool) : Nat := speed + 16 * width + 512 + (if flit then 1024 else 0)

theorem linkWord_fields {speed width : Nat} (flit : Bool) (hs : speed < 16) (hw : width < 32) :
    linkWord speed width flit < 2 ^ 32 ∧ bitsOf (linkWord speed width flit) 0 4 = speed ∧ bitsOf (linkWord speed width flit) 4 5 = width ∧
    bitsOf (linkWord speed width flit) 9 1 = 1 ∧ bitsOf (linkWord speed width flit) 10 1 = if flit then 1 else 0 := by
  cases flit <;> simp only [linkWord, bitsOf] <;> refine ⟨?_, ?_, ?_, ?_, ?_⟩ <;> simp <;> omega

theorem exec_pcieHotReset (hb : booting s = true) (hup : s.hp.linkUp = true) : exec .pcieHotReset s = .next
    (setStain { s with hp := { s.hp with bme := 0, numVfs := 0, vfOn := false, bar4 := [] } } rHpStain 1) :=
  runIf_of_true (by simp [hb, hup])

theorem exec_vfEnable (v : Fin 9) (hb : booting s = true) (hup : s.hp.linkUp = true) (hown : s.hp.numVfs = s.hp.own) :
    exec (.vfEnable v) s = .next
      { s with hp := { s.hp with numVfs := v.val, vfOn := v.val != 0, own := v.val, bme := s.hp.bme &&& 1 } } := by
  show execVfEnable v s = _
  simp [execVfEnable, hown, runIf, hb, hup]

theorem exec_pcieLinkDown (hb : booting s = true) (hup : s.hp.linkUp = true) (h2 : bootState s ≠ 2) : exec .pcieLinkDown s = .next
    (setStain (wfield { s with hp := { s.hp with linkUp := false, stall := false, downAt := some s.now } } rLink 9 1 0) rHpStain 2) := by
  show execPcieLinkDown s = _
  simp only [execPcieLinkDown, if_neg h2]
  exact runIf_of_true (by simp [hb, hup])

theorem exec_pcieLinkUp (speed : Fin 16) (width : Fin 32) (flit : Bool) (hb : booting s = true) (hup : s.hp.linkUp = false) :
    exec (.pcieLinkUp speed width flit) s = .next (sendOwed (wreg { s with hp := { s.hp with linkUp := true, downAt := none } } rLink
      (BitVec.ofNat 32 (linkWord speed.val width.val flit)))) := runIf_of_true (by simp [hb, hup])

theorem exec_busMasterEnable (f : Fin 9) (hb : booting s = true) (hup : s.hp.linkUp = true) (hp : present s f.val = true)
    (hclear : s.hp.bme.getLsbD f.val = false) : exec (.busMasterEnable f) s = .next
      (sendOwed { s with hp := { s.hp with bme := s.hp.bme ||| BitVec.ofNat 9 (2 ^ f.val) } }) :=
  runIf_of_true (by rw [hb, hup, hp, hclear]; rfl)

theorem exec_hostStallBegin (hb : booting s = true) (hup : s.hp.linkUp = true) (hst : s.hp.stall = false) : exec .hostStallBegin s =
    .next (setStain { s with hp := { s.hp with stall := true } } rHpStain 0) := runIf_of_true (by simp [hb, hup, hst])

theorem exec_hostStallRetry (hst : s.hp.stall = true) : exec (.hostStallRetry true) s =
    .next (sendOwed { s with hp := { s.hp with stall := false } }) := runIf_of_true (by simp [hst])

/-- The module once the grace period has ended, before the jobs are aborted. -/
def graceOver (s : State) : State := setStain { s with hp := { s.hp with downAt := none } } rHpStain 3

theorem exec_hostGraceExpire {t0 : DWord} (hd : s.hp.downAt = some t0) (hlate : t0.toNat + rfield s rGrace 0 16 * 10 ^ 6 ≤ s.now.toNat) :
    exec .hostGraceExpire s = .next ((jobsOf (graceOver s) (fun _ => true)).foldl (fun u J => abortFrom u J s.now 4) (graceOver s)) := by
  show execHostGraceExpire s = _
  simp only [execHostGraceExpire, hd, if_pos hlate]
  rfl

theorem graceOver_only (s : State) : OnlyParts [.link, .regs, .log] s (graceOver s) :=
  .after (setStain_only _ _ _) (linkSet_only s _ _ _ _ _ _ none _).sub

theorem downAt_of_only {ps : List Part} (h : OnlyParts ps s t) (hp : Part.link ∉ ps := by decide) : t.hp.downAt = s.hp.downAt := by
  obtain ⟨-, -, -, -, -, -, hdown, -⟩ := h .link hp
  exact hdown

theorem setStain_hp (s : State) (o b : Nat) : (setStain s o b).hp = s.hp := by
  unfold setStain
  split
  · rfl
  · dsimp only
    split
    · rfl
    · split <;> rfl

theorem jobsOf_graceOver (s : State) (f : Nat → Bool) : jobsOf (graceOver s) f = jobsOf s f := by
  simp [jobsOf, graceOver, setStain_hp]

theorem graceOver_downAt (s : State) : (graceOver s).hp.downAt = none := by rw [graceOver, setStain_hp]

end

/-- Settles O23: each of these commands changes the link's state, a Stain bit and HP_LINK, and sends what was owed. -/
theorem pcieAndHostStalls : Obligations.PcieAndHostStalls := by
  refine ⟨fun s hb hup => ⟨_, exec_pcieHotReset hb hup, ?_⟩, fun v s hb hup hown => ⟨_, exec_vfEnable v hb hup hown, ?_⟩,
    fun s hb hup h2 => ⟨_, exec_pcieLinkDown hb hup h2, ?_⟩,
    fun speed width flit s hb hup => ⟨_, exec_pcieLinkUp speed width flit hb hup, ?_⟩,
    fun f s hb hup hp hclear => ⟨_, exec_busMasterEnable f hb hup hp hclear, ?_⟩, fun s hb hup hst => ⟨_, exec_hostStallBegin hb hup hst, ?_⟩,
    fun s hst => ⟨_, exec_hostStallRetry hst, ?_⟩, fun s t0 hd hlate hnone => ⟨graceOver s, ?_, ?_⟩,
    fun s t0 hd hlate => ⟨_, exec_hostGraceExpire hd hlate, ?_⟩⟩
  · simp only [setStain_hp]
    exact ⟨trivial, trivial, trivial, trivial, bitOf_setStain _ _ _ (by decide), otherRegs_setStain _ _ _,
      .after (setStain_only _ _ _) (linkSet_only s 0 false _ 0 _ _ _ []).sub⟩
  · exact ⟨rfl, rfl, bne_iff_ne.trans (not_congr Fin.val_eq_zero_iff), rfl, linkSet_only s _ _ _ _ _ _ _ _⟩
  · have hfield : ∀ u : State, rfield (setStain (wfield u rLink 9 1 0) rHpStain 2) rLink 9 1 = 0 := fun u =>
      (rfield_of_rreg (otherRegs_setStain _ _ _ _ (by simpa using rLink_ne_rHpStain)) _ _).trans (rfield_wfield_same _ _ (by decide))
    simp only [setStain_hp]
    exact ⟨rfl, rfl, rfl, hfield _, bitOf_setStain _ _ _ (by decide),
      ((otherRegs_wfield _ _ _ _ _).mono (by simp)).trans ((otherRegs_setStain _ _ _).mono (by simp)),
      .after (setStain_only _ _ _) (.after (wfield_only _ _ _ _ _) (linkSet_only s _ _ _ _ false false _ _).sub)⟩
  · obtain ⟨h32, hspeed, hwidth, hlink, hflit⟩ := linkWord_fields flit speed.isLt width.isLt
    generalize hu : wreg { s with hp := { s.hp with linkUp := true, downAt := none } } rLink
      (BitVec.ofNat 32 (linkWord speed.val width.val flit)) = u
    have hregs : ∀ lo len, rfield (sendOwed u) rLink lo len = bitsOf (linkWord speed.val width.val flit) lo len := fun lo len => by
      rw [rfield_of_rreg (rreg_congr (sendOwed_only u .regs (by decide)) _), ← hu, rfield, rreg_wreg_same, bitsOf_ofNat h32]
    obtain ⟨-, -, -, -, -, hup', hdown, -⟩ := sendOwed_only u .link (by decide)
    refine ⟨hup'.trans (by rw [← hu]; rfl), hdown.trans (by rw [← hu]; rfl), (hregs _ _).trans hspeed, (hregs _ _).trans hwidth,
      (hregs _ _).trans hlink, (hregs _ _).trans hflit, ?_, ?_⟩
    · exact fun o ho => (rreg_congr (sendOwed_only u .regs (by decide)) o).trans (by rw [← hu]; exact otherRegs_wreg _ _ _ o ho)
    · exact .after (sendOwed_only u) (hu ▸ .after (wreg_only _ _ _) (linkSet_only s _ _ _ _ _ true none _).sub)
  · obtain ⟨hnum, hon, -, hbme, hstall, hup', -⟩ := sendOwed_only { s with hp := { s.hp with bme := s.hp.bme ||| BitVec.ofNat 9 (2 ^ f.val) } }
      .link (by decide)
    have hbit : (s.hp.bme ||| BitVec.ofNat 9 (2 ^ f.val)).getLsbD f.val = true := by
      rw [BitVec.getLsbD_or, BitVec.getLsbD_ofNat, Nat.testBit_two_pow_self]
      simp
    refine ⟨(congrArg (·.getLsbD f.val) hbme).trans hbit, hstall, fun hfree => ?_,
      .after (sendOwed_only _) (linkSet_only s _ _ _ _ _ _ _ _).sub⟩
    rw [(sendOwed_only _).hostOpen]
    simp only [hostOpen, hup, hfree, hbit, Bool.and_true, Bool.not_false, Bool.true_and]
    exact hp
  · simp only [setStain_hp]
    exact ⟨trivial, bitOf_setStain _ _ _ (by decide), otherRegs_setStain _ _ _,
      .after (setStain_only _ _ _) (linkSet_only s _ _ _ _ true _ _ _).sub⟩
  · obtain ⟨-, -, -, -, hstall, -⟩ := sendOwed_only { s with hp := { s.hp with stall := false } } .link (by decide)
    exact ⟨hstall, .after (sendOwed_only _) (linkSet_only s _ _ _ _ false _ _ _).sub⟩
  · rw [exec_hostGraceExpire hd hlate, jobsOf_graceOver, hnone]
    rfl
  · exact ⟨graceOver_downAt s, bitOf_setStain _ _ _ (by decide), otherRegs_setStain _ _ _, graceOver_only s⟩
  · have haborts : OnlyParts abortParts (graceOver s)
        ((jobsOf (graceOver s) (fun _ => true)).foldl (fun u J => abortFrom u J s.now 4) (graceOver s)) :=
      .foldl (fun _ _ => abortFrom_only _ _ _ _) _ _
    exact ⟨(downAt_of_only haborts).trans (graceOver_downAt s), .after haborts (graceOver_only s).sub⟩

/-! ## What operations through the tiers may change -/

section
variable {s t : State} {ps : List Part}

/-- A fold over states with a note beside each changes of the state what its steps do. -/
theorem OnlyParts.foldlWith {α β : Type} {f : State × β → α → State × β} (h : ∀ z x, OnlyParts ps z.1 (f z x).1) (l : List α)
    (z : State × β) : OnlyParts ps z.1 (l.foldl f z).1 := by
  induction l generalizing z with
  | nil => exact .refl _ _
  | cons x l ih => exact (h z x).trans (ih _)

theorem OnlyParts.iteWith {β : Type} {b : Prop} [Decidable b] {x y : State × β} (hx : OnlyParts ps s x.1) (hy : OnlyParts ps s y.1) :
    OnlyParts ps s (if b then x else y).1 := by
  split <;> assumption

theorem stainCause_only (s : State) (cause : Nat) : OnlyParts [.regs, .log] s (stainCause s cause) :=
  .ite (setStain_only _ _ _) (.ite (setStain_only _ _ _) (.ite (setStain_only _ _ _) (.refl _ _)))

theorem countFaults_only (s : State) (n : Nat) : OnlyParts [.counts] s (countFaults s n) :=
  .ite (.refl _ _) ((addCnt_only _ _ _).trans (count_only _ _ _))

theorem waitsSet_only (s : State) (l : List TierWait) : OnlyParts [.waits] s { s with tm := { s.tm with waits := l } } := fun p hp => by
  cases p <;> simp_all [Part.same]

theorem addWaits_only (s : State) (ws : List TierWait) : OnlyParts [.waits, .counts] s (addWaits s ws) :=
  .after (countFaults_only _ _) (waitsSet_only _ _).sub

theorem backPage_only (s : State) (e : Nat × Nat × Nat × Nat) : OnlyParts [.pages, .free] s (backPage s e) :=
  .after (setOwn_only _ _ _ _) (freeSet_only _ _).sub

theorem tierFail_only (s : State) (job : Nat) (xs : List Span) (cause oid : Nat) : OnlyParts tierParts s (tierFail s job xs cause oid) :=
  .after (finish_only _ _ _) (.after (countFaults_only _ _) (.after (stainCause_only _ _)
    (.after (.foldl freeFill_only _ _) (dropWaits_only _ _).sub)))

theorem accessed_only (s : State) (job : Nat) (who : Option Nat) (xs : List Span) (new : List (Nat × Nat × Nat × Nat)) :
    OnlyParts tierParts s (accessed s job who xs new) :=
  .after (noteSpill_only _) (.after (countFaults_only _ _) (.after (.foldl (fun t x => touchBy_only t who x) _ _)
    (.after (.foldl backPage_only _ _) (dropWaits_only _ _).sub)))

section
variable {job : Nat} {who : Option Nat} {xs : List Span} {fault : Nat → Nat → State} {perform : State → State}

/-- An operation through the tiers changes what its ending with a fault, its waits or its work does. -/
theorem withMemBy_only (hf : ∀ c o, OnlyParts ps s (fault c o)) (hk : ∀ t, OnlyParts ps t (perform t)) (hps : tierParts ⊆ ps := by decide) :
    OnlyParts ps s (withMemBy s job who xs fault perform) := by
  have hwait : ∀ ws, OnlyParts tierParts s (markWaits (addWaits s ws) job) := fun ws => .after (markWaits_only _ _) (addWaits_only _ _).sub
  unfold withMemBy
  split
  · exact hf _ _
  · exact (hwait _).mono hps
  · exact ((accessed_only _ _ _ _ _).mono hps).trans (hk _)

theorem withMemOr_only (hf : ∀ c o, OnlyParts ps s (fault c o)) (hk : ∀ t, OnlyParts ps t (perform t)) (hps : tierParts ⊆ ps := by decide) :
    OnlyParts ps s (withMemOr s job xs fault perform) := withMemBy_only hf hk hps

end

theorem dropSpan_only (s : State) (p a n : Nat) : OnlyParts [.cache, .counts] s (dropSpan s p a n) := .ite (.refl _ _) (dropLines_only _ _)

/-- What a write of the module's own records into a partition's memory may change. -/
def recordParts : List Part := touchParts ++ [.mem, .soil, .nans]

theorem tableWrite_only (s : State) (p a : Nat) (bs : List Byte) : OnlyParts recordParts s (tableWrite s p a bs) :=
  .ite (.after (writeAt_only _ _ _ _ _) (touchSpan_only _ _).sub) (.refl _ _)

theorem modTable_only (s : State) (p : Nat) (x : PatTable) (key : Nat) (f : PatEntry → Option PatEntry) :
    OnlyParts recordParts s (modTable s p x key f).1 := by
  unfold modTable
  split
  · exact .refl _ _
  · exact tableWrite_only _ _ _ _

theorem modEntry_only (s : State) (p key : Nat) (f : PatEntry → Option PatEntry) : OnlyParts recordParts s (modEntry s p key f) := by
  unfold modEntry
  refine .after (patsSet_only _ _) ?_
  dsimp only
  split <;> split
  · exact (modTable_only _ _ _ _ _).trans (modTable_only _ _ _ _ _)
  · exact modTable_only _ _ _ _ _
  · exact modTable_only _ _ _ _ _
  · exact .refl _ _

theorem unref_only (s : State) (p key : Nat) : OnlyParts recordParts s (unref s p key) := modEntry_only _ _ _ _

theorem putHeader_only (s : State) (r : Region) (off : Nat) (bs : List Byte) : OnlyParts recordParts s (putHeader s r off bs) :=
  .after (writeAt_only _ _ _ _ _) (touchSpan_only _ _).sub

theorem noteShared_only (s : State) (p n : Nat) : OnlyParts recordParts s (noteShared s p n) := by
  unfold noteShared
  split
  · exact putHeader_only _ _ _ _
  · exact .refl _ _

theorem unshare_only (s : State) (r : Region) (e : Nat × Nat) : OnlyParts (.regions :: recordParts) s (unshare s r e) :=
  .after (noteShared_only _ _ _) (.after (modRegion_only _ _ _ _) (unref_only _ _ _).sub)

theorem spacesSet_only (s : State) (pages : Tab (Option Page)) (holds : Tab Nat) (objs : List Obj) (regions : List Region) (indexes : List Index) :
    OnlyParts [.pages, .holds, .objs, .regions, .indexes] s
      { s with tm := { s.tm with pages := pages, holds := holds, objs := objs, regions := regions, indexes := indexes } } := fun p hp => by
  cases p <;> simp_all [Part.same]

/-- What freeing an object may change. -/
def releaseParts : List Part := recordParts ++ [.holds, .objs, .regions, .indexes]

theorem releaseObj_only (s : State) (p n : Nat) : OnlyParts releaseParts s (releaseObj s p n) := by
  unfold releaseObj
  split
  · exact .refl _ _
  · refine .after (noteSpill_only _) (.after (spacesSet_only _ _ _ _ _ _) (.after (eraseAt_only _ _ _ _) (.after (dropSpan_only _ _ _ _) ?_)))
    split
    · refine .foldl (fun t e => ?_) _ _
      split
      · exact (unref_only _ _ _).sub
      · exact .refl _ _
    · exact .refl _ _

/-- The bytes, pages and holders of [a, e) of region r go. -/
def cutSpan (s : State) (r : Region) (a e : Nat) : State :=
  if e ≤ a then s else
    let t := eraseAt (dropSpan s r.p a (e - a)) r.p a (e - a)
    let inside (k : Nat) : Bool := decide (akey r.p a ≤ k) && decide (k < akey r.p e)
    { t with tm := { t.tm with pages := tdrop t.tm.pages inside, holds := tdrop t.tm.holds inside } }

/-- The data and envelopes of region r from node `first` on go, and its shares of their nodes. -/
def cutNodes (s : State) (r : Region) (first : Nat) : State :=
  let s1 := (r.sharedOf ((List.range r.nodes).drop first)).foldl (fun t e => unshare t r e) s
  cutSpan (cutSpan s1 r (r.base + r.dataOff + first * r.nodeBytes) (r.base + r.dataOff + r.nodes * r.nodeBytes)) r
    (r.base + 4096 + first * r.envBytes) (r.base + r.segOff)

theorem releaseBeyond_eq (s : State) (r : Region) (n : Nat) : releaseBeyond s r n = noteSpill (if r.segs then
    cutSpan (cutNodes s r (cdiv n 64)) r (roundUp (r.base + r.segOff + cdiv n 64 * 256) 4096) (r.base + r.treeOff)
    else cutNodes s r (cdiv n 64)) := rfl

theorem cutSpan_only (s : State) (r : Region) (a e : Nat) : OnlyParts releaseParts s (cutSpan s r a e) :=
  .ite (.refl _ _) (.after (spacesSet_only _ _ _ _ _ _) (.after (eraseAt_only _ _ _ _) (dropSpan_only _ _ _ _).sub))

theorem cutNodes_only (s : State) (r : Region) (first : Nat) : OnlyParts releaseParts s (cutNodes s r first) :=
  .trans (.trans (.foldl (fun t e => (unshare_only t r e).sub) _ _) (cutSpan_only _ _ _ _)) (cutSpan_only _ _ _ _)

theorem releaseBeyond_only (s : State) (r : Region) (n : Nat) : OnlyParts releaseParts s (releaseBeyond s r n) := by
  rw [releaseBeyond_eq]
  exact .after (noteSpill_only _) (.ite ((cutNodes_only _ _ _).trans (cutSpan_only _ _ _ _)) (cutNodes_only _ _ _))

theorem truncateEnd_only (s : State) (n : Nat) (e : Region × Nat) : OnlyParts (.jobs :: releaseParts) s (truncateEnd s n e) :=
  .after (finish_only _ _ _) (.after (releaseBeyond_only _ _ _) (modRegion_only _ _ _ _).sub)

theorem prefetchEnd_only (s : State) (j : Job) : OnlyParts (.holds :: tierParts) s (prefetchEnd s j) := by
  refine .ite (.refl _ _) ?_
  split
  · exact .after (tierFail_only _ _ _ _ _) (dropPrefetch_only _ _).sub
  · exact .after (finish_only _ _ _) (dropWaits_only _ _).sub

theorem closeNumbers_only (s : State) (p n job : Nat) (void : Bool) : OnlyParts (.indexes :: recordParts) s (closeNumbers s p n job void) :=
  (setIndex_only _ _ _ _).sub

theorem endSearch_only (s : State) (j : Job) (x : Search) : OnlyParts (.searches :: tierParts) s (endSearch s j x) := by
  refine withMemOr_only (fun c o => ?_) (fun t => ?_)
  · exact .after (dropSearch_only _ _) (tierFail_only _ _ _ _ _).sub
  · refine .after (finish_only _ _ _) (.after (addCnt_only _ _ _) (.after (dropSearch_only _ _) ?_))
    exact .foldl (fun u e => (writeAt_only _ _ _ _ _).sub) _ _

/-! ## What the run of a tile program may change -/

theorem modArrs_only (s : State) (c m : Nat) (f : Arr → Arr) : OnlyParts [.arrays] s (modArrs s c m f) :=
  .foldl (fun _ _ => setArr_only _ _ _ _) _ _

theorem coreCount_only (s : State) (c k n : Nat) : OnlyParts [.counts] s (coreCount s c k n) := count_only _ _ _

/-- What the iterations of a tile program may change. -/
def iterParts : List Part := [.mem, .soil, .nans, .arrays, .counts]

theorem fetchTile_only (s : State) (r : TpRun) (c x : Nat) (q : Rng) (a : TileAt) : OnlyParts iterParts s (fetchTile s r c x q a) := by
  have hrows : ∀ l : List Nat, ∀ f : State → Nat → State, (∀ u i, OnlyParts iterParts u (f u i)) → OnlyParts iterParts s (l.foldl f s) :=
    fun l f hf => .foldl hf l s
  refine .ite (.after (writeAt_only _ _ _ _ _) ?_) ?_
  · exact hrows _ _ (fun u i => (writeAt_only _ _ _ _ _).sub)
  · exact hrows _ _ (fun u i => (writeAt_only _ _ _ _ _).sub)

theorem store_only (s : State) (r : TpRun) (y m n : Nat) (vs : List (Val × Bool)) : OnlyParts iterParts s (r.store s y m n vs).1 :=
  (writeAt_only _ _ _ _ _).sub

theorem tileProducts_only (s : State) (r : TpRun) (n c : Nat) (a : Nat × Nat × Nat × Nat) (tile : Tile) (q : Rng) (m cnt ks kx : Nat) :
    OnlyParts iterParts s (tileProducts s r n c a tile q m cnt ks kx).1 :=
  .foldlWith (fun _ _ => .foldlWith (fun _ _ => (setArr_only _ _ _ _).sub) _ _) _ (s, false)

theorem tileDrain_only (s : State) (r : TpRun) (c y : Nat) (q : Rng) (n cnt scales : Nat) :
    OnlyParts iterParts s (tileDrain s r c y q n cnt scales).1 :=
  .after (.foldl (fun _ _ => setArr_only _ _ _ _) _ _) (.foldlWith (β := Bool × Bool) (fun acc _ => store_only acc.1 _ _ _ _ _) _ (s, false, false))

theorem arrayIter_only (r : TpRun) (n c : Nat) (a : Nat × Nat × Nat × Nat) (x : TileAt) (q2 q1 : Rng) (z : State × TpNotes) :
    OnlyParts iterParts z.1 (arrayIter r n c a x q2 q1 z).1 := by
  refine .iteWith (.refl _ _) (.trans (modArrs_only z.1 c r.g.mask _).sub (.foldlWith (fun y q0 => ?_) _ (_, z.2)))
  exact .after (coreCount_only _ _ _ _) (.trans (tileProducts_only _ _ _ _ _ _ _ _ _ _ _) (.iteWith (tileDrain_only _ _ _ _ _ _ _ _) (.refl _ _)))

theorem needleIter_only (r : TpRun) (c : Nat) (a : Nat × Nat × Nat × Nat) (x : TileAt) (q : Rng) (z : State × TpNotes) :
    OnlyParts iterParts z.1 (needleIter r c a x q z).1 :=
  .after (coreCount_only _ _ _ _) (.foldlWith (β := Bool × Bool) (fun acc _ => store_only acc.1 _ _ _ _ _) _ (z.1, false, false))

theorem level2Iter_only (r : TpRun) (n c : Nat) (z : State × TpNotes) (e : Rng × Nat) : OnlyParts iterParts z.1 (level2Iter r n c z e).1 := by
  refine .iteWith (.refl _ _) (.iteWith ?_ ?_)
  · exact .trans (fetchTile_only _ _ _ _ _ _) (.foldlWith (fun z q0 => needleIter_only _ _ _ _ _ z) _ (_, z.2))
  · exact .trans (fetchTile_only _ _ _ _ _ _) (.foldlWith (fun z q1 => arrayIter_only _ _ _ _ _ _ _ z) _ (_, z.2))

theorem splitIter_only (s : State) (r : TpRun) (n c v : Nat) : OnlyParts (iterParts ++ [.regs, .log]) s (splitIter s r n c v).1 :=
  .after (stainIf_only _ _ _ _) (.after (stainIf_only _ _ _ _) (.after (modArrs_only _ _ _ _)
    (OnlyParts.foldlWith (fun z e => level2Iter_only r n c z e) _ (s, ⟨false, false, false, 0, 0⟩)).sub))

theorem ranOn_only (s : State) (n engine steps moved : Nat) : OnlyParts [.jobs] s (ranOn s n engine steps moved) := modJob_only _ _ _

theorem dropShare_only (s : State) (n : Nat) : OnlyParts [.tileProgs] s (dropShare s n) := sharesSet_only _ _

theorem endTpRun_only (s : State) (j : Job) : OnlyParts (tierParts ++ [.tileProgs, .arrays]) s (endTpRun s j) := by
  unfold endTpRun
  split
  · refine .ite (.refl _ _) (withMemBy_only (fun c o => ?_) (fun t => ?_))
    · exact .after (tierFail_only _ _ _ _ _) (dropShare_only _ _).sub
    · refine .after (finish_only _ _ _) (.after (ranOn_only _ _ _ _ _) (.after (dropShare_only _ _) ?_))
      refine .foldlWith (fun z e => ?_) _ (t, _)
      exact (splitIter_only _ _ _ _ _).sub
  · exact .refl _ _

end

/-! ## What frames, broadcasts and the collective engine may change -/

section
variable {s t : State} {ps : List Part}

theorem sendFrame_only (s : State) (fr : Frame) (wrap : Frame → Msg) : OnlyParts [.out, .counts, .ports] s (sendFrame s fr wrap) := by
  unfold sendFrame
  split
  · exact (send_only _ _).sub
  · split
    · exact .refl _ _
    · exact .after (push_only _ _ _ _) (modPort_only _ _ _).sub

theorem sendPlain_only (s : State) (fr : Frame) : OnlyParts [.out, .counts, .ports] s (sendPlain s fr) := sendFrame_only _ _ _

theorem sendCe_only (s : State) (vc : Fin 4) (typ : Fin 16) (m : Nat) (key : DWord) (b : CeBody) :
    OnlyParts [.out, .counts, .ports] s (sendCe s vc typ m key b) :=
  .ite (.refl _ _) (.after (count_only _ _ _) (sendFrame_only _ _ _))

theorem tookFrame_only (s : State) (pt vc : Nat) : OnlyParts [.ports] s (tookFrame s pt vc) := modPort_only _ _ _

theorem countReject_only (s : State) (pt : Nat) : OnlyParts [.counts] s (countReject s pt) :=
  (addCnt_only _ _ _).trans (portCount_only _ _ _ _)

/-- A VCT message that arrives changes its port and counts, and what is made of it. -/
theorem arriveVct_only {k : State → State} (pt : Nat) (hk : ∀ t, OnlyParts ps t (k t)) (hps : [.ports, .counts] ⊆ ps := by decide) :
    OnlyParts ps s (arriveVct s pt k) :=
  .ite (.ite (.mono (.after (countReject_only _ _) (setPort_only _ _ _).sub) hps) (.trans (.mono (tookFrame_only _ _ _).sub hps) (hk _)))
    (.ite (.mono (countReject_only _ _).sub hps) (.refl _ _))

theorem flushCasts_only (s : State) : OnlyParts [.out, .counts, .ports, .casts] s (flushCasts s) := pumpCasts_only _ _

theorem seenSet_only (s : State) (l : Tab (Option (Nat × BitVec 64))) : OnlyParts [.casts] s { s with ol := { s.ol with seen := l } } :=
  fun p hp => by cases p <;> simp_all [Part.same]

theorem noteCast_only {origin : BitVec 12} {num : Word} (h : noteCast s origin num = some t) : OnlyParts [.casts] s t := by
  unfold noteCast at h
  dsimp only at h
  split at h
  · cases h
  · split at h
    · exact Option.some.inj h ▸ seenSet_only _ _
    · split at h
      · exact Option.some.inj h ▸ seenSet_only _ _
      · split at h
        · cases h
        · exact Option.some.inj h ▸ seenSet_only _ _

/-- What passing a broadcast on may change. -/
def castParts : List Part := [.out, .counts, .ports, .casts]

theorem takeCast_only {act : State → State} (pt : Nat) (origin : BitVec 12) (num : Word) (c : Cast) (hact : ∀ t, OnlyParts ps t (act t))
    (hps : castParts ⊆ ps := by decide) : OnlyParts ps s (takeCast s pt origin num c act) := by
  refine arriveVct_only pt (fun t => ?_) (fun p hp => hps (by revert p; decide))
  split
  · exact .refl _ _
  · next u hu =>
    have hflood : OnlyParts castParts t (count (flood u (some pt) origin num c) 1485 1) :=
      .after (count_only _ _ _) (.after (flood_only _ _ _ _ _) (noteCast_only hu).sub)
    exact (hflood.mono hps).trans (hact _)

theorem touchGrp_only (s : State) (g : Nat) : OnlyParts [.groups] s (touchGrp s g) := by
  unfold touchGrp
  split
  · exact setGrp_only _ _ _
  · exact .refl _ _

theorem strayCe_only (s : State) : OnlyParts [.counts] s (strayCe s) := addCnt_only _ _ _

theorem refuseCe_only (s : State) : OnlyParts [.counts, .regs, .log] s (refuseCe s) := .after (setStain_only _ _ _) (addCnt_only _ _ _).sub

/-! ### Groups -/

theorem joinsSet_only (s : State) (l : List (BitVec 16 × Word × Nat × BitVec 128)) :
    OnlyParts [.joins] s { s with ce := { s.ce with joins := l } } := fun p hp => by cases p <;> simp_all [Part.same]

theorem goneSet_only (s : State) (l : List (BitVec 16 × Word)) : OnlyParts [.groups] s { s with ce := { s.ce with gone := l } } :=
  fun p hp => by cases p <;> simp_all [Part.same]

theorem freeGrp_only (s : State) (g : Nat) : OnlyParts [.groups, .joins] s (freeGrp s g) := by
  unfold freeGrp
  split
  · exact .refl _ _
  · exact .ite (setGrp_only _ _ _).sub (.after (joinsSet_only _ _) (setGrp_only _ _ _).sub)

theorem destroyGrp_only (s : State) (g : Nat) : OnlyParts [.groups, .joins] s (destroyGrp s g) := by
  unfold destroyGrp
  split
  · exact .refl _ _
  · exact .ite (freeGrp_only _ _) (.after (goneSet_only _ _) (freeGrp_only _ _))

/-- What a step of a group's creation may change. -/
def joinParts : List Part := [.groups, .joins, .jobs, .regs, .log, .counts]

theorem failCreate_only (s : State) (g n : Nat) (e : Ending) : OnlyParts joinParts s (failCreate s g n e) :=
  .after (collStain_only _ _) (.after (finish_only _ _ _) (freeGrp_only _ _).sub)

theorem joinStep_only (s : State) (g : Nat) : OnlyParts joinParts s (joinStep s g) := by
  unfold joinStep
  split
  · exact .refl _ _
  · split
    · exact .refl _ _
    · dsimp only
      split
      · exact failCreate_only _ _ _ _
      · exact .ite (.after (finish_only _ _ _) (setGrp_only _ _ _).sub) (setGrp_only _ _ _).sub

theorem landJoin_only (s : State) (gid : BitVec 16) (epoch : Word) (e : Nat) (hash : BitVec 128) :
    OnlyParts joinParts s (landJoin s gid epoch e hash) := by
  refine .ite (strayCe_only _).sub (.trans (joinsSet_only s _).sub (.foldl (fun u g => ?_) _ _))
  split
  · exact .ite (joinStep_only _ _) (.refl _ _)
  · exact .refl _ _

theorem actNotice_only (s : State) (kind : Nat) (x : Notice) (origin : BitVec 12) : OnlyParts abortParts s (actNotice s kind x origin) := by
  refine .ite (.ite (strayCe_only _).sub (.refl _ _)) (.foldl (fun u g => ?_) _ _)
  split
  · exact .refl _ _
  · refine .ite ?_ (.refl _ _)
    have hbreak : ∀ e m, OnlyParts abortParts u (breakRun u g e m) := fun e m => (breakRun_only _ _ _ _).sub
    split
    · exact .ite (.ite (hbreak _ _) ((hbreak _ _).trans (abortLocal_only _ _ _ _ _))) (setGrp_only _ _ _).sub
    · exact (setGrp_only _ _ _).sub

theorem failRun_only (s : State) (g kind m : Nat) : OnlyParts abortParts s (failRun s g kind m) := by
  unfold failRun
  split
  · exact .refl _ _
  · split
    · exact .refl _ _
    · have hfail : ∀ e x c, OnlyParts abortParts s (originate (actNotice (breakRun s g e m) kind x (BitVec.ofNat 12 (moduleNo s))) c) :=
        fun e x c => .after (originate_only _ _) (.trans (breakRun_only _ _ _ _).sub (actNotice_only _ _ _ _))
      exact .ite (hfail _ _ _) ((hfail _ _ _).trans (abortFrom_only _ _ _ _))

theorem checkRoutes_only (s : State) (g : Nat) : OnlyParts abortParts s (checkRoutes s g) := by
  unfold checkRoutes
  split
  · exact .refl _ _
  · refine .ite (.refl _ _) ?_
    split
    · exact failRun_only _ _ _ _
    · exact .refl _ _

theorem firstFrame_only (s : State) (g : Nat) (x : Grp) (i index : Nat) (sig : Word) : OnlyParts abortParts s (firstFrame s g x i index sig) := by
  unfold firstFrame
  split
  · exact .ite (.ite (failRun_only _ _ _ _) (setGrp_only _ _ _).sub) (setGrp_only _ _ _).sub
  · exact (setGrp_only _ _ _).sub

/-! ### Collectives and Spins that go on -/

/-- What a running operation of a group may change as it goes on. -/
def spinParts : List Part := [.out, .counts, .ports, .groups, .pegs, .mem, .soil, .nans, .jobs, .holds, .regs, .log]

theorem sendTo_only (s : State) (x : Grp) (vc : Fin 4) (i : Nat) (ch : Chunk) : OnlyParts [.out, .counts, .ports] s (sendTo s x vc i ch) :=
  sendCe_only _ _ _ _ _ _

theorem barrierGo_only (x : Grp) (n : Nat) (s : State) (r : CollRun) : OnlyParts [.out, .counts, .ports] s (barrierGo x n s r).1 := by
  induction n generalizing s r with
  | zero => exact .refl _ _
  | succ n ih =>
    rw [barrierGo]
    refine .iteWith (.refl _ _) ?_
    split
    · exact .refl _ _
    · exact .trans (.foldl (fun u i => sendTo_only u x 2 i _) _ _) (ih _ _)

theorem pumpBarrier_only (s : State) (g : Nat) : OnlyParts spinParts s (pumpBarrier s g) := by
  unfold pumpBarrier
  split
  · exact .refl _ _
  · split
    · exact .refl _ _
    · have hgo : ∀ x n r y, OnlyParts spinParts s (setGrp (barrierGo x n s r).1 g y) := fun x n r y =>
        .after (setGrp_only _ _ _) (barrierGo_only _ _ _ _).sub
      exact .ite (.refl _ _) (.ite (.after (endRun_only _ _ _) (hgo _ _ _ _)) (hgo _ _ _ _))

theorem sendChunk_only (s : State) (x : Grp) (dir : Nat) (env : Bool) (k index : Nat) (c : Contribution) :
    OnlyParts [.out, .counts, .ports] s (sendChunk s x dir env k index c) := sendTo_only _ _ _ _ _

theorem putSource_only (s : State) (p a : Nat) (c : Contribution) : OnlyParts [.mem, .soil, .nans] s (putSource s p a c) :=
  writeAt_only _ _ _ _ _

theorem putSlotHead_only (s : State) (p : Nat) (w : Window) (k shard n : Nat) :
    OnlyParts [.mem, .soil, .nans] s (putSlotHead s p w k shard n) := writeAt_only _ _ _ _ _

theorem setSpin_only (s : State) (g : Nat) (x : Grp) (r : CollRun) (y : SpinRun) : OnlyParts [.groups] s (setSpin s g x r y) :=
  setGrp_only _ _ _

theorem pumpOne_only (s : State) (g d : Nat) : OnlyParts [.out, .counts, .ports, .groups] s (pumpOne s g d) := by
  unfold pumpOne
  split
  · exact .refl _ _
  · split
    · exact .refl _ _
    · exact .after (sendChunk_only _ _ _ _ _ _ _) (setSpin_only _ _ _ _ _).sub

theorem pumpSpin_only (s : State) (g : Nat) : OnlyParts [.out, .counts, .ports, .groups] s (pumpSpin s g) := by
  unfold pumpSpin
  split
  · exact .refl _ _
  · exact .ite (.refl _ _) (.foldl (fun t d => .foldl (fun u _ => pumpOne_only u g d) _ _) _ _)

theorem endSpin_only (s : State) (n : Nat) : OnlyParts [.holds, .groups, .jobs, .counts] s (endSpin s n) := by
  unfold endSpin
  split
  · split
    · exact .ite (endRun_only _ _ _) (.refl _ _)
    · exact .refl _ _
  · exact .refl _ _

theorem takeEnv_only (s : State) (g : Nat) (x : Grp) (r : CollRun) (y : SpinRun) (ch : Chunk) :
    OnlyParts spinParts s (takeEnv s g x r y ch) := by
  have hset : ∀ a c k v z, OnlyParts spinParts s (setSpin (addPeg (putSource s y.p a c) y.p k v) g x r z) := fun a c k v z =>
    .after (setSpin_only _ _ _ _ _) (.after (addPeg_only _ _ _ _) (putSource_only _ _ _ _).sub)
  exact .after (pumpSpin_only _ _) (.ite (.after (sendChunk_only _ _ _ _ _ _ _) (hset _ _ _ _ _)) (hset _ _ _ _ _))

theorem takeData_only (s : State) (g : Nat) (x : Grp) (r : CollRun) (y : SpinRun) (ch : Chunk) :
    OnlyParts spinParts s (takeData s g x r y ch) :=
  .after (pumpSpin_only _ _) (.after (setSpin_only _ _ _ _ _) (.after (addPeg_only _ _ _ _)
    (.after (.foldl (fun _ _ => putSlotHead_only _ _ _ _ _ _) _ _) (putSource_only _ _ _ _).sub)))

theorem takeResult_only (s : State) (g : Nat) (x : Grp) (r : CollRun) (ch : Chunk) : OnlyParts spinParts s (takeResult s g x r ch) :=
  .after (setGrp_only _ _ _) (.ite (putSource_only _ _ _ _).sub (.after (addPeg_only _ _ _ _) (putSource_only _ _ _ _).sub))

theorem takeRound_only (s : State) (g : Nat) (x : Grp) (r : CollRun) (sender : Nat) (ch : Chunk) :
    OnlyParts spinParts s (takeRound s g x r sender ch) := (setGrp_only _ _ _).sub.trans (pumpBarrier_only _ _)

theorem landChunk_only (s : State) (g : Nat) (x : Grp) (r : CollRun) (sender : Nat) (ch : Chunk) :
    OnlyParts spinParts s (landChunk s g x r sender ch) := by
  have hstain : OnlyParts spinParts s (stainIf (ch.soil.any id) s rCeStain 1) := (stainIf_only _ _ _ _).sub
  unfold landChunk
  dsimp only
  split
  · exact .ite (hstain.trans (takeEnv_only _ _ _ _ _ _)) (hstain.trans (takeData_only _ _ _ _ _ _))
  · exact .ite (hstain.trans (takeRound_only _ _ _ _ _ _)) (hstain.trans (takeResult_only _ _ _ _ _))

theorem landGrant_only (s : State) (g d : Nat) : OnlyParts [.out, .counts, .ports, .groups] s (landGrant s g d) := by
  unfold landGrant
  split
  · exact .refl _ _
  · exact .after (pumpSpin_only _ _) (setSpin_only _ _ _ _ _).sub

/-! ### Ports that leave UP -/

theorem noteLock_only (s t : State) : OnlyParts [.regs, .log] t (noteLock s t) := stainIf_only _ _ _ _

theorem noteOutcome_only (s : State) (pt : Nat) : OnlyParts [.regs, .log] s (noteOutcome s pt) :=
  .ite (.refl _ _) (.after (stainIf_only _ _ _ _) (wreg_only _ _ _).sub)

theorem loseOps_only (s : State) (hit : RemOp → Bool) : OnlyParts [.ops, .mem, .soil, .nans, .free, .jobs] s (loseOps s hit) := by
  refine .trans (opsSet_only s _).sub (.foldl (fun t o => .after (finish_only _ _ _) (.ite (.foldl (fun u e => ?_) _ _) (.refl _ _))) _ _)
  exact (freeFill_only _ _).sub

theorem hopLost_only (s : State) (d : Nat) : OnlyParts abortParts s (hopLost s d) := by
  have hstain : OnlyParts abortParts s (setStain (setStain s (rOlStain (2 * d)) 8) (rOlStain (2 * d + 1)) 8) :=
    (setStain_only s (rOlStain (2 * d)) 8).sub.seq (setStain_only _ (rOlStain (2 * d + 1)) 8)
  refine .trans (.after (loseOps_only _ _) (.trans (hstain.seq (modPort_only _ (2 * d) _)) (.foldl (fun t g => ?_) _ _)))
    (.foldl (fun t J => abortFrom_only t J _ _) _ _)
  split
  · exact .ite (failRun_only _ _ _ _) (.refl _ _)
  · exact .refl _ _

theorem portLeaves_only (s : State) (pt st reason : Nat) : OnlyParts abortParts s (portLeaves s pt st reason) := by
  have hdown : ∀ x, OnlyParts abortParts s (setPort (setPortState s pt st reason) pt x) := fun x =>
    .after (setPort_only _ _ _) (setPortState_only _ _ _ _).sub
  refine .ite (hdown _) (.after (noteLock_only _ _) (.ite ?_ ?_))
  · exact .trans (hdown _) (.after (.foldl (fun v w => enqueue_only _ _ _) _ _) (.after (addCnt_only _ _ _) (portCount_only _ _ _ _).sub))
  · exact .after (flushCasts_only _) ((hdown _).trans (hopLost_only _ _))

theorem portDown_only (s : State) (pt : Nat) : OnlyParts abortParts s (portDown s pt) :=
  .after (setStain_only _ _ _) (.after (modPort_only _ _ _) (portLeaves_only _ _ _ _))

theorem quarantine_only (s : State) (pt reason : Nat) : OnlyParts abortParts s (quarantine s pt reason) :=
  .after (noteOutcome_only _ _) (.after (setStain_only _ _ _) (portLeaves_only _ _ _ _))

theorem laneFail_only (s : State) (pt : Nat) (rx : Bool) (ln : Nat) : OnlyParts abortParts s (laneFail s pt rx ln) := by
  refine .ite (.refl _ _) (.ite (setPort_only _ _ _).sub (.ite ((setPort_only _ _ _).sub.trans (portDown_only _ _)) (.ite ?_ ?_)))
  · exact .after (send_only _ _) (setPort_only _ _ _).sub
  · exact (setPort_only _ _ _).sub

/-! ### Frames that are delivered -/

/-- What a frame that reaches this module may change. -/
def landParts : List Part := abortParts ++ [.pegs, .joins]

theorem putPayload_only (s : State) (p a : Nat) (fr : Frame) : OnlyParts [.mem, .soil, .nans] s (putPayload s p a fr) :=
  writeAt_only _ _ _ _ _

theorem dropRemOp_only (s : State) (op : Nat) : OnlyParts [.ops] s (dropRemOp s op) := opsSet_only _ _

theorem rejectOn_only (s : State) (pt : Nat) : OnlyParts abortParts s (rejectOn s pt) := by
  have hcount : ∀ x, OnlyParts abortParts s (setPort (countReject s pt) pt x) := fun x =>
    .after (setPort_only _ _ _) (countReject_only _ _).sub
  exact .ite ((hcount _).trans (quarantine_only _ _ _)) (hcount _)

theorem rejectFrame_only (s : State) (pt : Nat) (fr : Frame) (code : Nat) : OnlyParts abortParts s (rejectFrame s pt fr code) := by
  have hstain : ∀ c : Prop, ∀ [Decidable c], OnlyParts abortParts s
      (if c then refuseCe (setStain s (rOlStain pt) 5) else setStain s (rOlStain pt) 5) :=
    fun c _ => .ite (.after (refuseCe_only _) (setStain_only _ _ _).sub) (setStain_only _ _ _).sub
  exact .trans (.ite (.after (sendFrame_only _ _ _) (hstain _)) (hstain _)) (rejectOn_only _ _)

theorem answerFrame_only (s : State) (fr : Frame) (typ : Fin 16) (payload : List Byte) (soil : DWord) :
    OnlyParts [.out, .counts, .ports] s (answerFrame s fr typ payload soil) := sendPlain_only _ _

theorem landWindow_only (s : State) (pt : Nat) (fr : Frame) (write : Bool) : OnlyParts abortParts s (landWindow s pt fr write) := by
  unfold landWindow
  dsimp only
  split
  · exact rejectFrame_only _ _ _ _
  · split
    · exact .refl _ _
    · refine withMemOr_only (fun _ _ => (dropWaits_only _ _).sub.trans (rejectFrame_only _ _ _ _)) (fun t => .ite ?_ (.ite ?_ ?_))
      · exact .after (touchGrp_only _ _) (putPayload_only _ _ _ _).sub
      · exact .after (answerFrame_only _ _ _ _ _) (putPayload_only _ _ _ _).sub
      · exact (answerFrame_only _ _ _ _ _).sub

theorem answered_only (s : State) (o : RemOp) (off : Nat) (dirty : Bool) : OnlyParts [.ops, .jobs] s (answered s o off dirty) :=
  .ite (.after (finish_only _ _ _) (dropRemOp_only _ _).sub) (opsSet_only _ _).sub

theorem landAnswer_only (s : State) (fr : Frame) (kind code : Nat) : OnlyParts abortParts s (landAnswer s fr kind code) := by
  unfold landAnswer
  split
  · exact .refl _ _
  · refine .ite (.refl _ _) (.ite (.ite (answered_only _ _ _ _).sub ?_) (.ite (withMemOr_only (fun k i => ?_) (fun t => ?_)) ?_))
    · exact .after (finish_only _ _ _) (dropRemOp_only _ _).sub
    · exact .after (tierFail_only _ _ _ _ _) (dropRemOp_only _ _).sub
    · exact .after (answered_only _ _ _ _) (putPayload_only _ _ _ _).sub
    · exact (answered_only _ _ _ _).sub

theorem landPegAdd_only (s : State) (pt : Nat) (e : Early) : OnlyParts landParts s (landPegAdd s pt e) := by
  have hreject : ∀ code, OnlyParts landParts s (rejectFrame s pt e.fr code) := fun code => (rejectFrame_only _ _ _ _).sub
  refine .ite (hreject _) ?_
  split
  · exact hreject _
  · exact .ite (hreject _) (.ite (hreject _) (.ite (hreject _) (.after (answerFrame_only _ _ _ _ _) (addPeg_only _ _ _ _).sub)))

theorem landCe_only (s : State) (pt : Nat) (fr : Frame) (b : CeBody) : OnlyParts landParts s (landCe s pt fr b) := by
  have hreject : ∀ code, OnlyParts landParts s (rejectFrame s pt fr code) := fun code => (rejectFrame_only _ _ _ _).sub
  cases b with
  | join q gid epoch hash => exact .ite (landJoin_only _ _ _ _ _).sub (.refl _ _)
  | first h index sig =>
    unfold landCe
    dsimp only
    split
    · exact hreject _
    · exact (firstFrame_only _ _ _ _ _ _).sub
    · exact .refl _ _
  | chunk h ch =>
    unfold landCe
    dsimp only
    split
    · exact hreject _
    · split
      · exact withMemOr_only (fun _ _ => hreject _) (fun t => (landChunk_only _ _ _ _ _ _).sub)
      · exact .refl _ _
    · exact .refl _ _
  | grant h d step =>
    unfold landCe
    dsimp only
    split
    · exact hreject _
    · exact (landGrant_only _ _ _).sub
    · exact .refl _ _

theorem deliverFrame_only (s : State) (pt : Nat) (e : Early) : OnlyParts landParts s (deliverFrame s pt e) := by
  have hforward : ∀ fr wrap, OnlyParts landParts s (sendFrame (portCount s pt 5 1) fr wrap) := fun fr wrap =>
    .after (sendFrame_only _ _ _) (portCount_only _ _ _ _).sub
  refine .ite (.ite (hforward _ _) (.ite (hforward _ _) (.ite ?_ (hforward _ _)))) (.ite (landWindow_only _ _ _ _).sub
    (.ite (landWindow_only _ _ _ _).sub (.ite (landPegAdd_only _ _ _) (.ite ?_ (landAnswer_only _ _ _ _).sub))))
  · split
    · exact hforward _ _
    · exact (portCount_only _ _ _ _).sub
  · split
    · exact landCe_only _ _ _ _
    · exact .refl _ _

theorem freeBuffer_only (s : State) (e : Early) : OnlyParts [.ports] s (freeBuffer s e) := .ite (.refl _ _) (modPort_only _ _ _)

theorem takeFrame_only (s : State) (e : Early) : OnlyParts landParts s (takeFrame s e) :=
  .ite (modPort_only _ _ _).sub ((freeBuffer_only _ _).sub.trans (deliverFrame_only _ _ _))

theorem takeHeld_only (s : State) : OnlyParts landParts s (takeHeld s) :=
  .foldl (fun t pt => .trans (modPort_only t pt _).sub (.foldl (fun u e => .ite (modPort_only _ _ _).sub (takeFrame_only _ _)) _ _)) _ _

theorem resumeCe_only (s : State) (p : Nat) : OnlyParts landParts s (resumeCe s p) := by
  refine .ite (.refl _ _) (.trans (takeHeld_only s) (.foldl (fun t g => ?_) _ _))
  split
  · split
    · exact .ite (.refl _ _) (.ite (pumpSpin_only _ _).sub (.ite (pumpBarrier_only _ _).sub (.refl _ _)))
    · exact .refl _ _
  · exact .refl _ _

end

/-! ## What DESCRIPTOR_COMPLETE may change -/

section
variable {s t : State} {ps : List Part}

theorem endRunning_only (s : State) (j : Job) : OnlyParts (landParts ++ [.objs, .programs]) s (endRunning s j) := by
  unfold endRunning
  refine .ite ?_ (.ite ?_ (.ite (prefetchEnd_only _ _).sub (.ite ?_ (.ite ?_ (.ite ?_ (.ite (endTpRun_only _ _).sub (.ite ?_ (.ite ?_
    (.ite ?_ (.ite (loseOps_only _ _).sub (.ite ?_ (.refl _ _))))))))))))
  · split
    · exact .after (finish_only _ _ _) (releaseObj_only _ _ _).sub
    · exact .refl _ _
  · split
    · exact .after (finish_only _ _ _) (truncateEnd_only _ _ _).sub
    · exact .refl _ _
  · exact .after (finish_only _ _ _) (closeNumbers_only _ _ _ _ _).sub
  · split
    · exact (endSearch_only _ _ _).sub
    · exact .refl _ _
  · exact .ite (.after (finish_only _ _ _) (setTpSlot_only _ _ _ _).sub) (.refl _ _)
  · exact .ite (.after (finish_only _ _ _) (setProg_only _ _ _ _).sub) (.refl _ _)
  · split
    · exact .after (finish_only _ _ _) (destroyGrp_only _ _).sub
    · exact .refl _ _
  · split
    · exact .after (endSpin_only _ _) (.after (checkRoutes_only _ _) (takeHeld_only _).sub)
    · exact .refl _ _
  · exact .ite (finish_only _ _ _).sub (.refl _ _)

theorem completeJob_only (s : State) (j : Job) :
    OnlyParts [.pegs, .jobs, .searches, .shots, .queues, .tags, .counts, .out, .rings, .msix, .owed] s (completeJob s j) :=
  .after (completeJob_entry s j) (.after (leaving_only _ _) (signalled_only _ _).sub)

/-- What DESCRIPTOR_COMPLETE may change. -/
def completeParts : List Part := landParts ++ [.objs, .programs, .msix, .owed, .tags]

theorem descriptorComplete_only (n : Nat) (s : State) :
    ∃ t, exec (.descriptorComplete n) s = .next t ∧ OnlyParts completeParts s t := by
  refine ⟨_, rfl, ?_⟩
  split
  · exact .refl _ _
  · next j _ =>
    have hend : OnlyParts completeParts s (if j.phase = .running then endRunning s j else s) := .ite (endRunning_only _ _).sub (.refl _ _)
    dsimp only
    split
    · exact .ite (hend.seq (completeJob_only _ _)) hend
    · exact hend

end

/-! ## What the commands of the observation and power blocks may change -/

section
variable {s t : State} {ps : List Part}

/-- A row without a descriptor changes what it makes of the state. -/
theorem runIf_only {b : Bool} (h : OnlyParts ps s t) : ∃ u, runIf s b t = .next u ∧ OnlyParts ps s u := ⟨_, rfl, .ite h (.refl _ _)⟩

/-- An operation's row changes what it makes of the state. -/
theorem runOp_only {n op : Nat} {k : Job → State} (h : ∀ j, OnlyParts ps s (k j)) :
    ∃ t, runOp s n op k = .next t ∧ OnlyParts ps s t := by
  unfold runOp
  split
  · exact ⟨_, rfl, h _⟩
  · exact ⟨_, rfl, .refl _ _⟩

/-! ### Observation -/

theorem tagsSet_only (s : State) (l : List TagRec) : OnlyParts [.tags] s { s with ob := { s.ob with tags := l } } := fun p hp => by
  cases p <;> simp_all [Part.same]

theorem lfsrSet_only (s : State) (x : Word) : OnlyParts [.lfsr] s { s with ob := { s.ob with lfsr := x } } := fun p hp => by
  cases p <;> simp_all [Part.same]

theorem logSet_only (s : State) (l : List LogEntry) (o : Bool) : OnlyParts [.log] s { s with ob := { s.ob with log := l, overflow := o } } :=
  fun p hp => by cases p <;> simp_all [Part.same]

theorem jobListsSet_only (s : State) (l : Tab (List Word)) : OnlyParts [.jobLists] s { s with ob := { s.ob with jobLists := l } } :=
  fun p hp => by cases p <;> simp_all [Part.same]

theorem fraySet_only (s : State) (h c : Nat) (f : List Nat) (w : Tab Nat) : OnlyParts [.fray] s { s with ob := { s.ob with
    hours := h, carrierHours := c, carrierFray := f, wear := w } } := fun p hp => by cases p <;> simp_all [Part.same]

theorem noteFray_only (s : State) (u wear : Nat) : OnlyParts [.regs, .log, .fray] s (noteFray s u wear) :=
  .after (stainIf_only _ _ _ _) (.after (stainIf_only _ _ _ _) (.after (wreg_only _ _ _) (.after (wreg_only _ _ _)
    (fraySet_only s _ _ _ _).sub)))

theorem writeWear_only (s : State) (u : Nat) : OnlyParts [.eeprom] s (writeWear s u) := (putEeprom_only _ _ _).trans (putEeprom_only _ _ _)

theorem writeFray_only (s : State) : OnlyParts [.fray, .eeprom] s (writeFray s) := by
  have hwear : OnlyParts [.fray, .eeprom] s (if s.pw.stby then (List.range 36).foldl writeWear s else s) :=
    .ite (.foldl (fun t u => (writeWear_only t u).sub) _ _) (.refl _ _)
  exact .after (fraySet_only _ 0 _ _ _) (.ite (.after (fraySet_only _ _ _ _ _) hwear) hwear)

theorem darnFail_only (s : State) (n code : Nat) : OnlyParts [.regs, .log, .jobs] s (darnFail s n code) :=
  .after (finish_only _ _ _) (setStain_only _ _ _).sub

/-! ### Retirement -/

theorem stopOnCore_only (s : State) (c : Nat) (j : Job) : OnlyParts abandonParts s (stopOnCore s c j) :=
  .ite (.foldl (fun t q => (stopQueue_only t q _ _).sub) _ _)
    (.after (finish_only _ _ _) ((dropWaits_only _ _).sub.trans (abandon_only _ _)))

theorem passShares_only (s : State) (c : Nat) : OnlyParts [.tileProgs] s (passShares s c) := sharesSet_only _ _

theorem noteTicket_only (s : State) (n low high : Nat) (soiled : Bool) : OnlyParts [.jobs] s (noteTicket s n low high soiled) :=
  modJob_only _ _ _

theorem reissueTickets_only (s : State) (c : Nat) : OnlyParts [.tickets, .counts, .jobs] s (reissueTickets s c) := by
  refine .foldl (fun u e => .ite (.refl _ _) ?_) _ _
  have hissue : ∀ x k, OnlyParts [.tickets, .counts, .jobs] u (addCnt (setTicket u (e.1 / 256) (e.1 % 256) x) rTicketReissued k) :=
    fun x k => .after (addCnt_only _ _ _) (setTicket_only _ _ _ _).sub
  dsimp only
  split
  · exact .ite ((hissue _ _).seq (noteTicket_only _ _ _ _ _)) (hissue _ _)
  · exact hissue _ _

theorem retireCore_only (s : State) (c : Nat) : OnlyParts [.boot, .tickets, .counts, .jobs, .tileProgs] s (retireCore s c) :=
  .after (settleCores_only _) (.after (passShares_only _ _) ((bootSet_only s _).sub.seq (reissueTickets_only _ _)))

theorem movePage_only (s : State) (e : Fin 8 × Nat) : OnlyParts [.pages, .pats, .free] s (movePage s e) := by
  unfold movePage
  split
  · exact .refl _ _
  · exact .after (setPage_only _ _ _ _) (freeSet_only _ _).sub

theorem mediaSet_only (s : State) (rows : List (Nat × Nat × Nat × Nat)) (remaps blocks : List (Nat × Nat)) :
    OnlyParts [.media] s { s with tm := { s.tm with rows := rows, remaps := remaps, blocks := blocks } } := fun p hp => by
  cases p <;> simp_all [Part.same]

/-! ### Power -/

theorem loweredSet_only (s : State) (x : DWord) : OnlyParts [.caps] s { s with pw := { s.pw with loweredAt := x } } := fun p hp => by
  cases p <;> simp_all [Part.same]

theorem setCap_only (s : State) (k : Nat) : OnlyParts [.regs, .caps] s (setCap s k) :=
  .after (wfield_only _ _ _ _ _) (.ite (loweredSet_only _ _).sub (.refl _ _))

theorem holdCap_only (s : State) (x : SchedCap) : OnlyParts [.caps, .regs, .log] s (holdCap s x) :=
  .ite (capsSet_only _ _).sub (.after (setStain_only _ _ _) (capsSet_only _ _).sub)

/-- What the telemetry device and the pins show is one part. -/
theorem pinsSet_only (s : State) (en good perst trip leak stby : Bool) (vin iin pin : BitVec 16) (lim : Nat) (fault : BitVec 16) (lower : Bool) :
    OnlyParts [.pins] s { s with pw := { s.pw with
      pwrEn := en, pwrGood := good, perst := perst, thermtrip := trip, leak := leak, stby := stby
      vin := vin, iin := iin, pin := pin, sysLimit := lim, fault := fault, lower := lower } } := fun p hp => by
  cases p <;> simp_all [Part.same]

theorem latchFault_only (s : State) (b : Nat) : OnlyParts [.pins] s (latchFault s b) :=
  .ite (pinsSet_only s _ _ _ _ _ _ _ _ _ _ _ _) (.refl _ _)

theorem noteTemp_only (s : State) (i : Nat) (v : Int) : OnlyParts [.regs] s (noteTemp s i v) := wreg_only _ _ _

theorem noteEnergy_only (s : State) (x : PowerSample) : OnlyParts [.counts] s (noteEnergy s x) := by
  unfold noteEnergy
  refine .trans (.foldl (fun t e => ?_) _ _) (.foldl (fun t e => ?_) _ _)
  · exact count_only _ _ _
  · exact count_only _ _ _

theorem noteSample_only (s : State) (x : PowerSample) : OnlyParts [.regs, .pins] s (noteSample s x) := by
  have hwatts : ∀ u w v l, OnlyParts [.regs] s u → OnlyParts [.regs] s
      (if x.window then wfield (wreg u rPwrInput w) rPwrStatus 0 l v else wreg u rPwrInput w) :=
    fun u w v l hu => .ite (.after (wfield_only _ _ _ _ _) (hu.trans (wreg_only _ _ _))) (hu.trans (wreg_only _ _ _))
  have hrails : OnlyParts [.regs] s _ := .trans (.trans
    (.foldl (f := fun t (e : Int × Nat) => noteTemp t e.2 e.1) (fun _ _ => noteTemp_only _ _ _) (x.temps.take 17).zipIdx s)
    (.foldl (f := fun t (e : Int × Nat) => wfield t (rHm e.2) 8 8 (unsgn 8 e.1)) (fun _ _ => wfield_only _ _ _ _ _) (x.stackTemps.take 12).zipIdx _))
    (.foldl (f := fun t r => wfield (wfield t (rRail r) 0 10 (railMv t r)) (rRail r) 16 12 (if r < 8 then sat 4095 (rateOf t x r) else 0))
      (fun _ _ => (wfield_only _ _ _ _ _).trans (wfield_only _ _ _ _ _)) (List.range 10) _)
  unfold noteSample
  exact .ite (.after (pinsSet_only _ _ _ _ _ _ _ _ _ _ _ _ _) (hwatts _ _ _ _ hrails).sub) (hwatts _ _ _ _ hrails).sub

end

/-! ## What fetching, beginning and completing may change -/

section
variable {s t : State} {ps : List Part}

theorem takeExt_only (s : State) (n : Nat) (j : Job) (slot : Slot) : OnlyParts [.jobs, .counts, .rings, .link] s (takeExt s n j slot) :=
  .after (passSlot_only _ _) (.after (count_only _ _ _) (modJob_only _ _ _).sub)

theorem takeSlot_only (s : State) (n : Nat) (slot : Slot) :
    OnlyParts [.nextId, .counts, .rings, .jobs, .link, .lfsr, .tags] s (takeSlot s n slot) := by
  obtain ⟨tag, hcounts⟩ := takeSlot_counts s n slot
  exact .after hcounts (.after (addFetched_only _ _ _) (passSlot_only _ _).sub)

theorem descriptorFetch_only (slot : Slot) (s : State) :
    ∃ t, exec (.descriptorFetch slot) s = .next t ∧ OnlyParts [.nextId, .counts, .rings, .jobs, .link, .lfsr, .tags] s t := by
  refine ⟨_, rfl, ?_⟩
  split
  · exact .refl _ _
  · split
    · exact (takeExt_only _ _ _ _).sub
    · exact takeSlot_only _ _ _

theorem descriptorFetchFail_only (s : State) :
    ∃ t, exec .descriptorFetchFail s = .next t ∧ OnlyParts [.regs, .rings, .jobs, .link, .tags, .log] s t := by
  cases hn : nextRing s with
  | none => exact ⟨s, by rw [show exec .descriptorFetchFail s = execDescriptorFetchFail s from rfl, execDescriptorFetchFail, hn], .refl _ _⟩
  | some n =>
    obtain ⟨t, ht, hframe⟩ := exec_descriptorFetchFail hn
    exact ⟨t, ht, (fetchFailed_only s n).sub.seq hframe⟩

theorem seqHalt_only (s : State) (n : Nat) (j : Job) : OnlyParts [.rings, .regs, .log, .jobs] s (seqHalt s n j) :=
  .after (jobsMap_only _ _) (.after (setStain_only _ _ _) (setRing_only _ _ _).sub)

/-- What a begin may change. -/
def beginParts : List Part := [.out, .regs, .counts, .rings, .jobs, .snaps, .log, .shots, .searches, .queues, .ports, .casts]

theorem beginJob_only (s : State) (n : Nat) (j : Job) : OnlyParts beginParts s (beginJob s n j) := by
  by_cases hs : j.seq = (ringOf s n).nextSeq.toNat
  · cases hh : headerErr j with
    | some e => exact beginJob_bad hs (.inl hh) ▸ .after (finish_only _ _ _) (beginning_only _ _ _).sub
    | none => cases ha : accessErr s j with
      | some e => exact beginJob_bad hs (.inr ⟨hh, ha⟩) ▸ .after (finish_only _ _ _) (beginning_only _ _ _).sub
      | none => exact beginJob_good hs hh ha ▸ .after (modJob_only _ _ _) (.after (takeAt_only _ _ _) (beginning_only _ _ _).sub)
  · exact .mono (show OnlyParts _ s (beginJob s n j) from (if_pos hs : beginJob s n j = _) ▸ seqHalt_only s n j) (by decide)

theorem descriptorBegin_only (n : Fin 512) (s : State) : ∃ t, exec (.descriptorBegin n) s = .next t ∧ OnlyParts beginParts s t := by
  refine ⟨_, rfl, ?_⟩
  split
  · exact .refl _ _
  · exact .ite (beginJob_only _ _ _) (.refl _ _)

theorem heldCompletionWrite_only (n : Fin 512) (s : State) :
    ∃ t, exec (.heldCompletionWrite n) s = .next t ∧ OnlyParts [.out, .counts, .rings, .msix, .owed] s t := by
  refine ⟨_, rfl, ?_⟩
  split
  · exact .refl _ _
  · exact .ite (.after (sendOwed_only _) (.after (writeEntry_only _ _ _) (setRing_only _ _ _).sub)) (.refl _ _)

theorem unmask_only (s : State) (g : Nat) : OnlyParts [.out, .msix, .owed] s (unmask s g) :=
  .ite (.after (raise_only _ _) (setMsix_only _ _ _).sub) (setMsix_only _ _ _).sub

theorem msixUnmask_only (f : Fin 9) (vec : Fin 512) (s : State) :
    ∃ t, exec (.msixUnmask f vec) s = .next t ∧ OnlyParts [.out, .msix, .owed] s t := by
  refine ⟨_, rfl, ?_⟩
  split
  · exact unmask_only _ _
  · exact .refl _ _

theorem doorbell_only (s : State) (f page : Nat) (v : Word) (size : Ring → Nat) (put : Ring → Nat → Ring) :
    OnlyParts [.regs, .rings, .log] s (doorbell s f page v size put) := by
  unfold doorbell
  split
  · exact .refl _ _
  · exact .ite (.ite (.after (setStain_only _ _ _) (setRing_only _ _ _).sub) (setRing_only _ _ _).sub) (.refl _ _)

theorem ringCtrl_only (s : State) (n : Nat) (w : Word) : OnlyParts [.out, .counts, .rings, .jobLists, .ports] s (ringCtrl s n w) :=
  .ite (.ite (setRing_only _ _ _).sub (.ite (.after (noteJobs_only _) (setRing_only _ _ _).sub) (setRing_only _ _ _).sub))
    (.after (noteJobs_only _) (setRing_only _ _ _).sub)

theorem pairLoRead_only (f : Fin 9) (off : Word) (s : State) :
    ∃ t, exec (.pairLoRead f off) s = .next t ∧ OnlyParts [.out, .latches] s t := by
  refine ⟨_, rfl, ?_⟩
  split
  · exact .refl _ _
  · exact .ite (.after (emit_only _ _) (latchesSet_only _ _).sub) (.refl _ _)

/-! ## What a write to HP_PART_CTRL may change -/

theorem partCtrl_only (s : State) (p : Nat) (w : Word) : OnlyParts [.regs, .jobs, .groups] s (partCtrl s p w) :=
  .ite (.after (wfield_only _ _ _ _ _) (.ite (.after (restartWatches_only _ _) (wreg_only _ _ _).sub) (wreg_only _ _ _).sub))
    (.ite (.ite (.after (flush_only _ _) (wreg_only _ _ _).sub) (.after (wfield_only _ _ _ _ _) (wreg_only _ _ _).sub)) (wreg_only _ _ _).sub)

theorem partWrite_only (s : State) (p : Nat) (w : Word) : OnlyParts landParts s (partWrite s p w) :=
  (partCtrl_only _ _ _).sub.trans (resumeCe_only _ _)

theorem partCfgWrite_only (p : Fin 8) (v : Word) (s : State) :
    ∃ t, exec (.partCfgWrite p v) s = .next t ∧ OnlyParts (.link :: partResetParts) s t :=
  exec_partCfgWrite p v s ▸ runIf_only (.ite (wfield_only _ _ _ _ _).sub (.ite (wfield_only _ _ _ _ _).sub
    (.after (newDiesReset_only _ _ _) (.after (resetPart_only _ _ _) (.after (diesLeft_only _ _ _) (wfield_only _ _ _ _ _).sub)))))

/-! ## What resets of functions may change -/

theorem resetFunctions_only (s : State) (fs : List Nat) :
    OnlyParts (abortParts ++ partResetParts ++ [.jobLists, .boot]) s (resetFunctions s fs) :=
  .after (afterReset_only _) (.after (foldl_resetFunction_only _ _) (resetAborts_only s fs).sub)

theorem hostGraceExpire_only (s : State) : ∃ t, exec .hostGraceExpire s = .next t ∧ OnlyParts (.link :: abortParts) s t := by
  refine ⟨_, rfl, ?_⟩
  split
  · exact .refl _ _
  · exact .ite (.trans (t := graceOver s) (graceOver_only s).sub (.foldl (fun u J => (abortFrom_only u J _ _).sub) _ _)) (.refl _ _)

/-! ## What a reset of the module keeps -/

theorem sameKept_resetModule (k : ResetKind) (s : State) : ∀ p ∈ resetKeeps, Part.same s (resetModule k s) p := by
  simp only [resetKeeps, List.forall_mem_cons, List.not_mem_nil, false_imp_iff, implies_true, and_true]
  exact ⟨rfl, rfl, rfl, rfl⟩

/-- What is kept stays where only other parts change. -/
theorem keeps_of_only {l : List Part} (h : ∀ p ∈ l, Part.same s t p) {u : State} (hu : OnlyParts ps t u)
    (hps : ∀ p ∈ l, p ∉ ps := by decide) : ∀ p ∈ l, Part.same s u p := fun p hp => Part.same_trans (h p hp) (hu p (hps p hp))

theorem keeps_of_runIf {l : List Part} {b : Bool} (h : ∀ p ∈ l, Part.same s t p) :
    ∃ u, runIf s b t = .next u ∧ ∀ p ∈ l, Part.same s u p := by
  refine ⟨_, rfl, ?_⟩
  split
  · exact h
  · exact fun p _ => OnlyParts.refl [] s p (by simp)

theorem powerOff_keeps (s : State) : ∀ p ∈ resetKeeps, Part.same s (powerOff s) p :=
  keeps_of_only (sameKept_resetModule .cold s) (pinsSet_only _ _ false _ _ _ _ _ _ _ _ _ _)

end

/-! ## What REGISTER_WRITE may change -/

section
variable {s t : State} {ps : List Part}

/-- Every part but the commands that wait, the numbers of descriptors and the EEPROM. -/
def writeParts : List Part := [.free, .now, .out, .regs, .counts, .rings, .jobs, .pegs, .latches, .msix, .owed, .link, .boot, .counting,
  .adverts, .lfsr, .tags, .snaps, .log, .aborts, .jobLists, .fray, .caps, .pins, .mem, .soil, .nans, .pages, .holds, .objs, .regions,
  .waits, .keys, .pats, .ckpts, .shots, .deep, .nodes, .cache, .split, .indexes, .searches, .media, .arrays, .programs, .tileProgs,
  .tickets, .queues, .transfers, .ports, .wins, .ops, .casts, .groups, .joins]

theorem mem_writeParts (p : Part) : p ∈ writeParts ∨ p ∈ [Part.pending, .nextId, .eeprom] := by
  cases p <;> decide

theorem OnlyParts.written (h : OnlyParts ps s t) (hps : ∀ p ∈ [Part.pending, .nextId, .eeprom], p ∉ ps := by decide) :
    OnlyParts writeParts s t := fun p hp => h p (hps p ((mem_writeParts p).resolve_left hp))

theorem stateOf_only {o : Out} (h : ∃ t, o = .next t ∧ OnlyParts ps s t) : OnlyParts ps s (stateOf s o) := by
  obtain ⟨t, rfl, ht⟩ := h
  exact ht

theorem plainWrite_only (s : State) (o : Nat) (v : Word) : OnlyParts [.regs] s (plainWrite s o v) := wreg_only _ _ _

theorem lagSet_only (s : State) (l : List (Nat × Nat × Nat)) (w : Nat) :
    OnlyParts [.groups] s { s with ce := { s.ce with lag := l, window := w } } := fun p hp => by cases p <;> simp_all [Part.same]

theorem lagCfgWrite_only (s : State) (v : Word) : OnlyParts [.regs, .groups] s (lagCfgWrite s v) :=
  .ite (plainWrite_only _ _ _).sub (.after (lagSet_only _ _ _) (plainWrite_only _ _ _).sub)

theorem msixWrite_only (s : State) (g w : Nat) (v : Word) : OnlyParts [.out, .msix, .owed] s (msixWrite s g w v) :=
  .ite (setMsix_only _ _ _).sub (.ite (setMsix_only _ _ _).sub (.ite (setMsix_only _ _ _).sub (.ite (setMsix_only _ _ _).sub (unmask_only _ _))))

theorem ringReg_only (s : State) (n o : Nat) (w : Word) : OnlyParts [.rings, .boot] s (ringReg s n o w) := by
  have hset : ∀ r, OnlyParts [.rings, .boot] s (setRing s n r) := fun r => (setRing_only _ _ _).sub
  exact .ite (hset _) (.ite (.refl _ _) (.ite (hset _) (.ite (hset _) (.ite (hset _) (.ite (hset _) (.ite (hset _)
    (.ite (.after (settleCores_only _) (hset _)) (.ite (hset _) (.refl _ _)))))))))

/-! ### Port control -/

theorem nonceDrawn_only (s : State) : OnlyParts [.free] s (drawNonce s).2 := freeSet_only _ _

theorem sendHello_only (s : State) (pt : Nat) : OnlyParts [.free, .ports, .out] s (sendHello s pt) :=
  .after (send_only _ _) (.after (modPort_only _ _ _) (nonceDrawn_only _).sub)

theorem portDisable_only (pt : Fin 16) (s : State) : ∃ t, execPortDisable pt s = .next t ∧ OnlyParts abortParts s t := by
  have hset : OnlyParts abortParts s (wreg s (rPort pt.val + 4) 1) := (wreg_only _ _ _).sub
  exact runIf_only (.ite hset (.after (noteOutcome_only _ _) (.after (setPortState_only _ _ _ _)
    (.ite hset (hset.trans (portDown_only _ _))))))

theorem portEnable_only (pt : Fin 16) (s : State) : ∃ t, execPortEnable pt s = .next t ∧ OnlyParts [.regs, .ports] s t :=
  runIf_only (.ite (.after (setPortState_only _ _ _ _) (.after (modPort_only _ _ _) (wreg_only _ _ _).sub)) (wreg_only _ _ _).sub)

theorem portQuarantine_only (pt : Fin 16) (s : State) : ∃ t, execPortQuarantine pt s = .next t ∧ OnlyParts abortParts s t :=
  runIf_only (quarantine_only _ _ _)

theorem portRelease_only (pt : Fin 16) (s : State) : ∃ t, execPortRelease pt s = .next t ∧ OnlyParts [.regs, .free, .ports, .out] s t :=
  runIf_only (.after (sendHello_only _ _) (setPortState_only _ _ _ _).sub)

theorem portCtrlWrite_only (s : State) (pt : Fin 16) (v : Word) : OnlyParts abortParts s (portCtrlWrite s pt v) := by
  have hone : OnlyParts abortParts s (stateOf s (if v.getLsbD 0 then execPortDisable pt s else execPortEnable pt s)) := by
    split
    · exact stateOf_only (portDisable_only _ _)
    · exact (stateOf_only (portEnable_only _ _)).sub
  have htwo : ∀ u, OnlyParts abortParts u (if v.getLsbD 1 then stateOf u (execPortQuarantine pt u) else u) := fun u =>
    .ite (stateOf_only (portQuarantine_only _ _)) (.refl _ _)
  have hthree : ∀ u, OnlyParts abortParts u (if v.getLsbD 2 then stateOf u (execPortRelease pt u) else u) := fun u =>
    .ite (stateOf_only (portRelease_only _ _)).sub (.refl _ _)
  exact (hone.trans (htwo _)).trans (hthree _)

/-! ### Commands that registers set off -/

theorem ringEnable_only (f : Fin 9) (n : Fin 512) (v : Word) (s : State) :
    ∃ t, exec (.ringEnable f n v) s = .next t ∧ OnlyParts [.out, .counts, .rings, .jobLists, .ports] s t := runIf_only (ringCtrl_only _ _ _)

theorem ringDisable_only (f : Fin 9) (n : Fin 512) (v : Word) (s : State) :
    ∃ t, exec (.ringDisable f n v) s = .next t ∧ OnlyParts [.out, .counts, .rings, .jobLists, .ports] s t := runIf_only (ringCtrl_only _ _ _)

theorem pegWindowAdd_only (f : Fin 9) (p : Fin 8) (i : Fin 4096) (v : Word) (s : State) :
    ∃ t, exec (.pegWindowAdd f p i v) s = .next t ∧ OnlyParts [.pegs] s t := runIf_only (addPeg_only _ _ _ _)

theorem tcPwrCapWrite_only (v : Word) (s : State) : ∃ t, exec (.tcPwrCapWrite v) s = .next t ∧ OnlyParts [.regs, .caps] s t := by
  have hceil : ∀ x, OnlyParts [.regs, .caps] s (if 120 ≤ bitsOf v.toNat 8 8 ∧ bitsOf v.toNat 8 8 ≤ 160 then wfield s rPwrCap 8 8 x else s) :=
    fun x => .ite (wfield_only _ _ _ _ _).sub (.refl _ _)
  exact runIf_only (.ite (.after (setCap_only _ _) (.after (wfield_only _ _ _ _ _) (hceil _))) (hceil _))

theorem obTagCfgWrite_only (v : Word) (s : State) : ∃ t, exec (.obTagCfgWrite v) s = .next t ∧ OnlyParts [.regs, .lfsr] s t :=
  runIf_only (.after (lfsrSet_only _ _) (wreg_only _ _ _).sub)

theorem stainLogClear_only (s : State) : ∃ t, exec .stainLogClear s = .next t ∧ OnlyParts [.log] s t := runIf_only (logSet_only _ _ _)

theorem go_only (v : Word) (s : State) : ∃ t, exec (.go v) s = .next t ∧ OnlyParts [.regs] s t :=
  runIf_only (.ite (((wreg_only _ _ _).trans (wfield_only _ _ _ _ _)).trans ((wfield_only _ _ _ _ _).trans (wfield_only _ _ _ _ _)))
    (wreg_only _ _ _))

theorem scPoolCfgWrite_only (d : Fin 8) (v : Word) (s : State) : ∃ t, exec (.scPoolCfgWrite d v) s = .next t ∧ OnlyParts [.regs] s t :=
  runIf_only (.ite (wfield_only _ _ _ _ _) (((wreg_only _ _ _).trans (wfield_only _ _ _ _ _)).trans (wfield_only _ _ _ _ _)))

theorem moduleResetCommand_keeps (v : Word) (s : State) :
    ∃ t, exec (.moduleResetCommand v) s = .next t ∧ ∀ p ∈ resetKeeps, Part.same s t p := keeps_of_runIf (sameKept_resetModule _ _)

theorem moduleResetCommand_only (v : Word) (s : State) : ∃ t, exec (.moduleResetCommand v) s = .next t ∧ OnlyParts writeParts s t := by
  obtain ⟨t, ht, hkeeps⟩ := moduleResetCommand_keeps v s
  exact ⟨t, ht, fun p hp => hkeeps p (by revert hp; cases p <;> decide)⟩

theorem hpWrite_only (f : Fin 9) (o : Nat) (v : Word) (s : State) : OnlyParts writeParts s (hpWrite f o v s) := by
  unfold hpWrite
  refine .ite (.ite ?_ (.ite (ringReg_only _ _ _ _).written (.refl _ _)))
    (.ite (.ite (stateOf_only (pegWindowAdd_only _ _ _ _ _)).written (.refl _ _))
      (.ite (.ite (msixWrite_only _ _ _ _).written (.refl _ _)) (.ite (.refl _ _) ?_)))
  · split
    · exact (stateOf_only (ringEnable_only _ _ _ _)).written
    · exact (stateOf_only (ringDisable_only _ _ _ _)).written
  · split
    · exact (stateOf_only (partCfgWrite_only _ _ _)).written
    · split
      · exact (partWrite_only _ _ _).written
      · exact (plainWrite_only _ _ _).written

theorem blockWrite_only (o : Nat) (v : Word) (s : State) : OnlyParts writeParts s (blockWrite o v s) := by
  have hplain : ∀ o, OnlyParts writeParts s (plainWrite s o v) := fun o => (plainWrite_only _ _ _).written
  unfold blockWrite
  refine .ite (.ite (stateOf_only (go_only _ _)).written (hplain _)) (.ite (stateOf_only (moduleResetCommand_only _ _))
    (.ite (stateOf_only (tcPwrCapWrite_only _ _)).written (.ite (hplain _) (.ite (.refl _ _) (.ite (lagCfgWrite_only _ _).written
      (.ite (stateOf_only (obTagCfgWrite_only _ _)).written (.ite (.ite (stateOf_only (stainLogClear_only _)).written (.refl _ _)) ?_)))))))
  split
  · exact (stateOf_only (scPoolCfgWrite_only _ _ _)).written
  · split
    · exact (portCtrlWrite_only _ _ _).written
    · exact hplain _

theorem registerWrite_only (f : Fin 9) (off v : Word) (s : State) :
    ∃ t, exec (.registerWrite f off v) s = .next t ∧ OnlyParts writeParts s t := by
  refine ⟨_, rfl, ?_⟩
  split
  · exact .refl _ _
  · exact .ite (.refl _ _) (.ite (hpWrite_only _ _ _ _) (blockWrite_only _ _ _))

end

/-! ## Frames of the commands of the host port, the observation block and the power block -/

section
variable {s t : State} {ps : List Part}

/-! ### Descriptors of the host port and the observation block -/

theorem nop_only (n : Nat) (s : State) : ∃ t, exec (.nop n) s = .next t ∧ OnlyParts [.jobs] s t := runOp_only (fun _ => finish_only _ _ _)

theorem pegAdd_only (n : Nat) (s : State) : ∃ t, exec (.pegAdd n) s = .next t ∧ OnlyParts [.jobs, .pegs] s t :=
  runOp_only (fun _ => by
    split
    · exact (finish_only _ _ _).sub
    · exact .after (finish_only _ _ _) (addPeg_only _ _ _ _).sub)

theorem pegSet_only (n : Nat) (s : State) : ∃ t, exec (.pegSet n) s = .next t ∧ OnlyParts [.jobs, .pegs] s t :=
  runOp_only (fun _ => by
    split
    · exact (finish_only _ _ _).sub
    · exact .after (finish_only _ _ _) (setPeg_only _ _ _ _).sub)

theorem hostWrite_only (n : Nat) (s : State) : ∃ t, exec (.hostWrite n) s = .next t ∧ OnlyParts [.out, .counts, .jobs] s t :=
  runOp_only (fun _ => by
    split
    · exact (finish_only _ _ _).sub
    · exact .ite (.after (finish_only _ _ _) (hostPut_only _ _ _ _ _).sub) (markWaits_only _ _).sub)

theorem snapshotRead_only (n : Nat) (s : State) : ∃ t, exec (.snapshotRead n) s = .next t ∧ OnlyParts [.out, .counts, .jobs] s t :=
  runOp_only (fun _ => by
    dsimp only
    split
    · exact (finish_only _ _ _).sub
    · exact .ite (.after (finish_only _ _ _) (hostPut_only _ _ _ _ _).sub) (markWaits_only _ _).sub)

theorem snapshot_only (n : Nat) (s : State) : ∃ t, exec (.snapshot n) s = .next t ∧ OnlyParts [.jobs] s t :=
  runOp_only (fun _ => by
    split
    · exact finish_only _ _ _
    · exact .ite (keepRunning_only _ _) (finish_only _ _ _))

theorem tagDrain_only (n : Nat) (s : State) : ∃ t, exec (.tagDrain n) s = .next t ∧ OnlyParts [.out, .counts, .jobs, .tags] s t :=
  runOp_only (fun _ => by
    dsimp only
    split
    · exact (finish_only _ _ _).sub
    · exact .ite (markWaits_only _ _).sub (.after (finish_only _ _ _) (.after (tagsSet_only _ _) (hostPut_only _ _ _ _ _).sub)))

theorem jobAbort_only (n : Nat) (s : State) : ∃ t, exec (.jobAbort n) s = .next t ∧ OnlyParts abortParts s t :=
  runOp_only (fun _ => by
    split
    · exact (finish_only _ _ _).sub
    · dsimp only
      split
      · exact .ite (abortFrom_only _ _ _ _) (.after (finish_only _ _ _) (abortFrom_only _ _ _ _))
      · exact abortFrom_only _ _ _ _)

/-! ### Darns -/

theorem retireCore_darn_only (n : Nat) (s : State) :
    ∃ t, exec (.retireCore n) s = .next t ∧ OnlyParts (.boot :: abandonParts) s t :=
  runOp_only (fun j => by
    have hretire : OnlyParts (.boot :: abandonParts) s (retireCore s (j.fld 16 1)) := (retireCore_only _ _).sub
    dsimp only
    split
    · exact (finish_only _ _ _).sub
    · refine .ite (darnFail_only _ _ _).sub (.ite (finish_only _ _ _).sub (.ite (darnFail_only _ _ _).sub (.ite ?_
        (.ite (.after (finish_only _ _ _) hretire) (.after (keepRunning_only _ _) hretire)))))
      exact .after (finish_only _ _ _) (.trans hretire (.foldl (fun u k => (stopOnCore_only _ _ _).sub) _ _)))

theorem retireThimble_only (n : Nat) (s : State) : ∃ t, exec (.retireThimble n) s = .next t ∧ OnlyParts [.regs, .jobs, .log] s t :=
  runOp_only (fun _ => by
    dsimp only
    split
    · exact (finish_only _ _ _).sub
    · exact .ite (finish_only _ _ _).sub (.ite (darnFail_only _ _ _).sub (.after (finish_only _ _ _) (wfield_only _ _ _ _ _).sub)))

theorem hbmRow_only (n spares : Nat) (took : Bool) (pages : List (Fin 8 × Nat)) (s : State) :
    ∃ t, exec (.hbmRow n spares took pages) s = .next t ∧ OnlyParts [.free, .regs, .jobs, .log, .pages, .pats, .media] s t :=
  runOp_only (fun _ => by
    dsimp only
    split
    · exact (finish_only _ _ _).sub
    · exact .ite (finish_only _ _ _).sub (.ite (darnFail_only _ _ _).sub (.ite (darnFail_only _ _ _).sub (.after (finish_only _ _ _)
        (.after (wfield_only _ _ _ _ _) (.trans (mediaSet_only s _ _ _).sub (.foldl (fun u e => (movePage_only u e).sub) _ _)))))))

theorem sramRemap_only (n spares : Nat) (took : Bool) (s : State) :
    ∃ t, exec (.sramRemap n spares took) s = .next t ∧ OnlyParts [.regs, .jobs, .log, .media] s t :=
  runOp_only (fun _ => by
    dsimp only
    split
    · exact (finish_only _ _ _).sub
    · exact .ite (darnFail_only _ _ _).sub (.ite (finish_only _ _ _).sub (.ite (darnFail_only _ _ _).sub (.ite (darnFail_only _ _ _).sub
        (.after (finish_only _ _ _) (mediaSet_only s _ _ _).sub)))))

theorem flashBlock_only (n : Nat) (took : Bool) (s : State) :
    ∃ t, exec (.flashBlock n took) s = .next t ∧ OnlyParts [.regs, .counts, .jobs, .log, .media] s t :=
  runOp_only (fun _ => by
    dsimp only
    split
    · exact (finish_only _ _ _).sub
    · exact .ite (darnFail_only _ _ _).sub (.ite (finish_only _ _ _).sub (.ite (darnFail_only _ _ _).sub
        (.after (finish_only _ _ _) (.after (mediaSet_only _ _ _ _) (.after (setStain_only _ _ _) (addCnt_only _ _ _).sub))))))

theorem retireLane_only (n : Nat) (s : State) : ∃ t, exec (.retireLane n) s = .next t ∧ OnlyParts abortParts s t :=
  runOp_only (fun _ => by
    dsimp only
    split
    · exact (finish_only _ _ _).sub
    · exact .ite (darnFail_only _ _ _).sub (.ite (finish_only _ _ _).sub (.ite (darnFail_only _ _ _).sub
        (.after (finish_only _ _ _) (.ite (.after (send_only _ _) (laneFail_only _ _ _ _)) (laneFail_only _ _ _ _))))))

/-! ### Broadcasts and job lists -/

theorem jobAbortReceive_only (pt : Fin 16) (origin : BitVec 12) (num j : Word) (ta : DWord) (cause : Fin 16) (s : State) :
    ∃ t, exec (.jobAbortReceive pt origin num j ta cause) s = .next t ∧ OnlyParts abortParts s t :=
  ⟨_, rfl, takeCast_only _ _ _ _ (fun _ => abortLocal_only _ _ _ _ _)⟩

theorem jobListReceive_only (pt : Fin 16) (jobs : List Word) (s : State) :
    ∃ t, exec (.jobListReceive pt jobs) s = .next t ∧ OnlyParts [.counts, .jobLists, .ports] s t :=
  ⟨_, rfl, arriveVct_only _ (fun u => (jobListsSet_only u _).sub)⟩

theorem snapshotTrigger_only (pt : Fin 16) (origin : BitVec 12) (num : Word) (ts : DWord) (sid : BitVec 16) (s : State) :
    ∃ t, exec (.snapshotTrigger pt origin num ts sid) s = .next t ∧ OnlyParts [.out, .regs, .counts, .snaps, .log, .ports, .casts] s t :=
  ⟨_, rfl, takeCast_only _ _ _ _ (fun _ => .ite (setStain_only _ _ _).sub (.ite (.refl _ _)
    (.ite (.after (setStain_only _ _ _) (setSnap_only _ _ _).sub) (addTrigger_only _ _ _ _).sub)))⟩

theorem powerCapBroadcast_only (pt : Fin 16) (origin : BitVec 12) (num : Word) (cap : Nat) (ts : DWord) (s : State) :
    ∃ t, exec (.powerCapBroadcast pt origin num cap ts) s = .next t ∧ OnlyParts [.out, .regs, .counts, .log, .caps, .ports, .casts] s t :=
  ⟨_, rfl, takeCast_only _ _ _ _ (fun _ => .ite (.after (setStain_only _ _ _) (setCap_only _ _).sub) (holdCap_only _ _).sub)⟩

/-! ### Power -/

theorem powerCap_only (n : Nat) (s : State) :
    ∃ t, exec (.powerCap n) s = .next t ∧ OnlyParts [.out, .regs, .counts, .jobs, .log, .caps, .ports, .casts] s t :=
  runOp_only (fun _ => by
    dsimp only
    split
    · exact (finish_only _ _ _).sub
    · have hhold : ∀ x, OnlyParts [.out, .regs, .counts, .jobs, .log, .caps, .ports, .casts] s (keepRunning (holdCap s x) n) := fun x =>
        .after (keepRunning_only _ _) (holdCap_only _ _).sub
      exact .ite (.after (finish_only _ _ _) (setCap_only _ _).sub) (.ite (.after (originate_only _ _) (hhold _)) (hhold _)))

theorem scheduledCapDue_only (s : State) : ∃ t, exec .scheduledCapDue s = .next t ∧ OnlyParts [.regs, .jobs, .caps] s t := by
  refine ⟨_, rfl, ?_⟩
  split
  · exact .refl _ _
  · refine .ite (.refl _ _) (.trans (.after (setCap_only _ _) (capsSet_only s _).sub) (.foldl (fun v c => ?_) _ _))
    split
    · exact (finish_only _ _ _).sub
    · exact .refl _ _

theorem powerSample_only (x : PowerSample) (s : State) :
    ∃ t, exec (.powerSample x) s = .next t ∧ OnlyParts [.regs, .counts, .log, .pins] s t :=
  runIf_only (.after (pinsSet_only _ _ _ _ _ _ _ _ _ _ _ _ _) (.after (stainIf_only _ _ _ _) (.after (stainIf_only _ _ _ _)
    (.after (stainIf_only _ _ _ _) (.after (wfield_only _ _ _ _ _) (.after (wfield_only _ _ _ _ _) (.after (noteSample_only _ _)
      (noteEnergy_only _ _).sub)))))))

theorem frayEvaluate_only (ms : List FrayMeasure) (s : State) :
    ∃ t, exec (.frayEvaluate ms) s = .next t ∧ OnlyParts [.regs, .log, .fray] s t := by
  have hmeasures : OnlyParts [.regs, .log, .fray] s
      (ms.foldl (fun u m => noteFray u m.unit.val (FrayMeasure.wear m)) { s with ob := { s.ob with hours := s.ob.hours + 1 } }) :=
    .trans (fraySet_only s _ _ _ _).sub (.foldl (fun u m => noteFray_only u _ _) _ _)
  exact runIf_only (.ite (hmeasures.trans (noteFray_only _ _ _)) hmeasures)

theorem leakDetect_only (s : State) : ∃ t, exec .leakDetect s = .next t ∧ OnlyParts [.regs, .log, .pins] s t :=
  runIf_only (.after (stainIf_only _ _ _ _) (.after (latchFault_only _ _) (pinsSet_only s _ _ _ _ true _ _ _ _ _ _ _).sub))

theorem sysLimitWrite_only (v : BitVec 16) (s : State) : ∃ t, exec (.sysLimitWrite v) s = .next t ∧ OnlyParts [.out, .pins] s t :=
  runIf_only (.ite (pinsSet_only s _ _ _ _ _ _ _ _ _ _ _ _).sub (emit_only _ _).sub)

theorem i2cEepromWrite_only (firmware : Bool) (addr : BitVec 16) (bs : List Byte) (s : State) :
    ∃ t, exec (.i2cEepromWrite firmware addr bs) s = .next t ∧ OnlyParts [.out, .eeprom] s t :=
  runIf_only (.ite (putEeprom_only _ _ _).sub (emit_only _ _).sub)

theorem snapshotLatch_only (k : Fin 4) (s : State) : ∃ t, exec (.snapshotLatch k) s = .next t ∧ OnlyParts [.jobs, .snaps] s t :=
  runIf_only (.trans (setSnap_only _ _ _).sub (.foldl (fun u n => (finish_only u n _).sub) _ _))

/-! ### The host and the link -/

theorem vfEnable_only (v : Fin 9) (s : State) :
    ∃ t, exec (.vfEnable v) s = .next t ∧ OnlyParts (.link :: (abortParts ++ partResetParts ++ [.jobLists, .boot])) s t :=
  runIf_only (.after (linkSet_only _ _ _ _ _ _ _ _ _) (.ite (resetFunctions_only _ _).sub (.refl _ _)))

theorem partitionReset_only (f : Fin 9) (s : State) :
    ∃ t, exec (.partitionReset f) s = .next t ∧ OnlyParts ([.link, .msix] ++ (abortParts ++ partResetParts ++ [.jobLists, .boot])) s t :=
  runIf_only (.after (configSet_only _ _ _ _ _ _ _) (resetFunctions_only _ _).sub)

theorem pcieLinkDown_only (s : State) : ∃ t, exec .pcieLinkDown s = .next t ∧ OnlyParts [.regs, .link, .log] s t := by
  have hdown : OnlyParts [.regs, .link, .log] s (setStain
      (wfield { s with hp := { s.hp with linkUp := false, stall := false, downAt := some s.now } } rLink 9 1 0) rHpStain 2) :=
    .after (setStain_only _ _ _) (.after (wfield_only _ _ _ _ _) (linkSet_only s _ _ _ _ false false _ _).sub)
  exact runIf_only (.ite (.trans hdown (bootError_only _ _ _ _).sub) hdown)

theorem pcieHotReset_only (s : State) : ∃ t, exec .pcieHotReset s = .next t ∧ OnlyParts [.regs, .link, .log] s t :=
  runIf_only (.after (setStain_only _ _ _) (linkSet_only s 0 false _ 0 _ _ _ []).sub)

theorem hostStallBegin_only (s : State) : ∃ t, exec .hostStallBegin s = .next t ∧ OnlyParts [.regs, .link, .log] s t :=
  runIf_only (.after (setStain_only _ _ _) (linkSet_only s _ _ _ _ true _ _ _).sub)

/-! ### Losses of power -/

theorem inputFaultShutdown_keeps (k : InputFault) (s : State) :
    ∃ t, exec (.inputFaultShutdown k) s = .next t ∧ ∀ p ∈ resetKeeps, Part.same s t p :=
  keeps_of_runIf (keeps_of_only (powerOff_keeps s) (latchFault_only _ _))

theorem inputPowerLoss_keeps (s : State) : ∃ t, exec .inputPowerLoss s = .next t ∧ ∀ p ∈ resetKeeps, Part.same s t p :=
  keeps_of_runIf (powerOff_keeps s)

theorem thermtrip_keeps (s : State) : ∃ t, exec .thermtrip s = .next t ∧ ∀ p ∈ resetKeeps, Part.same s t p :=
  keeps_of_runIf (keeps_of_only (keeps_of_only (powerOff_keeps s) (latchFault_only _ _)) (pinsSet_only _ _ _ _ true _ _ _ _ _ _ _ _))

theorem coldReset_keeps (railFail : Bool) (s : State) : ∃ t, exec (.coldReset railFail) s = .next t ∧ ∀ p ∈ resetKeeps, Part.same s t p := by
  have hreset : ∀ p ∈ resetKeeps, Part.same s { resetModule .cold s with
      pw := { (resetModule .cold s).pw with pwrEn := true, pwrGood := !railFail, perst := true } } p :=
    keeps_of_only (sameKept_resetModule .cold s) (pinsSet_only _ _ _ _ _ _ _ _ _ _ _ _ _)
  refine ⟨_, rfl, ?_⟩
  split
  · exact keeps_of_only hreset (latchFault_only _ _)
  · exact hreset

theorem perstAssert_keeps (s : State) : ∃ t, exec .perstAssert s = .next t ∧ ∀ p ∈ resetKeeps, Part.same s t p :=
  keeps_of_runIf (keeps_of_only (sameKept_resetModule .warm s) (pinsSet_only _ _ _ true _ _ _ _ _ _ _ _ _))

/-- An orderly stop writes the Fray histories, and the EEPROM with them. -/
theorem pwrEnDeassert_keeps (s : State) : ∃ t, exec .pwrEnDeassert s = .next t ∧ ∀ p ∈ resetKeeps.erase .eeprom, Part.same s t p := by
  have hfray : ∀ c : Bool, OnlyParts [.fray, .eeprom] s (if c then writeFray s else s) := fun c => .ite (writeFray_only _) (.refl _ _)
  have hoff : ∀ u, OnlyParts [.fray, .eeprom] s u → ∀ p ∈ resetKeeps.erase .eeprom, Part.same s (powerOff u) p := fun u hu p hp =>
    Part.same_trans (hu p (by revert p; decide)) (powerOff_keeps u p (List.mem_of_mem_erase hp))
  refine ⟨_, rfl, keeps_of_only (t := if s.pw.pwrGood then _ else s) ?_ (pinsSet_only _ false _ _ false _ _ _ _ _ _ _ _)⟩
  split
  · exact hoff _ (hfray _)
  · exact fun p _ => OnlyParts.refl [] s p (by simp)

end

/-! ## O57: the frames of the commands of the host port, the observation block and the power block -/

section
variable {s t : State} {ps : List Part}

theorem frame_mono {c : Instr} {qs : List Part} (h : ∃ t, exec c s = .next t ∧ OnlyParts ps s t) (hq : ps ⊆ qs := by decide) :
    ∃ t, exec c s = .next t ∧ OnlyParts qs s t := by
  obtain ⟨t, ht, hframe⟩ := h
  exact ⟨t, ht, hframe.mono hq⟩

theorem keeps_of_frame {c : Instr} {l : List Part} (h : ∃ t, exec c s = .next t ∧ OnlyParts ps s t) (hl : ∀ p ∈ l, p ∉ ps := by decide) :
    ∃ t, exec c s = .next t ∧ ∀ p ∈ l, Part.same s t p := by
  obtain ⟨t, ht, hframe⟩ := h
  exact ⟨t, ht, fun p hp => hframe p (hl p hp)⟩

/-! ### Host memory opens again -/

theorem busMasterEnable_only (f : Fin 9) (s : State) :
    ∃ t, exec (.busMasterEnable f) s = .next t ∧ OnlyParts [.out, .msix, .owed, .link] s t :=
  runIf_only (.after (sendOwed_only _) (linkSet_only s _ _ _ (s.hp.bme ||| BitVec.ofNat 9 (2 ^ f.val)) _ _ _ _).sub)

theorem hostStallRetry_only (works : Bool) (s : State) :
    ∃ t, exec (.hostStallRetry works) s = .next t ∧ OnlyParts [.out, .msix, .owed, .link] s t :=
  runIf_only (.after (sendOwed_only _) (linkSet_only s _ _ _ _ false _ _ _).sub)

theorem pcieLinkUp_only (speed : Fin 16) (width : Fin 32) (flit : Bool) (s : State) :
    ∃ t, exec (.pcieLinkUp speed width flit) s = .next t ∧ OnlyParts [.out, .regs, .msix, .owed, .link] s t :=
  runIf_only (.after (sendOwed_only _) (.after (wreg_only _ _ _) (linkSet_only s _ _ _ _ _ true none _).sub))

theorem coalTimeExpire_only (n : Fin 512) (s : State) :
    ∃ t, exec (.coalTimeExpire n) s = .next t ∧ OnlyParts [.out, .rings, .msix, .owed] s t :=
  runIf_only (ringInterrupt_only _ _ _).sub

theorem hpDbCmdTail_only (f : Fin 9) (page : Fin 512) (v : Word) (s : State) :
    ∃ t, exec (.hpDbCmdTail f page v) s = .next t ∧ OnlyParts [.regs, .rings, .log] s t := ⟨_, rfl, doorbell_only _ _ _ _ _ _⟩

theorem hpDbCplHead_only (f : Fin 9) (page : Fin 512) (v : Word) (s : State) :
    ∃ t, exec (.hpDbCplHead f page v) s = .next t ∧ OnlyParts [.regs, .rings, .log] s t := ⟨_, rfl, doorbell_only _ _ _ _ _ _⟩

/-! ### Partitions -/

theorem partFlush_only (p : Fin 8) (s : State) : ∃ t, exec (.partFlush p) s = .next t ∧ OnlyParts [.regs, .jobs, .groups] s t :=
  runIf_only (partCtrl_only _ _ _)

theorem partHeldFlush_only (p : Fin 8) (s : State) : ∃ t, exec (.partHeldFlush p) s = .next t ∧ OnlyParts [.regs, .jobs] s t :=
  runIf_only (flush_only _ _)

theorem partitionResetDone_only (p : Fin 8) (s : State) :
    ∃ t, exec (.partitionResetDone p) s = .next t ∧ OnlyParts [.regs, .link] s t :=
  runIf_only (afterResetDone_only _ _)

/-! ### The power block's steps -/

theorem railStep_only (r : Fin 10) (s : State) : ∃ t, exec (.railStep r) s = .next t ∧ OnlyParts [.regs] s t :=
  runIf_only (wfield_only _ _ _ _ _)

theorem sysLimitPoll_only (s : State) : ∃ t, exec .sysLimitPoll s = .next t ∧ OnlyParts [.regs, .caps] s t :=
  runIf_only (.after (setCap_only _ _) (wfield_only _ _ _ _ _).sub)

theorem vinLow_only (s : State) : ∃ t, exec .vinLow s = .next t ∧ OnlyParts [.regs, .log] s t := runIf_only (setStain_only _ _ _)

theorem faultClear_only (v : BitVec 16) (s : State) : ∃ t, exec (.faultClear v) s = .next t ∧ OnlyParts [.pins] s t :=
  runIf_only (pinsSet_only s _ _ _ _ _ _ _ _ _ _ (s.pw.fault &&& ~~~ v) _)

theorem standbyPowerLoss_only (s : State) : ∃ t, exec .standbyPowerLoss s = .next t ∧ OnlyParts [.pins] s t :=
  runIf_only (pinsSet_only s _ _ _ _ false false 0 0 0 72 0 _)

theorem standbyPowerReturn_only (s : State) : ∃ t, exec .standbyPowerReturn s = .next t ∧ OnlyParts [.pins] s t :=
  runIf_only (pinsSet_only s _ _ _ _ _ true _ _ _ 72 0x40 _)

theorem frayHistoryWrite_only (s : State) : ∃ t, exec .frayHistoryWrite s = .next t ∧ OnlyParts [.fray, .eeprom] s t :=
  runIf_only (writeFray_only _)

end

/-- Settles O57: each command's own frame, widened to the parts that the statement lists. -/
theorem framesOfHost : Obligations.FramesOfHost := by
  unfold Obligations.FramesOfHost
  exact ⟨busMasterEnable_only, coalTimeExpire_only, fun n s => frame_mono (descriptorBegin_only n s),
    fun n s => frame_mono (descriptorComplete_only n s), descriptorFetch_only, descriptorFetchFail_only, faultClear_only,
    flashBlock_only, frayEvaluate_only, frayHistoryWrite_only, hbmRow_only, heldCompletionWrite_only,
    fun s => frame_mono (hostGraceExpire_only s),
    by
      rintro c s (rfl | rfl | rfl)
      exacts [hostStallBegin_only s, pcieHotReset_only s, pcieLinkDown_only s],
    hostStallRetry_only,
    by
      rintro c n s (rfl | rfl)
      exacts [hostWrite_only n s, snapshotRead_only n s],
    by
      rintro c f page v s (rfl | rfl)
      exacts [hpDbCmdTail_only f page v s, hpDbCplHead_only f page v s],
    i2cEepromWrite_only,
    by
      rintro c n s (rfl | rfl)
      exacts [frame_mono (jobAbort_only n s), frame_mono (retireLane_only n s)],
    fun pt o num J ta cause s => frame_mono (jobAbortReceive_only pt o num J ta cause s),
    jobListReceive_only, leakDetect_only, msixUnmask_only,
    by
      rintro c n s (rfl | rfl)
      exacts [nop_only n s, snapshot_only n s],
    obTagCfgWrite_only, pairLoRead_only, fun p v s => frame_mono (partCfgWrite_only p v s), partFlush_only, partHeldFlush_only,
    fun f s => frame_mono (partitionReset_only f s), partitionResetDone_only, pcieLinkUp_only,
    by
      rintro c n s (rfl | rfl)
      exacts [pegAdd_only n s, pegSet_only n s],
    pegWindowAdd_only, powerCap_only, powerCapBroadcast_only, powerSample_only, railStep_only,
    fun n s => frame_mono (retireCore_darn_only n s), retireThimble_only,
    by
      rintro c f n v s (rfl | rfl)
      exacts [ringDisable_only f n v s, ringEnable_only f n v s],
    scheduledCapDue_only, snapshotLatch_only, snapshotTrigger_only, sramRemap_only, stainLogClear_only,
    by
      rintro c s (rfl | rfl)
      exacts [standbyPowerLoss_only s, standbyPowerReturn_only s],
    sysLimitPoll_only, sysLimitWrite_only, tagDrain_only, tcPwrCapWrite_only, fun v s => frame_mono (vfEnable_only v s), vinLow_only,
    by
      rintro c b k v s (rfl | rfl | rfl | rfl | rfl | rfl)
      exacts [coldReset_keeps b s, perstAssert_keeps s, moduleResetCommand_keeps v s, inputFaultShutdown_keeps k s,
        inputPowerLoss_keeps s, thermtrip_keeps s],
    pwrEnDeassert_keeps, fun f off v s => keeps_of_frame (registerWrite_only f off v s)⟩

end Sys2Proof.Machine

namespace Sys2Proof.Machine

-- As above: proofs are elaborated one after another.
set_option Elab.async false

/-! ## O60: the frames of the commands of the arrays, the functions, the Press, the tile programs and the tickets -/

section
variable {s t : State} {ps : List Part}

/-- What a write of bytes may change. -/
def byteParts : List Part := [.mem, .soil, .nans]

/-- An access through the tiers that may fail changes what its work does. -/
theorem withMem_only {n : Nat} {xs : List Span} {perform : State → State} (hk : ∀ t, OnlyParts ps t (perform t))
    (hps : tierParts ⊆ ps := by decide) : OnlyParts ps s (withMem s n xs perform) :=
  withMemOr_only (fun _ _ => (tierFail_only _ _ _ _ _).mono hps) hk hps

/-! ### Row operations and function programs -/

theorem runRows_only (s : State) (j : Job) (r : RowOp) : OnlyParts [.regs, .counts, .jobs, .log, .mem, .soil, .nans] s (runRows s j r) := by
  refine .after (finish_only _ _ _) (.after (ranOn_only _ _ _ _ _) (.after (coreCount_only _ _ _ _) (.after (stainIf_only _ _ _ _)
    (.after (stainIf_only _ _ _ _) (.after (stainIf_only _ _ _ _) (.foldl (fun t e => ?_) _ _))))))
  exact .ite (.after (writeAt_only _ _ _ _ _) (writeAt_only _ _ _ _ _).sub) (writeAt_only _ _ _ _ _).sub

theorem rowExec_only (s : State) (j : Job) : OnlyParts [.regs, .counts, .jobs, .log, .mem, .soil, .nans] s (rowExec s j) := by
  unfold rowExec
  split
  · exact (finish_only _ _ _).sub
  · exact runRows_only _ _ _

theorem loadNote_only (s : State) (p k : Nat) (code data : Option Nat) : OnlyParts [.free, .regs] s (loadNote s p k code data) :=
  .after (wreg_only _ _ _) (.ite (.refl _ _) (freeSet_only _ _).sub)

theorem loadProgram_only (n : Nat) (s : State) :
    ∃ t, exec (.loadProgram n) s = .next t ∧ OnlyParts (tierParts.append [.programs]) s t := by
  refine runOp_only (fun j => ?_)
  dsimp only
  split
  · exact .after (finish_only _ _ _) (loadNote_only _ _ _ _ _).sub
  · refine .ite (withMemOr_only (fun c o => ?_) (fun t => ?_)) (markWaits_only _ _).sub
    · exact .after (tierFail_only _ _ _ _ _) (loadNote_only _ _ _ _ _).sub
    · exact .ite (.after (finish_only _ _ _) (.after (setProg_only _ _ _ _) (loadNote_only _ _ _ _ _).sub))
        (.after (finish_only _ _ _) (loadNote_only _ _ _ _ _).sub)

theorem unloadProgram_only (n : Nat) (s : State) : ∃ t, exec (.unloadProgram n) s = .next t ∧ OnlyParts [.jobs, .programs] s t := by
  refine runOp_only (fun j => ?_)
  split
  · exact (finish_only _ _ _).sub
  · exact .ite (.after (finish_only _ _ _) (setProg_only _ _ _ _).sub) (keepRunning_only _ _).sub

/-! ### The matrix arrays -/

theorem hold_only (n : Nat) (s : State) : ∃ t, exec (.hold n) s = .next t ∧ OnlyParts [.jobs, .arrays] s t := by
  refine runOp_only (fun j => ?_)
  dsimp only
  split
  · exact (finish_only _ _ _).sub
  · exact .ite (.refl _ _) (.after (finish_only _ _ _) (.after (ranOn_only _ _ _ _ _)
      (.foldl (fun _ _ => (setArr_only _ _ _ _).sub) _ _)))

theorem beginProduct_only (s : State) (j : Job) : OnlyParts [.arrays] s (beginProduct s j) :=
  .after (.foldl (fun _ _ => setArr_only _ _ _ _) _ _) (.after (.foldl (fun _ _ => setArr_only _ _ _ _) _ _)
    (.ite (modArrs_only _ _ _ _) (.refl _ _)))

theorem fillProduct_only (s : State) (j : Job) : OnlyParts [.arrays] s (fillProduct s j) :=
  .foldl (fun _ _ => setArr_only _ _ _ _) _ _

theorem closeProduct_only (s : State) (j : Job) : OnlyParts [.arrays] s (closeProduct s j) :=
  .foldl (fun _ _ => setArr_only _ _ _ _) _ _

theorem streamProduct_only (s : State) (j : Job) : OnlyParts (tierParts.append [.arrays]) s (streamProduct s j) := by
  refine withMemOr_only (fun c o => ?_) (fun t => ?_)
  · exact .after (tierFail_only _ _ _ _ _) (closeProduct_only _ _).sub
  · exact .after (keepRunning_only _ _) (.after (modJob_only _ _ _) (.after (ranOn_only _ _ _ _ _) (fillProduct_only _ _).sub))

theorem product_only (n : Nat) (s : State) : ∃ t, exec (.product n) s = .next t ∧ OnlyParts (tierParts.append [.arrays]) s t := by
  refine runOp_only (fun j => .ite (streamProduct_only _ _) ?_)
  split
  · exact (finish_only _ _ _).sub
  · exact .trans (beginProduct_only _ _).sub (streamProduct_only _ _)

theorem productIssue_only (c : Fin 64) (a : Fin 4) (s : State) :
    ∃ t, exec (.productIssue c a) s = .next t ∧ OnlyParts [.counts, .arrays] s t := by
  refine ⟨_, rfl, ?_⟩
  split
  · exact .refl _ _
  · exact .ite (.after (coreCount_only _ _ _ _) (setArr_only _ _ _ _).sub) (.refl _ _)

theorem productLanding_only (c : Fin 64) (a : Fin 4) (s : State) :
    ∃ t, exec (.productLanding c a) s = .next t ∧ OnlyParts [.regs, .jobs, .log, .arrays] s t := by
  refine ⟨_, rfl, ?_⟩
  dsimp only
  split
  · exact .refl _ _
  · have hland : ∀ (x : Arr) (n bits : Nat) (soil : Bool), OnlyParts [.regs, .jobs, .log, .arrays] s
        (stainIf soil (noteJob (setArr s c.val a.val x) n bits soil) (rMxStain c.val) 2) := fun x n bits soil =>
      .after (stainIf_only _ _ _ _) (.after (modJob_only _ _ _) (setArr_only _ _ _ _).sub)
    split
    · exact .ite (.after (finish_only _ _ _) (hland _ _ _ _)) (hland _ _ _ _)
    · exact hland _ _ _ _

theorem drain_only (n : Nat) (s : State) : ∃ t, exec (.drain n) s = .next t ∧ OnlyParts (tierParts.append [.arrays]) s t := by
  refine runOp_only (fun j => ?_)
  dsimp only
  split
  · exact (finish_only _ _ _).sub
  refine .ite (.refl _ _) ?_
  split
  · exact (finish_only _ _ _).sub
  refine withMem_only (fun t => ?_)
  have hrows : ∀ (l : List Nat) (f : State → Nat → State), (∀ u i, OnlyParts byteParts u (f u i)) →
      OnlyParts (tierParts.append [.arrays]) t (l.foldl f t) := fun l f hf => (OnlyParts.foldl hf l t).sub
  refine .after (finish_only _ _ _) (.after (ranOn_only _ _ _ _ _) (.after (stainIf_only _ _ _ _) (.after (stainIf_only _ _ _ _)
    (.ite (hrows _ _ (fun _ _ => writeAt_only _ _ _ _ _)) (.after (.foldl (ps := [.arrays]) (fun _ _ => setArr_only _ _ _ _) _ _)
      (hrows _ _ (fun _ _ => writeAt_only _ _ _ _ _)))))))

theorem drySpin_only (n : Nat) (s : State) : ∃ t, exec (.drySpin n) s = .next t ∧ OnlyParts [.counts, .jobs, .arrays] s t := by
  refine runOp_only (fun j => ?_)
  dsimp only
  split
  · exact (finish_only _ _ _).sub
  · exact .ite (.refl _ _) (.after (finish_only _ _ _) (.after (ranOn_only _ _ _ _ _) (.after (coreCount_only _ _ _ _)
      (modArrs_only _ _ _ _).sub)))

theorem dryspinRampStep_only (c : Fin 64) (a : Fin 4) (s : State) :
    ∃ t, exec (.dryspinRampStep c a) s = .next t ∧ OnlyParts [.counts, .arrays] s t := by
  have hput : ∀ (x : Arr) (n : Nat), OnlyParts [.counts, .arrays] s (coreCount (setArr s c.val a.val x) c.val 10 n) := fun x n =>
    .after (coreCount_only _ _ _ _) (setArr_only _ _ _ _).sub
  exact ⟨_, rfl, .ite (.refl _ _) (.ite (.ite (.refl _ _) (hput _ _)) (.ite (hput _ _) (.refl _ _)))⟩

theorem needle_only (n : Nat) (s : State) : ∃ t, exec (.needle n) s = .next t ∧ OnlyParts tierParts s t := by
  refine runOp_only (fun j => ?_)
  dsimp only
  split
  · exact (finish_only _ _ _).sub
  split
  · exact (finish_only _ _ _).sub
  · exact withMem_only (fun t => .after (finish_only _ _ _) (.after (ranOn_only _ _ _ _ _) (.after (coreCount_only _ _ _ _)
      (.after (stainIf_only _ _ _ _) (.after (stainIf_only _ _ _ _) (writeAt_only _ _ _ _ _).sub)))))

/-! ### The Press -/

/-- A Press-class row changes what it makes of the state. -/
theorem pressOp_only {n op at' : Nat} {k : Job → State} (h : ∀ j, OnlyParts ps s (k j)) :
    ∃ t, pressOp s n op at' k = .next t ∧ OnlyParts ps s t := runOp_only (fun j => .ite (.refl _ _) (h j))

theorem writeRecs_only (s : State) (p ra d : Nat) (rs : List PRec) : OnlyParts byteParts s (writeRecs s p ra d rs) :=
  .foldl (fun _ _ => writeAt_only _ _ _ _ _) _ _

theorem emitRows_only (s : State) (p oa of : Nat) (md : Rnd) (sa : Nat) (rs : List (PRec × Val × Bool)) :
    OnlyParts byteParts s (emitRows s p oa of md sa rs).1 :=
  .foldlWith (fun _ _ => .ite (writeAt_only _ _ _ _ _) ((writeAt_only _ _ _ _ _).trans (writeAt_only _ _ _ _ _))) _ (s, 0)

theorem partStains_only (s : State) (c lo n : Nat) (rs : List RowHead) : OnlyParts [.regs, .log] s (partStains s c lo n rs) :=
  (stainIf_only _ _ _ _).after ((stainIf_only _ _ _ _).after ((stainIf_only _ _ _ _).after ((stainIf_only _ _ _ _).after
    (stainIf_only _ _ _ _))))

theorem pressNotes_only (s : State) (cs : List Nat) (share det : Nat) (rs : List RowHead) (soiled : Bool) :
    OnlyParts [.regs, .log, .counts] s (pressNotes s cs share det rs soiled) := by
  have hcounts := ((addCnt_only s rRepress (rs.filter (fun r => r.again)).length).trans
    (addCnt_only _ rSkip (skipsOf rs))).trans (addCnt_only _ rUnbounded (unboundedOf rs))
  exact .after (stainIf_only _ _ _ _) (.after (stainIf_only _ _ _ _) (.after (.foldl (fun t e => partStains_only t _ _ _ _) _ _) hcounts.sub))

theorem pressEnd_only (s : State) (n : Nat) (cs : List Nat) (share det : Nat) (rs : List RowHead) (soiled : Bool) (steps moved : Nat) :
    OnlyParts tierParts s (pressEnd s n cs share det rs soiled steps moved) :=
  .after (finish_only _ _ _) (.after (ranOn_only _ _ _ _ _) (pressNotes_only _ _ _ _ _ _).sub)

theorem pressFault_only (s : State) (n p : Nat) (xs : List Span) (ra k cause oid : Nat) :
    OnlyParts tierParts s (pressFault s n p xs ra k cause oid) := by
  unfold pressFault
  have hfill := fun t x => (freeFill_only t x).sub (qs := tierParts)
  refine .ite (tierFail_only _ _ _ _ _) (.ite (.after (writeAt_only _ _ _ _ _) ?_) ?_)
  · exact (tierFail_only _ _ _ _ _).trans (hfill _ _)
  · exact (tierFail_only _ _ _ _ _).trans (hfill _ _)

theorem press_only (n : Nat) (s : State) : ∃ t, exec (.press n) s = .next t ∧ OnlyParts tierParts s t := by
  refine runOp_only (fun j => .ite (.refl _ _) ?_)
  split
  · exact (finish_only _ _ _).sub
  split
  · exact (finish_only _ _ _).sub
  refine .ite (finish_only _ _ _).sub ?_
  dsimp only
  split
  · exact (finish_only _ _ _).sub
  refine withMemOr_only (fun c o => pressFault_only _ _ _ _ _ _ _ _) (fun t => ?_)
  refine .trans (.trans ?_ (.foldl (fun u e => (coreCount_only _ _ _ _).sub) _ _)) (pressEnd_only _ _ _ _ _ _ _ _ _)
  refine .iteWith (.after (writeRecs_only _ _ _ _ _) ?_) ?_
  · exact .iteWith (emitRows_only _ _ _ _ _ _ _).sub (.refl _ _)
  · exact .iteWith (emitRows_only _ _ _ _ _ _ _).sub (.refl _ _)

theorem bound_only (n : Nat) (s : State) : ∃ t, exec (.bound n) s = .next t ∧ OnlyParts tierParts s t := by
  refine pressOp_only (fun j => ?_)
  unfold boundExec
  dsimp only
  split
  · exact (finish_only _ _ _).sub
  split
  · exact (finish_only _ _ _).sub
  split
  · exact (finish_only _ _ _).sub
  refine withMemOr_only (fun c o => pressFault_only _ _ _ _ _ _ _ _) (fun t => ?_)
  refine .trans (.after (coreCount_only _ _ _ _) (.foldl (fun u e => (writeAt_only _ _ _ _ _).sub) _ _)) (pressEnd_only _ _ _ _ _ _ _ _ _)

theorem finishPress_only (n : Nat) (s : State) : ∃ t, exec (.finish n) s = .next t ∧ OnlyParts tierParts s t := by
  refine pressOp_only (fun j => ?_)
  dsimp only
  split
  · exact (finish_only _ _ _).sub
  split
  · exact (finish_only _ _ _).sub
  refine withMemOr_only (fun c o => pressFault_only _ _ _ _ _ _ _ _) (fun t => ?_)
  exact .trans (.after (coreCount_only _ _ _ _) (.after (emitRows_only _ _ _ _ _ _ _) (freeSet_only _ _).sub)) (pressEnd_only _ _ _ _ _ _ _ _ _)

theorem pleat_only (n : Nat) (s : State) : ∃ t, exec (.pleat n) s = .next t ∧ OnlyParts tierParts s t := by
  refine pressOp_only (fun j => ?_)
  dsimp only
  split
  · exact (finish_only _ _ _).sub
  split
  · exact (finish_only _ _ _).sub
  split
  · exact (finish_only _ _ _).sub
  refine withMemOr_only (fun c o => pressFault_only _ _ _ _ _ _ _ _) (fun t => ?_)
  refine .trans (.after (coreCount_only _ _ _ _) (.foldlWith (fun z e => ?_) _ (t, 0))) (pressEnd_only _ _ _ _ _ _ _ _ _)
  exact .ite (writeAt_only _ _ _ _ _).sub (.after (writeAt_only _ _ _ _ _) (writeAt_only _ _ _ _ _).sub)

theorem nansSet_only (s : State) (x : Tab Bool) : OnlyParts [.nans] s { s with tm := { s.tm with nans := x } } := fun p hp => by
  cases p <;> simp_all [Part.same]

theorem addGrad_only (z : State × Bool × Bool) (p a : Nat) (x : Val) (soil : Bool) : OnlyParts byteParts z.1 (addGrad z p a x soil).1 :=
  .after (nansSet_only _ _) (writeAt_only _ _ _ _ _)

theorem addGrads_only (s : State) (j : Job) (r : Region) (rs : List BackRow) : OnlyParts byteParts s (addGrads s j r rs).1 :=
  .foldlWith (β := Bool × Bool) (fun z _ => .foldlWith (fun z _ => .foldlWith (fun z _ =>
    (addGrad_only z _ _ _ _).trans (addGrad_only _ _ _ _ _)) _ z) _ z) _ (s, false, false)

theorem writeDq_only (s : State) (j : Job) (d : Nat) (rs : List BackRow) : OnlyParts byteParts s (writeDq s j d rs).1 :=
  .foldlWith (fun _ _ => writeAt_only _ _ _ _ _) _ (s, false)

theorem pressBackward_only (n : Nat) (s : State) : ∃ t, exec (.pressBackward n) s = .next t ∧ OnlyParts tierParts s t := by
  refine runOp_only (fun j => .ite (.refl _ _) ?_)
  split
  · exact (finish_only _ _ _).sub
  split
  · exact (finish_only _ _ _).sub
  dsimp only
  split
  · exact (finish_only _ _ _).sub
  refine withMemOr_only (fun c o => pressFault_only _ _ _ _ _ _ _ _) (fun t => ?_)
  exact .after (finish_only _ _ _) (.after (ranOn_only _ _ _ _ _) (.after (stainIf_only _ _ _ _) (.after (stainIf_only _ _ _ _)
    (.after (stainIf_only _ _ _ _) (.after (coreCount_only _ _ _ _) (.after (writeDq_only _ _ _ _) (addGrads_only _ _ _ _).sub))))))

theorem pressGradDrain_only (n : Nat) (s : State) : ∃ t, exec (.pressGradDrain n) s = .next t ∧ OnlyParts tierParts s t := by
  refine pressOp_only (fun j => ?_)
  dsimp only
  split
  · exact (finish_only _ _ _).sub
  split
  · exact (finish_only _ _ _).sub
  refine withMemOr_only (fun c o => pressFault_only _ _ _ _ _ _ _ _) (fun t => ?_)
  refine .after (finish_only _ _ _) (.after (ranOn_only _ _ _ _ _) (.after (stainIf_only _ _ _ _) (.after (stainIf_only _ _ _ _)
    (.foldlWith (β := Bool × Bool × Bool) (fun z k => ?_) _ (t, false, false, false)))))
  exact .ite (.after (writeAt_only _ _ _ _ _) (writeAt_only _ _ _ _ _).sub) (writeAt_only _ _ _ _ _).sub

/-! ### Tile programs and tickets -/

theorem takeTicket_only (s : State) (p k n m : Nat) (order lens : List Nat) : OnlyParts [.tickets] s (takeTicket s p k n m order lens) :=
  setTicket_only _ _ _ _

theorem decodeBatch_only (n : Nat) (s : State) : ∃ t, exec (.decodeBatch n) s = .next t ∧ OnlyParts (tierParts.append [.tickets]) s t := by
  refine runOp_only (fun j => ?_)
  dsimp only
  split
  · exact .refl _ _
  split
  · exact (finish_only _ _ _).sub
  refine withMem_only (fun t => .ite (finish_only _ _ _).sub ?_)
  split
  · exact (finish_only _ _ _).sub
  split
  · exact (finish_only _ _ _).sub
  · exact .after (keepRunning_only _ _) (.after (modJob_only _ _ _) (takeTicket_only _ _ _ _ _ _ _).sub)

theorem tpResult_only (s : State) (p k : Nat) (r : Option (Nat × Nat)) : OnlyParts [.free, .regs] s (tpResult s p k r) :=
  .after (wreg_only _ _ _) (.ite (.refl _ _) (freeSet_only _ _).sub)

theorem tpLoad_only (n : Nat) (s : State) : ∃ t, exec (.tpLoad n) s = .next t ∧ OnlyParts (tierParts.append [.tileProgs]) s t := by
  refine runOp_only (fun j => ?_)
  dsimp only
  split
  · exact .after (finish_only _ _ _) (tpResult_only _ _ _ _).sub
  refine .ite (markWaits_only _ _).sub (withMemOr_only (fun c o => ?_) (fun t => ?_))
  · exact .after (tierFail_only _ _ _ _ _) (tpResult_only _ _ _ _).sub
  split
  · exact .after (finish_only _ _ _) (tpResult_only _ _ _ _).sub
  split
  · exact .after (finish_only _ _ _) (tpResult_only _ _ _ _).sub
  · exact .after (finish_only _ _ _) (.after (setTpSlot_only _ _ _ _) (tpResult_only _ _ _ _).sub)

theorem tpUnload_only (n : Nat) (s : State) : ∃ t, exec (.tpUnload n) s = .next t ∧ OnlyParts [.jobs, .tileProgs] s t := by
  refine runOp_only (fun j => ?_)
  split
  · exact (finish_only _ _ _).sub
  · exact .ite (.after (finish_only _ _ _) (setTpSlot_only _ _ _ _).sub) (keepRunning_only _ _).sub

theorem warmNext_only (s : State) (j : Job) (cs : List Nat) : OnlyParts [.cache, .counts] s (warmNext s j cs) := by
  unfold warmNext
  dsimp only
  split
  · exact .refl _ _
  split
  · exact .refl _ _
  refine .foldl (fun t d => .foldl (fun u l => ?_) _ _) _ _
  split
  · exact cacheLine_only _ _ _ _ _ _
  · exact .refl _ _

theorem tpRun_only (n : Nat) (s : State) :
    ∃ t, exec (.tpRun n) s = .next t ∧ OnlyParts (tierParts.append [.tileProgs, .tickets]) s t := by
  refine runOp_only (fun j => ?_)
  dsimp only
  split
  · exact (finish_only _ _ _).sub
  refine withMem_only (fun t => ?_)
  have hrun : OnlyParts [.jobs] t (keepRunning (modJob t n (fun j => { j with status := stDone, detail := 0 })) n) :=
    .after (keepRunning_only _ _) (modJob_only _ _ _)
  split
  · exact (finish_only _ _ _).sub
  · exact .ite (.after (takeTicket_only _ _ _ _ _ _ _) hrun.sub) (.after (warmNext_only _ _ _) (.after (sharesSet_only _ _) hrun.sub))

theorem ticketRead_only (n : Nat) (s : State) : ∃ t, exec (.ticketRead n) s = .next t ∧ OnlyParts tierParts s t := by
  refine runOp_only (fun j => ?_)
  dsimp only
  split
  · exact (finish_only _ _ _).sub
  split
  · exact (finish_only _ _ _).sub
  · exact withMem_only (fun t => .after (finish_only _ _ _) (writeAt_only _ _ _ _ _).sub)

theorem ticketReset_only (n : Nat) (s : State) : ∃ t, exec (.ticketReset n) s = .next t ∧ OnlyParts [.jobs, .tickets] s t := by
  refine runOp_only (fun j => ?_)
  dsimp only
  split
  · exact (finish_only _ _ _).sub
  · exact .after (finish_only _ _ _) (setTicket_only _ _ _ _).sub

theorem ticketDraw_only (p : Fin 8) (k : Fin 256) (c : Fin 64) (s : State) :
    ∃ t, exec (.ticketDraw p k c) s = .next t ∧ OnlyParts [.tickets] s t := by
  refine ⟨_, rfl, .ite (.refl _ _) ?_⟩
  split
  · exact setTicket_only _ _ _ _
  · exact .ite (.refl _ _) (.ite (setTicket_only _ _ _ _) (setTicket_only _ _ _ _))

theorem countTicket_only (s : State) (p k n c v : Nat) (gen : BitVec 16) : OnlyParts [.jobs, .tickets] s (countTicket s p k n c v gen) := by
  unfold countTicket
  refine .ite ?_ (setTicket_only _ _ _ _).sub
  split
  · exact .after (freeTicket_only _ _ _) (.after (finish_only _ _ _) (setTicket_only _ _ _ _).sub)
  · exact .after (freeTicket_only _ _ _) (setTicket_only _ _ _ _).sub

theorem batchTicket_only (s : State) (j : Job) (p k v c : Nat) {done : State → State}
    (hd : ∀ t, OnlyParts (tierParts.append [.arrays, .tickets]) t (done t)) :
    OnlyParts (tierParts.append [.arrays, .tickets]) s (batchTicket s j p k v c done) := by
  unfold batchTicket
  dsimp only
  split
  · exact .after (freeTicket_only _ _ _) (finish_only _ _ _).sub
  refine withMemBy_only (fun c o => ?_) (fun t => .trans ?_ (hd _))
  · exact .after (freeTicket_only _ _ _) (pressFault_only _ _ _ _ _ _ _ _).sub
  · refine .after (noteTicket_only _ _ _ _ _) (.after (ranOn_only _ _ _ _ _) (.after (pressNotes_only _ _ _ _ _ _)
      (.after (coreCount_only _ _ _ _) ?_)))
    exact .iteWith (emitRows_only _ _ _ _ _ _ _).sub (writeRecs_only _ _ _ _ _).sub

theorem ticketComplete_only (p : Fin 8) (k : Fin 256) (c : Fin 64) (v : Nat) (gen : BitVec 16) (s : State) :
    ∃ t, exec (.ticketComplete p k c v gen) s = .next t ∧ OnlyParts (tierParts.append [.arrays, .tickets]) s t := by
  refine ⟨_, rfl, .ite (.after (addCnt_only _ _ _) (setTicket_only _ _ _ _).sub) (.ite (.refl _ _) ?_)⟩
  split
  · exact .refl _ _
  refine .ite (.refl _ _) (.ite (batchTicket_only _ _ _ _ _ _ (fun t => (countTicket_only _ _ _ _ _ _ _).sub)) ?_)
  split
  · exact .refl _ _
  refine .ite (.refl _ _) (withMemBy_only (fun c o => ?_) (fun t => ?_))
  · exact .after (freeTicket_only _ _ _) (tierFail_only _ _ _ _ _).sub
  · exact .after (countTicket_only _ _ _ _ _ _ _) (.after (noteTicket_only _ _ _ _ _) (.after (ranOn_only _ _ _ _ _)
      (splitIter_only _ _ _ _ _).sub))

end

/-- Settles O60: each command's frame is made of those of the operations that its meaning calls. -/
theorem framesOfCompute : Obligations.FramesOfCompute := by
  unfold Obligations.FramesOfCompute
  exact ⟨by
      rintro c n s (rfl | rfl | rfl | rfl | rfl)
      all_goals exact runOp_only (rowExec_only s),
    by
      rintro c n s (rfl | rfl | rfl | rfl | rfl | rfl | rfl | rfl)
      exacts [bound_only n s, finishPress_only n s, needle_only n s, pleat_only n s, press_only n s, pressBackward_only n s,
        pressGradDrain_only n s, ticketRead_only n s],
    decodeBatch_only,
    by
      rintro c n s (rfl | rfl)
      exacts [drain_only n s, product_only n s],
    drySpin_only,
    by
      rintro i c a s (rfl | rfl)
      exacts [dryspinRampStep_only c a s, productIssue_only c a s],
    hold_only, loadProgram_only, productLanding_only, ticketComplete_only, ticketDraw_only, ticketReset_only, tpLoad_only,
    tpRun_only, tpUnload_only, unloadProgram_only⟩

end Sys2Proof.Machine

namespace Sys2Proof.Machine

-- As above: proofs are elaborated one after another.
set_option Elab.async false

/-! ## Folds that bring something about -/

section

/-- What the step of x brings about, and every step keeps, holds after a fold over a list with x. -/
theorem foldl_reaches {σ α : Type} {f : σ → α → σ} {R : σ → σ → Prop} {P : σ → Prop} {s : σ} {l : List α} {x : α}
    (hrefl : ∀ t, R t t) (htrans : ∀ {t u v}, R t u → R u v → R t v) (hstep : ∀ t y, R t (f t y))
    (hkeep : ∀ {t u}, R t u → P t → P u) (hx : x ∈ l) (hP : ∀ t, R s t → P (f t x)) : P (l.foldl f s) := by
  induction l generalizing s with
  | nil => cases hx
  | cons y l ih =>
    rcases List.mem_cons.mp hx with rfl | hx
    · exact List.foldlRecOn l f (hP s (hrefl s)) (fun t ht z _ => hkeep (hstep t z) ht)
    · exact ih hx (fun t ht => hP t (htrans (hstep s y) ht))

end

/-! ## Arrays: a read after a write -/

section
variable {s t : State} {c d a b : Nat}

@[simp] theorem arrOf_setArr_same (s : State) (c a : Nat) (x : Arr) : arrOf (setArr s c a x) c a = x := tget_tset_same

theorem arrOf_setArr_ne (ha : a < 4) (hb : b < 4) (h : d ≠ c ∨ b ≠ a) (x : Arr) : arrOf (setArr s c a x) d b = arrOf s d b :=
  tget_tset_ne (by omega)

theorem arrOf_congr (h : t.mx = s.mx) (c a : Nat) : arrOf t c a = arrOf s c a := by rw [arrOf, h, arrOf]

/-- A frame without the arrays keeps every array. -/
theorem OnlyParts.arrOf {ps : List Part} (h : OnlyParts ps s t) (c a : Nat) (hp : Part.arrays ∉ ps := by decide) :
    Machine.arrOf t c a = Machine.arrOf s c a := arrOf_congr (h .arrays hp) c a

theorem mem_maskArrs_lt {m : Nat} (h : a ∈ maskArrs m) : a < 4 := List.mem_range.mp (List.mem_filter.mp h).1

theorem maskArrs_nodup (m : Nat) : (maskArrs m).Nodup := List.nodup_range.filter _

theorem maskArrs_getD_lt (m i : Nat) : (maskArrs m).getD i 0 < 4 := by
  rw [List.getD_eq_getElem?_getD]
  cases h : (maskArrs m)[i]? with
  | none => simp
  | some a => exact mem_maskArrs_lt (List.mem_of_getElem? h)

section
variable {α : Type} {l : List α} {g : α → Nat}

/-- Stores to arrays of core c reach no other array. -/
theorem arrOf_foldl_setArr_other {F : State → α → Arr} (hg : ∀ x ∈ l, g x < 4) (hb : b < 4) (h : d ≠ c ∨ ∀ x ∈ l, b ≠ g x) :
    arrOf (l.foldl (fun t x => setArr t c (g x) (F t x)) s) d b = arrOf s d b :=
  List.foldlRecOn (motive := fun t => arrOf t d b = arrOf s d b) l _ rfl (fun _ ht x hx =>
    (arrOf_setArr_ne (hg x hx) hb (h.imp_right (· x hx)) _).trans ht)

/-- Changes of arrays of core c, each once. -/
theorem arrOf_foldl_setArr_mem {f : α → Arr → Arr} (hn : (l.map g).Nodup) (hg : ∀ x ∈ l, g x < 4) {x : α} (hx : x ∈ l) :
    arrOf (l.foldl (fun t x => setArr t c (g x) (f x (arrOf t c (g x)))) s) c (g x) = f x (arrOf s c (g x)) := by
  induction l generalizing s with
  | nil => cases hx
  | cons y l ih =>
    obtain ⟨hy, hl⟩ := List.nodup_cons.mp hn
    have hg' : ∀ x ∈ l, g x < 4 := fun x hx => hg x (List.mem_cons_of_mem _ hx)
    rcases List.mem_cons.mp hx with rfl | hx
    · rw [List.foldl_cons, arrOf_foldl_setArr_other hg' (hg _ List.mem_cons_self)
        (.inr (fun z hz he => hy (List.mem_map.mpr ⟨z, hz, he.symm⟩))), arrOf_setArr_same]
    · rw [List.foldl_cons, ih hl hg' hx, arrOf_setArr_ne (hg _ List.mem_cons_self) (hg' x hx)
        (.inr (fun he => hy (List.mem_map.mpr ⟨x, hx, he⟩)))]

/-- Stores to arrays of core c relate every array to what it was, where each store does. -/
theorem arrOf_foldl_setArr_rel {F : State → α → Arr} {R : Arr → Arr → Prop} (hrefl : ∀ x, R x x)
    (htrans : ∀ {x y z}, R x y → R y z → R x z) (hg : ∀ x ∈ l, g x < 4) (hF : ∀ t x, R (arrOf t c (g x)) (F t x)) (hb : b < 4) :
    R (arrOf s d b) (arrOf (l.foldl (fun t x => setArr t c (g x) (F t x)) s) d b) := by
  refine List.foldlRecOn (motive := fun t => R (arrOf s d b) (arrOf t d b)) l _ (hrefl _) (fun t ht x hx => htrans ht ?_)
  by_cases h : d = c ∧ b = g x
  · obtain ⟨rfl, rfl⟩ := h
    rw [arrOf_setArr_same]
    exact hF t x
  · rw [arrOf_setArr_ne (hg x hx) hb (by omega)]
    exact hrefl _

end

/-- The arrays of a mask change, each by f. -/
theorem arrOf_modArrs_mem {m : Nat} {f : Arr → Arr} (ha : a ∈ maskArrs m) : arrOf (modArrs s c m f) c a = f (arrOf s c a) :=
  arrOf_foldl_setArr_mem (g := fun a => a) (f := fun _ => f) (by simpa using maskArrs_nodup m) (fun _ => mem_maskArrs_lt) ha

theorem arrOf_modArrs_other {m : Nat} {f : Arr → Arr} (ha : a < 4) (h : d ≠ c ∨ a ∉ maskArrs m) :
    arrOf (modArrs s c m f) d a = arrOf s d a :=
  arrOf_foldl_setArr_other (g := fun a => a) (fun _ => mem_maskArrs_lt) ha (h.imp_right (fun hm _ hx he => hm (he ▸ hx)))

end

/-! ## How a descriptor stands after its last operations -/

section
variable {s u : State} {n k steps moved : Nat} {j : Job} {ps : List Part}

theorem OnlyParts.jobs (h : OnlyParts ps s u) (hp : Part.jobs ∉ ps := by decide) : u.hp.jobs = s.hp.jobs := (h .jobs hp).1

theorem job?_ranOn (h : job? s n = some j) (hu : u.hp.jobs = s.hp.jobs) :
    job? (ranOn u n k steps moved) n = some { j with engine := k, steps := steps, moved := moved } :=
  job?_modJob (fun _ => rfl) ((job?_congr hu n).trans h)

/-- A descriptor whose work is done and that ends is decided with its ending. -/
theorem decided_ranOn (h : job? s n = some j) (hu : u.hp.jobs = s.hp.jobs) (e : Ending) :
    Decided (finish (ranOn u n k steps moved) n e) n e.1 e.2 := decided_finish (job?_ranOn h hu) e

theorem completes_ranOn (h : job? s n = some j) (hu : u.hp.jobs = s.hp.jobs) (soiled : Bool) (detail : Nat) :
    Completes (finish (ranOn u n k steps moved) n (doneOf soiled detail)) n := by
  have hd := decided_ranOn (k := k) (steps := steps) (moved := moved) h hu (doneOf soiled detail)
  cases soiled
  · exact ⟨detail, .inl hd⟩
  · exact ⟨detail, .inr hd⟩

theorem otherJobs_ran (hu : u.hp.jobs = s.hp.jobs) : OtherJobs n s (ranOn u n k steps moved) :=
  (OtherJobs.of_jobs hu).trans (otherJobs_modJob (fun _ => rfl))

theorem otherJobs_ranOn (hu : u.hp.jobs = s.hp.jobs) (e : Ending) : OtherJobs n s (finish (ranOn u n k steps moved) n e) :=
  (otherJobs_ran hu).trans (otherJobs_finish e)

theorem ranOn_finish_only (s : State) (n k steps moved : Nat) (e : Ending) : OnlyParts [.jobs] s (finish (ranOn s n k steps moved) n e) :=
  .after (finish_only _ _ _) (ranOn_only _ _ _ _ _)

/-- Field checks pass where none of them names a byte. -/
theorem fields_eq_none {cs : List (Option Nat)} : fields cs = none ↔ ∀ c ∈ cs, c = none := by
  simp [fields, List.min?_eq_none_iff, List.filterMap_eq_nil_iff]

theorem bad_eq_none {b : Bool} {off : Nat} : bad b off = none ↔ b = false := by cases b <;> simp [bad]

end

/-! ## Accesses that take place at once -/

section
variable {s t u : State} {ps : List Part}

theorem OtherRegs.of_only (h : OnlyParts ps s t) (l : List Nat) (hp : Part.regs ∉ ps := by decide) : OtherRegs l s t :=
  .of_regs l (h .regs hp)

/-- What an access whose pages are all there changes beside its descriptor: no byte and no soil. -/
def accessParts : List Part := [.pages, .pats, .shots, .cache, .nodes, .waits, .free, .regs, .log, .counts]

theorem accessed_access (s : State) (n : Nat) (who : Option Nat) (xs : List Span) (new : List (Nat × Nat × Nat × Nat)) :
    OnlyParts accessParts s (accessed s n who xs new) :=
  .after (noteSpill_only _) (.after (countFaults_only _ _) (.after (.foldl (fun t x => touchBy_only t who x) _ _)
    (.after (.foldl backPage_only _ _) (dropWaits_only _ _).sub)))

theorem OtherRegs.refl (l : List Nat) (s : State) : OtherRegs l s s := fun _ _ => rfl

theorem OtherRegs.ite {l : List Nat} {b : Prop} [Decidable b] (h : OtherRegs l s t) (k : OtherRegs l s u) :
    OtherRegs l s (if b then t else u) := by split <;> assumption

theorem OtherRegs.foldl {α : Type} {l : List Nat} {f : State → α → State} (h : ∀ t x, OtherRegs l t (f t x)) (xs : List α) (s : State) :
    OtherRegs l s (xs.foldl f s) := List.foldlRecOn xs f (.refl l s) (fun t ht x _ => ht.trans (h t x))

theorem otherRegs_walk (s : State) (p va size : Nat) : OtherRegs [rTmStain] s (walk s p va size) :=
  .ite (.refl _ _) (.foldl (fun _ _ => .ite ((OtherRegs.of_only (badNodesSet_only _ _) _).trans (otherRegs_setStain _ _ _)) (.refl _ _)) _ _)

theorem otherRegs_touchBy (s : State) (who : Option Nat) (x : Span) : OtherRegs [rTmStain] s (touchBy s who x) := by
  refine .ite (.refl _ _) (.foldl (fun t pg => ?_) _ _)
  dsimp only
  split
  · exact .refl _ _
  · have hpage : ∀ b : Bool, ∀ g : Page, OtherRegs [rTmStain] t
        (if b then setOwn t x.place pg.2.1 (some g) else setPage t x.place pg.2.1 (some g)) := fun _ _ =>
      .ite (.of_only (setOwn_only _ _ _ _) _) (.of_only (setPage_only _ _ _ _) _)
    have hwalk : ∀ (u : State) (bits : Nat), OtherRegs [rTmStain] u
        (walk (if x.write then noteShots u x.place pg.2.1 bits else u) x.place pg.2.1 pg.2.2) := fun _ _ =>
      .trans (.ite (.of_only (noteShots_only _ _ _ _) _) (.refl _ _)) (otherRegs_walk _ _ _ _)
    exact .ite (((hpage _ _).trans (hwalk _ _)).trans (.of_only (poolAccess_only _ _ _ _ _ _ _ _) _)) ((hpage _ _).trans (hwalk _ _))

/-- What stands of s where an access to its pages has taken place. -/
structure Accessed (s u : State) : Prop where
  frame : OnlyParts accessParts s u
  regs : OtherRegs [rTmStain, rTmStatus] s u

theorem accessed_accessed (s : State) (n : Nat) (who : Option Nat) (xs : List Span) (new : List (Nat × Nat × Nat × Nat)) :
    Accessed s (accessed s n who xs new) where
  frame := accessed_access _ _ _ _ _
  regs := by
    have hbacked : OnlyParts [.waits, .pages, .free] s (new.foldl backPage (dropWaits s n)) :=
      .after (.foldl backPage_only _ _) (dropWaits_only _ _).sub
    have htouched : OtherRegs [rTmStain] s (xs.foldl (fun t x => touchBy t who x) (new.foldl backPage (dropWaits s n))) :=
      (OtherRegs.of_only hbacked _).trans (.foldl (fun t x => otherRegs_touchBy t who x) _ _)
    exact ((htouched.mono (by simp)).trans (.of_only (countFaults_only _ _) _)).trans ((otherRegs_noteSpill _).mono (by simp))

/-- An operation that can access its spans is performed once they are accessed. -/
theorem withMemOr_of_canAccess {n : Nat} {xs : List Span} (h : CanAccess s n xs) :
    ∃ u, Accessed s u ∧ ∀ fault perform, withMemOr s n xs fault perform = perform u := by
  obtain ⟨new, hgo⟩ := h
  exact ⟨_, accessed_accessed s n (dieOfJob s n) xs new, fun fault perform => by rw [withMemOr, withMemBy, hgo]⟩

theorem withMem_of_canAccess {n : Nat} {xs : List Span} (h : CanAccess s n xs) :
    ∃ u, Accessed s u ∧ ∀ perform, withMem s n xs perform = perform u := by
  obtain ⟨u, hu, hgo⟩ := withMemOr_of_canAccess h
  exact ⟨u, hu, fun perform => hgo _ _⟩

theorem OnlyParts.part (h : OnlyParts ps s t) (j : Job) (hp : Part.link ∉ ps := by decide) : Machine.part t j = Machine.part s j := by
  rw [Machine.part, h.partOfRing _ hp, Machine.part]

theorem coreAt_congr (hb : t.boot = s.boot) (hd : ∀ p, diesOf t p = diesOf s p) (p k : Nat) : coreAt t p k = coreAt s p k := by
  simp only [coreAt, coresOf, hb, hd]

namespace Accessed
variable (h : Accessed s u)
include h

theorem diesOf (p : Nat) : Machine.diesOf u p = Machine.diesOf s p := by
  have hreg : rPartCfg p ∉ [rTmStain, rTmStatus] := by
    simp only [rPartCfg, rTmStain, rTmStatus, List.mem_cons, List.not_mem_nil, or_false]
    omega
  exact rfield_of_rreg (h.regs _ hreg) 0 8

theorem coreAt (p k : Nat) : Machine.coreAt u p k = Machine.coreAt s p k := coreAt_congr (h.frame .boot (by decide)) h.diesOf p k

theorem part (j : Job) : Machine.part u j = Machine.part s j := h.frame.part j

theorem arrOf (c a : Nat) : Machine.arrOf u c a = Machine.arrOf s c a := h.frame.arrOf c a

theorem jobs : u.hp.jobs = s.hp.jobs := h.frame.jobs

theorem byteAt (k a : Nat) : Machine.byteAt u k a = Machine.byteAt s k a := byteAt_of_mem (h.frame .mem (by decide)) k a

end Accessed

end

end Sys2Proof.Machine

namespace Sys2Proof.Machine

-- As above: proofs are elaborated one after another.
set_option Elab.async false

/-! ## O55: tiles are held -/

section
variable {s : State} {n c : Nat} {j : Job}

/-- The tile that HOLD reads for array a from core c's buffer. -/
def heldTile (s : State) (j : Job) (c a : Nat) : Tile :=
  loadTile s c (if j.bits 37 0 1 = 1 then j.fld 16 4 + a * j.fld 24 4 else j.fld 16 4) (j.fld 20 4) (j.fld 32 2) (j.fld 34 2) (j.fld 36 1)
    (j.bits 37 2 2) (j.bits 37 1 1 == 1)

/-- The arrays of HOLD's mask take their tiles. -/
def tilesHeld (s : State) (j : Job) (c : Nat) : State :=
  (maskArrs (j.fld 38 1 % 16)).foldl (fun t a => setArr t c a ((arrOf t c a).take (heldTile s j c a))) s

theorem tilesHeld_only (s : State) (j : Job) (c : Nat) : OnlyParts [.arrays] s (tilesHeld s j c) := .foldl (fun _ _ => setArr_only _ _ _ _) _ _

theorem arrOf_tilesHeld_mem {a : Nat} (ha : a ∈ maskArrs (j.fld 38 1 % 16)) :
    arrOf (tilesHeld s j c) c a = (arrOf s c a).take (heldTile s j c a) :=
  arrOf_foldl_setArr_mem (g := fun a => a) (f := fun a x => x.take (heldTile s j c a)) (by simpa using maskArrs_nodup _)
    (fun _ => mem_maskArrs_lt) ha

theorem arrOf_tilesHeld_other {d a : Nat} (ha : a < 4) (h : d ≠ c ∨ a ∉ maskArrs (j.fld 38 1 % 16)) :
    arrOf (tilesHeld s j c) d a = arrOf s d a :=
  arrOf_foldl_setArr_other (g := fun a => a) (fun _ => mem_maskArrs_lt) ha (h.imp_right (fun hm _ hx he => hm (he ▸ hx)))

theorem exec_hold (h : opJob s n 0x0200 = some j) (he : holdErr s j = none) (hc : c = (coreAt s (part s j) (j.fld 39 1)).getD 0)
    (hw : ∀ a ∈ maskArrs (j.fld 38 1 % 16), holdWaits (j.fld 36 1 != 1) (arrOf s c a) = false) :
    ∃ steps moved, exec (.hold n) s = .next (finish (ranOn (tilesHeld s j c) n c steps moved) n (stDone, 0)) := by
  subst hc
  have hx : exec (.hold n) s = _ := runOp_ready h
  rw [he] at hx
  dsimp only at hx
  rw [if_neg (by simpa using hw)] at hx
  simp only [beq_iff_eq] at hx
  exact ⟨_, _, hx⟩

/-- HOLD gives each array of its mask its tile and ends DONE (03 R75, R87). -/
theorem hold_spec (h : opJob s n 0x0200 = some j) (he : holdErr s j = none) (hc : c = (coreAt s (part s j) (j.fld 39 1)).getD 0)
    (hw : ∀ a ∈ maskArrs (j.fld 38 1 % 16), holdWaits (j.fld 36 1 != 1) (arrOf s c a) = false) :
    ∃ t, exec (.hold n) s = .next t ∧ Decided t n stDone 0 ∧ OtherJobs n s t ∧
      (∀ a ∈ maskArrs (j.fld 38 1 % 16), arrOf t c a = (arrOf s c a).take (heldTile s j c a)) ∧
      (∀ d a, a < 4 → (d ≠ c ∨ a ∉ maskArrs (j.fld 38 1 % 16)) → arrOf t d a = arrOf s d a) ∧ OnlyParts [.jobs, .arrays] s t := by
  obtain ⟨steps, moved, hx⟩ := exec_hold h he hc hw
  have hheld := tilesHeld_only s j c
  have hend := ranOn_finish_only (tilesHeld s j c) n c steps moved (stDone, 0)
  exact ⟨_, hx, decided_ranOn (opJob_some.mp h).1 hheld.jobs _, otherJobs_ranOn hheld.jobs _,
    fun a ha => (hend.arrOf c a).trans (arrOf_tilesHeld_mem ha), fun d a ha hd => (hend.arrOf d a).trans (arrOf_tilesHeld_other ha hd),
    hend.after hheld.sub⟩

end

/-! ## O55: products issue and land -/

section
variable {s : State} {c : Fin 64} {a : Fin 4} {p : Prod} {ps : List Prod}

/-- PRODUCT_ISSUE puts the first queued product in flight where it may go (03 R90, R93). -/
theorem productIssue_spec (hq : (arrOf s c.val a.val).queue = p :: ps)
    (hgo : drySpinOn s = false ∨ (arrOf s c.val a.val).flight ≠ [] ∨ (4 ≤ (arrOf s c.val a.val).level ∧ (arrOf s c.val a.val).rising = false))
    (hr : p.ready = true) (hd : drainAhead s c.val a.val p.job = false) (hch : p.chain = false ∨ (arrOf s c.val a.val).flight = [])
    (hl : (arrOf s c.val a.val).flight.length < 301) :
    ∃ t, exec (.productIssue c a) s = .next t ∧ arrOf t c.val a.val = { arrOf s c.val a.val with
        queue := ps, flight := (arrOf s c.val a.val).flight ++ [p], chain := p.chain, issued := true, level := 8, rising := false } ∧
      (∀ d b, b < 4 → (d ≠ c.val ∨ b ≠ a.val) → arrOf t d b = arrOf s d b) ∧ OnlyParts [.arrays, .counts] s t := by
  have hmay : ((!drySpinOn s || !(arrOf s c.val a.val).flight.isEmpty ||
      (decide (4 ≤ (arrOf s c.val a.val).level) && !(arrOf s c.val a.val).rising)) && p.ready && !drainAhead s c.val a.val p.job &&
      (!p.chain || (arrOf s c.val a.val).flight.isEmpty) && decide ((arrOf s c.val a.val).flight.length < 301)) = true := by
    simp only [hr, hd, hl, Bool.and_eq_true, Bool.or_eq_true, Bool.not_eq_true', decide_eq_true_eq, List.isEmpty_eq_false_iff,
      List.isEmpty_iff]
    tauto
  have hcount : ∀ x k, OnlyParts [.counts] (setArr s c.val a.val x) (coreCount (setArr s c.val a.val x) c.val 9 k) := fun _ _ =>
    coreCount_only _ _ _ _
  refine ⟨coreCount (setArr s c.val a.val _) c.val 9 p.steps, ?_, ((hcount _ _).arrOf _ _).trans (arrOf_setArr_same _ _ _ _),
    fun d b hb h => ((hcount _ _).arrOf _ _).trans (arrOf_setArr_ne a.isLt hb h _), (hcount _ _).after (setArr_only _ _ _ _).sub⟩
  show execProductIssue c a s = _
  simp only [execProductIssue, hq]
  rw [if_pos hmay]

/-- Landing a product's contributions changes nothing of an array but its slot columns. -/
theorem landAll_queue (x : Arr) (p : Prod) : (x.landAll p).1.queue = x.queue := by
  refine List.foldlRecOn (motive := fun r : Arr × Bool => r.1.queue = x.queue) p.lands _ rfl (fun r hr l _ => ?_)
  dsimp only
  split
  · exact hr
  · exact hr

/-- The array after its oldest product in flight has landed; ps is what is left in flight. -/
def landedArr (s : State) (x : Arr) (p : Prod) (ps : List Prod) : Arr :=
  { (x.landAll p).1 with
    flight := ps
    level := if ps.isEmpty && x.queue.isEmpty then (if drySpinOn s then 7 else 0) else if ps.isEmpty && !drySpinOn s then 0 else x.level }

/-- What the landing of product p on array a of core c makes of the state, before its descriptor may end. -/
def productLanded (s : State) (c a : Nat) (p : Prod) (ps : List Prod) : State :=
  let soil := p.lands.any (fun l => l.soil)
  stainIf soil (noteJob (setArr s c a (landedArr s (arrOf s c a) p ps)) p.job (if ((arrOf s c a).landAll p).2 then 2 else 0) soil)
    (rMxStain c) 2

theorem productLanded_stained (s : State) (c a : Nat) (p : Prod) (ps : List Prod) :
    OnlyParts [.jobs, .regs, .log] (setArr s c a (landedArr s (arrOf s c a) p ps)) (productLanded s c a p ps) :=
  .after (stainIf_only _ _ _ _) (modJob_only _ _ _).sub

theorem productLanded_only (s : State) (c a : Nat) (p : Prod) (ps : List Prod) :
    OnlyParts [.jobs, .arrays, .regs, .log] s (productLanded s c a p ps) :=
  .after (stainIf_only _ _ _ _) (.after (modJob_only _ _ _) (setArr_only _ _ _ _).sub)

theorem otherJobs_productLanded (s : State) (c a : Nat) (p : Prod) (ps : List Prod) : OtherJobs p.job s (productLanded s c a p ps) := by
  have hnote : ∀ (u : State) (bits : Nat) (soil : Bool), OtherJobs p.job u (noteJob u p.job bits soil) := fun _ _ _ =>
    otherJobs_modJob (fun _ => rfl)
  exact ((OtherJobs.of_jobs (setArr_only _ _ _ _).jobs).trans (hnote _ _ _)).trans (.of_jobs (stainIf_only _ _ _ _).jobs)

/-- The descriptor of a product that landed, with what it noted. -/
theorem job?_productLanded {a : Nat} {j : Job} (s : State) (c : Nat) (ps : List Prod) (h : job? s p.job = some j) :
    ∃ st d, job? (productLanded s c a p ps) p.job = some { j with status := st, detail := d } := by
  refine ⟨_, _, (job?_congr (stainIf_only _ _ _ _).jobs _).trans (job?_modJob (fun _ => rfl) ?_)⟩
  exact (job?_congr (setArr_only _ _ _ _).jobs _).trans h

theorem productsLeft_congr {t : State} (h : t.mx = s.mx) (k m : Nat) : productsLeft t k m = productsLeft s k m := by
  simp only [productsLeft, arrOf_congr h]

theorem job?_modJob_none {n : Nat} (f : Job → Job) (hf : ∀ j, (f j).id = j.id) (h : job? s n = none) :
    job? (modJob s n f) n = none := by
  have := find?_map_same hf s.hp.jobs n
  rw [job?] at h
  rwa [h] at this

/-- PRODUCT_LANDING ends the descriptor exactly after the last product of one that runs. -/
theorem exec_productLanding (hf : (arrOf s c.val a.val).flight = p :: ps) :
    (exec (.productLanding c a) s = .next (productLanded s c.val a.val p ps) ∧
      ∀ j, job? s p.job = some j → j.phase = .running → productsLeft (productLanded s c.val a.val p ps) c.val p.job = true) ∨
    ∃ j e, job? s p.job = some j ∧ productsLeft (productLanded s c.val a.val p ps) c.val p.job = false ∧
      exec (.productLanding c a) s = .next (finish (productLanded s c.val a.val p ps) p.job e) := by
  have hx : exec (.productLanding c a) s = execProductLanding c a s := rfl
  have hmodel : productLanded s c.val a.val p ps = productLanded s c.val a.val p ps := rfl
  conv_lhs at hmodel => unfold productLanded landedArr
  simp only [execProductLanding, hf, hmodel] at hx
  cases hj : job? s p.job with
  | none =>
    have hk : job? (productLanded s c.val a.val p ps) p.job = none := by
      refine (job?_congr (stainIf_only _ _ _ _).jobs _).trans (job?_modJob_none _ (fun _ => rfl) ?_)
      exact (job?_congr (setArr_only _ _ _ _).jobs _).trans hj
    rw [hk] at hx
    exact .inl ⟨hx, fun _ h => by cases h⟩
  | some j =>
    obtain ⟨st, d, hk⟩ := job?_productLanded (a := a.val) s c.val ps hj
    rw [hk] at hx
    dsimp only at hx
    by_cases hend : j.phase = .running ∧ productsLeft (productLanded s c.val a.val p ps) c.val p.job = false
    · rw [if_pos (by simpa using hend)] at hx
      exact .inr ⟨j, _, rfl, hend.2, hx⟩
    · rw [if_neg (by simpa using hend)] at hx
      refine .inl ⟨hx, fun k hk hr => ?_⟩
      cases hk
      simpa using fun hl => hend ⟨hr, hl⟩

/-- PRODUCT_LANDING lands the oldest product in flight (03 R79, R90, R91). -/
theorem productLanding_spec (hf : (arrOf s c.val a.val).flight = p :: ps) :
    ∃ t, exec (.productLanding c a) s = .next t ∧ (arrOf t c.val a.val).flight = ps ∧
      (arrOf t c.val a.val).queue = (arrOf s c.val a.val).queue ∧
      (arrOf t c.val a.val).cols = ((arrOf s c.val a.val).landAll p).1.cols ∧
      (∀ d b, b < 4 → (d ≠ c.val ∨ b ≠ a.val) → arrOf t d b = arrOf s d b) ∧ OtherJobs p.job s t ∧
      (productsLeft t c.val p.job = false → ∀ j, job? s p.job = some j → j.phase = .running → ∃ st d, Decided t p.job st d) ∧
      (productsLeft t c.val p.job = true → ∀ j, job? s p.job = some j → j.phase = .running → Runs t p.job) ∧
      OnlyParts [.jobs, .arrays, .regs, .log] s t := by
  have hstained := productLanded_stained s c.val a.val p ps
  have harr : arrOf (productLanded s c.val a.val p ps) c.val a.val = landedArr s (arrOf s c.val a.val) p ps :=
    (hstained.arrOf _ _).trans (arrOf_setArr_same _ _ _ _)
  have hrest : ∀ d b, b < 4 → (d ≠ c.val ∨ b ≠ a.val) → arrOf (productLanded s c.val a.val p ps) d b = arrOf s d b := fun d b hb h =>
    (hstained.arrOf _ _).trans (arrOf_setArr_ne a.isLt hb h _)
  have hothers := otherJobs_productLanded s c.val a.val p ps
  have hframe := productLanded_only s c.val a.val p ps
  rcases exec_productLanding hf with ⟨hx, hleft⟩ | ⟨j, e, hj, hnone, hx⟩
  · refine ⟨_, hx, by rw [harr]; rfl, by rw [harr]; exact landAll_queue _ _, by rw [harr]; rfl, hrest, hothers,
      fun hnone k hk hr => ?_, fun _ k hk hr => ?_, hframe⟩
    · rw [hleft k hk hr] at hnone
      cases hnone
    · obtain ⟨st, d, hnoted⟩ := job?_productLanded (a := a.val) s c.val ps hk
      exact ⟨_, hnoted, hr⟩
  · obtain ⟨st, d, hnoted⟩ := job?_productLanded (a := a.val) s c.val ps hj
    have hfin := finish_only (productLanded s c.val a.val p ps) p.job e
    refine ⟨_, hx, by rw [hfin.arrOf, harr]; rfl, by rw [hfin.arrOf, harr]; exact landAll_queue _ _, by rw [hfin.arrOf, harr]; rfl,
      fun d b hb h => (hfin.arrOf _ _).trans (hrest d b hb h), hothers.trans (otherJobs_finish e),
      fun _ k hk hr => ⟨_, _, decided_finish hnoted e⟩, fun hsome => ?_, hfin.after hframe⟩
    rw [productsLeft_congr (hfin .arrays (by decide)), hnone] at hsome
    cases hsome

end

/-! ## O55: Dry-spin -/

section
variable {s : State} {n : Nat} {j : Job}

/-- What DRY_SPIN with activity k makes of an array of its mask. -/
def spunArr (s : State) (k : Nat) (x : Arr) : Arr :=
  if x.flight.isEmpty then { x with level := if drySpinOn s then k else 0, rising := false } else x

theorem spunArr_idle (k : Nat) {x : Arr} (h : x.flight = []) :
    spunArr s k x = { x with level := if drySpinOn s then k else 0, rising := false } := by simp [spunArr, h]

/-- The arrays of DRY_SPIN's mask, spun. -/
def arrsSpun (s : State) (j : Job) (c : Nat) : State := modArrs s c (j.fld 21 1 % 16) (spunArr s (j.fld 20 1))

theorem exec_drySpin {c : Nat} (h : opJob s n 0x0203 = some j) (he : drySpinErr s j = none)
    (hc : c = (coreAt s (part s j) (j.fld 22 1)).getD 0) (hq : ∀ a ∈ maskArrs (j.fld 21 1 % 16), (arrOf s c a).queue = []) :
    ∃ spun steps, exec (.drySpin n) s = .next (finish (ranOn (coreCount (arrsSpun s j c) c 10 spun) n c steps 0) n (stDone, 0)) := by
  subst hc
  have hx : exec (.drySpin n) s = _ := runOp_ready h
  rw [he] at hx
  dsimp only at hx
  rw [if_neg (by simpa using hq)] at hx
  exact ⟨_, _, hx⟩

/-- DRY_SPIN sets the level of the idle arrays of its mask and ends DONE (03 R94). -/
theorem drySpin_spec {c : Nat} (h : opJob s n 0x0203 = some j) (he : drySpinErr s j = none)
    (hc : c = (coreAt s (part s j) (j.fld 22 1)).getD 0) (hq : ∀ a ∈ maskArrs (j.fld 21 1 % 16), (arrOf s c a).queue = []) :
    ∃ t, exec (.drySpin n) s = .next t ∧ Decided t n stDone 0 ∧ OtherJobs n s t ∧
      (∀ a ∈ maskArrs (j.fld 21 1 % 16), (arrOf s c a).flight = [] → arrOf t c a = { arrOf s c a with
        level := if drySpinOn s then j.fld 20 1 else 0, rising := false }) ∧
      (∀ d a, a < 4 → (d ≠ c ∨ a ∉ maskArrs (j.fld 21 1 % 16)) → arrOf t d a = arrOf s d a) ∧
      OnlyParts [.jobs, .arrays, .counts] s t := by
  obtain ⟨spun, steps, hx⟩ := exec_drySpin h he hc hq
  have hspun : OnlyParts [.arrays, .counts] s (coreCount (arrsSpun s j c) c 10 spun) :=
    .after (coreCount_only _ _ _ _) (modArrs_only _ _ _ _).sub
  have hend : OnlyParts [.jobs, .counts] (arrsSpun s j c) (finish (ranOn (coreCount (arrsSpun s j c) c 10 spun) n c steps 0) n (stDone, 0)) :=
    .after (ranOn_finish_only _ _ _ _ _ _) (coreCount_only _ _ _ _).sub
  exact ⟨_, hx, decided_ranOn (opJob_some.mp h).1 hspun.jobs _, otherJobs_ranOn hspun.jobs _,
    fun a ha hidle => (hend.arrOf c a).trans ((arrOf_modArrs_mem ha).trans (spunArr_idle _ hidle)),
    fun d a ha hd => (hend.arrOf d a).trans (arrOf_modArrs_other ha hd), hend.after (modArrs_only _ _ _ _).sub⟩

/-- DRYSPIN_RAMP_STEP moves an array's level by one (03 R93). -/
theorem dryspinRampStep_spec {c : Fin 64} {a : Fin 4} {x : Arr} (hx : x = arrOf s c.val a.val) (hon : drySpinOn s = true)
    (hf : x.flight = []) :
    (x.queue = [] → x.level ≠ 0 → ∃ t, exec (.dryspinRampStep c a) s = .next t ∧
      arrOf t c.val a.val = { x with level := x.level - 1, rising := false } ∧
      (∀ d b, b < 4 → (d ≠ c.val ∨ b ≠ a.val) → arrOf t d b = arrOf s d b) ∧ OnlyParts [.arrays, .counts] s t) ∧
    (x.queue ≠ [] → (x.level < 4 ∨ x.rising = true) → ∃ t, exec (.dryspinRampStep c a) s = .next t ∧
      arrOf t c.val a.val = { x with level := min 8 (x.level + 1), rising := decide (x.level + 1 < 8) } ∧
      (∀ d b, b < 4 → (d ≠ c.val ∨ b ≠ a.val) → arrOf t d b = arrOf s d b) ∧ OnlyParts [.arrays, .counts] s t) := by
  have hput : ∀ (y : Arr) (k : Nat), exec (.dryspinRampStep c a) s = .next (coreCount (setArr s c.val a.val y) c.val 10 k) →
      ∃ t, exec (.dryspinRampStep c a) s = .next t ∧ arrOf t c.val a.val = y ∧
        (∀ d b, b < 4 → (d ≠ c.val ∨ b ≠ a.val) → arrOf t d b = arrOf s d b) ∧ OnlyParts [.arrays, .counts] s t := fun y k hexec => by
    have hcount := coreCount_only (setArr s c.val a.val y) c.val 10 k
    exact ⟨_, hexec, (hcount.arrOf _ _).trans (arrOf_setArr_same _ _ _ _),
      fun d b hb h => (hcount.arrOf _ _).trans (arrOf_setArr_ne a.isLt hb h _), hcount.after (setArr_only _ _ _ _).sub⟩
  subst hx
  have hmay : (!drySpinOn s || !(arrOf s c.val a.val).flight.isEmpty) = false := by simp [hon, hf]
  refine ⟨fun hq hl => hput _ (if (arrOf s c.val a.val).level = 0 then 0 else rfield s rDrySpin 0 12 / 8) ?_,
    fun hq hl => hput _ (if (arrOf s c.val a.val).level = 0 then 0 else rfield s rDrySpin 0 12 / 8) ?_⟩
  · show execDryspinRampStep c a s = _
    simp only [execDryspinRampStep, hmay, hq, if_neg hl]
    rfl
  · show execDryspinRampStep c a s = _
    simp only [execDryspinRampStep, hmay, List.isEmpty_eq_false_iff.mpr hq, if_pos hl]
    rfl

end

end Sys2Proof.Machine

namespace Sys2Proof.Machine

-- As above: proofs are elaborated one after another.
set_option Elab.async false

/-! ## O55: products are queued -/

section
variable {s t u : State} {n c b d : Nat} {j : Job}

/-- A frame without registers and boot keeps the numbers of cores. -/
theorem OnlyParts.coreAt {ps : List Part} (h : OnlyParts ps s t) (p k : Nat) (hp : Part.boot ∉ ps ∧ Part.regs ∉ ps := by decide) :
    Machine.coreAt t p k = Machine.coreAt s p k :=
  coreAt_congr (h .boot hp.1) (fun _ => rfield_of_rreg (rreg_congr (h .regs hp.2) _) 0 8) p k

theorem productArrs_congr (hp : part t j = part s j) (hc : ∀ p k, coreAt t p k = coreAt s p k) : productArrs t j = productArrs s j := by
  rw [productArrs, productArrs, hp, hc]

theorem productsLeft_of_queued {p : Prod} (hb : b < 4) (hp : p ∈ (arrOf s c b).queue) : productsLeft s c p.job = true := by
  simp only [productsLeft, List.any_eq_true, List.mem_range, Bool.or_eq_true]
  exact ⟨b, hb, .inl ⟨p, hp, by simp⟩⟩

/-! ### A PRODUCT begins -/

/-- A PRODUCT that begins swaps its arrays' registers or not, then stores slot columns, then queues its products. -/
theorem beginProduct_eq (s : State) (j : Job) : ∃ (arr : Nat → Nat) (ids : List (Nat × Nat)) (col : State → Nat × Nat → Option Col)
    (prod : Nat → Prod), (∀ q, arr q < 4) ∧ (∀ q, (prod q).job = j.id) ∧ beginProduct s j =
      (List.range (cdiv (j.fld 48 2) (2 ^ j.bits 51 4 2))).foldl (fun u q => setArr u (productArrs s j).1 (arr q)
        { arrOf u (productArrs s j).1 (arr q) with queue := (arrOf u (productArrs s j).1 (arr q)).queue ++ [prod q] })
      (ids.foldl (fun u e => setArr u (productArrs s j).1 (arr e.1) ((arrOf u (productArrs s j).1 (arr e.1)).setCol e.2 (col u e)))
        (if j.bits 51 3 1 == 1 then modArrs s (productArrs s j).1 (j.bits 54 0 4) Arr.swap else s)) :=
  ⟨fun q => (productArrs s j).2.getD (q % (productArrs s j).2.length) 0, _, _, _, fun _ => maskArrs_getD_lt _ _, fun _ => rfl, rfl⟩

theorem beginProduct_other (hb : b < 4) (hd : d ≠ (productArrs s j).1) : arrOf (beginProduct s j) d b = arrOf s d b := by
  obtain ⟨arr, ids, col, prod, harr, -, hbegin⟩ := beginProduct_eq s j
  rw [hbegin, arrOf_foldl_setArr_other (fun q _ => harr q) hb (.inl hd), arrOf_foldl_setArr_other (fun e _ => harr e.1) hb (.inl hd)]
  split
  · exact arrOf_modArrs_other hb (.inl hd)
  · rfl

theorem flight_foldl_setArr {α : Type} {l : List α} {g : α → Nat} {F : State → α → Arr} (hb : b < 4) (hg : ∀ x ∈ l, g x < 4)
    (hF : ∀ t x, (F t x).flight = (arrOf t c (g x)).flight) :
    (arrOf (l.foldl (fun t x => setArr t c (g x) (F t x)) s) d b).flight = (arrOf s d b).flight :=
  arrOf_foldl_setArr_rel (R := fun x y => y.flight = x.flight) (fun _ => rfl) (fun h k => k.trans h) hg hF hb

theorem beginProduct_flight (hb : b < 4) : (arrOf (beginProduct s j) d b).flight = (arrOf s d b).flight := by
  obtain ⟨arr, ids, col, prod, harr, -, hbegin⟩ := beginProduct_eq s j
  rw [hbegin]
  refine (flight_foldl_setArr hb (fun q _ => harr q) ?_).trans ((flight_foldl_setArr hb (fun e _ => harr e.1) ?_).trans ?_)
  · exact fun _ _ => rfl
  · exact fun _ _ => rfl
  · split
    · exact flight_foldl_setArr hb (fun _ => mem_maskArrs_lt) (fun _ _ => rfl)
    · rfl

/-- A PRODUCT with an output column leaves a product in a queue as it begins. -/
theorem beginProduct_queued (hN : j.fld 48 2 ≠ 0) :
    ∃ b, b < 4 ∧ ∃ p ∈ (arrOf (beginProduct s j) (productArrs s j).1 b).queue, p.job = j.id := by
  obtain ⟨arr, ids, col, prod, harr, hjob, hbegin⟩ := beginProduct_eq s j
  have hfirst : 0 ∈ List.range (cdiv (j.fld 48 2) (2 ^ j.bits 51 4 2)) := by
    have hG := Nat.two_pow_pos (j.bits 51 4 2)
    exact List.mem_range.mpr (Nat.div_pos (by omega) hG)
  have hput : ∀ (t : State) (q b : Nat), b < 4 → ∀ p ∈ (arrOf t (productArrs s j).1 b).queue,
      p ∈ (arrOf (setArr t (productArrs s j).1 (arr q) { arrOf t (productArrs s j).1 (arr q) with
        queue := (arrOf t (productArrs s j).1 (arr q)).queue ++ [prod q] }) (productArrs s j).1 b).queue := fun t q b hb p hp => by
    by_cases h : b = arr q
    · subst h
      rw [arrOf_setArr_same]
      exact List.mem_append_left _ hp
    · rwa [arrOf_setArr_ne (harr q) hb (.inr h)]
  rw [hbegin]
  refine ⟨arr 0, harr 0, prod 0, ?_, hjob 0⟩
  refine foldl_reaches (R := fun t u : State => ∀ b, b < 4 → ∀ p ∈ (arrOf t (productArrs s j).1 b).queue,
    p ∈ (arrOf u (productArrs s j).1 b).queue) (P := fun t => prod 0 ∈ (arrOf t (productArrs s j).1 (arr 0)).queue)
    (fun _ _ _ _ h => h) (fun h k b hb p hp => k b hb p (h b hb p hp)) hput (fun h hp => h _ (harr 0) _ hp) hfirst (fun t _ => ?_)
  rw [arrOf_setArr_same]
  exact List.mem_append_right _ List.mem_cons_self

/-! ### Its codes come -/

/-- A queue whose products of descriptor id have their codes: what each contributes follows from those before it, of which there are n
between one number and the next, from number k on. -/
def filledQueue (id : Nat) (lands : List Prod × Nat → List Land) (n k : Nat) (l : List Prod) : List Prod :=
  (l.foldl (fun (acc : List Prod × Nat) p =>
    if p.job = id then (acc.1 ++ [{ p with ready := true, lands := lands acc }], acc.2 + n) else (acc.1 ++ [p], acc.2)) ([], k)).1

theorem filledQueue_ready {id k m : Nat} {lands : List Prod × Nat → List Land} {l : List Prod} :
    ∀ p ∈ filledQueue id lands m k l, p.job = id → p.ready = true := by
  refine List.foldlRecOn (motive := fun acc : List Prod × Nat => ∀ p ∈ acc.1, p.job = id → p.ready = true) l _
    (fun _ h => by cases h) (fun acc hacc p _ q hq hj => ?_)
  split at hq
  · rcases List.mem_append.mp hq with hq | hq
    · exact hacc q hq hj
    · rw [List.mem_singleton.mp hq]
  · rcases List.mem_append.mp hq with hq | hq
    · exact hacc q hq hj
    · rw [List.mem_singleton.mp hq] at hj
      contradiction

theorem filledQueue_jobs (id : Nat) (lands : List Prod × Nat → List Land) (m k : Nat) (l : List Prod) :
    (filledQueue id lands m k l).map (·.job) = l.map (·.job) := by
  have hacc : ∀ acc : List Prod × Nat, ((l.foldl (fun (acc : List Prod × Nat) p =>
      if p.job = id then (acc.1 ++ [{ p with ready := true, lands := lands acc }], acc.2 + m) else (acc.1 ++ [p], acc.2)) acc).1).map
        (·.job) = acc.1.map (·.job) ++ l.map (·.job) := by
    induction l with
    | nil => simp
    | cons p l ih =>
      intro acc
      rw [List.foldl_cons, ih]
      split <;> simp
  simpa [filledQueue] using hacc ([], k)

theorem fillProduct_eq (s : State) (j : Job) : ∃ lands, fillProduct s j = ((productArrs s j).2.zipIdx).foldl (fun u a =>
    setArr u (productArrs s j).1 a.1 { arrOf u (productArrs s j).1 a.1 with
      queue := filledQueue j.id lands (productArrs s j).2.length a.2 (arrOf u (productArrs s j).1 a.1).queue }) s := by
  unfold fillProduct filledQueue
  dsimp only
  exact ⟨_, rfl⟩

theorem productArrs_zipIdx_lt {a : Nat × Nat} (h : a ∈ (productArrs s j).2.zipIdx) : a.1 < 4 :=
  mem_maskArrs_lt ((List.mem_zipIdx' h).2 ▸ List.getElem_mem _)

theorem fillProduct_other (hb : b < 4) (hd : d ≠ (productArrs s j).1) : arrOf (fillProduct s j) d b = arrOf s d b := by
  obtain ⟨lands, hfill⟩ := fillProduct_eq s j
  rw [hfill]
  exact arrOf_foldl_setArr_other (fun _ => productArrs_zipIdx_lt) hb (.inl hd)

/-- Filling keeps what is in flight, and whose products stand in each queue. -/
theorem fillProduct_keeps (hb : b < 4) : (arrOf (fillProduct s j) d b).flight = (arrOf s d b).flight ∧
    (arrOf (fillProduct s j) d b).queue.map (·.job) = (arrOf s d b).queue.map (·.job) := by
  obtain ⟨lands, hfill⟩ := fillProduct_eq s j
  rw [hfill]
  exact arrOf_foldl_setArr_rel (R := fun x y => y.flight = x.flight ∧ y.queue.map (·.job) = x.queue.map (·.job)) (fun _ => ⟨rfl, rfl⟩)
    (fun h k => ⟨k.1.trans h.1, k.2.trans h.2⟩) (fun _ => productArrs_zipIdx_lt) (fun _ _ => ⟨rfl, filledQueue_jobs _ _ _ _ _⟩) hb

theorem fillProduct_ready {a : Nat} (ha : a ∈ (productArrs s j).2) :
    ∀ p ∈ (arrOf (fillProduct s j) (productArrs s j).1 a).queue, p.job = j.id → p.ready = true := by
  obtain ⟨lands, hfill⟩ := fillProduct_eq s j
  obtain ⟨i, hi, hget⟩ := List.getElem_of_mem ha
  have hmem : (a, i) ∈ (productArrs s j).2.zipIdx := by simp [List.mk_mem_zipIdx_iff_getElem?, ← hget, hi]
  have harr := arrOf_foldl_setArr_mem (s := s) (c := (productArrs s j).1) (g := fun a : Nat × Nat => a.1)
    (f := fun a x => { x with queue := filledQueue j.id lands (productArrs s j).2.length a.2 x.queue })
    ((List.zipIdx_map_fst 0 _).symm ▸ maskArrs_nodup (j.bits 54 0 4)) (fun _ => productArrs_zipIdx_lt (s := s) (j := j)) hmem
  rw [hfill]
  intro p hp
  rw [harr] at hp
  exact filledQueue_ready p hp

end

end Sys2Proof.Machine

namespace Sys2Proof.Machine

-- As above: proofs are elaborated one after another.
set_option Elab.async false

section
variable {s u : State} {n : Nat} {j : Job}

/-- A PRODUCT whose fields are in order has an output column. -/
theorem productFields_columns (h : productErr s j = none) : j.fld 48 2 ≠ 0 := by
  obtain ⟨hfields, -⟩ := (Option.orElse_eq_none _ _).mp h
  have hN := fields_eq_none.mp hfields (bad (j.fld 48 2 == 0) 48) (by simp)
  simpa using bad_eq_none.mp hN

/-- A PRODUCT that can read its codes takes them and runs. -/
theorem streamProduct_of_canAccess (h : CanAccess u j.id (productSpans u j)) : ∃ v, Accessed u v ∧ ∃ steps moved,
    streamProduct u j = keepRunning (modJob (ranOn (fillProduct v j) j.id (productArrs u j).1 steps moved) j.id
      (fun k => { k with status := stDone, detail := 0 })) j.id := by
  obtain ⟨v, hv, hgo⟩ := withMemOr_of_canAccess h
  exact ⟨v, hv, _, _, hgo _ _⟩

theorem exec_product (h : opJob s n 0x0201 = some j)
    (hu : productBegun s j = true ∧ u = s ∨ productBegun s j = false ∧ productErr s j = none ∧ u = beginProduct s j) :
    exec (.product n) s = .next (streamProduct u j) := by
  have hx : exec (.product n) s = _ := runOp_ready h
  rcases hu with ⟨hb, rfl⟩ | ⟨hb, he, rfl⟩
  · rwa [if_pos hb] at hx
  · rwa [hb, if_neg Bool.false_ne_true, he] at hx

/-- What stands of s once a PRODUCT is in its queues: it has begun before, or begins now. -/
theorem productQueued (hu : productBegun s j = true ∧ u = s ∨ productBegun s j = false ∧ productErr s j = none ∧ u = beginProduct s j) :
    OnlyParts [.arrays] s u ∧ (∀ d b, b < 4 → (arrOf u d b).flight = (arrOf s d b).flight) ∧
      (∀ d b, b < 4 → d ≠ (productArrs s j).1 → arrOf u d b = arrOf s d b) ∧
      ∃ b, b < 4 ∧ ∃ p ∈ (arrOf u (productArrs s j).1 b).queue, p.job = j.id := by
  rcases hu with ⟨hb, rfl⟩ | ⟨-, he, rfl⟩
  · simp only [productBegun, List.any_eq_true, beq_iff_eq] at hb
    obtain ⟨a, ha, p, hp, hj⟩ := hb
    exact ⟨.refl _ _, fun _ _ _ => rfl, fun _ _ _ _ => rfl, a, mem_maskArrs_lt ha, p, hp, hj⟩
  · exact ⟨beginProduct_only _ _, fun _ _ => beginProduct_flight, fun _ _ => beginProduct_other,
      beginProduct_queued (productFields_columns he)⟩

/-- PRODUCT queues its products with their codes and runs (03 R83, R87, R99). -/
theorem product_spec {c : Nat} (h : opJob s n 0x0201 = some j) (hc : c = (coreAt s (part s j) (j.fld 55 1)).getD 0)
    (hu : productBegun s j = true ∧ u = s ∨ productBegun s j = false ∧ productErr s j = none ∧ u = beginProduct s j)
    (ha : CanAccess u n (productSpans u j)) :
    ∃ t, exec (.product n) s = .next t ∧ Runs t n ∧ OtherJobs n s t ∧ productsLeft t c n = true ∧
      (∀ a ∈ (productArrs s j).2, ∀ p ∈ (arrOf t c a).queue, p.job = n → p.ready = true) ∧
      (∀ a < 4, (arrOf t c a).flight = (arrOf s c a).flight) ∧ (∀ d a, a < 4 → d ≠ c → arrOf t d a = arrOf s d a) ∧
      (∀ k a, byteAt t k a = byteAt s k a) ∧ OnlyParts (tierParts.append [.arrays]) s t := by
  obtain ⟨hj, -⟩ := opJob_some.mp h
  obtain rfl : j.id = n := job?_id hj
  have hcore : (productArrs s j).1 = c := hc.symm
  obtain ⟨hbegin, hflight, hother, b, hb, p, hp, hpj⟩ := productQueued hu
  obtain ⟨v, hv, steps, moved, hstream⟩ := streamProduct_of_canAccess ha
  have harrs : productArrs v j = productArrs s j := (productArrs_congr (hv.part j) hv.coreAt).trans
    (productArrs_congr (hbegin.part j) (fun p k => hbegin.coreAt p k))
  have hread : OnlyParts (accessParts ++ [.arrays]) s (fillProduct v j) :=
    .after (fillProduct_only v j) (.after hv.frame hbegin.sub)
  have hran := job?_ranOn (k := (productArrs u j).1) (steps := steps) (moved := moved) hj hread.jobs
  have hnoted : OtherJobs j.id (ranOn (fillProduct v j) j.id (productArrs u j).1 steps moved) (modJob (ranOn (fillProduct v j) j.id
      (productArrs u j).1 steps moved) j.id (fun k => { k with status := stDone, detail := 0 })) := otherJobs_modJob (fun _ => rfl)
  have hmod := job?_modJob (f := fun k : Job => { k with status := stDone, detail := 0 }) (fun _ => rfl) hran
  have hend : OnlyParts [.jobs] (fillProduct v j) (keepRunning (modJob (ranOn (fillProduct v j) j.id (productArrs u j).1 steps moved) j.id
      (fun k => { k with status := stDone, detail := 0 })) j.id) :=
    .after (keepRunning_only _ _) (.after (modJob_only _ _ _) (ranOn_only _ _ _ _ _))
  have harr : ∀ d a, a < 4 → (arrOf (fillProduct v j) d a).flight = (arrOf u d a).flight ∧
      (arrOf (fillProduct v j) d a).queue.map (·.job) = (arrOf u d a).queue.map (·.job) := fun d a ha => by
    rw [← hv.arrOf]
    exact fillProduct_keeps ha
  refine ⟨_, (exec_product h hu).trans (congrArg _ hstream), runs_keepRunning hmod, ?_, ?_, fun a ha p hp => ?_, fun a ha => ?_,
    fun d a ha hd => ?_, fun k a => ?_, .after hend hread.sub⟩
  · exact ((otherJobs_ran hread.jobs).trans hnoted).trans otherJobs_keepRunning
  · have hmem : j.id ∈ (arrOf (fillProduct v j) c b).queue.map (·.job) := by
      rw [(harr c b hb).2, ← hpj, ← hcore]
      exact List.mem_map_of_mem hp
    obtain ⟨q, hq, hqj⟩ := List.mem_map.mp hmem
    rw [productsLeft_congr (hend .arrays (by decide)), ← hqj]
    exact productsLeft_of_queued hb hq
  · rw [hend.arrOf, ← hcore, ← harrs] at hp
    exact fillProduct_ready (harrs ▸ ha) p hp
  · rw [hend.arrOf, (harr c a ha).1, hflight c a ha]
  · rw [hend.arrOf, fillProduct_other ha (harrs ▸ hcore ▸ hd), hv.arrOf, hother d a ha (hcore ▸ hd)]
  · exact byteAt_of_mem ((hend .mem (by decide)).trans (hread .mem (by decide))) k a

end

end Sys2Proof.Machine

namespace Sys2Proof.Machine

-- As above: proofs are elaborated one after another.
set_option Elab.async false

/-! ## Bytes outside spans, and elements encoded -/

section
variable {s t u : State} {xs ys : List Span}

theorem BytesOutside.trans (h : BytesOutside xs s t) (k : BytesOutside xs t u) : BytesOutside xs s u :=
  fun p a ha => (k p a ha).trans (h p a ha)

theorem BytesOutside.mono (h : BytesOutside xs s t) (hy : xs ⊆ ys) : BytesOutside ys s t := fun p a ha => h p a (fun x hx => ha x (hy hx))

theorem bytesAt_eq_map (s : State) (k a m : Nat) : bytesAt s k a m = (List.range m).map (fun i => byteAt s k (a + i)) := by
  simp [bytesAt, tgetMany, byteAt, akey, Nat.add_assoc]

theorem bytesAt_congr (h : t.tm.mem = s.tm.mem) (k a m : Nat) : bytesAt t k a m = bytesAt s k a m := by rw [bytesAt, h, bytesAt]

theorem bytesAt_writeAt_out {k a b m : Nat} {bs : List Byte} {f : Nat → Bool} (h : b + m ≤ a ∨ a + bs.length ≤ b) :
    bytesAt (writeAt s k a bs f) k b m = bytesAt s k b m := by
  simp only [bytesAt_eq_map, List.map_inj_left, List.mem_range]
  exact fun i hi => byteAt_writeAt_out (by omega)

/-- Rows of m bytes each, written at a stride that they fit in, read back. -/
theorem bytesAt_foldl_writeAt {k a stride m : Nat} {bs : Nat → List Byte} {soil : Nat → Nat → Bool} (hlen : ∀ i, (bs i).length = m)
    (hm : m ≤ stride) {rows i : Nat} (hi : i < rows) :
    bytesAt ((List.range rows).foldl (fun v i => writeAt v k (a + i * stride) (bs i) (soil i)) s) k (a + i * stride) m = bs i := by
  induction rows with
  | zero => omega
  | succ rows ih =>
    rw [List.range_succ, List.foldl_append, List.foldl_cons, List.foldl_nil]
    by_cases h : i = rows
    · subst h
      rw [← hlen i, bytesAt_writeAt]
    · have hrow : (i + 1) * stride ≤ rows * stride := Nat.mul_le_mul_right _ (by omega)
      rw [bytesAt_writeAt_out (.inl (by rw [Nat.add_mul] at hrow; omega)), ih (by omega)]

theorem length_leBytes (n v : Nat) : (leBytes n v).length = n := by
  induction n generalizing v with
  | zero => rfl
  | succ n ih => simp [leBytes, ih]

/-- An element takes its format's bytes. -/
theorem length_encodeElem (code : Nat) (m : Rnd) (x : Val) : (encodeElem code m x).1.length = elemSize code := by
  unfold encodeElem
  split
  · exact length_leBytes _ _
  · next h =>
    have hsize : elemSize code = 1 := by
      have h2 : code ≠ 2 := by rintro rfl; cases h
      have h5 : code ≠ 5 := by rintro rfl; cases h
      rw [elemSize, if_neg h2, if_neg h5]
    cases x <;> exact hsize ▸ length_leBytes _ _

theorem length_encodeAll (code : Nat) (m : Rnd) (vs : List Val) : (encodeAll code m vs).1.length = vs.length * elemSize code := by
  induction vs with
  | nil => simp [encodeAll]
  | cons v vs ih =>
    simp only [encodeAll, List.map_cons, List.flatten_cons, List.length_append, length_encodeElem, List.length_cons] at ih ⊢
    rw [ih, Nat.add_mul, Nat.one_mul, Nat.add_comm]

end

/-! ## O55: columns are drained -/

section
variable {s v : State} {n c : Nat} {j : Job}

theorem Arr.col_setCol (x : Arr) (i k : Nat) (q : Option Col) : (x.setCol i q).col k = if k = i then q else x.col k :=
  tget_tset (d := fun _ => none) (t := x.cols) (v := q)

/-- Slot columns that are closed one after another. -/
theorem Arr.col_foldl_close (x : Arr) (l : List Nat) (k : Nat) :
    (l.foldl (fun x i => x.setCol i none) x).col k = if k ∈ l then none else x.col k := by
  induction l generalizing x with
  | nil => simp
  | cons i l ih =>
    rw [List.foldl_cons, ih, Arr.col_setCol]
    by_cases hk : k = i <;> by_cases hl : k ∈ l <;> simp [hk, hl]

/-- DRAIN's rows written; `soil` by row and byte. -/
def rowsDrained (s v : State) (j : Job) (soil : Nat → Nat → Bool) : State :=
  (List.range (j.fld 34 2)).foldl (fun u i => writeAt u (part s j) (j.va 16 + i * j.fld 24 4) (drainRow v j i).1 (soil i)) v

/-- The slot columns that DRAIN read, closed on core c. -/
def colsClosed (s u : State) (j : Job) (c : Nat) : State :=
  (List.range (drainWidth j)).foldl (fun w k => setArr w c (drainPlace s j k).1
    ((drainPlace s j k).2.foldl (fun x i => x.setCol i none) (arrOf w c (drainPlace s j k).1))) u

theorem drainPlace_lt (s : State) (j : Job) (k : Nat) : (drainPlace s j k).1 < 4 := maskArrs_getD_lt _ _

theorem rowsDrained_only (s v : State) (j : Job) (soil : Nat → Nat → Bool) : OnlyParts byteParts v (rowsDrained s v j soil) :=
  .foldl (fun _ _ => writeAt_only _ _ _ _ _) _ _

theorem colsClosed_only (s u : State) (j : Job) (c : Nat) : OnlyParts [.arrays] u (colsClosed s u j c) :=
  .foldl (fun _ _ => setArr_only _ _ _ _) _ _

theorem length_drainRow (s : State) (j : Job) (i : Nat) : (drainRow s j i).1.length = j.fld 32 2 * elemSize (j.fld 36 1) := by
  simp [drainRow, length_encodeAll]

/-- A row of DRAIN is made of its core's slots and row scales, which its own accesses leave. -/
theorem drainRow_accessed (hv : Accessed s v) (j : Job) (i : Nat) : drainRow v j i = drainRow s j i := by
  have hfirst : drainFirst v j = drainFirst s j := by simp only [drainFirst, hv.coreAt, hv.part, hv.arrOf]
  have hplace : ∀ k, drainPlace v j k = drainPlace s j k := fun k => by
    rw [drainPlace, drainPair, hfirst, drainPlace, drainPair]
  have haccs : ∀ k, drainAccs v j k i = drainAccs s j k i := fun k => by
    simp only [drainAccs, drainCols, hplace, hv.coreAt, hv.part, hv.arrOf]
  simp only [drainRow, hfirst, haccs, hv.coreAt, hv.part, numAt, bytesAt_congr (hv.frame .mem (by decide))]

theorem bytesAt_rowsDrained (hv : Accessed s v) (soil : Nat → Nat → Bool) (hfit : j.fld 32 2 * elemSize (j.fld 36 1) ≤ j.fld 24 4) {i : Nat}
    (hi : i < j.fld 34 2) : bytesAt (rowsDrained s v j soil) (part s j) (j.va 16 + i * j.fld 24 4) (j.fld 32 2 * elemSize (j.fld 36 1)) =
      (drainRow s j i).1 :=
  (bytesAt_foldl_writeAt (length_drainRow v j) hfit hi).trans (congrArg Prod.fst (drainRow_accessed hv j i))

theorem bytesOutside_rowsDrained (s v : State) (j : Job) (soil : Nat → Nat → Bool) :
    BytesOutside (drainSpans s j) v (rowsDrained s v j soil) := by
  refine List.foldlRecOn (motive := BytesOutside (drainSpans s j) v) (List.range (j.fld 34 2)) _ (fun _ _ _ => rfl) (fun u hu i hi => hu.trans ?_)
  refine (bytesOutside_writeAt u (part s j) (j.va 16 + i * j.fld 24 4) (drainRow v j i).1 (soil i)).mono ?_
  rw [length_drainRow]
  simpa [drainSpans] using ⟨i, List.mem_range.mp hi, rfl⟩

/-- Every column that DRAIN read is closed. -/
theorem col_colsClosed {k i : Nat} (u : State) (hk : k < drainWidth j) (hi : i ∈ (drainPlace s j k).2) :
    (arrOf (colsClosed s u j c) c (drainPlace s j k).1).col i = none := by
  have hstep : ∀ (w : State) (q b : Nat), b < 4 → ∀ m, (arrOf w c b).col m = none → (arrOf (setArr w c (drainPlace s j q).1
      ((drainPlace s j q).2.foldl (fun x i => x.setCol i none) (arrOf w c (drainPlace s j q).1))) c b).col m = none := fun w q b hb m hm => by
    by_cases h : b = (drainPlace s j q).1
    · subst h
      rw [arrOf_setArr_same, Arr.col_foldl_close, hm, ite_self]
    · rwa [arrOf_setArr_ne (drainPlace_lt s j q) hb (.inr h)]
  refine foldl_reaches (R := fun t u : State => ∀ b, b < 4 → ∀ m, (arrOf t c b).col m = none → (arrOf u c b).col m = none)
    (P := fun t => (arrOf t c (drainPlace s j k).1).col i = none) (fun _ _ _ _ h => h) (fun h g b hb m hm => g b hb m (h b hb m hm)) hstep
    (fun h hc => h _ (drainPlace_lt s j k) _ hc) (List.mem_range.mpr hk) (fun t _ => ?_)
  rw [arrOf_setArr_same, Arr.col_foldl_close, if_pos hi]

theorem exec_drain (h : opJob s n 0x0202 = some j) (hf : drainFields s j = none) (hw : drainWaits s j = false) (he : drainErr s j = none)
    (hc : c = (coreAt s (part s j) (j.fld 41 1)).getD 0) (ha : CanAccess s n (drainSpans s j)) :
    ∃ v, Accessed s v ∧ ∃ soil late satd steps moved dirty bits, exec (.drain n) s = .next (finish (ranOn (stainIf satd (stainIf late
      (if j.bits 37 2 1 == 1 then rowsDrained s v j soil else colsClosed s (rowsDrained s v j soil) j c) (rMxStain c) 0) (rMxStain c) 1)
      n c steps moved) n (doneOf dirty bits)) := by
  obtain ⟨v, hv, hgo⟩ := withMem_of_canAccess ha
  subst hc
  have hx : exec (.drain n) s = _ := runOp_ready h
  rw [hf] at hx
  dsimp only at hx
  rw [hw, if_neg Bool.false_ne_true, he] at hx
  dsimp only at hx
  rw [hgo] at hx
  exact ⟨v, hv, _, _, _, _, _, _, _, hx⟩

/-- DRAIN writes its rows, closes its columns unless it keeps them, and ends (03 R91, R100). -/
theorem drain_spec (h : opJob s n 0x0202 = some j) (hf : drainFields s j = none) (hw : drainWaits s j = false) (he : drainErr s j = none)
    (hc : c = (coreAt s (part s j) (j.fld 41 1)).getD 0) (ha : CanAccess s n (drainSpans s j)) :
    ∃ t, exec (.drain n) s = .next t ∧ Completes t n ∧ OtherJobs n s t ∧
      (j.fld 32 2 * elemSize (j.fld 36 1) ≤ j.fld 24 4 → ∀ i < j.fld 34 2,
        bytesAt t (part s j) (j.va 16 + i * j.fld 24 4) (j.fld 32 2 * elemSize (j.fld 36 1)) = (drainRow s j i).1) ∧
      (j.bits 37 2 1 = 1 → t.mx = s.mx) ∧ (j.bits 37 2 1 ≠ 1 → ∀ k < drainWidth j, ∀ i ∈ (drainPlace s j k).2,
        (arrOf t c (drainPlace s j k).1).col i = none) ∧ BytesOutside (drainSpans s j) s t ∧ OnlyParts (tierParts.append [.arrays]) s t := by
  obtain ⟨v, hv, soil, late, satd, steps, moved, dirty, bits, hx⟩ := exec_drain h hf hw he hc ha
  generalize hdrained : (if j.bits 37 2 1 == 1 then rowsDrained s v j soil else colsClosed s (rowsDrained s v j soil) j c) = u at hx
  have hrows := rowsDrained_only s v j soil
  have hclosed : OnlyParts [.arrays] (rowsDrained s v j soil) u := hdrained ▸ .ite (.refl _ _) (colsClosed_only _ _ _ _)
  have hstain : OnlyParts [.regs, .log] u (stainIf satd (stainIf late u (rMxStain c) 0) (rMxStain c) 1) :=
    .after (stainIf_only _ _ _ _) (stainIf_only _ _ _ _)
  have hend := (ranOn_finish_only _ n c steps moved (doneOf dirty bits)).after (ps := [.jobs, .regs, .log]) hstain.sub
  have hreach : OnlyParts (accessParts ++ byteParts ++ [.arrays]) s u := .after hclosed (.after hrows hv.frame.sub)
  have hmem := (hend .mem (by decide)).trans (hclosed .mem (by decide))
  have hjobs := hstain.jobs.trans hreach.jobs
  refine ⟨_, hx, completes_ranOn (opJob_some.mp h).1 hjobs _ _, otherJobs_ranOn hjobs _, fun hfit i hi => ?_, fun hkeep => ?_,
    fun hclose k hk i hi => ?_, fun k a hout => ?_, .after hend hreach.sub⟩
  · rw [bytesAt_congr hmem, bytesAt_rowsDrained hv soil hfit hi]
  · rw [if_pos (by simpa using hkeep)] at hdrained
    subst hdrained
    exact (hend .arrays (by decide)).trans ((hrows .arrays (by decide)).trans (hv.frame .arrays (by decide)))
  · rw [if_neg (by simpa using hclose)] at hdrained
    subst hdrained
    rw [hend.arrOf]
    exact col_colsClosed _ hk hi
  · rw [byteAt_of_mem hmem, bytesOutside_rowsDrained s v j soil k a hout, hv.byteAt]

end

/-! ## O55: the Needle path -/

section
variable {s : State} {n : Nat} {j : Job}

theorem exec_needle (h : opJob s n 0x0300 = some j) (he : needleErr s j = none)
    (hr : regionErr s (needleReads s j ++ [wr (part s j) (j.va 48) (j.fld 45 1 * j.fld 40 2 * elemSize (j.fld 44 1))]) = none)
    (ha : CanAccess s n (needleReads s j ++ [wr (part s j) (j.va 48) (j.fld 45 1 * j.fld 40 2 * elemSize (j.fld 44 1))])) :
    ∃ v, Accessed s v ∧ ∃ (vs : List Val) (m : Rnd) (soil : Nat → Bool) (dirty satd : Bool) (k c steps moved bits : Nat),
      vs.length = j.fld 45 1 * j.fld 40 2 ∧ exec (.needle n) s = .next (finish (ranOn (coreCount (stainIf dirty (stainIf satd
        (writeAt v (part s j) (j.va 48) (encodeAll (j.fld 44 1) m vs).1 soil) (rMxStain c) 1) (rMxStain c) 2) c 13 k) n c steps moved) n
        (doneOf dirty bits)) := by
  obtain ⟨v, hv, hgo⟩ := withMem_of_canAccess ha
  have hx : exec (.needle n) s = _ := runOp_ready h
  rw [he] at hx
  dsimp only at hx
  rw [hr] at hx
  dsimp only at hx
  rw [hgo] at hx
  refine ⟨v, hv, _, _, _, _, _, _, _, _, _, _, ?_, hx⟩
  simp only [List.length_flatMap, List.length_map, List.length_range, List.map_const', List.sum_replicate, smul_eq_mul]

/-- NEEDLE writes its outputs alone and ends (03 R95). -/
theorem needle_spec {out : Span} (h : opJob s n 0x0300 = some j) (he : needleErr s j = none)
    (ho : out = wr (part s j) (j.va 48) (j.fld 45 1 * j.fld 40 2 * elemSize (j.fld 44 1)))
    (hr : regionErr s (needleReads s j ++ [out]) = none) (ha : CanAccess s n (needleReads s j ++ [out])) :
    ∃ t, exec (.needle n) s = .next t ∧ Completes t n ∧ OtherJobs n s t ∧ BytesOutside [out] s t ∧ OnlyParts tierParts s t := by
  subst ho
  obtain ⟨v, hv, vs, m, soil, dirty, satd, k, c, steps, moved, bits, hlen, hx⟩ := exec_needle h he hr ha
  have hwrite := writeAt_only v (part s j) (j.va 48) (encodeAll (j.fld 44 1) m vs).1 soil
  have hnote : ∀ w, OnlyParts [.regs, .log, .counts] w (coreCount (stainIf dirty (stainIf satd w (rMxStain c) 1) (rMxStain c) 2) c 13 k) :=
    fun w => .after (coreCount_only _ _ _ _) (.after (stainIf_only _ _ _ _) (stainIf_only _ _ _ _).sub)
  have hreach := (hnote _).after (ps := accessParts ++ byteParts) (hwrite.after hv.frame.sub)
  have hend := fun w => (ranOn_finish_only _ n c steps moved (doneOf dirty bits)).after (ps := [.jobs, .regs, .log, .counts]) (hnote w).sub
  refine ⟨_, hx, completes_ranOn (opJob_some.mp h).1 hreach.jobs _ _, otherJobs_ranOn hreach.jobs _, fun q a hout => ?_,
    .after (hend _) (.after hwrite hv.frame.sub)⟩
  have hwrote := bytesOutside_writeAt v (part s j) (j.va 48) (encodeAll (j.fld 44 1) m vs).1 soil
  rw [length_encodeAll, hlen] at hwrote
  rw [byteAt_of_mem (hend _ .mem (by decide)), hwrote q a hout, hv.byteAt]

end

end Sys2Proof.Machine

namespace Sys2Proof.Machine

-- As above: proofs are elaborated one after another.
set_option Elab.async false

/-! ## O55: what becomes soiled stays soiled -/

section
variable {s t u : State} {ps : List Part} {x y z : Arr}

/-- Each slot column of x is there in y, soiled wherever it is in x. -/
def KeepsSlotSoil (x y : Arr) : Prop :=
  ∀ i q, x.col i = some q → ∃ r, y.col i = some r ∧ ∀ k, (q.acc k).soil = true → (r.acc k).soil = true

theorem KeepsSlotSoil.refl (x : Arr) : KeepsSlotSoil x x := fun _ q h => ⟨q, h, fun _ hk => hk⟩

theorem KeepsSlotSoil.trans (h : KeepsSlotSoil x y) (k : KeepsSlotSoil y z) : KeepsSlotSoil x z := fun i q hq => by
  obtain ⟨r, hr, hqr⟩ := h i q hq
  obtain ⟨w, hw, hrw⟩ := k i r hr
  exact ⟨w, hw, fun m hm => hrw m (hqr m hm)⟩

/-- What an error that is met may change: bytes with their soil, the pattern store, Stain bits, programs, slots, counts. -/
def soilParts : List Part := byteParts ++ [.pats, .regs, .log, .programs, .arrays, .counts]

/-- t is s with errors met: no soil and no Stain bit is lost, and without a KV region no byte changes. -/
structure Soiled (s t : State) : Prop where
  frame : OnlyParts soilParts s t
  bytes : s.tm.regions = [] → ∀ k a, byteAt t k a = byteAt s k a
  units : ∀ v, tget clean s.tm.soil v = true → tget clean t.tm.soil v = true
  stains : ∀ o b, bitOf (rreg s o).toNat b = true → bitOf (rreg t o).toNat b = true
  slots : ∀ c a, a < 4 → KeepsSlotSoil (arrOf s c a) (arrOf t c a)

namespace Soiled

theorem of_only (h : OnlyParts ps s t) (hp : ps ⊆ [.pats, .log, .programs, .counts] := by decide) : Soiled s t where
  frame := h.mono (fun _ hq => (by decide : [.pats, .log, .programs, .counts] ⊆ soilParts) (hp hq))
  bytes := fun _ => byteAt_of_mem (h .mem (fun hq => absurd (hp hq) (by decide)))
  units := fun _ hv => (h .soil (fun hq => absurd (hp hq) (by decide))).symm ▸ hv
  stains := fun o _ hb => (rreg_congr (h .regs (fun hq => absurd (hp hq) (by decide))) o).symm ▸ hb
  slots := fun c a _ => h.arrOf c a (fun hq => absurd (hp hq) (by decide)) ▸ .refl _

theorem refl (s : State) : Soiled s s := of_only (.refl [] s)

theorem regions (h : Soiled s t) : t.tm.regions = s.tm.regions := h.frame .regions (by decide)

theorem trans (h : Soiled s t) (k : Soiled t u) : Soiled s u where
  frame := h.frame.trans k.frame
  bytes hr p a := (k.bytes (h.regions.trans hr) p a).trans (h.bytes hr p a)
  units v hv := k.units v (h.units v hv)
  stains o b hb := k.stains o b (h.stains o b hb)
  slots c a ha := (h.slots c a ha).trans (k.slots c a ha)

theorem ite {b : Prop} [Decidable b] (h : Soiled s t) (k : Soiled s u) : Soiled s (if b then t else u) := by split <;> assumption

theorem foldl {α : Type} {f : State → α → State} (h : ∀ t x, Soiled t (f t x)) (xs : List α) (s : State) : Soiled s (xs.foldl f s) :=
  List.foldlRecOn xs f (.refl s) (fun t ht x _ => ht.trans (h t x))

/-- What the step of x soils is soiled after a fold over a list with x. -/
theorem foldl_mem {α : Type} {f : State → α → State} {P : State → Prop} {l : List α} {x : α} (h : ∀ t y, Soiled t (f t y))
    (hkeep : ∀ {t u}, Soiled t u → P t → P u) (hx : x ∈ l) (hP : ∀ t, Soiled s t → P (f t x)) : P (l.foldl f s) :=
  foldl_reaches Soiled.refl Soiled.trans h hkeep hx hP

theorem unitSoil (h : Soiled s t) {k a : Nat} (hu : unitSoil s k a = true) : Machine.unitSoil t k a = true := h.units _ hu

end Soiled

/-! ### Stain bits -/

theorem soiled_setStain (s : State) (o b : Nat) : Soiled s (setStain s o b) where
  frame := (setStain_only s o b).sub
  bytes := fun _ => byteAt_of_mem (setStain_only s o b .mem (by decide))
  units _ hv := (setStain_only s o b .soil (by decide)).symm ▸ hv
  slots c a _ := (setStain_only s o b).arrOf c a ▸ .refl _
  stains p i hi := by
    by_cases hset : bitOf (rreg s o).toNat b = true
    · rwa [setStain_of_set s o b hset]
    by_cases hp : p = o
    · subst hp
      rw [bitOf_eq_testBit] at hi
      rw [rreg_congr (regs_setStain_of_clear s p b hset), rreg_wreg_same, bitOf_eq_testBit, BitVec.toNat_or, Nat.testBit_or, hi,
        Bool.true_or]
    · rwa [otherRegs_setStain s o b p (by simpa using hp)]

theorem soiled_stainIf (c : Bool) (s : State) (o b : Nat) : Soiled s (stainIf c s o b) := .ite (soiled_setStain s o b) (.refl s)

/-! ### Bytes that are soiled where they stand -/

/-- A unit that a write with soil reaches is soiled, and so stays one that was. -/
theorem unitAfter_allSoil {old : Bool} {v p q : Nat} (h : old = true ∨ (p < 64 * v + 64 ∧ 64 * v < q ∧ p < q)) :
    unitAfter old v p q allSoil = true := by
  unfold unitAfter
  dsimp only
  by_cases hn : min q (64 * v + 64) - max p (64 * v) = 0
  · have hold : old = true := h.resolve_right (by omega)
    rw [hn, if_neg (by simp), if_neg (by omega), hold]
  · rw [if_pos (by simpa [allSoil] using ⟨0, by omega⟩)]

/-- The units that n bytes from address number x lie in. -/
def unitsOf (x n : Nat) : List Nat := (List.range ((x + n - 1) / 64 + 1 - x / 64)).map (fun i => x / 64 + i)

theorem first_mem_unitsOf (x : Nat) {n : Nat} (hn : 0 < n) : x / 64 ∈ unitsOf x n :=
  List.mem_map.mpr ⟨0, List.mem_range.mpr (by omega), Nat.add_zero _⟩

theorem soil_writeAt {k a : Nat} {bs : List Byte} (f : Nat → Bool) (hb : bs ≠ []) :
    (writeAt s k a bs f).tm.soil = (unitsOf (akey k a) bs.length).foldl (fun t v =>
      tset clean t v (unitAfter (tget clean t v) v (akey k a) (akey k a + bs.length) f)) s.tm.soil := by
  rw [writeAt, if_neg (by simpa using hb)]
  rfl

/-- A step of the write with soil soils its unit where it reaches it, and keeps the soil of every unit. -/
theorem soil_writeAt_step {m : Tab Bool} {p q v w : Nat} (h : tget clean m w = true) :
    tget clean (tset clean m v (unitAfter (tget clean m v) v p q allSoil)) w = true := by
  rw [tget_tset]
  split
  · next hw => exact unitAfter_allSoil (.inl (hw ▸ h))
  · exact h

theorem soil_writeAt_of_soil {k a : Nat} {bs : List Byte} {v : Nat} (h : tget clean s.tm.soil v = true) :
    tget clean (writeAt s k a bs allSoil).tm.soil v = true := by
  by_cases hb : bs = []
  · subst hb
    exact h
  · rw [soil_writeAt _ hb]
    exact List.foldlRecOn (motive := fun m => tget clean m v = true) _ _ h (fun _ hm _ _ => soil_writeAt_step hm)

/-- The unit of the first byte written with soil is soiled. -/
theorem unitSoil_writeAt {k a : Nat} {bs : List Byte} (hb : bs ≠ []) : unitSoil (writeAt s k a bs allSoil) k a = true := by
  have hlen : 0 < bs.length := List.length_pos_iff.mpr hb
  rw [unitSoil, soil_writeAt _ hb]
  refine foldl_reaches (R := fun m w : Tab Bool => ∀ v, tget clean m v = true → tget clean w v = true)
    (P := fun m => tget clean m (akey k a / 64) = true) (fun _ _ h => h) (fun h g v hv => g v (h v hv)) (fun _ _ _ => soil_writeAt_step)
    (fun h hv => h _ hv) (first_mem_unitsOf _ hlen) (fun m _ => ?_)
  rw [tget_tset_same]
  exact unitAfter_allSoil (.inr (by omega))

/-- Bytes written where they stand change none. -/
theorem byteAt_writeAt_self (k a n : Nat) (f : Nat → Bool) (q b : Nat) :
    byteAt (writeAt s k a (bytesAt s k a n) f) q b = byteAt s q b := by
  have hlen : (bytesAt s k a n).length = n := by simp [bytesAt, tgetMany]
  by_cases hin : akey k a ≤ akey q b ∧ akey q b < akey k a + n
  · obtain ⟨i, hi⟩ := Nat.exists_eq_add_of_le hin.1
    have hread : ∀ w, byteAt w q b = byteAt w k (a + i) := fun w => by
      rw [byteAt, hi, byteAt, akey, akey, Nat.add_assoc]
    rw [hread, hread, byteAt_writeAt_in (by omega)]
    simp [bytesAt_eq_map]
  · exact bytesOutside_writeAt s k a _ f q b (fun x hx => by
      rw [List.mem_singleton.mp hx]
      simpa [wr, hlen] using hin)

/-- Bytes written with soil, where there are KV regions, or where they stand. -/
theorem soiled_writeAt {k a : Nat} {bs : List Byte} (h : s.tm.regions = [] → ∃ n, bs = bytesAt s k a n) :
    Soiled s (writeAt s k a bs allSoil) where
  frame := (writeAt_only s k a bs allSoil).sub
  bytes hr q b := by
    obtain ⟨n, rfl⟩ := h hr
    exact byteAt_writeAt_self k a n allSoil q b
  units _ hv := soil_writeAt_of_soil hv
  stains o _ hb := (rreg_congr (writeAt_only s k a bs allSoil .regs (by decide)) o).symm ▸ hb
  slots c b _ := (writeAt_only s k a bs allSoil).arrOf c b ▸ .refl _

theorem soiled_soilNode (s : State) (r : Region) (a : Nat) : Soiled s (soilNode s r a) := soiled_writeAt (fun _ => ⟨_, rfl⟩)

theorem soiled_soilAboveSpan (s : State) (r : Region) (l h i : Nat) : Soiled s (soilAboveSpan s r l h i) := by
  unfold soilAboveSpan
  exact .ite (.refl s) (soiled_soilNode _ _ _)

theorem soiled_leafSoil (s : State) (r : Region) (l h j : Nat) : Soiled s (leafSoil s r l h j) := by
  unfold leafSoil
  exact .ite (soiled_setStain _ _ _) (((soiled_setStain _ _ _).trans (soiled_soilNode _ _ _)).trans (soiled_soilAboveSpan _ _ _ _ _))

theorem soiled_treeSoil (s : State) (p va n : Nat) : Soiled s (treeSoil s p va n) := by
  unfold treeSoil
  exact .foldl (fun _ _ => .ite (.foldl (fun _ _ => .ite (soiled_leafSoil _ _ _ _ _) (.refl _)) _ _)
    (.ite (.foldl (fun _ _ => .ite (.ite ((soiled_setStain _ _ _).trans (soiled_soilAboveSpan _ _ _ _ _)) (soiled_setStain _ _ _))
      (.refl _)) _ _) (.refl _))) _ _

/-- Without a KV region an address shows its byte alone. -/
theorem aliasOf_eq_none (h : s.tm.regions = []) (p va : Nat) : aliasOf s p va = none := by rw [aliasOf, h, List.findSome?_nil]

theorem spotsOf_eq_self (h : s.tm.regions = []) (p va : Nat) : spotsOf s p va = [va] := by rw [spotsOf, aliasOf_eq_none h]

theorem soiled_layTile (s : State) (p a n : Nat) : Soiled s (layTile s p a (bytesAt s p a n) allSoil) := by
  have hspots : Soiled s ((spotsOf s p a).foldl (fun t x => writeAt t p x (bytesAt s p a n) allSoil) s) := by
    by_cases hr : s.tm.regions = []
    · rw [spotsOf_eq_self hr]
      exact soiled_writeAt (fun _ => ⟨n, rfl⟩)
    · exact List.foldlRecOn (motive := Soiled s) _ _ (.refl s) (fun t ht x _ => ht.trans
        (soiled_writeAt (fun h => absurd (ht.regions.symm.trans h) hr)))
  unfold layTile
  dsimp only
  split
  · exact hspots
  · exact hspots.trans (.of_only (modStore_only _ _ _ _))

theorem soiled_soilUnit (s : State) (p a : Nat) : Soiled s (soilUnit s p a) :=
  (soiled_layTile s p a 64).trans (.foldl (fun _ _ => soiled_treeSoil _ _ _ _) _ _)

theorem soiled_poolUnit (s : State) (d v : Nat) : Soiled s (poolUnit s d v) := by
  unfold poolUnit
  dsimp only
  refine .ite ?_ ?_
  · split
    · exact soiled_soilUnit _ _ _
    · exact .refl s
  · split
    · exact soiled_soilUnit _ _ _
    · exact .refl s

/-! ### Functions and slots -/

theorem fnBadSet_only (s : State) (x : Tab Bool) : OnlyParts [.programs] s { s with fnBad := x } := fun p hp => by
  cases p <;> simp_all [Part.same]

theorem loseTable_only (s : State) (c f : Nat) : OnlyParts [.programs] s (loseTable s c f) := by
  refine .ite (fnBadSet_only _ _) (.foldl (fun t p => ?_) _ _)
  split
  · exact setProg_only _ _ _ _
  · exact .refl _ _

theorem Col.acc_setAcc (q : Col) (i k : Nat) (v : Acc) : (q.setAcc i v).acc k = if k = i then v else q.acc k :=
  tget_tset (d := fun _ => acc0) (t := q.slots) (v := v)

/-- A slot column with slot i soiled. -/
def Col.soilSlot (q : Col) (i : Nat) : Col := q.setAcc i { q.acc i with soil := true }

theorem Col.soil_soilSlot (q : Col) (i k : Nat) (h : k = i ∨ (q.acc k).soil = true) : ((q.soilSlot i).acc k).soil = true := by
  rw [Col.soilSlot, Col.acc_setAcc]
  split
  · rfl
  · next hk => exact h.resolve_left hk

theorem keepsSlotSoil_soilSlot {i k : Nat} {q : Col} (hq : x.col i = some q) : KeepsSlotSoil x (x.setCol i (some (q.soilSlot k))) := by
  intro m r hr
  rw [Arr.col_setCol]
  by_cases hm : m = i
  · subst hm
    obtain rfl : q = r := Option.some.inj (hq.symm.trans hr)
    exact ⟨_, if_pos rfl, fun w hw => q.soil_soilSlot k w (.inr hw)⟩
  · exact ⟨r, (if_neg hm).trans hr, fun _ hw => hw⟩

theorem soiled_setArr {c a : Nat} (ha : a < 4) (h : KeepsSlotSoil (arrOf s c a) x) : Soiled s (setArr s c a x) where
  frame := (setArr_only s c a x).sub
  bytes := fun _ => byteAt_of_mem (setArr_only s c a x .mem (by decide))
  units _ hv := (setArr_only s c a x .soil (by decide)).symm ▸ hv
  stains o _ hb := (rreg_congr (setArr_only s c a x .regs (by decide)) o).symm ▸ hb
  slots d b hb := by
    by_cases hsame : d = c ∧ b = a
    · obtain ⟨rfl, rfl⟩ := hsame
      rwa [arrOf_setArr_same]
    · rw [arrOf_setArr_ne ha hb (by omega)]
      exact .refl _

end

/-! ## O55: the SRAM scrub -/

section
variable {s t : State}

/-- Unit u.2 of the buffer of core u.1 is uncorrectable. -/
def scrubUnit (t : State) (u : Fin 64 × Nat) : State :=
  writeAt t (bufPlace u.1.val) (64 * u.2) (bytesAt t (bufPlace u.1.val) (64 * u.2) 64) allSoil

/-- A slot of an array is uncorrectable: its soil, where its column is open, and its core's Stain bit. -/
def scrubSlot (t : State) (x : Fin 64 × Fin 4 × Nat × Nat) : State :=
  setStain (match (arrOf t x.1.val x.2.1.val).col x.2.2.1 with
    | some q => setArr t x.1.val x.2.1.val ((arrOf t x.1.val x.2.1.val).setCol x.2.2.1 (some (q.soilSlot x.2.2.2)))
    | none => t) (rMxStain x.1.val) 4

/-- A table of a core is in error: uncorrectable where the last field says so. -/
def scrubTable (t : State) (x : Fin 64 × Fin 256 × Bool) : State :=
  if x.2.2 then loseTable (setStain t (rFnStain x.1.val) 4) x.1.val x.2.1.val else setStain t (rFnStain x.1.val) 3

theorem soiled_scrubUnit (t : State) (u : Fin 64 × Nat) : Soiled t (scrubUnit t u) := soiled_writeAt (fun _ => ⟨64, rfl⟩)

theorem soiled_scrubSlot (t : State) (x : Fin 64 × Fin 4 × Nat × Nat) : Soiled t (scrubSlot t x) := by
  refine .trans ?_ (soiled_setStain _ _ _)
  split
  · next q hq => exact soiled_setArr x.2.1.isLt (keepsSlotSoil_soilSlot hq)
  · exact .refl t

theorem soiled_scrubTable (t : State) (x : Fin 64 × Fin 256 × Bool) : Soiled t (scrubTable t x) :=
  .ite ((soiled_setStain _ _ _).trans (.of_only (loseTable_only _ _ _))) (soiled_setStain _ _ _)

theorem unitSoil_scrubUnit (t : State) (u : Fin 64 × Nat) : unitSoil (scrubUnit t u) (bufPlace u.1.val) (64 * u.2) = true :=
  unitSoil_writeAt (by simp [bytesAt, tgetMany])

theorem stain_scrubTable (t : State) (x : Fin 64 × Fin 256 × Bool) :
    bitOf (rreg (scrubTable t x) (rFnStain x.1.val)).toNat (if x.2.2 then 4 else 3) = true := by
  rw [scrubTable]
  cases x.2.2
  · exact bitOf_setStain t _ 3 (by decide)
  · exact (Soiled.of_only (loseTable_only _ _ _)).stains _ _ (bitOf_setStain t _ 4 (by decide))

/-- The slot that x names is soiled, and its core says so; `y` is what its array was. -/
def SlotScrubbed (y : Arr) (x : Fin 64 × Fin 4 × Nat × Nat) (t : State) : Prop :=
  bitOf (rreg t (rMxStain x.1.val)).toNat 4 = true ∧
    ∀ q, y.col x.2.2.1 = some q → ∃ r, (arrOf t x.1.val x.2.1.val).col x.2.2.1 = some r ∧ (r.acc x.2.2.2).soil = true

theorem SlotScrubbed.soiled {y : Arr} {x : Fin 64 × Fin 4 × Nat × Nat} {u : State} (h : Soiled t u) (ht : SlotScrubbed y x t) :
    SlotScrubbed y x u := by
  refine ⟨h.stains _ _ ht.1, fun q hq => ?_⟩
  obtain ⟨r, hr, hsoil⟩ := ht.2 q hq
  obtain ⟨w, hw, hkeep⟩ := h.slots _ _ x.2.1.isLt _ r hr
  exact ⟨w, hw, hkeep _ hsoil⟩

theorem slotScrubbed_scrubSlot (h : Soiled s t) (x : Fin 64 × Fin 4 × Nat × Nat) :
    SlotScrubbed (arrOf s x.1.val x.2.1.val) x (scrubSlot t x) := by
  refine ⟨bitOf_setStain _ _ 4 (by decide), fun q hq => ?_⟩
  obtain ⟨r, hr, _⟩ := h.slots _ _ x.2.1.isLt _ q hq
  refine ⟨r.soilSlot x.2.2.2, ?_, r.soil_soilSlot _ _ (.inl rfl)⟩
  rw [scrubSlot, (setStain_only _ _ _).arrOf, hr]
  dsimp only
  rw [arrOf_setArr_same, Arr.col_setCol, if_pos rfl]

/-- The units, slots, cores, pool units and tables that a scrub meets, one after another. -/
def scrubErrors (d : Nat) (us : List (Fin 64 × Nat)) (ss : List (Fin 64 × Fin 4 × Nat × Nat)) (cs : List (Fin 64)) (ps : List Nat)
    (fs : List (Fin 64 × Fin 256 × Bool)) (s : State) : State :=
  fs.foldl scrubTable (ps.foldl (fun t u => poolUnit t d u) (cs.foldl (fun t c => setStain t (rMxStain c.val) 3)
    (ss.foldl scrubSlot (us.foldl scrubUnit s))))

/-- What a scrub notes of its errors: the die's Stain bits and counters, of `ce` corrected sectors and `ue` other errors. -/
def scrubNotes (d ce ue : Nat) (s : State) : State :=
  count (count (stainIf (ue != 0) (stainIf (ce != 0) s (rScStain d) 0) (rScStain d) 1) (1024 + 16 * d + 13) ce) (1024 + 16 * d + 14) ue

theorem exec_sramScrub {d : Fin 8} {ce : Nat} {cores : List (Fin 64)} {units : List (Fin 64 × Nat)} {x : ScrubErrors} (h : ready s = true) :
    ∃ ue, exec (.sramScrub d ce cores units x) s = .next (scrubNotes d.val ce ue (scrubErrors d.val
      (units.filter (fun u => u.1.val / 8 == d.val && decide (64 * u.2 < bufBytes)))
      (x.slots.filter (fun x => x.1.val / 8 == d.val && decide (x.2.2.1 < 2048) && decide (x.2.2.2 < 256)))
      (cores.filter (fun c => c.val / 8 == d.val)) (x.pool.filter (fun u => decide (64 * u < 2 ^ 30)))
      (x.tables.filter (fun x => x.1.val / 8 == d.val)) s)) :=
  ⟨_, runIf_of_true h⟩

theorem soiled_scrubNotes (d ce ue : Nat) (s : State) : Soiled s (scrubNotes d ce ue s) :=
  (((soiled_stainIf _ _ _ _).trans (soiled_stainIf _ _ _ _)).trans (.of_only (count_only _ _ _))).trans (.of_only (count_only _ _ _))

theorem stain_scrubNotes {ce : Nat} (h : ce ≠ 0) (d ue : Nat) (s : State) : bitOf (rreg (scrubNotes d ce ue s) (rScStain d)).toNat 0 = true := by
  have hlate : Soiled (stainIf (ce != 0) s (rScStain d) 0) (scrubNotes d ce ue s) :=
    ((soiled_stainIf _ _ _ _).trans (.of_only (count_only _ _ _))).trans (.of_only (count_only _ _ _))
  refine hlate.stains _ _ ?_
  rw [stainIf, if_pos (by simpa using h)]
  exact bitOf_setStain s _ 0 (by decide)

section
variable (d : Nat) (us : List (Fin 64 × Nat)) (ss : List (Fin 64 × Fin 4 × Nat × Nat)) (cs : List (Fin 64)) (ps : List Nat)
  (fs : List (Fin 64 × Fin 256 × Bool))

theorem soiled_scrubUnits (s : State) : Soiled s (us.foldl scrubUnit s) := .foldl soiled_scrubUnit _ _

theorem soiled_scrubSlots (s : State) : Soiled s (ss.foldl scrubSlot s) := .foldl soiled_scrubSlot _ _

theorem soiled_scrubTables (s : State) : Soiled s (fs.foldl scrubTable s) := .foldl soiled_scrubTable _ _

/-- What a scrub meets after the slots. -/
theorem soiled_scrubErrors_slots (s : State) : Soiled (ss.foldl scrubSlot (us.foldl scrubUnit s)) (scrubErrors d us ss cs ps fs s) :=
  ((Soiled.foldl (fun _ _ => soiled_setStain _ _ _) _ _).trans (.foldl (fun t u => soiled_poolUnit t d u) _ _)).trans (soiled_scrubTables _ _)

theorem soiled_scrubErrors (s : State) : Soiled s (scrubErrors d us ss cs ps fs s) :=
  ((soiled_scrubUnits us s).trans (soiled_scrubSlots ss _)).trans (soiled_scrubErrors_slots d us ss cs ps fs s)

theorem unitSoil_scrubErrors (s : State) {u : Fin 64 × Nat} (hu : u ∈ us) :
    unitSoil (scrubErrors d us ss cs ps fs s) (bufPlace u.1.val) (64 * u.2) = true :=
  ((soiled_scrubSlots ss _).trans (soiled_scrubErrors_slots d us ss cs ps fs s)).unitSoil
    (Soiled.foldl_mem (P := fun t => unitSoil t (bufPlace u.1.val) (64 * u.2) = true) soiled_scrubUnit (fun h => h.unitSoil) hu
      (fun t _ => unitSoil_scrubUnit t u))

theorem slotScrubbed_scrubErrors (s : State) {x : Fin 64 × Fin 4 × Nat × Nat} (hx : x ∈ ss) :
    SlotScrubbed (arrOf s x.1.val x.2.1.val) x (scrubErrors d us ss cs ps fs s) :=
  .soiled (soiled_scrubErrors_slots d us ss cs ps fs s) (Soiled.foldl_mem (P := SlotScrubbed (arrOf s x.1.val x.2.1.val) x) soiled_scrubSlot
    SlotScrubbed.soiled hx (fun _ ht => slotScrubbed_scrubSlot ((soiled_scrubUnits us s).trans ht) x))

theorem stain_scrubErrors (s : State) {x : Fin 64 × Fin 256 × Bool} (hx : x ∈ fs) :
    bitOf (rreg (scrubErrors d us ss cs ps fs s) (rFnStain x.1.val)).toNat (if x.2.2 then 4 else 3) = true :=
  Soiled.foldl_mem (P := fun t => bitOf (rreg t (rFnStain x.1.val)).toNat (if x.2.2 then 4 else 3) = true) soiled_scrubTable
    (fun h => h.stains _ _) hx (fun t _ => stain_scrubTable t x)

end

/-- SRAM_SCRUB soils what it meets on its die, and without a KV region changes no byte (08 R280, 03 R105). -/
theorem sramScrub_spec (d : Fin 8) (ce : Nat) (cores : List (Fin 64)) (units : List (Fin 64 × Nat)) (slots : List (Fin 64 × Fin 4 × Nat × Nat))
    (pool : List Nat) (tables : List (Fin 64 × Fin 256 × Bool)) (hr : ready s = true) :
    ∃ t, exec (.sramScrub d ce cores units ⟨slots, pool, tables⟩) s = .next t ∧
      (s.tm.regions = [] → ∀ k a, byteAt t k a = byteAt s k a) ∧
      (∀ x ∈ tables, x.1.val / 8 = d.val → bitOf (rreg t (rFnStain x.1.val)).toNat (if x.2.2 then 4 else 3) = true) ∧
      (∀ u ∈ units, u.1.val / 8 = d.val → 64 * u.2 < bufBytes → unitSoil t (bufPlace u.1.val) (64 * u.2) = true) ∧
      (∀ x ∈ slots, x.1.val / 8 = d.val → x.2.2.1 < 2048 → x.2.2.2 < 256 → bitOf (rreg t (rMxStain x.1.val)).toNat 4 = true ∧
        ∀ q, (arrOf s x.1.val x.2.1.val).col x.2.2.1 = some q →
          ∃ r, (arrOf t x.1.val x.2.1.val).col x.2.2.1 = some r ∧ (r.acc x.2.2.2).soil = true) ∧
      (ce ≠ 0 → bitOf (rreg t (rScStain d.val)).toNat 0 = true) ∧ OnlyParts (tierParts.append [.arrays, .programs]) s t := by
  obtain ⟨ue, hx⟩ := exec_sramScrub (d := d) (ce := ce) (cores := cores) (units := units) (x := ⟨slots, pool, tables⟩) hr
  have hnotes := soiled_scrubNotes d.val ce ue
  have hsoiled := fun us ss cs ps fs => (soiled_scrubErrors d.val us ss cs ps fs s).trans (hnotes _)
  refine ⟨_, hx, (hsoiled _ _ _ _ _).bytes, fun x hx hd => ?_, fun u hu hd hb => ?_, fun x hx hd hcol hslot => ?_, fun hce => stain_scrubNotes hce _ _ _,
    (hsoiled _ _ _ _ _).frame.sub⟩
  · exact (hnotes _).stains _ _ (stain_scrubErrors _ _ _ _ _ _ s (List.mem_filter.mpr ⟨hx, by simpa using hd⟩))
  · exact (hnotes _).unitSoil (unitSoil_scrubErrors _ _ _ _ _ _ s (List.mem_filter.mpr ⟨hu, by simp [hd, hb]⟩))
  · exact (slotScrubbed_scrubErrors _ _ _ _ _ _ s (List.mem_filter.mpr ⟨hx, by simp [hd, hcol, hslot]⟩)).soiled (hnotes _)

end

/-- Settles O55: HOLD, PRODUCT and its products, DRAIN, NEEDLE, DRY_SPIN with its ramp, and the SRAM scrub, each by its own lemma. -/
theorem arraysHoldAndMultiply : Obligations.ArraysHoldAndMultiply := by
  unfold Obligations.ArraysHoldAndMultiply
  exact ⟨fun n c s j h he hc hw => hold_spec h he hc hw, fun n c s u j h hc hu ha => product_spec h hc hu ha,
    fun c a s p ps hq hs hp hd hc hf => productIssue_spec hq hs hp hd hc hf, fun c a s p ps hf => productLanding_spec hf,
    fun n c s j h hf hw he hc ha => drain_spec h hf hw he hc ha, fun n s j out h he ho hr ha => needle_spec h he ho hr ha,
    fun n c s j h he hc hq => drySpin_spec h he hc hq, fun c a s x hx hon hf => dryspinRampStep_spec hx hon hf,
    fun d ce cores units slots pool tables s hr => sramScrub_spec d ce cores units slots pool tables hr⟩

end Sys2Proof.Machine

namespace Sys2Proof.Machine

-- As above: proofs are elaborated one after another.
set_option Elab.async false

/-! ## O54: the lengths of a row's results -/

section
variable {s : State}

theorem elemSize_pos (code : Nat) : 0 < elemSize code := by
  unfold elemSize
  split
  · omega
  · split <;> omega

theorem length_bytesAt (s : State) (k a m : Nat) : (bytesAt s k a m).length = m := by simp [bytesAt_eq_map]

theorem length_elemsAt (s : State) (k a m code : Nat) : (elemsAt s k a m code).length = m := by
  simp [elemsAt, elemsOf, length_bytesAt, Nat.mul_div_cancel _ (elemSize_pos code)]

theorem length_fnOut (code fmt : Nat) (m : Rnd) (v : Val) : (fnOut code fmt m v).1.length = elemSize fmt := by
  unfold fnOut
  split <;> exact length_encodeElem _ _ _

theorem length_softmaxRow (r : RowOp) (xs : List Val) (soil : List Bool) :
    (softmaxRow r xs soil).out.length = xs.length * elemSize r.fo ∧ (softmaxRow r xs soil).aux.length = 4 := by
  unfold softmaxRow
  dsimp only
  split
  · simp [length_encodeAll, length_leBytes]
  · split <;> simp [length_encodeAll, length_leBytes, Function.comp_def]

theorem length_normRow (r : RowOp) (xs : List Val) (soil : List Bool) (g b : List Val) (gs : List Bool)
    (hg : g.length = xs.length) (hb : b.length = xs.length) : (normRow r xs soil g b gs).out.length = xs.length * elemSize r.fo := by
  simp [normRow, length_encodeAll, hg, hb]

/-- A row of every operation but STATS gives its n elements in the output format. -/
theorem length_rowOut_out {r : RowOp} (h : r.op ≠ 0x0402) (s : State) (p c i : Nat) :
    (rowOut s p c r i).out.length = r.n * elemSize r.fo := by
  unfold rowOut
  dsimp only
  split
  · simp [List.length_flatten, Function.comp_def, length_fnOut, length_elemsAt]
  · split
    · simp [length_encodeAll, length_elemsAt]
    · split
      · refine (length_normRow _ _ _ _ _ _ ?_ ?_).trans (by rw [length_elemsAt])
        · split <;> simp [length_elemsAt]
        · split <;> simp [length_elemsAt]
      · rw [(length_softmaxRow _ _ _).1, length_elemsAt]

/-- STATS writes to its auxiliary output alone. -/
theorem rowOut_stats_out {r : RowOp} (h : r.op = 0x0402) (s : State) (p c i : Nat) : (rowOut s p c r i).out = [] := by
  simp [rowOut, h]

/-- What a row gives for an auxiliary output: STATS its three values, SOFTMAX its one. -/
theorem length_rowOut_aux {r : RowOp} (h : (r.usesAux && r.op != 0x0403) = true) (s : State) (p c i : Nat) :
    (rowOut s p c r i).aux.length = if r.op = 0x0402 then 12 else 4 := by
  obtain hop | hop : r.op = 0x0402 ∨ r.op = 0x0404 := by
    simp only [RowOp.usesAux, Bool.and_eq_true, Bool.or_eq_true, beq_iff_eq, bne_iff_ne] at h
    omega
  · simp [rowOut, hop, length_encodeAll, elemSize]
  · simp [rowOut, hop, length_softmaxRow]

/-- A row's output fits in the stride of a row operation without offending field. -/
theorem rowErr_stride {j : Job} {r : RowOp} (h : rowErr s j r = none) (hop : r.op ≠ 0x0402) : r.n * elemSize r.fo ≤ r.ds := by
  obtain ⟨-, hlate⟩ := (Option.orElse_eq_none _ _).mp h
  have hds := fields_eq_none.mp hlate (bad (r.op != 0x0402 && decide (r.ds < r.n * elemSize r.fo)) 52) (by simp [bne])
  simpa [hop] using bad_eq_none.mp hds

end

/-! ## O54: the rows of an operation, written -/

section
variable {s t : State} {k : Nat} {r : RowOp} {outs : Nat → RowOut}

/-- The address of an auxiliary output's row i. -/
def RowOp.auxAt (r : RowOp) (i : Nat) : Nat := r.aux + i * (if r.op = 0x0402 then 12 else 4)

/-- Row i's results, written to the buffer at place k. -/
def rowWritten (k : Nat) (r : RowOp) (o : RowOut) (t : State) (i : Nat) : State :=
  let t1 := writeAt t k (r.dst + i * r.ds) o.out (byteSoil (elemSize r.fo) o.soil)
  if r.usesAux && r.op != 0x0403 then writeAt t1 k (r.auxAt i) o.aux (if o.soil.any (fun q => q) then allSoil else noSoil) else t1

/-- Every row's results, written in order. -/
def rowsWritten (s : State) (k : Nat) (r : RowOp) (outs : Nat → RowOut) : State :=
  (List.range r.rows).foldl (fun t i => rowWritten k r (outs i) t i) s

/-- The rows as the model numbers them. -/
theorem foldl_zipIdx_rowWritten (s : State) (k : Nat) (r : RowOp) (outs : Nat → RowOut) :
    ((List.range r.rows).map outs).zipIdx.foldl (fun t e => rowWritten k r e.1 t e.2) s = rowsWritten s k r outs := by
  have hnum : ((List.range r.rows).map outs).zipIdx = (List.range r.rows).map (fun i => (outs i, i)) :=
    List.ext_getElem (by simp) (fun i _ _ => by simp)
  rw [hnum, List.foldl_map, rowsWritten]

theorem rowWritten_only (k : Nat) (r : RowOp) (o : RowOut) (t : State) (i : Nat) : OnlyParts byteParts t (rowWritten k r o t i) :=
  .ite (.after (writeAt_only _ _ _ _ _) (writeAt_only _ _ _ _ _)) (writeAt_only _ _ _ _ _)

theorem rowsWritten_only (s : State) (k : Nat) (r : RowOp) (outs : Nat → RowOut) : OnlyParts byteParts s (rowsWritten s k r outs) :=
  .foldl (fun t i => rowWritten_only k r (outs i) t i) _ _

/-- A write within a span that is listed reaches no byte outside the list. -/
theorem bytesOutside_writeAt_within {xs : List Span} {a b m : Nat} {bs : List Byte} (f : Nat → Bool) (hx : wr k b m ∈ xs) (ha : b ≤ a)
    (hlen : a + bs.length ≤ b + m) : BytesOutside xs t (writeAt t k a bs f) := fun q e hout =>
  bytesOutside_writeAt t k a bs f q e (fun x hmem => by
    obtain rfl := List.mem_singleton.mp hmem
    have hspan := hout _ hx
    simp only [wr, akey] at hspan ⊢
    omega)

theorem writeAt_nil (s : State) (k a : Nat) (f : Nat → Bool) : writeAt s k a [] f = s := rfl

/-- The spans that a row operation's fields name as written, in the buffer at place k. -/
def RowOp.writes (r : RowOp) (k : Nat) : List Span := r.spans.2.map (fun e => wr k e.2.1 e.2.2)

theorem RowOp.dst_mem_writes (h : r.op ≠ 0x0402) : wr k r.dst ((r.rows - 1) * r.ds + r.n * elemSize r.fo) ∈ r.writes k := by
  simp [RowOp.writes, RowOp.spans, h]

theorem RowOp.aux_mem_writes (h : (r.usesAux && r.op != 0x0403) = true) :
    wr k r.aux (r.rows * (if r.op = 0x0402 then 12 else 4)) ∈ r.writes k := by
  simp [RowOp.writes, RowOp.spans, h]

/-- Row i's results have the lengths of a row of r. -/
structure RowOut.Fits (r : RowOp) (o : RowOut) : Prop where
  stats : r.op = 0x0402 → o.out = []
  out : r.op ≠ 0x0402 → o.out.length = r.n * elemSize r.fo
  aux : (r.usesAux && r.op != 0x0403) = true → o.aux.length = if r.op = 0x0402 then 12 else 4

/-- A row of an operation stays within the operation's spans. -/
theorem bytesOutside_rowWritten {o : RowOut} (h : o.Fits r) {i : Nat} (hi : i < r.rows) :
    BytesOutside (r.writes k) t (rowWritten k r o t i) := by
  have hout : BytesOutside (r.writes k) t (writeAt t k (r.dst + i * r.ds) o.out (byteSoil (elemSize r.fo) o.soil)) := by
    by_cases hop : r.op = 0x0402
    · rw [h.stats hop, writeAt_nil]
      exact fun _ _ _ => rfl
    · have hrow : i * r.ds ≤ (r.rows - 1) * r.ds := Nat.mul_le_mul_right _ (by omega)
      exact bytesOutside_writeAt_within _ (RowOp.dst_mem_writes hop) (by omega) (by rw [h.out hop]; omega)
  unfold rowWritten
  dsimp only
  split
  next haux =>
    refine hout.trans (bytesOutside_writeAt_within _ (RowOp.aux_mem_writes haux) (Nat.le_add_right _ _) ?_)
    have hrow := Nat.mul_le_mul_right (if r.op = 0x0402 then 12 else 4) (show i + 1 ≤ r.rows from hi)
    rw [h.aux haux, RowOp.auxAt]
    rw [Nat.add_mul] at hrow
    omega
  next => exact hout

theorem bytesOutside_rowsWritten (h : ∀ i, (outs i).Fits r) : BytesOutside (r.writes k) s (rowsWritten s k r outs) :=
  List.foldlRecOn (motive := BytesOutside (r.writes k) s) _ _ (fun _ _ _ => rfl)
    (fun _ ht i hi => ht.trans (bytesOutside_rowWritten (h i) (List.mem_range.mp hi)))

theorem RowOp.usesAux_of_stats (h : r.op = 0x0402) : r.usesAux = true := by simp [RowOp.usesAux, h]

theorem RowOp.ne_stats_of_noAux (haux : r.usesAux = false ∨ r.op = 0x0403) : r.op ≠ 0x0402 := fun hop => by
  rcases haux with haux | haux
  · simp [RowOp.usesAux_of_stats hop] at haux
  · omega

/-- Without auxiliary output, each row's result stands at its stride. -/
theorem bytesAt_rowsWritten_out (h : ∀ i, (outs i).Fits r) (haux : r.usesAux = false ∨ r.op = 0x0403)
    (hds : r.n * elemSize r.fo ≤ r.ds) {i : Nat} (hi : i < r.rows) :
    bytesAt (rowsWritten s k r outs) k (r.dst + i * r.ds) (r.n * elemSize r.fo) = (outs i).out := by
  have hskip : (r.usesAux && r.op != 0x0403) = false := by rcases haux with haux | haux <;> simp [haux]
  simp only [rowsWritten, rowWritten, hskip, Bool.false_eq_true, if_false]
  exact bytesAt_foldl_writeAt (fun i => (h i).out (RowOp.ne_stats_of_noAux haux)) hds hi

/-- The three values of each row of STATS stand one after another. -/
theorem bytesAt_rowsWritten_stats (h : ∀ i, (outs i).Fits r) (hop : r.op = 0x0402) {i : Nat} (hi : i < r.rows) :
    bytesAt (rowsWritten s k r outs) k (r.aux + 12 * i) 12 = (outs i).aux := by
  have haux : (r.usesAux && r.op != 0x0403) = true := by simp [RowOp.usesAux_of_stats hop, hop]
  have hlen : ∀ i, (outs i).aux.length = 12 := fun i => by rw [(h i).aux haux, if_pos hop]
  simp only [rowsWritten, rowWritten, (h _).stats hop, writeAt_nil, haux, if_true, RowOp.auxAt, if_pos hop]
  rw [Nat.mul_comm 12 i]
  exact bytesAt_foldl_writeAt hlen le_rfl hi

end

/-! ## O54: row operations -/

section
variable {s : State} {n k op : Nat} {j : Job} {c : Instr}

theorem fits_rowOut (s : State) (p c : Nat) (r : RowOp) (i : Nat) : (rowOut s p c r i).Fits r :=
  ⟨fun h => rowOut_stats_out h s p c i, fun h => length_rowOut_out h s p c i, fun h => length_rowOut_aux h s p c i⟩

/-- The soil that a row's results take where what its function reads is in error (04 R130). -/
def RowOut.lost (lost : Bool) (o : RowOut) : RowOut := if lost then { o with soil := o.soil.map (fun _ => true) } else o

theorem RowOut.lost_out (b : Bool) (o : RowOut) : (o.lost b).out = o.out := by cases b <;> rfl

theorem RowOut.lost_aux (b : Bool) (o : RowOut) : (o.lost b).aux = o.aux := by cases b <;> rfl

/-- Row i's results on core c, with what is lost soiled. -/
def rowResult (s : State) (p c : Nat) (r : RowOp) (i : Nat) : RowOut := (rowOut s p c r i).lost (fnLost s p c r.fn)

theorem fits_rowResult (s : State) (p c : Nat) (r : RowOp) (i : Nat) : (rowResult s p c r i).Fits r := by
  obtain ⟨hstats, hout, haux⟩ := fits_rowOut s p c r i
  refine ⟨?_, ?_, ?_⟩ <;> simpa only [rowResult, RowOut.lost_out, RowOut.lost_aux]

/-- A row operation writes its rows, notes what they met, and ends. -/
theorem runRows_eq (s : State) (j : Job) (r : RowOp) (hk : k = (coreAt s (part s j) (j.fld 43 1)).getD 0) :
    ∃ u steps moved dirty bits, OnlyParts [.regs, .log, .counts] (rowsWritten s (bufPlace k) r (rowResult s (part s j) k r)) u ∧
      runRows s j r = finish (ranOn u j.id k steps moved) j.id (doneOf dirty bits) := by
  subst hk
  rw [← foldl_zipIdx_rowWritten, show rowResult s _ _ r = RowOut.lost _ ∘ rowOut s _ _ r from rfl, ← List.map_map]
  exact ⟨_, _, _, _, _, .after (coreCount_only _ _ _ _) (.after (stainIf_only _ _ _ _) (.after (stainIf_only _ _ _ _)
    (stainIf_only _ _ _ _).sub)), rfl⟩

/-- Command c acts on descriptor n as the row operation with the opcode. -/
def IsRowOperation (c : Instr) (n op : Nat) : Prop :=
  (c = .apply n ∧ op = 0x0400) ∨ (c = .gate n ∧ op = 0x0401) ∨ (c = .stats n ∧ op = 0x0402) ∨ (c = .norm n ∧ op = 0x0403) ∨
    (c = .softmax n ∧ op = 0x0404)

theorem exec_rowOperation (hc : IsRowOperation c n op) (h : opJob s n op = some j) (he : rowErr s j (rowOp j) = none) :
    exec c s = .next (runRows s j (rowOp j)) := by
  have hrun : exec c s = .next (rowExec s j) := by
    rcases hc with ⟨rfl, rfl⟩ | ⟨rfl, rfl⟩ | ⟨rfl, rfl⟩ | ⟨rfl, rfl⟩ | ⟨rfl, rfl⟩ <;> exact runOp_ready h
  rw [hrun, rowExec, he]

/-- A row operation writes its rows' results within its spans and ends (04 R109, R115 to R118, R127). -/
theorem rowOperation_spec (hc : IsRowOperation c n op) (h : opJob s n op = some j) (he : rowErr s j (rowOp j) = none)
    (hk : k = (coreAt s (part s j) (j.fld 43 1)).getD 0) :
    ∃ t, exec c s = .next t ∧ Completes t n ∧ OtherJobs n s t ∧
      ((rowOp j).usesAux = false ∨ op = 0x0403 → ∀ i < (rowOp j).rows,
        bytesAt t (bufPlace k) ((rowOp j).dst + i * (rowOp j).ds) ((rowOp j).n * elemSize (rowOp j).fo) =
          (rowOut s (part s j) k (rowOp j) i).out) ∧
      (op = 0x0402 → ∀ i < (rowOp j).rows, bytesAt t (bufPlace k) ((rowOp j).aux + 12 * i) 12 =
        (rowOut s (part s j) k (rowOp j) i).aux) ∧
      BytesOutside ((rowOp j).writes (bufPlace k)) s t ∧ OnlyParts [.regs, .counts, .jobs, .log, .mem, .soil, .nans] s t := by
  obtain ⟨hj, -, rfl⟩ := opJob_some.mp h
  obtain rfl : j.id = n := job?_id hj
  obtain ⟨u, steps, moved, dirty, bits, hnoted, hrun⟩ := runRows_eq s j (rowOp j) hk
  have hrows := rowsWritten_only s (bufPlace k) (rowOp j) (rowResult s (part s j) k (rowOp j))
  have hjobs := hnoted.jobs.trans hrows.jobs
  have hmem := ((ranOn_finish_only u j.id k steps moved (doneOf dirty bits)) .mem (by decide)).trans (hnoted .mem (by decide))
  have hfit := fits_rowResult s (part s j) k (rowOp j)
  have hframe := runRows_only s j (rowOp j)
  rw [hrun] at hframe
  refine ⟨_, (exec_rowOperation hc h he).trans (congrArg _ hrun), completes_ranOn hj hjobs _ _, otherJobs_ranOn hjobs _,
    fun haux i hi => ?_, fun hop i hi => ?_, fun q a hout => ?_, hframe⟩
  · rw [bytesAt_congr hmem, bytesAt_rowsWritten_out hfit haux (rowErr_stride he (RowOp.ne_stats_of_noAux haux)) hi, rowResult,
      RowOut.lost_out]
  · rw [bytesAt_congr hmem, bytesAt_rowsWritten_stats hfit hop hi, rowResult, RowOut.lost_aux]
  · rw [byteAt_of_mem hmem, bytesOutside_rowsWritten hfit q a hout]

end

end Sys2Proof.Machine

namespace Sys2Proof.Machine

-- As above: proofs are elaborated one after another.
set_option Elab.async false

/-! ## Program slots: a read after a write, and what leaves them -/

section
variable {s t : State} {ps : List Part} {p q k i : Nat}

@[simp] theorem progOf_setProg_same (s : State) (p k : Nat) (x : Option FnProg) : progOf (setProg s p k x) p k = x := tget_tset_same

theorem progOf_setProg_ne (hi : i < 32) (hk : k < 32) (h : q ≠ p ∨ i ≠ k) (x : Option FnProg) :
    progOf (setProg s p k x) q i = progOf s q i := tget_tset_ne (by omega)

/-- A frame without the programs keeps every slot. -/
theorem OnlyParts.progOf (h : OnlyParts ps s t) (p k : Nat) (hp : Part.programs ∉ ps := by decide) :
    Machine.progOf t p k = Machine.progOf s p k := by
  obtain ⟨hfn, -⟩ := h .programs hp
  rw [Machine.progOf, hfn, Machine.progOf]

theorem OnlyParts.progValid (h : OnlyParts ps s t) (p k : Nat) (hp : Part.programs ∉ ps := by decide) :
    Machine.progValid t p k = Machine.progValid s p k := by rw [Machine.progValid, h.progOf p k hp, Machine.progValid]

/-- A frame without the descriptors and their rings' partitions keeps those that have begun. -/
theorem OnlyParts.begunOf (h : OnlyParts ps s t) (p op : Nat) (f : Job → Bool) (hp : Part.jobs ∉ ps ∧ Part.link ∉ ps := by decide) :
    Machine.begunOf t p op f = Machine.begunOf s p op f := by
  simp only [Machine.begunOf, h.jobs hp.1, h.partOfRing _ hp.2]

end

/-! ## O54: programs are loaded and unloaded -/

section
variable {s u : State} {n p k : Nat} {j : Job}

/-- In t descriptor n is done, slot k of partition p holds x, and every other descriptor, byte and slot is what it is in s. -/
structure SlotStored (s t : State) (n p k : Nat) (x : Option FnProg) : Prop where
  decided : Decided t n stDone 0
  jobs : OtherJobs n s t
  bytes : ∀ q a, byteAt t q a = byteAt s q a
  slot : progOf t p k = x
  others : ∀ q i, i < 32 → (q ≠ p ∨ i ≠ k) → progOf t q i = progOf s q i

/-- A descriptor that stores a slot, after accesses at most, and is done. -/
theorem slotStored_finish (hj : job? s n = some j) (hu : OnlyParts accessParts s u) (hk : k < 32) (x : Option FnProg) :
    SlotStored s (finish (setProg u p k x) n (stDone, 0)) n p k x := by
  have hput : OnlyParts (accessParts ++ [.programs]) s (setProg u p k x) := .after (setProg_only u p k x) hu.sub
  have hend := finish_only (setProg u p k x) n (stDone, 0)
  refine ⟨decided_finish ((job?_congr hput.jobs n).trans hj) _, (OtherJobs.of_jobs hput.jobs).trans (otherJobs_finish _),
    byteAt_of_mem ((hend .mem (by decide)).trans (hput .mem (by decide))), ?_, fun q i hi hne => ?_⟩
  · rw [hend.progOf, progOf_setProg_same]
  · rw [hend.progOf, progOf_setProg_ne hi hk hne, hu.progOf]

/-- The slot that a load or an unload names. -/
theorem slotNumber_lt (j : Job) : j.bits 24 0 5 < 32 := bitsOf_lt _ _ 5

section
variable {code : Nat} {d : Option Nat} {x : FnProg} (h : opJob s n 0x0405 = some j) (he : loadProgramErr j = none)
  (hfirst : (begunOf s (part s j) 0x0405 (fun x => x.bits 24 0 5 == j.bits 24 0 5 && decide (x.order < j.order) &&
    (loadProgramErr x).isNone)).isEmpty = true)
  (ha : CanAccess s n (loadProgramSpans s j))
  (hl : loadCheck (bytesAt s (part s j) (j.va 16) (1088 + numAt s (part s j) (j.va 16 + 4) 2))
    (progValid s (part s j) (j.bits 24 0 5) || (unloadsOf s (part s j) (j.bits 24 0 5)).any (fun x => decide (x.order < j.order))) =
      (code, d, x))
include h he hfirst ha hl

/-- A load whose image can be read notes what the loader finds, and puts in its program or is refused. -/
theorem exec_loadProgram : ∃ u, OnlyParts accessParts s u ∧ exec (.loadProgram n) s = .next (if code = 0 then
    finish (setProg u (part s j) (j.bits 24 0 5) (some x)) n (stDone, 0) else finish u n (fieldErr 16)) := by
  obtain ⟨v, hv, hgo⟩ := withMemOr_of_canAccess ha
  have hunloads : unloadsOf v (part s j) (j.bits 24 0 5) = unloadsOf s (part s j) (j.bits 24 0 5) := hv.frame.begunOf _ _ _
  have hx : exec (.loadProgram n) s = _ := runOp_ready h
  rw [he] at hx
  dsimp only at hx
  rw [if_pos hfirst, hgo, bytesAt_congr (hv.frame .mem (by decide)), hv.frame.progValid, hunloads, hl] at hx
  exact ⟨_, .after (loadNote_only _ _ _ _ _) hv.frame, hx⟩

/-- LOAD_PROGRAM puts in the program of an image that the loader takes; a refused one ends BAD_DESCRIPTOR (04 R123, R125). -/
theorem loadProgram_spec : ∃ t, exec (.loadProgram n) s = .next t ∧ OtherJobs n s t ∧ (∀ k a, byteAt t k a = byteAt s k a) ∧
    (code = 0 → Decided t n stDone 0 ∧ progOf t (part s j) (j.bits 24 0 5) = some x ∧
      (∀ p k, k < 32 → (p ≠ part s j ∨ k ≠ j.bits 24 0 5) → progOf t p k = progOf s p k) ∧ OnlyParts (tierParts.append [.programs]) s t) ∧
    (code ≠ 0 → Decided t n stBad (0x09 + 256 * 16) ∧ OnlyParts tierParts s t) := by
  obtain ⟨hj, -⟩ := opJob_some.mp h
  obtain ⟨u, hu, hx⟩ := exec_loadProgram h he hfirst ha hl
  by_cases hcode : code = 0
  · rw [if_pos hcode] at hx
    obtain ⟨hdone, hjobs, hbytes, hslot, hothers⟩ := slotStored_finish (p := part s j) hj hu (slotNumber_lt j) (some x)
    exact ⟨_, hx, hjobs, hbytes, fun _ => ⟨hdone, hslot, hothers, .after (finish_only _ _ _) (.after (setProg_only _ _ _ _) hu.sub)⟩,
      fun hne => absurd hcode hne⟩
  · rw [if_neg hcode] at hx
    have hend := finish_only u n (fieldErr 16)
    exact ⟨_, hx, (OtherJobs.of_jobs hu.jobs).trans (otherJobs_finish _), byteAt_of_mem ((hend .mem (by decide)).trans
      (hu .mem (by decide))), fun h0 => absurd h0 hcode, fun _ => ⟨decided_finish ((job?_congr hu.jobs n).trans hj) _, .after hend hu.sub⟩⟩

end

theorem exec_unloadProgram (h : opJob s n 0x0406 = some j) (he : unloadProgramErr j = none) :
    exec (.unloadProgram n) s = .next (if unloadsNow s (part s j) (j.bits 24 0 5) j then
      finish (setProg s (part s j) (j.bits 24 0 5) none) n (stDone, 0) else keepRunning s n) := by
  have hx : exec (.unloadProgram n) s = _ := runOp_ready h
  rwa [he] at hx

/-- UNLOAD_PROGRAM empties its slot once nothing before it uses or loads the slot, and runs until then (04 R125). -/
theorem unloadProgram_spec (h : opJob s n 0x0406 = some j) (he : unloadProgramErr j = none) :
    (unloadsNow s (part s j) (j.bits 24 0 5) j = true →
      ∃ t, exec (.unloadProgram n) s = .next t ∧ Decided t n stDone 0 ∧ OtherJobs n s t ∧ progOf t (part s j) (j.bits 24 0 5) = none ∧
        (∀ p k, k < 32 → (p ≠ part s j ∨ k ≠ j.bits 24 0 5) → progOf t p k = progOf s p k) ∧ OnlyParts [.jobs, .programs] s t) ∧
    (unloadsNow s (part s j) (j.bits 24 0 5) j = false →
      ∃ t, exec (.unloadProgram n) s = .next t ∧ Runs t n ∧ OtherJobs n s t ∧ OnlyParts [.jobs] s t) := by
  obtain ⟨hj, -⟩ := opJob_some.mp h
  have hx := exec_unloadProgram h he
  refine ⟨fun hnow => ?_, fun hnow => ?_⟩
  · rw [if_pos hnow] at hx
    obtain ⟨hdone, hjobs, -, hslot, hothers⟩ := slotStored_finish (p := part s j) hj (.refl _ s) (slotNumber_lt j) none
    exact ⟨_, hx, hdone, hjobs, hslot, hothers, .after (finish_only _ _ _) (setProg_only _ _ _ _).sub⟩
  · rw [if_neg (by simp [hnow])] at hx
    exact ⟨_, hx, runs_keepRunning hj, otherJobs_keepRunning, keepRunning_only _ _⟩

end

/-- Settles O54: the row operations, LOAD_PROGRAM and UNLOAD_PROGRAM, each by its own lemma. -/
theorem rowOperationsAndPrograms : Obligations.RowOperationsAndPrograms := by
  unfold Obligations.RowOperationsAndPrograms
  exact ⟨fun c n op k s j hc h he hk => rowOperation_spec hc h he hk, fun n s j d code x h he hfirst ha hl => loadProgram_spec h he hfirst ha hl,
    fun n s j h he => unloadProgram_spec h he⟩

end Sys2Proof.Machine

namespace Sys2Proof.Machine

-- As above: proofs are elaborated one after another.
set_option Elab.async false

/-! ## Work that writes within spans, and how a descriptor ends after it -/

section
variable {s t u : State} {xs : List Span} {ps : List Part}

/-- What the work of an operation may change beside its descriptor and what its accesses change. -/
def workParts : List Part := byteParts ++ [.free, .regs, .log, .counts]

/-- t is s after work that writes no byte outside the spans. -/
structure WroteIn (xs : List Span) (s t : State) : Prop where
  frame : OnlyParts workParts s t
  bytes : BytesOutside xs s t

namespace WroteIn

theorem of_only (h : OnlyParts ps s t) (hp : ps ⊆ [.soil, .nans, .free, .regs, .log, .counts] := by decide) : WroteIn xs s t where
  frame := h.mono (fun _ hq => (by decide : [.soil, .nans, .free, .regs, .log, .counts] ⊆ workParts) (hp hq))
  bytes := h.bytesOutside xs (fun hq => absurd (hp hq) (by decide))

theorem refl (xs : List Span) (s : State) : WroteIn xs s s := of_only (.refl [] s)

theorem trans (h : WroteIn xs s t) (k : WroteIn xs t u) : WroteIn xs s u := ⟨h.frame.trans k.frame, h.bytes.trans k.bytes⟩

/-- `trans` with the last change first, for a goal that names it. -/
theorem after (k : WroteIn xs t u) (h : WroteIn xs s t) : WroteIn xs s u := h.trans k

theorem ite {b : Prop} [Decidable b] (h : WroteIn xs s t) (k : WroteIn xs s u) : WroteIn xs s (if b then t else u) := by
  split <;> assumption

/-- A fold writes where its steps over the list's members do. -/
theorem foldl {α : Type} {f : State → α → State} {l : List α} (h : ∀ t, ∀ x ∈ l, WroteIn xs t (f t x)) : WroteIn xs s (l.foldl f s) :=
  List.foldlRecOn (motive := WroteIn xs s) l f (.refl xs s) (fun t ht x hx => ht.trans (h t x hx))

/-- As `foldl`, over states with a note beside each. -/
theorem foldlWith {α β : Type} {f : State × β → α → State × β} {l : List α} {z : State × β}
    (h : ∀ z, ∀ x ∈ l, WroteIn xs z.1 (f z x).1) : WroteIn xs z.1 (l.foldl f z).1 :=
  List.foldlRecOn (motive := fun y => WroteIn xs z.1 y.1) l f (.refl xs z.1) (fun y hy x hx => hy.trans (h y x hx))

variable {k a b i n m len : Nat} {bs : List Byte} {f : Nat → Bool}

theorem writeAt (hx : wr k b len ∈ xs) (ha : b ≤ a) (hlen : a + bs.length ≤ b + len) : WroteIn xs s (writeAt s k a bs f) :=
  ⟨(writeAt_only s k a bs f).sub, bytesOutside_writeAt_within f hx ha hlen⟩

/-- Row i of n rows of m bytes each, written in its place in their span. -/
theorem row (hx : wr k b len ∈ xs) (hi : i < n) (hbs : bs.length = m) (ha : a = b + i * m) (hlen : len = n * m) :
    WroteIn xs s (Machine.writeAt s k a bs f) := by
  have hfit : i * m + m ≤ n * m := Nat.succ_mul i m ▸ Nat.mul_le_mul_right m hi
  exact .writeAt hx (by omega) (by omega)

end WroteIn

/-- Descriptor n has ended in t as done, and its operation has written no byte outside the spans. -/
structure Ended (n : Nat) (xs : List Span) (s t : State) : Prop where
  completes : Completes t n
  jobs : OtherJobs n s t
  bytes : BytesOutside xs s t
  frame : OnlyParts tierParts s t

/-- As much from before a change of registers or the Stain log. -/
theorem Ended.after_only {n : Nat} (k : Ended n xs t u) (h : OnlyParts [.regs, .log] s t) : Ended n xs s u :=
  ⟨k.completes, (OtherJobs.of_jobs h.jobs).trans k.jobs, (h.bytesOutside xs).trans k.bytes, .after k.frame h.sub⟩

/-- A command that ends its descriptor so, as the statements on such commands say it. -/
theorem Ended.claims {n : Nat} {c : Instr} (h : ∃ t, exec c s = .next t ∧ Ended n xs s t) :
    ∃ t, exec c s = .next t ∧ Completes t n ∧ OtherJobs n s t ∧ BytesOutside xs s t ∧ OnlyParts tierParts s t := by
  obtain ⟨t, hx, hcomp, hjobs, hbytes, hframe⟩ := h
  exact ⟨t, hx, hcomp, hjobs, hbytes, hframe⟩

variable {v : State} {n c steps moved share det : Nat} {j : Job} {soiled : Bool} {cs : List Nat} {rs : List RowHead}

/-- A descriptor that ends after its accesses and its work has ended. -/
theorem WroteIn.ended (hw : WroteIn xs v u) (hj : job? s n = some j) (hv : Accessed s v) :
    Ended n xs s (finish (ranOn u n c steps moved) n (doneOf soiled det)) := by
  have hreach : OnlyParts (accessParts ++ workParts) s u := .after hw.frame hv.frame.sub
  have hend := ranOn_finish_only u n c steps moved (doneOf soiled det)
  exact ⟨completes_ranOn hj hreach.jobs _ _, otherJobs_ranOn hreach.jobs _,
    (hv.frame.bytesOutside xs).trans (hw.bytes.trans (hend.bytesOutside xs)), .after hend hreach.sub⟩

/-- As `WroteIn.ended`, of a descriptor that ends with what its row-heads brought up. -/
theorem WroteIn.pressEnded (hw : WroteIn xs v u) (hj : job? s n = some j) (hv : Accessed s v) :
    Ended n xs s (pressEnd u n cs share det rs soiled steps moved) :=
  (hw.trans (.of_only (pressNotes_only u cs share det rs soiled))).ended hj hv

/-- The end of a Press-class descriptor writes no byte. -/
theorem mem_pressEnd (u : State) : (pressEnd u n cs share det rs soiled steps moved).tm.mem = u.tm.mem :=
  (ranOn_finish_only _ n (cs.headD 0) steps moved (doneOf soiled (pressDetail det rs soiled)) .mem (by decide)).trans
    (pressNotes_only u cs share det rs soiled .mem (by decide))

end

/-! ## Rows with their numbers -/

section
variable {α σ : Type} {l : List α}

/-- A fold over numbered members is one over the numbers. -/
theorem foldl_zipIdx_eq_range (d : α) (f : σ → α × Nat → σ) (z : σ) :
    l.zipIdx.foldl f z = (List.range l.length).foldl (fun y i => f y (l.getD i d, i)) z := by
  have hnum : l.zipIdx = (List.range l.length).map (fun i => (l.getD i d, i)) :=
    List.ext_getElem (by simp) (fun i hi _ => by simp [List.getD_eq_getElem?_getD, List.getElem?_eq_getElem (by simpa using hi)])
  rw [hnum, List.foldl_map]

end

/-! ## O52: records, results and statistics of row-heads -/

section
variable {s : State} {xs : List Span} {d n p : Nat}

theorem length_pack (r : PRec) : r.pack.length = recBytes r.num.length := by
  have hfit : 20 * (r.num.length + 2) + 6 ≤ recBytes r.num.length := by simp only [recBytes, roundUp, cdiv]; omega
  simp [PRec.pack, length_leBytes, List.length_flatten, Function.comp_def]
  omega

theorem length_num_unpackRec (d : Nat) (bs : List Byte) : (unpackRec d bs).num.length = d := by simp [unpackRec]

theorem length_num_add {a b : PRec} (ha : a.num.length = d) (hb : b.num.length = d) : (a.add b).num.length = d := by
  simp [PRec.add, ha, hb]

theorem length_num_of_mem_readRecs {ra : Nat} {r : PRec} (h : r ∈ readRecs s p ra d n) : r.num.length = d := by
  obtain ⟨i, -, rfl⟩ := List.mem_map.mp h
  exact length_num_unpackRec _ _

theorem length_readRecs (s : State) (p ra d n : Nat) : (readRecs s p ra d n).length = n := by simp [readRecs]

/-- A member of a list, or its default, has what both have. -/
theorem getD_of_forall {α : Type} {l : List α} {z : α} {P : α → Prop} (h : ∀ x ∈ l, P x) (hz : P z) (i : Nat) : P (l.getD i z) := by
  rw [List.getD_eq_getElem?_getD]
  cases hi : l[i]? with
  | none => exact hz
  | some x => exact h x (List.mem_of_getElem? hi)

theorem length_num_prec0 (d : Nat) : (prec0 d).num.length = d := List.length_replicate

variable {o : PressOpt} {q : PQuery} {m : Val} {b : Block}

theorem length_num_pressToken (x : PRec × Mark) (k : Nat) : (pressToken o q m b x k).1.num.length = x.1.num.length := by
  unfold pressToken
  dsimp only
  split <;> simp

theorem length_num_pressMet (x : Pressed) (y : Option Met) : (pressMet o q m x y).r.num.length = x.r.num.length := by
  unfold pressMet
  split
  · rfl
  · split
    · rfl
    · exact List.foldlRecOn (motive := fun z : PRec × Mark => z.1.num.length = x.r.num.length) _ _ rfl
        (fun z hz k _ => (length_num_pressToken z k).trans hz)

theorem length_num_pressRow (ys : List (Option Met)) : (pressRow o q m d ys).r.num.length = d :=
  List.foldlRecOn (motive := fun z : Pressed => z.r.num.length = d) _ _ (length_num_prec0 d)
    (fun z hz y _ => (length_num_pressMet z y).trans hz)

theorem length_num_pressHead (ext : Val) (bs : List Block) : (pressHead o q ext d bs).p.r.num.length = d := by
  unfold pressHead
  dsimp only
  split <;> split <;> exact length_num_pressRow _

theorem length_finishRec (r : PRec) (fmt : Nat) (md : Rnd) : (finishRec r fmt md).1.length = r.num.length * elemSize fmt := by
  unfold finishRec
  dsimp only
  split
  · simp [length_encodeAll]
  · simp [length_encodeAll]
  · simp [length_encodeAll]
  · split <;> simp [length_encodeAll]

theorem length_statBytes (r : PRec) (m : Val) (seen : Bool) : (statBytes r m seen).1.length = 16 := by
  simp [statBytes, length_leBytes]

variable {oa of sa : Nat}

/-- The output and the statistics of row-head i stay within the spans of the outputs and the statistics of all n. -/
theorem wroteIn_rowHead {out stat : List Byte} {f g : Nat → Bool} {i : Nat} (hi : i < n) (ho : wr p oa (n * d * elemSize of) ∈ xs)
    (hs : sa ≠ 0 → wr p sa (16 * n) ∈ xs) (hout : out.length = d * elemSize of) (hstat : stat.length = 16) :
    WroteIn xs s (if sa = 0 then writeAt s p (oa + i * d * elemSize of) out f
      else writeAt (writeAt s p (oa + i * d * elemSize of) out f) p (sa + 16 * i) stat g) := by
  have hw : WroteIn xs s (writeAt s p (oa + i * d * elemSize of) out f) :=
    .row ho hi hout (by rw [Nat.mul_assoc]) (Nat.mul_assoc _ _ _)
  split
  next => exact hw
  next hsa => exact hw.trans (.row (hs hsa) hi hstat (by rw [Nat.mul_comm]) (Nat.mul_comm _ _))

theorem wroteIn_emitRows {md : Rnd} {rs : List (PRec × Val × Bool)} (hn : rs.length ≤ n) (hd : ∀ e ∈ rs, e.1.num.length = d)
    (ho : wr p oa (n * d * elemSize of) ∈ xs) (hs : sa ≠ 0 → wr p sa (16 * n) ∈ xs) :
    WroteIn xs s (emitRows s p oa of md sa rs).1 := by
  refine .foldlWith (z := (s, 0)) (fun z e he => ?_)
  obtain rfl := hd _ (List.fst_mem_of_mem_zipIdx he)
  exact wroteIn_rowHead ((List.snd_lt_of_mem_zipIdx he).trans_le hn) ho hs (length_finishRec _ _ _) (length_statBytes _ _ _)

variable {ra : Nat} {rs : List PRec}

theorem wroteIn_writeRecs (hn : rs.length ≤ n) (hd : ∀ r ∈ rs, r.num.length = d) (hx : wr p ra (n * recBytes d) ∈ xs) :
    WroteIn xs s (writeRecs s p ra d rs) :=
  .foldl (fun t e he => by
    have hnum := hd _ (List.fst_mem_of_mem_zipIdx he)
    exact .row hx ((List.snd_lt_of_mem_zipIdx he).trans_le hn) (length_pack _) (by rw [hnum]) (by rw [hnum]))

/-- Each record written stands in its place. -/
theorem bytesAt_writeRecs (hd : ∀ r ∈ rs, r.num.length = d) {i : Nat} {r : PRec} (hi : rs[i]? = some r) :
    bytesAt (writeRecs s p ra d rs) p (ra + i * recBytes d) (recBytes d) = r.pack := by
  have hlen : ∀ i, (rs.getD i (prec0 d)).pack.length = recBytes d := fun i =>
    (length_pack _).trans (congrArg recBytes (getD_of_forall (P := fun r : PRec => r.num.length = d) hd (length_num_prec0 d) i))
  rw [writeRecs, foldl_zipIdx_eq_range (prec0 d), bytesAt_foldl_writeAt hlen le_rfl (List.getElem?_eq_some_iff.mp hi).1]
  simp [List.getD_eq_getElem?_getD, hi]

end

end Sys2Proof.Machine

namespace Sys2Proof.Machine

-- As above: proofs are elaborated one after another.
set_option Elab.async false

/-! ## O52: PRESS -/

section
variable {s v : State} {n i : Nat} {j : Job} {src : KvSrc} {x : RowHead}

theorem readRecs_congr (hmem : v.tm.mem = s.tm.mem) (hsoil : v.tm.soil = s.tm.soil) (p ra d k : Nat) :
    readRecs v p ra d k = readRecs s p ra d k := by
  simp only [readRecs, bytesAt_congr hmem, soiledAt, hsoil]

/-- The row-heads of a Press-class descriptor. -/
def Job.rowHeads (j : Job) (src : KvSrc) : Nat := (pressF j).rows * ((pressF j).kc * src.geo.g)

theorem length_pressHeads (s : State) (j : Job) (src : KvSrc) : (pressHeads s j src).length = j.rowHeads src := by
  simp [pressHeads, headsOf, queriesOf, Job.rowHeads]

theorem length_num_of_mem_pressHeads (h : x ∈ pressHeads s j src) : x.p.r.num.length = src.geo.d := by
  obtain ⟨e, -, rfl⟩ := List.mem_map.mp h
  exact length_num_pressHead _ _

/-- The records that PRESS finds in v: none where it opens its own (05 R146). -/
def oldRecs (v s : State) (j : Job) (src : KvSrc) : List PRec :=
  if (pressF j).opn then [] else readRecs v (part s j) (pressF j).ra src.geo.d (j.rowHeads src)

/-- The record that row-head x, the i-th, comes to: its own, or the sum with the old one (05 R146). -/
def newRec (v s : State) (j : Job) (src : KvSrc) (x : RowHead) (i : Nat) : PRec :=
  if (pressF j).opn then x.p.r else ((oldRecs v s j src).getD i (prec0 src.geo.d)).add x.p.r

/-- The records of PRESS's row-heads, which were pressed on s, over those in v. -/
def newRecs (v s : State) (j : Job) (src : KvSrc) : List PRec := (pressHeads s j src).zipIdx.map (fun e => newRec v s j src e.1 e.2)

/-- PRESS's outputs and statistics, written in v where it finishes (05 R143, R149). -/
def pressFinished (v s : State) (j : Job) (src : KvSrc) : State × Nat :=
  let f := pressF j
  if f.fin then emitRows v (part s j) f.oa f.of f.rnd f.sa
    ((newRecs v s j src).zip ((pressHeads s j src).map (fun r => (r.m, r.seen)))) else (v, 0)

/-- What PRESS writes in v: outputs and statistics, and then its records (05 R143, R145). -/
def pressWritten (v s : State) (j : Job) (src : KvSrc) : State × Nat :=
  let z := pressFinished v s j src
  if (pressF j).records then (writeRecs z.1 (part s j) (pressF j).ra src.geo.d (newRecs v s j src), z.2) else z

theorem length_num_newRec (h : x.p.r.num.length = src.geo.d) : (newRec v s j src x i).num.length = src.geo.d := by
  have hold : ∀ r ∈ oldRecs v s j src, r.num.length = src.geo.d := by
    unfold oldRecs
    split
    · simp
    · exact fun r => length_num_of_mem_readRecs
  unfold newRec
  split
  · exact h
  · exact length_num_add (getD_of_forall (P := fun r : PRec => r.num.length = _) hold (length_num_prec0 _) i) h

theorem length_num_of_mem_newRecs : ∀ r ∈ newRecs v s j src, r.num.length = src.geo.d := fun r h => by
  obtain ⟨e, he, rfl⟩ := List.mem_map.mp h
  exact length_num_newRec (length_num_of_mem_pressHeads (List.fst_mem_of_mem_zipIdx he))

theorem length_newRecs (v s : State) (j : Job) (src : KvSrc) : (newRecs v s j src).length = j.rowHeads src := by
  simp [newRecs, length_pressHeads]

theorem wroteIn_pressFinished (v s : State) (j : Job) (src : KvSrc) : WroteIn (pressOuts s j src) v (pressFinished v s j src).1 := by
  unfold pressFinished
  dsimp only
  split
  next hfin =>
    exact wroteIn_emitRows (n := j.rowHeads src) (d := src.geo.d) (by simp [length_newRecs])
      (fun e he => length_num_of_mem_newRecs _ (List.of_mem_zip he).1) (by simp [pressOuts, hfin, Job.rowHeads])
      (fun hsa => by simp [pressOuts, hfin, hsa, Job.rowHeads])
  next => exact .refl _ _

theorem wroteIn_pressWritten (v s : State) (j : Job) (src : KvSrc) : WroteIn (pressOuts s j src) v (pressWritten v s j src).1 := by
  have hfinished := wroteIn_pressFinished v s j src
  unfold pressWritten
  dsimp only
  split
  next hrec =>
    exact hfinished.trans
      (wroteIn_writeRecs (length_newRecs v s j src).le length_num_of_mem_newRecs (by simp [pressOuts, hrec, Job.rowHeads]))
  next => exact hfinished

/-- Each row-head's record stands in its place (05 R145). -/
theorem bytesAt_pressWritten (hra : (pressF j).ra ≠ 0) (hx : (pressHeads s j src)[i]? = some x) :
    bytesAt (pressWritten v s j src).1 (part s j) ((pressF j).ra + i * recBytes src.geo.d) (recBytes src.geo.d) =
      (newRec v s j src x i).pack := by
  have hrec : (pressF j).records = true := by simpa [PressF.records] using hra
  simp only [pressWritten, hrec, if_true]
  exact bytesAt_writeRecs length_num_of_mem_newRecs (by simp [newRecs, List.getElem?_zipIdx, hx])

/-- What a record comes to where PRESS has accessed its spans: the old ones lie there as before. -/
theorem newRec_accessed (hv : Accessed s v) : newRec v s j src x i = if (pressF j).opn then x.p.r
    else ((readRecs s (part s j) (pressF j).ra src.geo.d (j.rowHeads src)).getD i (prec0 src.geo.d)).add x.p.r := by
  unfold newRec oldRecs
  rw [readRecs_congr (hv.frame .mem (by decide)) (hv.frame .soil (by decide))]
  split <;> rfl

section
variable (h : opJob s n 0x0500 = some j) (he : pressErr s j (pressF j) ⟨false, false, false⟩ = none)
  (hfirst : (pressF j).prio = true ∧ j.demoted = false ∨ (coreAt s (part s j) (j.fld 55 1)).any (behindPriority s) = false)
  (hs : sourceOf s j (pressF j) true true = .inr src) (hc : pressClash j src = false) (hr : regionErr s (pressOuts s j src) = none)
  (ha : CanAccess s n (pressIns s j src ++ pressOuts s j src))
include h he hfirst hs hc hr ha

theorem exec_press :
    ∃ v, Accessed s v ∧ ∃ u cs share det rs soiled steps moved, exec (.press n) s = .next (pressEnd u n cs share det rs soiled steps moved) ∧
      OnlyParts [.counts] (pressWritten v s j src).1 u := by
  obtain ⟨v, hv, hgo⟩ := withMemOr_of_canAccess ha
  have hgoes : ((!(pressF j).prio || j.demoted) && (coreAt s (part s j) (j.fld 55 1)).any (behindPriority s)) = false := by
    rcases hfirst with ⟨hprio, hdem⟩ | hno
    · simp [hprio, hdem]
    · simp [hno]
  have hx : exec (.press n) s = _ := runOp_ready h
  dsimp only at hx
  rw [if_neg (by simp [hgoes]), he] at hx
  dsimp only at hx
  rw [hs] at hx
  dsimp only at hx
  rw [hc, if_neg Bool.false_ne_true, hr] at hx
  dsimp only at hx
  rw [hgo] at hx
  exact ⟨v, hv, _, _, _, _, _, _, _, _, hx, .foldl (fun _ _ => coreCount_only _ _ _ _) _ _⟩

/-- PRESS writes its outputs, statistics and records alone, each record in its place, and ends (05 R143 to R146). -/
theorem press_spec :
    ∃ t, exec (.press n) s = .next t ∧ Ended n (pressOuts s j src) s t ∧
      ((pressF j).ra ≠ 0 → ∀ i x, (pressHeads s j src)[i]? = some x →
        bytesAt t (part s j) ((pressF j).ra + i * recBytes src.geo.d) (recBytes src.geo.d) = (if (pressF j).opn then x.p.r
          else ((readRecs s (part s j) (pressF j).ra src.geo.d (j.rowHeads src)).getD i (prec0 src.geo.d)).add x.p.r).pack) := by
  obtain ⟨v, hv, u, cs, share, det, rs, soiled, steps, moved, hx, hcount⟩ := exec_press h he hfirst hs hc hr ha
  refine ⟨_, hx, ((wroteIn_pressWritten v s j src).trans (.of_only hcount)).pressEnded (opJob_some.mp h).1 hv, fun hra i x hi => ?_⟩
  rw [bytesAt_congr ((mem_pressEnd u).trans (hcount .mem (by decide))), bytesAt_pressWritten hra hi, newRec_accessed hv]

end

end

/-! ## O52: BOUND -/

section
variable {s v : State} {n i : Nat} {j : Job} {src : KvSrc} {x : RowHead}

/-- The reference that row-head x, the i-th, comes to: its own, or the larger of it and the one that lies in v (05 R148). -/
def newRef (v s : State) (j : Job) (src : KvSrc) (x : RowHead) (i : Nat) : Val :=
  if (pressF j).fin then
    vmax ((if (pressF j).fin then elemsAt v (part s j) (j.xva 24) (j.rowHeads src) 5 else []).getD i (.inf true)) x.m
  else x.m

/-- The references of the row-heads, written in v. -/
def refsWritten (v s : State) (j : Job) (src : KvSrc) (soil : RowHead × Nat → Bool) : State :=
  (boundRows s j src).zipIdx.foldl (fun t e => writeAt t (part s j) (j.xva 24 + 4 * e.2) (leBytes 4 (fp32Bits (newRef v s j src e.1 e.2)))
    (fun _ => soil e)) v

theorem length_boundRows (s : State) (j : Job) (src : KvSrc) : (boundRows s j src).length = j.rowHeads src := by
  simp [boundRows, boundHeads, boundQueries, queriesOf, Job.rowHeads]

theorem wroteIn_refsWritten (v s : State) (j : Job) (src : KvSrc) (soil : RowHead × Nat → Bool) :
    WroteIn (boundOuts s j src) v (refsWritten v s j src soil) :=
  .foldl (fun t e he => .row (b := j.xva 24) (n := j.rowHeads src) (len := 4 * j.rowHeads src) (by simp [boundOuts, Job.rowHeads])
    ((List.snd_lt_of_mem_zipIdx he).trans_eq (length_boundRows s j src)) (length_leBytes _ _) (by rw [Nat.mul_comm]) (Nat.mul_comm _ _))

/-- Without accumulating, each row-head's reference stands in its place (05 R148). -/
theorem bytesAt_refsWritten {soil : RowHead × Nat → Bool} (hfin : (pressF j).fin = false) (hx : (boundRows s j src)[i]? = some x) :
    bytesAt (refsWritten v s j src soil) (part s j) (j.xva 24 + 4 * i) 4 = leBytes 4 (fp32Bits x.m) := by
  rw [refsWritten, foldl_zipIdx_eq_range x]
  simp only [newRef, hfin, Bool.false_eq_true, if_false, Nat.mul_comm 4]
  rw [bytesAt_foldl_writeAt (fun _ => length_leBytes _ _) le_rfl (List.getElem?_eq_some_iff.mp hx).1]
  simp [List.getD_eq_getElem?_getD, hx]

/-- BOUND or RECALL_BOUND writes its references alone and ends (05 R140, R148, 06 R191). -/
theorem boundExec_spec (h : job? s n = some j) (he : pressErr s j (pressF j) ⟨true, false, false⟩ = none)
    (hs : sourceOf s j (pressF j) false false = .inr src) (hr : regionErr s (boundOuts s j src) = none)
    (ha : CanAccess s n (boundIns s j src ++ boundOuts s j src)) :
    Ended n (boundOuts s j src) s (boundExec s j) ∧ ((pressF j).fin = false → ∀ i x, (boundRows s j src)[i]? = some x →
      bytesAt (boundExec s j) (part s j) (j.xva 24 + 4 * i) 4 = leBytes 4 (fp32Bits x.m)) := by
  obtain rfl : j.id = n := job?_id h
  obtain ⟨v, hv, hgo⟩ := withMemOr_of_canAccess ha
  obtain ⟨u, cs, share, det, rs, soiled, steps, moved, soil, hx, hcount⟩ : ∃ u cs share det rs soiled steps moved soil,
      boundExec s j = pressEnd u j.id cs share det rs soiled steps moved ∧ OnlyParts [.counts] (refsWritten v s j src soil) u := by
    unfold boundExec
    dsimp only
    rw [he]
    dsimp only
    rw [hs]
    dsimp only
    rw [hr]
    dsimp only
    rw [hgo]
    exact ⟨_, _, _, _, _, _, _, _, _, rfl, coreCount_only _ _ _ _⟩
  rw [hx]
  refine ⟨((wroteIn_refsWritten v s j src soil).trans (.of_only hcount)).pressEnded h hv, fun hfin i x hi => ?_⟩
  rw [bytesAt_congr ((mem_pressEnd u).trans (hcount .mem (by decide))), bytesAt_refsWritten hfin hi]

end

/-! ## O52: FINISH -/

section
variable {s : State} {n : Nat} {j : Job}

/-- A Press-class row with no priority part before it on its core acts. -/
theorem pressOp_ready {op at' : Nat} {f : Job → State} (h : opJob s n op = some j)
    (hfirst : (coreAt s (part s j) (j.fld at' 1)).any (behindPriority s) = false) : pressOp s n op at' f = .next (f j) := by
  rw [pressOp, runOp_ready h, hfirst, if_neg Bool.false_ne_true]

/-- FINISH writes its outputs and statistics alone and ends (05 R144, R147, R149). -/
theorem finishPress_spec (h : opJob s n 0x0503 = some j) (hfirst : (coreAt s (part s j) (j.fld 55 1)).any (behindPriority s) = false)
    (he : finishErr s j = none) (hr : regionErr s (finishSpans s j) = none) (ha : CanAccess s n (finishSpans s j)) :
    ∃ t, exec (.finish n) s = .next t ∧ Ended n ((finishSpans s j).filter (fun x => x.write)) s t := by
  obtain ⟨v, hv, hgo⟩ := withMemOr_of_canAccess ha
  have hx : exec (.finish n) s = _ := pressOp_ready h hfirst
  rw [he] at hx
  dsimp only at hx
  rw [hr] at hx
  dsimp only at hx
  rw [hgo] at hx
  have hdrawn := freeSet_only v (v.free + (pressF j).rows * ((pressF j).kc + 1))
  refine ⟨_, hx, WroteIn.pressEnded (.after (.of_only (coreCount_only _ _ _ _)) (.after ?_ (.of_only hdrawn))) (opJob_some.mp h).1 hv⟩
  refine wroteIn_emitRows (n := (pressF j).rows * ((pressF j).kc + 1)) (d := 32 * (pressF j).kf) ?_
    (fun e he => length_num_of_mem_readRecs (List.of_mem_zip he).1) ?_ (fun hsa => ?_)
  · simp [length_readRecs]
  · simp [finishSpans, rd, wr]
  · simp [finishSpans, rd, wr, hsa]

end

/-! ## O52: PLEAT -/

section
variable {s : State} {n : Nat} {j : Job} {src : KvSrc}

theorem length_acc_pleatBlock (xs : List Val) (scale : Val) (r : PleatRow) (b : Block) (ts : List Nat) :
    (pleatBlock xs scale r b ts).acc.length = r.acc.length := by
  unfold pleatBlock
  split
  · rfl
  · refine List.foldlRecOn (motive := fun q : PleatRow => q.acc.length = r.acc.length) _ _ ?_ (fun q hq e _ => ?_)
    · simp
    · simpa using hq

/-- PLEAT writes its outputs and statistics alone and ends (05 R157). -/
theorem pleat_spec (h : opJob s n 0x0504 = some j) (he : pressErr s j (pressF j) ⟨false, true, false⟩ = none)
    (hfirst : (coreAt s (part s j) (j.fld 55 1)).any (behindPriority s) = false)
    (hs : sourceOf s j (pressF j) false false = .inr src) (hr : regionErr s (pleatOuts s j src) = none)
    (ha : CanAccess s n (pleatIns s j src ++ pleatOuts s j src)) :
    ∃ t, exec (.pleat n) s = .next t ∧ Ended n (pleatOuts s j src) s t := by
  obtain ⟨v, hv, hgo⟩ := withMemOr_of_canAccess ha
  have hx : exec (.pleat n) s = _ := pressOp_ready h hfirst
  dsimp only at hx
  rw [he] at hx
  dsimp only at hx
  rw [hs] at hx
  dsimp only at hx
  rw [hr] at hx
  dsimp only at hx
  rw [hgo] at hx
  refine ⟨_, hx, WroteIn.pressEnded (.after (.of_only (coreCount_only _ _ _ _)) (.foldlWith (z := (v, 0)) (fun z e hmem => ?_)))
    (opJob_some.mp h).1 hv⟩
  have hi := List.snd_lt_of_mem_zipIdx hmem
  have hacc : e.1.acc.length = src.geo.d := by
    obtain ⟨i, -, hi⟩ := List.mem_map.mp (List.fst_mem_of_mem_zipIdx hmem)
    rw [← hi]
    exact List.foldlRecOn (motive := fun q : PleatRow => q.acc.length = src.geo.d) _ _ List.length_replicate
      (fun q hq b _ => (length_acc_pleatBlock _ _ _ _ _).trans hq)
  refine wroteIn_rowHead (n := j.rowHeads src) (d := src.geo.d) (by simpa [Job.rowHeads] using hi) (by simp [pleatOuts, Job.rowHeads])
    (fun hsa => by simp [pleatOuts, hsa, Job.rowHeads]) ?_ (by simp [length_leBytes])
  rw [length_encodeAll]
  split <;> simp [hacc]

end

end Sys2Proof.Machine

namespace Sys2Proof.Machine

-- As above: proofs are elaborated one after another.
set_option Elab.async false

/-! ## O52: PRESS_BACKWARD -/

section
variable {s v : State} {xs : List Span} {n : Nat} {j : Job} {r : Region}

theorem lt_of_mem_tokens {o : PressOpt} {q : PQuery} {b : Block} {k : Nat} (h : k ∈ o.tokens q b) : k < b.at'.n := by
  unfold PressOpt.tokens at h
  split at h
  · cases h
  · exact List.mem_range.mp (List.mem_filter.mp h).1

/-- The tokens of a region's blocks lie below the key end. -/
theorem token_lt_of_mem_regionSrc {l kf kc ke h k : Nat} {sets : Option Nat} {b : Block} {o : PressOpt} {q : PQuery}
    (hb : b ∈ (regionSrc s r l kf kc ke sets).heads.getD h []) (hk : k ∈ o.tokens q b) : h < kc ∧ 64 * b.at'.j + k < ke := by
  have hlt : h < kc := by
    by_contra hge
    have hnone : (List.range kc)[h]? = none := List.getElem?_eq_none (by simpa using hge)
    simp [regionSrc, List.getD_eq_getElem?_getD, hnone] at hb
  refine ⟨hlt, ?_⟩
  simp only [regionSrc, List.getD_eq_getElem?_getD, List.getElem?_map, List.getElem?_range hlt, Option.map_some, Option.getD_some,
    List.mem_map, List.mem_filter, Region.refs] at hb
  obtain ⟨_, ⟨⟨m, -, rfl⟩, -⟩, rfl⟩ := hb
  have hn := lt_of_mem_tokens hk
  simp only [readBlock, Region.ref] at hn ⊢
  omega

/-- A token to which a row-head contributes lies in the region, and so does its KV head (05 R154). -/
theorem backRows_bounds (he : backwardErr s j r = none) {b : BackRow} (hb : b ∈ backRows s j r) {x : Nat × Val × Val} (hx : x ∈ b.toks) :
    x.1 < j.lenOf r (j.xfld 6 2) ∧ b.head < r.hkv := by
  have hheads : j.xfld 58 1 + j.xfld 59 1 ≤ r.hkv := by
    have hkv := fields_eq_none.mp ((Option.orElse_eq_none _ _).mp he).1 (bad (decide (r.hkv < j.xfld 58 1 + j.xfld 59 1)) 122) (by simp)
    simpa using bad_eq_none.mp hkv
  obtain ⟨e, -, rfl⟩ := List.mem_map.mp hb
  simp only [backRow, List.mem_flatMap, List.mem_map] at hx
  obtain ⟨blk, hblk, k, hk, rfl⟩ := hx
  obtain ⟨hh, htok⟩ := token_lt_of_mem_regionSrc hblk hk
  exact ⟨htok, by simp only [backRow]; omega⟩

theorem length_dQ_of_mem_backRows {b : BackRow} (hb : b ∈ backRows s j r) : b.dQ.length = r.d := by
  obtain ⟨e, -, rfl⟩ := List.mem_map.mp hb
  simp [backRow]

theorem length_backRows (s : State) (j : Job) (r : Region) : (backRows s j r).length = j.xfld 56 2 * (j.xfld 59 1 * r.g) := by
  simp [backRows, queriesOf]

/-- Row k of column h in a table of rows of w columns comes before row m. -/
theorem mul_add_lt_mul {k h w m : Nat} (hk : k < m) (hh : h < w) : k * w + h < m * w :=
  calc k * w + h < (k + 1) * w := by rw [Nat.succ_mul]; omega
    _ ≤ m * w := Nat.mul_le_mul_right w hk

theorem wroteIn_addGrad {z : State × Bool × Bool} {p a b len : Nat} {x : Val} {soil : Bool} (hx : wr p b len ∈ xs) (ha : b ≤ a)
    (hlen : a + 20 ≤ b + len) : WroteIn xs z.1 (addGrad z p a x soil).1 :=
  .after (.of_only (nansSet_only _ _)) (.writeAt hx ha (by rwa [length_leBytes]))

/-- The terms of dK and dV stay within the accumulators of the region (05 R155). -/
theorem wroteIn_addGrads {rs : List BackRow} (hpart : part v j = part s j)
    (hrs : ∀ b ∈ rs, ∀ x ∈ b.toks, x.1 < j.lenOf r (j.xfld 6 2) ∧ b.head < r.hkv)
    (hx : j.lenOf r (j.xfld 6 2) ≠ 0 → wr (part s j) (j.va 48) (2 * j.lenOf r (j.xfld 6 2) * r.hkv * r.d * 20) ∈ xs) :
    WroteIn xs v (addGrads v j r rs).1 := by
  refine .foldlWith (z := (v, false, false)) (fun z b hb => .foldlWith (fun z x htok => .foldlWith (fun z i hi => ?_)))
  obtain ⟨ht, hh⟩ := hrs b hb x htok
  have hplace : (x.1 * r.hkv + b.head) * r.d + i < j.lenOf r (j.xfld 6 2) * r.hkv * r.d :=
    mul_add_lt_mul (mul_add_lt_mul ht hh) (List.mem_range.mp hi)
  have hspan : 2 * j.lenOf r (j.xfld 6 2) * r.hkv * r.d * 20 = 40 * (j.lenOf r (j.xfld 6 2) * r.hkv * r.d) := by ring
  have hmem := hpart ▸ hx (by omega)
  dsimp only
  exact .after (wroteIn_addGrad hmem (by omega) (by omega)) (wroteIn_addGrad hmem (by omega) (by omega))

theorem length_rotateBack (ys : List Val) (p : Nat) (x : Rot) (table : Option (List Val)) : (rotateBack ys p x table).length = ys.length := by
  simp [rotateBack]

theorem wroteIn_writeDq {rs : List BackRow} {d : Nat} (hpart : part v j = part s j) (hd : ∀ b ∈ rs, b.dQ.length = d)
    (hx : wr (part s j) (j.va 40) (rs.length * d * elemSize (j.fmt 40)) ∈ xs) : WroteIn xs v (writeDq v j d rs).1 := by
  refine .foldlWith (z := (v, false)) (fun z e he => ?_)
  have hnum := hd _ (List.fst_mem_of_mem_zipIdx he)
  refine .row (hpart ▸ hx) (List.snd_lt_of_mem_zipIdx he) (length_encodeAll _ _ _) ?_ ?_
  · split <;> simp [length_rotateBack, hnum, Nat.mul_assoc]
  · split <;> simp [length_rotateBack, hnum, Nat.mul_assoc]

/-- PRESS_BACKWARD adds into its accumulators and writes dQ, and ends (05 R154, R155, R162). -/
theorem pressBackward_spec (h : opJob s n 0x0502 = some j) (hr : kvNamed s j = some r)
    (hfirst : (coreAt s (part s j) (j.fmt 48)).any (behindPriority s) = false) (he : backwardErr s j r = none)
    (hreg : regionErr s (backwardSpans s j r) = none) (ha : CanAccess s n (backwardSpans s j r)) :
    ∃ t, exec (.pressBackward n) s = .next t ∧ Ended n ((backwardSpans s j r).filter (fun x => x.write)) s t := by
  obtain ⟨v, hv, hgo⟩ := withMemOr_of_canAccess ha
  have hx : exec (.pressBackward n) s = _ := runOp_ready h
  dsimp only at hx
  rw [hfirst, if_neg Bool.false_ne_true, hr] at hx
  dsimp only at hx
  rw [he] at hx
  dsimp only at hx
  rw [hreg] at hx
  dsimp only at hx
  rw [hgo] at hx
  refine ⟨_, hx, WroteIn.ended (.after (.of_only (stainIf_only _ _ _ _)) (.after (.of_only (stainIf_only _ _ _ _))
    (.after (.of_only (stainIf_only _ _ _ _)) (.after (.of_only (coreCount_only _ _ _ _)) (.after (wroteIn_writeDq (s := s) ?_
      (fun b => length_dQ_of_mem_backRows) ?_) (wroteIn_addGrads (s := s) (hv.part j) (fun b hb x => backRows_bounds he hb) (fun hL => ?_)))))))
    (opJob_some.mp h).1 hv⟩
  · exact ((addGrads_only v j r _).part j).trans (hv.part j)
  · simp [backwardSpans, length_backRows, rd, wr]
  · simp [backwardSpans, rd, wr, hL]

end

/-! ## O52: PRESS_GRAD_DRAIN -/

section
variable {s : State} {n : Nat} {j : Job}

/-- PRESS_GRAD_DRAIN writes its rows, zeroes what it has read where it is told to, and ends (05 R156, R162). -/
theorem pressGradDrain_spec (h : opJob s n 0x0507 = some j) (hfirst : (coreAt s (part s j) (j.fld 46 1)).any (behindPriority s) = false)
    (he : gradDrainErr s j = none) (hr : regionErr s (gradDrainSpans s j) = none) (ha : CanAccess s n (gradDrainSpans s j)) :
    ∃ t, exec (.pressGradDrain n) s = .next t ∧ Ended n ((gradDrainSpans s j).filter (fun x => x.write)) s t := by
  obtain ⟨v, hv, hgo⟩ := withMemOr_of_canAccess ha
  have hx : exec (.pressGradDrain n) s = _ := pressOp_ready h hfirst
  rw [he] at hx
  dsimp only at hx
  rw [hr] at hx
  dsimp only at hx
  rw [hgo] at hx
  refine ⟨_, hx, WroteIn.ended (.after (.of_only (stainIf_only _ _ _ _)) (.after (.of_only (stainIf_only _ _ _ _))
    (.foldlWith (z := (v, false, false, false)) (fun z k hk => ?_)))) (opJob_some.mp h).1 hv⟩
  have hk := List.mem_range.mp hk
  have hout : wr (part s j) (j.va 24) (j.fld 32 4 * (32 * j.fld 36 1) * elemSize (j.fmt 24)) ∈
      (gradDrainSpans s j).filter (fun x => x.write) := by simp [gradDrainSpans, rd, wr]
  have hrow : ∀ (ys : List Val) soil, ys.length = 32 * j.fld 36 1 → WroteIn ((gradDrainSpans s j).filter (fun x => x.write)) z.1
      (writeAt z.1 (part s j) (j.va 24 + k * (32 * j.fld 36 1) * elemSize (j.fmt 24)) (encodeAll (j.fmt 24) (Rnd.ofCode (j.bits 37 0 2)) ys).1
        soil) := fun ys soil hys =>
    .row hout hk (length_encodeAll _ _ _) (by rw [hys, Nat.mul_assoc]) (by rw [hys, Nat.mul_assoc])
  dsimp only
  split
  next hzero =>
    have hsource : wr (part s j) (j.va 16) (j.fld 32 4 * (32 * j.fld 36 1) * 20) ∈ (gradDrainSpans s j).filter (fun x => x.write) := by
      simp [gradDrainSpans, rd, wr, beq_iff_eq.mp hzero]
    refine .after (.row hsource hk List.length_replicate (by rw [Nat.mul_assoc, Nat.mul_comm 20]) (by rw [Nat.mul_assoc, Nat.mul_comm 20]))
      (hrow _ _ ?_)
    split <;> simp [length_rotateBack]
  next =>
    refine hrow _ _ ?_
    split <;> simp [length_rotateBack]

end

/-! ## O52: DECODE_BATCH -/

section
variable {s u : State} {n k : Nat} {j : Job}

theorem ticketOf_congr {t : State} (h : t.tp.tickets = s.tp.tickets) (p k : Nat) : ticketOf t p k = ticketOf s p k := by
  rw [ticketOf, h, ticketOf]

@[simp] theorem ticketOf_setTicket_same (s : State) (p k : Nat) (x : Ticket) : ticketOf (setTicket s p k x) p k = x := tget_tset_same

theorem tickets_setTicket_ne {p q : Nat} (hq : q ≠ p * 256 + k) (x : Ticket) :
    tget (fun _ => ticket0) (setTicket s p k x).tp.tickets q = tget (fun _ => ticket0) s.tp.tickets q := tget_tset_ne hq

/-- The lowest free counter of 240 to 255 of a partition that has one. -/
theorem exists_freeCounter {p : Nat} (hlo : 240 ≤ k) (hhi : k < 256) (hfree : (ticketOf s p k).job = none) :
    ∃ m, ((List.range 16).map (fun i => 240 + i)).find? (fun k => (ticketOf s p k).job.isNone) = some m ∧ 240 ≤ m ∧ m < 256 ∧
      (ticketOf s p m).job = none := by
  have hsome : (((List.range 16).map (fun i => 240 + i)).find? (fun k => (ticketOf s p k).job.isNone)).isSome := by
    rw [List.find?_isSome]
    exact ⟨k, List.mem_map.mpr ⟨k - 240, List.mem_range.mpr (by omega), by omega⟩, by simp [hfree]⟩
  obtain ⟨m, hm⟩ := Option.isSome_iff_exists.mp hsome
  obtain ⟨i, hi, rfl⟩ := List.mem_map.mp (List.mem_of_find?_eq_some hm)
  have hi := List.mem_range.mp hi
  exact ⟨240 + i, hm, by omega, by omega, by simpa using List.find?_some hm⟩

section
variable (h : opJob s n 0x0501 = some j) (hlo : 240 ≤ k) (hhi : k < 256) (hfree : (ticketOf s (part s j) k).job = none)
  (he : batchErr j = none) (hgo : tierSays s n [rd (part s j) (j.va 16) (32 * j.fld 32 2)] = (.go, []))
  (hu : u = accessed s n (dieOfJob s n) [rd (part s j) (j.va 16) (32 * j.fld 32 2)] [])
  (hentries : ∀ i < j.fld 32 2, (batchEntry s (part s j) (j.va 16) i).ok = true ∧
    batchRegion s (part s j) n (batchEntry s (part s j) (j.va 16) i) ≠ none)
  (hwrong : batchWrong u j n = none) (hr : regionErr u (batchOuts u j n) = none)
include h hlo hhi hfree he hgo hu hentries hwrong hr

theorem exec_decodeBatch : ∃ m, 240 ≤ m ∧ m < 256 ∧ (ticketOf s (part s j) m).job = none ∧ ∃ order lens,
    exec (.decodeBatch n) s = .next (keepRunning (modJob (takeTicket u (part s j) m n (j.fld 32 2 * (batchF j).kc) order lens) n
      (fun j => { j with status := stDone, detail := 0 })) n) := by
  obtain ⟨m, hm, hmlo, hmhi, hmfree⟩ := exists_freeCounter hlo hhi hfree
  have hx : exec (.decodeBatch n) s = _ := runOp_ready h
  dsimp only at hx
  rw [hm] at hx
  dsimp only at hx
  rw [he] at hx
  dsimp only at hx
  rw [withMem, withMemOr, withMemBy, hgo] at hx
  dsimp only at hx
  rw [← hu, if_neg (by simpa using ⟨fun i hi => (hentries i hi).1, fun i hi => (hentries i hi).2⟩), hwrong] at hx
  dsimp only at hx
  rw [hr] at hx
  exact ⟨m, hmlo, hmhi, hmfree, _, _, hx⟩

/-- DECODE_BATCH takes a free counter for its pairs and runs (05 R153, R161, 11 R371). -/
theorem decodeBatch_spec : ∃ t m, exec (.decodeBatch n) s = .next t ∧ Runs t n ∧ OtherJobs n s t ∧ 240 ≤ m ∧ m < 256 ∧
    (ticketOf s (part s j) m).job = none ∧ (ticketOf t (part s j) m).job = some n ∧
    (ticketOf t (part s j) m).limit = j.fld 32 2 * (batchF j).kc ∧
    (∀ q, q ≠ part s j * 256 + m → tget (fun _ => ticket0) t.tp.tickets q = tget (fun _ => ticket0) s.tp.tickets q) ∧
    OnlyParts (tierParts.append [.tickets]) s t := by
  obtain ⟨m, hmlo, hmhi, hmfree, order, lens, hx⟩ := exec_decodeBatch h hlo hhi hfree he hgo hu hentries hwrong hr
  have hv : Accessed s u := hu ▸ accessed_accessed _ _ _ _ _
  have hreach : OnlyParts (accessParts ++ [.tickets]) s (takeTicket u (part s j) m n (j.fld 32 2 * (batchF j).kc) order lens) :=
    .after (takeTicket_only _ _ _ _ _ _ _) hv.frame.sub
  have hend := (keepRunning_only _ n).after (modJob_only (takeTicket u (part s j) m n (j.fld 32 2 * (batchF j).kc) order lens) n
    (fun j => { j with status := stDone, detail := 0 }))
  have htickets := hend .tickets (by decide)
  have hjob := (job?_congr hreach.jobs n).trans (opJob_some.mp h).1
  refine ⟨_, m, hx, runs_keepRunning (job?_modJob (fun _ => rfl) hjob),
    ((OtherJobs.of_jobs hreach.jobs).trans (otherJobs_modJob (f := fun j => { j with status := stDone, detail := 0 })
      (fun _ => rfl))).trans otherJobs_keepRunning, hmlo, hmhi, hmfree, ?_, ?_,
    fun q hq => ?_, .after hend hreach.sub⟩
  · rw [ticketOf_congr htickets]
    simp [takeTicket]
  · rw [ticketOf_congr htickets]
    simp [takeTicket]
  · rw [htickets, ← hv.frame .tickets (by decide)]
    exact tickets_setTicket_ne hq _

end

end

end Sys2Proof.Machine

namespace Sys2Proof.Machine

-- As above: proofs are elaborated one after another.
set_option Elab.async false

/-! ## What a Stain bit that is set leaves as it is -/

section
variable {s t : State} {off : Nat}

/-- t is s but for the register at `off` and the Stain log. -/
structure Noted (off : Nat) (s t : State) : Prop where
  regs : OtherRegs [off] s t
  frame : OnlyParts [.regs, .log] s t
  rest : ∃ regs ob, t = { s with regs := regs, ob := ob }

theorem Noted.refl (off : Nat) (s : State) : Noted off s s := ⟨.refl _ s, .refl _ s, s.regs, s.ob, rfl⟩

theorem noted_stainIf (b : Bool) (s : State) (off bit : Nat) : Noted off s (stainIf b s off bit) where
  regs := .ite (otherRegs_setStain s off bit) (.refl _ _)
  frame := stainIf_only b s off bit
  rest := by
    unfold stainIf setStain
    split
    · split
      · exact ⟨s.regs, s.ob, rfl⟩
      · dsimp only
        split
        · exact ⟨_, s.ob, rfl⟩
        · split
          · exact ⟨_, _, rfl⟩
          · exact ⟨_, _, rfl⟩
    · exact ⟨s.regs, s.ob, rfl⟩

namespace Noted
variable (h : Noted off s t)
include h

theorem rfield {o : Nat} (ho : o ≠ off) (lo len : Nat) : Machine.rfield t o lo len = Machine.rfield s o lo len :=
  rfield_of_rreg (h.regs o (by simpa using ho)) lo len

/-! Named objects, regions, memory, soil and pages do not read registers or the Stain log. -/

theorem job? (n : Nat) : Machine.job? t n = Machine.job? s n := by obtain ⟨_, _, rfl⟩ := h.rest; rfl

theorem part (j : Job) : Machine.part t j = Machine.part s j := by obtain ⟨_, _, rfl⟩ := h.rest; rfl

theorem pressGeo (j : Job) : Machine.pressGeo t j = Machine.pressGeo s j := by obtain ⟨_, _, rfl⟩ := h.rest; rfl

theorem sourceOf (j : Job) (f : PressF) (a b : Bool) : Machine.sourceOf t j f a b = Machine.sourceOf s j f a b := by
  obtain ⟨_, _, rfl⟩ := h.rest; rfl

theorem regionErr (xs : List Span) : Machine.regionErr t xs = Machine.regionErr s xs := by obtain ⟨_, _, rfl⟩ := h.rest; rfl

theorem boundRows (j : Job) (src : KvSrc) : Machine.boundRows t j src = Machine.boundRows s j src := by
  obtain ⟨_, _, rfl⟩ := h.rest; rfl

theorem boundOuts (j : Job) (src : KvSrc) : Machine.boundOuts t j src = Machine.boundOuts s j src := by
  obtain ⟨_, _, rfl⟩ := h.rest; rfl

theorem boundIns (j : Job) (src : KvSrc) : Machine.boundIns t j src = Machine.boundIns s j src := by
  obtain ⟨_, _, rfl⟩ := h.rest; rfl

theorem pagesIn (p fuel va e : Nat) : Machine.pagesIn t p fuel va e = Machine.pagesIn s p fuel va e := by
  have hobj : ∀ a, objAt t p a = objAt s p a := fun a => by obtain ⟨_, _, rfl⟩ := h.rest; rfl
  induction fuel generalizing va with
  | zero => rfl
  | succ fuel ih => simp only [Machine.pagesIn, hobj, ih]

theorem spanSays (n : Nat) (x : Span) : Machine.spanSays t n x = Machine.spanSays s n x := by
  have hpages := h.pagesIn x.place
  obtain ⟨_, _, rfl⟩ := h.rest
  simp only [Machine.spanSays, hpages]
  rfl

theorem t1Used (p : Nat) : Machine.t1Used t p = Machine.t1Used s p := by obtain ⟨_, _, rfl⟩ := h.rest; rfl

/-! Cores in service, quotas and the carrier hang on registers of their own. -/

theorem diesOf (hoff : ∀ p, rPartCfg p ≠ off) (p : Nat) : Machine.diesOf t p = Machine.diesOf s p := h.rfield (hoff p) 0 8

theorem boot : t.boot = s.boot := by obtain ⟨_, _, rfl⟩ := h.rest; rfl

/-- Check 9 of the Press operations hangs on the partition's dies beside. -/
theorem pressErr (hoff : ∀ p, rPartCfg p ≠ off) (j : Job) (f : PressF) (q : PressRule) :
    Machine.pressErr t j f q = Machine.pressErr s j f q := by
  have hcore : ∀ k, badCore t j k = badCore s j k := fun k => by
    rw [badCore, coreAt_congr h.boot (h.diesOf hoff), h.part, badCore]
  have hlive : ∀ p, liveCores t p = liveCores s p := fun p => by rw [liveCores, coresOf, h.diesOf hoff, h.boot, liveCores, coresOf]
  simp only [Machine.pressErr, h.pressGeo, hcore, hlive, h.part]

theorem atQuota (hoff : ∀ p, rTmPart p ≠ off) (p k : Nat) : Machine.atQuota t p k = Machine.atQuota s p k := by
  unfold Machine.atQuota
  rw [h.rfield (hoff p), h.t1Used]

theorem roomFor (hoff : ∀ p, rTmPart p ≠ off) (p k : Nat) : Machine.roomFor t p k = Machine.roomFor s p k := by
  rw [Machine.roomFor, h.atQuota hoff, t1Total, funext h.t1Used, Machine.roomFor, t1Total]

theorem evictable (hdeep : rDtStatus ≠ off) (p a : Nat) (g : Page) : Machine.evictable t p a g = Machine.evictable s p a g := by
  have hleave : mayLeave t p a = mayLeave s p a := by obtain ⟨_, _, rfl⟩ := h.rest; rfl
  rw [Machine.evictable, deepReady, h.rfield hdeep, hleave, Machine.evictable, deepReady]

theorem mayTake (hoff : ∀ p, rTmPart p ≠ off) (p q : Nat) : Machine.mayTake t p q = Machine.mayTake s p q := by
  unfold Machine.mayTake
  rw [h.rfield (hoff q), h.t1Used]

theorem canEvict (hoff : ∀ p, rTmPart p ≠ off) (hdeep : rDtStatus ≠ off) (p k : Nat) : Machine.canEvict t p k = Machine.canEvict s p k := by
  have hpages : allPages t = allPages s := by obtain ⟨_, _, rfl⟩ := h.rest; rfl
  have hold : oldEntry t = oldEntry s := by obtain ⟨_, _, rfl⟩ := h.rest; rfl
  simp only [Machine.canEvict, hpages, hold, h.atQuota hoff, h.mayTake hoff, h.evictable hdeep]

/-- What the tiers say to accesses hangs on the partitions' quotas and the carrier beside. -/
theorem tierSays (hoff : ∀ p, rTmPart p ≠ off) (hdeep : rDtStatus ≠ off) (n : Nat) (xs : List Span) :
    Machine.tierSays t n xs = Machine.tierSays s n xs := by
  have hwaits : t.tm.waits = s.tm.waits := by obtain ⟨_, _, rfl⟩ := h.rest; rfl
  simp only [Machine.tierSays, h.spanSays, h.roomFor hoff, h.canEvict hoff hdeep, hwaits]

end Noted
end

/-! ## O52: RECALL_BOUND -/

section
variable {s : State} {n : Nat} {j : Job} {src : KvSrc}

theorem rPartCfg_ne_rKvStain (p : Nat) : rPartCfg p ≠ rKvStain := by simp only [rPartCfg, rKvStain]; omega

theorem rTmPart_ne_rKvStain (p : Nat) : rTmPart p ≠ rKvStain := by simp only [rTmPart, rKvStain]; omega

/-- What waits for leaves goes on where they have come, or where there are none. -/
theorem withLeaves_ready {p obj : Nat} {groups : List (Nat × Nat × Nat × Nat)} {fault : Nat → Nat → State} {perform : State → State}
    (hcome : ∀ w, s.tm.leaves.find? (fun w => w.job == n) = some w → w.groups = [])
    (hnear : s.tm.leaves.find? (fun w => w.job == n) = none → groups = []) : withLeaves s n p obj groups fault perform = perform s := by
  unfold withLeaves
  cases hw : s.tm.leaves.find? (fun w => w.job == n) with
  | some w => simp [hcome w hw]
  | none => simp [hnear hw]

/-- RECALL_BOUND whose spilled leaves have been evaluated bounds its row-heads once it has noted soiled nodes (06 R188, R191). -/
theorem exec_recallBound (h : opJob s n 0x0606 = some j) (hcome : ∀ w, s.tm.leaves.find? (fun w => w.job == n) = some w → w.groups = [])
    (hnear : s.tm.leaves.find? (fun w => w.job == n) = none → boundFar s j = []) :
    exec (.recallBound n) s = .next (boundExec (stainIf (boundSoil s j) s rKvStain 0) j) :=
  (runOp_ready h).trans (congrArg _ (withLeaves_ready hcome hnear))

/-- BOUND or RECALL_BOUND writes its references alone and ends, with a Stain bit noted before at most (05 R140, R148, 06 R191). -/
theorem boundExec_noted {t : State} (ht : Noted rKvStain s t) (hj : job? s n = some j)
    (he : pressErr s j (pressF j) ⟨true, false, false⟩ = none) (hs : sourceOf s j (pressF j) false false = .inr src)
    (hr : regionErr s (boundOuts s j src) = none) (ha : CanAccess s n (boundIns s j src ++ boundOuts s j src)) :
    Ended n (boundOuts s j src) s (boundExec t j) ∧ ((pressF j).fin = false → ∀ i x, (boundRows s j src)[i]? = some x →
      bytesAt (boundExec t j) (part s j) (j.xva 24 + 4 * i) 4 = leBytes 4 (fp32Bits x.m)) := by
  have hgo : CanAccess t n (boundIns t j src ++ boundOuts t j src) := by
    rw [ht.boundIns, ht.boundOuts]
    exact ha.imp (fun _ hgo => (ht.tierSays rTmPart_ne_rKvStain (by decide) _ _).trans hgo)
  obtain ⟨hend, hrefs⟩ := boundExec_spec ((ht.job? n).trans hj) ((ht.pressErr rPartCfg_ne_rKvStain _ _ _).trans he)
    ((ht.sourceOf _ _ _ _).trans hs) (by rw [ht.boundOuts, ht.regionErr, hr]) hgo
  rw [ht.boundOuts] at hend
  rw [ht.boundRows, ht.part] at hrefs
  exact ⟨hend.after_only ht.frame, hrefs⟩

end

/-- Settles O52: each operation by its own lemma; BOUND and RECALL_BOUND, which bounds after a Stain bit is noted, by one. -/
theorem pressReadsAndWrites : Obligations.PressReadsAndWrites := by
  unfold Obligations.PressReadsAndWrites
  refine ⟨fun n s j src h he hfirst hs hc hr ha => ?_, fun c n op s j src hc h he hs hr ha => ?_,
    fun n s j h hfirst he hr ha => Ended.claims (finishPress_spec h hfirst he hr ha),
    fun n s j src h he hfirst hs hr ha => Ended.claims (pleat_spec h he hfirst hs hr ha),
    fun n s j r h hr hfirst he hreg ha => Ended.claims (pressBackward_spec h hr hfirst he hreg ha),
    fun n s j h hfirst he hr ha => Ended.claims (pressGradDrain_spec h hfirst he hr ha),
    fun n s u j k h hlo hhi hfree he hgo hu hentries hwrong hr => decodeBatch_spec h hlo hhi hfree he hgo hu hentries hwrong hr⟩
  · obtain ⟨t, hx, hend, hrecs⟩ := press_spec h he hfirst hs hc hr ha
    exact ⟨t, hx, hend.completes, hend.jobs, hend.bytes, hrecs, hend.frame⟩
  · obtain ⟨t, ht, hx⟩ : ∃ t, Noted rKvStain s t ∧ exec c s = .next (boundExec t j) := by
      rcases hc with ⟨rfl, rfl, hfirst⟩ | ⟨rfl, rfl, hleaves⟩
      · exact ⟨s, .refl _ s, pressOp_ready h hfirst⟩
      · exact ⟨_, noted_stainIf _ _ _ _, exec_recallBound h (fun w hw => by simpa only [hw] using hleaves)
          (fun hw => by simpa only [hw] using hleaves)⟩
    obtain ⟨hend, hrefs⟩ := boundExec_noted ht (opJob_some.mp h).1 he hs hr ha
    exact ⟨_, hx, hend.completes, hend.jobs, hend.bytes, hrefs, hend.frame⟩

end Sys2Proof.Machine

namespace Sys2Proof.Machine

-- As above: proofs are elaborated one after another.
set_option Elab.async false

/-! ## O58: the frames of the commands of the boot, the links, the collectives and the Spins -/

section
variable {s t : State} {ps : List Part}

/-! ### The boot -/

theorem measure_only (s : State) (m : Nat) (bs : List Byte) : OnlyParts [.regs] s (measure s m bs) := .foldl (fun _ _ => wreg_only _ _ _) _ _

theorem measurePart_only (s : State) : OnlyParts [.regs] s (measurePart s) := measure_only _ _ _

theorem setPlan_only (s : State) (b : List Byte) : OnlyParts [.regs, .boot] s (setPlan s b) :=
  .after (measure_only _ _ _) (bootSet_only _ _).sub

theorem sizePort_only (s : State) (pt : Nat) : OnlyParts abortParts s (sizePort s pt) :=
  .ite (.ite (setPortState_only _ _ _ _).sub (.refl _ _))
    (.ite (.refl _ _) (.after (setPortState_only _ _ _ _) (.ite (.refl _ _) (portDown_only _ _))))

theorem reevaluate_only (s : State) (pt : Nat) : OnlyParts abortParts s (reevaluate s pt) := by
  have hnote := (sizePort_only s pt).seq (noteOutcome_only _ pt)
  unfold reevaluate
  dsimp only
  split
  · split
    · exact (sizePort_only s pt).trans (quarantine_only _ _ _)
    · exact hnote
  · exact hnote

theorem tryReady_only (s : State) : OnlyParts [.regs, .log] s (tryReady s) :=
  .ite (.after (stainIf_only _ _ _ _) (setBoot_only _ _).sub) (.refl _ _)

theorem bootFail_only (s : State) (code detail : Nat) : OnlyParts [.regs, .log, .ports, .boot] s (bootFail s code detail) :=
  .after (portsDark_only _) (bootError_only _ _ _ _).sub

theorem startSet_only (s : State) (t : DWord) (b : Bool) :
    OnlyParts [.now, .pins] s { s with now := t, pw := { s.pw with perst := b } } := fun p hp => by
  cases p <;> simp_all [Part.same]

theorem countingSet_only (s : State) (b : Boot) (c : Bool) :
    OnlyParts [.boot, .counting] s { s with boot := b, ob := { s.ob with counting := c } } := fun p hp => by
  cases p <;> simp_all [Part.same]

theorem advertsSet_only (s : State) (b : Boot) (l : Tab (Option Advert)) :
    OnlyParts [.boot, .adverts] s { s with boot := b, ob := { s.ob with adverts := l } } := fun p hp => by
  cases p <;> simp_all [Part.same]

theorem nowSet_only (s : State) (t : DWord) : OnlyParts [.now] s { s with now := t } := fun p hp => by
  cases p <;> simp_all [Part.same]

theorem setNow_only (s : State) (t : DWord) : OnlyParts [.now, .snaps] s (setNow s t) :=
  (nowSet_only s t).sub.trans (.foldl (fun _ _ => .ite (setSnap_only _ _ _).sub (.refl _ _)) _ _)

theorem bootStart_only (s : State) : ∃ t, exec .bootStart s = .next t ∧ OnlyParts [.now, .pins] s t := runIf_only (startSet_only _ _ _)

theorem strapsDone_only (raw : BitVec 13) (s : State) :
    ∃ t, exec (.strapsDone raw) s = .next t ∧ OnlyParts [.regs, .boot, .log, .ports] s t :=
  runIf_only (.ite (.after (setBoot_only _ _) (wreg_only _ _ _).sub)
    (.after (portsDark_only _) (.after (bootError_only _ _ _ _) (wreg_only _ _ _).sub)))

theorem bootInputsFetched_only (image record plan : Option (List Byte)) (s : State) :
    ∃ t, exec (.bootInputsFetched image record plan) s = .next t ∧ OnlyParts [.regs, .boot, .log] s t := by
  have herr : ∀ u code detail st, OnlyParts [.regs, .boot, .log] s u → OnlyParts [.regs, .boot, .log] s (bootError u code detail st) :=
    fun u code detail st hu => hu.seq (bootError_only u code detail st)
  have hsvn : ∀ (c : Prop) [Decidable c] b, OnlyParts [.regs, .boot, .log] s (if c then { s with boot := b } else s) :=
    fun c _ b => .ite (bootSet_only _ _).sub (.refl _ _)
  refine runIf_only ?_
  dsimp only
  split
  · exact herr _ _ _ _ (.refl _ _)
  · exact herr _ _ _ _ (.refl _ _)
  · exact herr _ _ _ _ (.refl _ _)
  split
  · exact (herr _ _ _ _ (.refl _ _)).seq (setStain_only _ _ _)
  split
  · exact herr _ _ _ _ (hsvn _ _)
  · exact herr _ _ _ _ (hsvn _ _)
  · exact .after (setBoot_only _ _) (.after (setPlan_only _ _) (.after (measurePart_only _) (.after (measure_only _ _ _)
      (.after (measure_only _ _ _) (.after (measure_only _ _ _) (.after (bootSet_only _ _) (hsvn _ _)))))))

theorem bootLoadDone_only (s : State) :
    ∃ t, exec .bootLoadDone s = .next t ∧ OnlyParts (abortParts.append [.boot, .counting, .tileProgs]) s t :=
  runIf_only (.ite (bootFail_only _ _ _).sub (.trans (.after (setBoot_only _ _) (.after (countingSet_only _ _ _) (wreg_only _ _ _).sub))
    (.foldl (fun _ _ => (sizePort_only _ _).sub) _ _)))

theorem bringupDone_only (s : State) : ∃ t, exec .bringupDone s = .next t ∧ OnlyParts [.regs] s t := runIf_only (setBoot_only _ _)

theorem hbmTrainingDone_only (x : Training) (s : State) :
    ∃ t, exec (.hbmTrainingDone x) s = .next t ∧ OnlyParts [.regs, .boot, .log, .ports] s t := by
  have hspares : OnlyParts [.regs, .boot, .log, .ports] s
      ((x.spares.take 12).zipIdx.foldl (fun t e => wfield t (rHm e.2) 16 8 e.1.toNat) s) := .foldl (fun _ _ => (wfield_only _ _ _ _ _).sub) _ _
  exact runIf_only (.ite (.ite (hspares.seq (bootSet_only _ _)) (hspares.seq (bootFail_only _ _ _)))
    (.after (tryReady_only _) (hspares.seq (bootSet_only _ _))))

theorem selftestDone_only (failure : Option (Bool × Fin 16)) (s : State) :
    ∃ t, exec (.selftestDone failure) s = .next t ∧ OnlyParts [.regs, .boot, .log, .ports] s t := by
  refine ⟨_, rfl, ?_⟩
  split
  · exact .refl _ _
  · exact .ite (bootFail_only _ _ _).sub (.refl _ _)

theorem discoveryWindowClose_only (s : State) :
    ∃ t, exec .discoveryWindowClose s = .next t ∧ OnlyParts [.regs, .boot, .log] s t := by
  have hclosed : ∀ (c : Bool) b, OnlyParts [.regs, .boot, .log] s
      (if c then s else (List.range 16).foldl noteOutcome { s with boot := b }) := fun c b =>
    .ite (.refl _ _) ((bootSet_only s b).sub.trans (.foldl (fun _ _ => (noteOutcome_only _ _).sub) _ _))
  exact runIf_only (.ite (hclosed _ _) (.after (setBoot_only _ _) (.after (bootSet_only _ _) (hclosed _ _))))

theorem joinTimeout_only (s : State) : ∃ t, exec .joinTimeout s = .next t ∧ OnlyParts [.regs, .boot, .log] s t :=
  runIf_only (.after (tryReady_only _) (.after (setStain_only _ _ _) (bootSet_only s _).sub))

theorem stitchLock_only (t : DWord) (s : State) :
    ∃ u, exec (.stitchLock t) s = .next u ∧ OnlyParts [.now, .regs, .boot, .adverts, .snaps, .log] s u :=
  runIf_only (.after (tryReady_only _) (.after (setNow_only _ _) (advertsSet_only s _ _).sub))

theorem planLoad_only (n : Nat) (plan : Option (List Byte)) (s : State) :
    ∃ t, exec (.planLoad n plan) s = .next t ∧ OnlyParts (abortParts.append [.boot, .tileProgs]) s t := by
  refine runOp_only (fun j => ?_)
  split
  · exact (finish_only _ _ _).sub
  refine .ite (markWaits_only _ _).sub ?_
  split
  · exact (finish_only _ _ _).sub
  · refine .ite (.after (finish_only _ _ _) (count_only _ _ _).sub) (.after (finish_only _ _ _) (.trans ?_
      (.foldl (fun _ _ => (reevaluate_only _ _).sub) _ _)))
    exact .after (setPlan_only _ _) (count_only _ _ _).sub

theorem attest_only (n : Nat) (s : State) : ∃ t, exec (.attest n) s = .next t ∧ OnlyParts [.out, .regs, .counts, .jobs] s t :=
  runOp_only (fun _ => .ite (finish_only _ _ _).sub (.ite (markWaits_only _ _).sub
    (.after (finish_only _ _ _) (.after (hostPut_only _ _ _ _ _) (measurePart_only _).sub))))

/-! ### The Stitch -/

theorem advertExpire_only (pt : Fin 16) (s : State) :
    ∃ t, exec (.advertExpire pt) s = .next t ∧ OnlyParts [.regs, .adverts, .log] s t := by
  refine ⟨_, rfl, ?_⟩
  split
  · exact .ite (.after (noteLock_only _ _) (setAdvert_only _ _ _).sub) (.refl _ _)
  · exact .refl _ _

theorem syncFrame_only (pt : Fin 16) (y : Sync) (s : State) :
    ∃ t, exec (.syncFrame pt y) s = .next t ∧ OnlyParts [.regs, .counts, .adverts, .log, .ports] s t :=
  ⟨_, rfl, arriveVct_only _ (fun _ => .after (noteLock_only _ _) (setAdvert_only _ _ _).sub)⟩

theorem syncPairTimer_only (pt : Fin 16) (s : State) :
    ∃ t, exec (.syncPairTimer pt) s = .next t ∧ OnlyParts [.out, .counts, .ports] s t := runIf_only (push_only _ _ _ _)

/-! ### Ports and lanes -/

theorem startTraining_only (s : State) (pt : Nat) : OnlyParts [.regs, .ports] s (startTraining s pt) :=
  .after (setPortState_only _ _ _ _) (modPort_only _ _ _).sub

theorem lightReceived_only (pt : Fin 16) (s : State) : ∃ t, exec (.lightReceived pt) s = .next t ∧ OnlyParts [.regs, .ports] s t :=
  runIf_only (startTraining_only _ _)

theorem trainingRetry_only (pt : Fin 16) (s : State) : ∃ t, exec (.trainingRetry pt) s = .next t ∧ OnlyParts [.regs, .ports] s t :=
  runIf_only (startTraining_only _ _)

theorem trainingComplete_only (pt : Fin 16) (rx tx : BitVec 18) (s : State) :
    ∃ t, exec (.trainingComplete pt rx tx) s = .next t ∧ OnlyParts [.free, .out, .regs, .ports] s t :=
  runIf_only (.ite (.after (modPort_only _ _ _) (setPortState_only _ _ _ _).sub)
    (.after (sendHello_only _ _) (.after (modPort_only _ _ _) (setPortState_only _ _ _ _).sub)))

theorem sendSignature_only (s : State) (pt : Nat) (mine : BitVec 256) (h : BitVec 12 × Nat × BitVec 256 × BitVec 512) :
    OnlyParts [.out] s (sendSignature s pt mine h) := send_only _ _

theorem hello_only (pt : Fin 16) (m : BitVec 12) (port : Fin 16) (nonce : BitVec 256) (key : BitVec 512) (s : State) :
    ∃ t, exec (.hello pt m port nonce key) s = .next t ∧ OnlyParts [.free, .out, .ports] s t :=
  ⟨_, rfl, .ite (.after (sendSignature_only _ _ _ _) (modPort_only _ _ _).sub)
    (.ite (.after (sendSignature_only _ _ _ _) (.after (send_only _ _) (nonceDrawn_only _).sub)) (.refl _ _))⟩

theorem portComesUp_only (s : State) (pt : Nat) : OnlyParts [.regs, .ports, .log, .out, .counts] s (portComesUp s pt) :=
  .after (push_only _ _ _ _) (.after (noteOutcome_only _ _) (.after (stainIf_only _ _ _ _) (.after (setPort_only _ _ _)
    (setPortState_only _ _ _ _).sub)))

theorem authSignature_only (pt : Fin 16) (sig : List Byte) (s : State) :
    ∃ t, exec (.authSignature pt sig) s = .next t ∧ OnlyParts (abortParts.append [.tileProgs]) s t := by
  refine ⟨_, rfl, ?_⟩
  split
  · exact .refl _ _
  · refine .ite (.refl _ _) (.ite ?_ (.after (quarantine_only _ _ _) (setStain_only _ _ _).sub))
    dsimp only
    split
    · exact .after (quarantine_only _ _ _) (modPort_only _ _ _).sub
    · exact .after (portComesUp_only _ _) (modPort_only _ _ _).sub

theorem portSilenceTimeout_only (pt : Fin 16) (s : State) : ∃ t, exec (.portSilenceTimeout pt) s = .next t ∧ OnlyParts abortParts s t :=
  ⟨_, rfl, .ite (portDown_only _ _) (.ite (noteOutcome_only _ _).sub (.refl _ _))⟩

theorem lossOfLight_only (pt : Fin 16) (ln : Fin 18) (s : State) : ∃ t, exec (.lossOfLight pt ln) s = .next t ∧ OnlyParts abortParts s t :=
  ⟨_, rfl, laneFail_only _ _ _ _⟩

theorem laneBerFail_only (pt : Fin 16) (ln : Fin 18) (s : State) : ∃ t, exec (.laneBerFail pt ln) s = .next t ∧ OnlyParts abortParts s t :=
  ⟨_, rfl, laneFail_only _ _ _ _⟩

theorem laneChangeNotice_only (pt : Fin 16) (ln : Fin 18) (s : State) :
    ∃ t, exec (.laneChangeNotice pt ln) s = .next t ∧ OnlyParts abortParts s t := ⟨_, rfl, laneFail_only _ _ _ _⟩

theorem laneSwap_only (s : State) (pt : Nat) (rx : Bool) : OnlyParts [.regs, .log, .ports] s (laneSwap s pt rx) :=
  .ite (setStain_only _ _ _).sub (.after (setStain_only _ _ _) (setPort_only _ _ _).sub)

theorem resend_only (s : State) (pt : Nat) (seq : Option (BitVec 16)) : OnlyParts [.out, .counts, .ports] s (resend s pt seq).1 :=
  .after (addCnt_only _ _ _) (.after (portCount_only _ _ _ _) ((setPort_only _ _ _).sub.trans (.foldl (fun _ _ => (send_only _ _).sub) _ _)))

theorem laneChangeDone_only (pt : Fin 16) (s : State) : ∃ t, exec (.laneChangeDone pt) s = .next t ∧ OnlyParts abortParts s t := by
  refine ⟨_, rfl, ?_⟩
  split
  · exact .refl _ _
  · next c cs _ =>
    have hswap : OnlyParts abortParts s (portCount (laneSwap (modPort s pt.val (fun x => { x with changes := cs })) pt.val c.1) pt.val 11 1) :=
      .after (portCount_only _ _ _ _) (.after (laneSwap_only _ _ _) (modPort_only _ _ _).sub)
    have hsent := hswap.seq (resend_only _ pt.val none)
    exact .ite hswap (.ite (hswap.trans (portDown_only _ _)) (.ite (.after (portDown_only _ _) (hsent.seq (setStain_only _ _ _)))
      (hsent.seq (flushWait_only _ _))))

theorem laneLightReturn_only (pt : Fin 16) (ln : Fin 18) (good : Bool) (s : State) :
    ∃ t, exec (.laneLightReturn pt ln good) s = .next t ∧ OnlyParts [.ports] s t := runIf_only (modPort_only _ _ _)

theorem idleFrameTimer_only (pt : Fin 16) (s : State) : ∃ t, exec (.idleFrameTimer pt) s = .next t ∧ OnlyParts [.out, .ports] s t :=
  runIf_only (.after (send_only _ _) (modPort_only _ _ _).sub)

theorem linkAckTimer_only (pt : Fin 16) (s : State) : ∃ t, exec (.linkAckTimer pt) s = .next t ∧ OnlyParts [.out, .ports] s t :=
  runIf_only (.after (send_only _ _) (modPort_only _ _ _).sub)

theorem creditReturnTimer_only (pt : Fin 16) (s : State) : ∃ t, exec (.creditReturnTimer pt) s = .next t ∧ OnlyParts [.out, .ports] s t :=
  runIf_only ((modPort_only _ _ _).sub.trans (.foldl (fun _ _ => .ite (.refl _ _) (send_only _ _).sub) _ _))

theorem linkAck_only (pt : Fin 16) (seq : BitVec 16) (s : State) :
    ∃ t, exec (.linkAck pt seq) s = .next t ∧ OnlyParts [.out, .counts, .ports, .casts] s t :=
  runIf_only (.after (flushCasts_only _) (.after (flushWait_only _ _) (setPort_only _ _ _).sub))

theorem linkNak_only (pt : Fin 16) (seq : BitVec 16) (s : State) : ∃ t, exec (.linkNak pt seq) s = .next t ∧ OnlyParts abortParts s t := by
  have hsent : ∀ f, OnlyParts abortParts s (resend (modPort s pt.val f) pt.val (some seq)).1 := fun f =>
    .after (resend_only _ _ _) (modPort_only _ _ _).sub
  exact runIf_only (.ite (.after (portDown_only _ _) ((hsent _).seq (setStain_only _ _ _))) (hsent _))

theorem creditReturn_only (pt : Fin 16) (vc : Fin 4) (k : Nat) (s : State) :
    ∃ t, exec (.creditReturn pt vc k) s = .next t ∧ OnlyParts [.out, .counts, .ports] s t :=
  runIf_only (.after (flushWait_only _ _) (modPort_only _ _ _).sub)

theorem frameCrcFail_only (pt : Fin 16) (corrected bad : Nat) (s : State) :
    ∃ t, exec (.frameCrcFail pt corrected bad) s = .next t ∧ OnlyParts [.out, .counts] s t :=
  runIf_only (.after (send_only _ _) (.after (addCnt_only _ _ _) (.after (addCnt_only _ _ _) (.after (portCount_only _ _ _ _)
    (portCount_only _ _ _ _).sub))))

/-! ### Windows and remote operations -/

theorem winsSet_only (s : State) (l : List Win) : OnlyParts [.wins] s { s with ol := { s.ol with wins := l } } := fun p hp => by
  cases p <;> simp_all [Part.same]

theorem windowOpen_only (n : Nat) (s : State) : ∃ t, exec (.windowOpen n) s = .next t ∧ OnlyParts [.jobs, .wins] s t := by
  refine runOp_only (fun j => ?_)
  dsimp only
  split
  · exact (finish_only _ _ _).sub
  · exact .after (finish_only _ _ _) (winsSet_only _ _).sub

theorem windowClose_only (n : Nat) (s : State) : ∃ t, exec (.windowClose n) s = .next t ∧ OnlyParts [.jobs, .wins] s t := by
  refine runOp_only (fun j => ?_)
  split
  · exact (finish_only _ _ _).sub
  · exact .after (finish_only _ _ _) (winsSet_only _ _).sub

theorem addRemOp_only (s : State) (o : RemOp) : OnlyParts [.ops, .casts] s (addRemOp s o) := fun p hp => by
  cases p <;> simp_all [Part.same, addRemOp]

theorem ownAccess_only (s : State) (j : Job) (write : Bool) (window off n : Nat) (key : DWord) :
    OnlyParts tierParts s (ownAccess s j write window off n key) := by
  unfold ownAccess
  dsimp only
  split
  · exact (finish_only _ _ _).sub
  · refine withMem_only (fun t => ?_)
    split
    · exact .refl _ _
    · exact .after (finish_only _ _ _) (writeAt_only _ _ _ _ _).sub

theorem remoteOp_only (s : State) (j : Job) (write : Bool) :
    OnlyParts (tierParts.append [.out, .ports, .ops, .casts]) s (remoteOp s j write) := by
  unfold remoteOp
  dsimp only
  split
  · exact (finish_only _ _ _).sub
  · refine .ite (ownAccess_only _ _ _ _ _ _ _).sub (.ite (finish_only _ _ _).sub (withMem_only (fun t => ?_)))
    exact .trans (.after (keepRunning_only _ _) (.after (addRemOp_only _ _) (ranOn_only _ _ _ _ _).sub))
      (.foldl (fun _ _ => (sendPlain_only _ _).sub) _ _)

theorem remotePegAdd_only (n : Nat) (s : State) :
    ∃ t, exec (.remotePegAdd n) s = .next t ∧ OnlyParts [.out, .counts, .jobs, .pegs, .ports, .ops, .casts] s t := by
  refine runOp_only (fun j => ?_)
  dsimp only
  split
  · exact (finish_only _ _ _).sub
  · exact .refl _ _
  · exact .ite (finish_only _ _ _).sub (.ite (.after (finish_only _ _ _) (addPeg_only _ _ _ _).sub) (.ite (finish_only _ _ _).sub
      (.after (sendFrame_only _ _ _) (.after (keepRunning_only _ _) (addRemOp_only _ _).sub))))

/-! ### Frames that arrive -/

theorem limitVcg_only (s : State) (pt : Nat) (fr : Frame) : OnlyParts [.ports] s (limitVcg s pt fr) := .ite (.refl _ _) (modPort_only _ _ _)

theorem arriveFrame_only (s : State) (e : Early) : OnlyParts landParts s (arriveFrame s e) := by
  have hgot : ∀ f, OnlyParts landParts s (modPort s e.pt f) := fun f => (modPort_only _ _ _).sub
  have htook : ∀ f n, OnlyParts landParts s (limitVcg (portCount (modPort s e.pt f) e.pt 4 n) e.pt e.fr) := fun f n =>
    .after (limitVcg_only _ _ _) (.after (portCount_only _ _ _ _) (hgot f))
  refine .ite (countReject_only _ _).sub (.ite (.refl _ _) (.ite (.ite (.refl _ _) (send_only _ _).sub)
    (.ite (.after (rejectOn_only _ _) (hgot _)) (.ite (.ite (.after (freeBuffer_only _ _) (htook _ _)) (.after (modPort_only _ _ _) (htook _ _)))
      (.ite (addWaits_only _ _).sub (.trans (.after (modPort_only _ _ _) (htook _ _)) (.foldl (fun _ _ => takeFrame_only _ _) _ _)))))))

theorem arriveCe_only (s : State) (pt : Nat) (fr : Frame) (b : CeBody) : OnlyParts landParts s (arriveCe s pt fr b) :=
  .ite (.ite (addWaits_only _ _).sub (takeFrame_only _ _)) (arriveFrame_only _ _)

/-- A frame on the fibre changes what its arrival does. -/
theorem frame_only {c : Instr} {e : Early} (h : exec c s = .next (arriveFrame s e)) : ∃ t, exec c s = .next t ∧ OnlyParts landParts s t :=
  ⟨_, h, arriveFrame_only _ _⟩

/-! ### Groups and their operations -/

theorem createGroup_only (s : State) (j : Job) : OnlyParts (tierParts.append [.out, .ports, .groups, .joins]) s (createGroup s j) := by
  unfold createGroup
  dsimp only
  refine .ite (finish_only _ _ _).sub ?_
  split
  · exact (finish_only _ _ _).sub
  split
  · exact (finish_only _ _ _).sub
  · refine .after (joinStep_only _ _) (.trans (.after (goneSet_only _ _) (.after (keepRunning_only _ _) (setGrp_only _ _ _).sub))
      (.foldl (fun _ _ => (sendCe_only _ _ _ _ _ _).sub) _ _))

theorem groupCreate_only (n : Nat) (s : State) :
    ∃ t, exec (.groupCreate n) s = .next t ∧ OnlyParts (tierParts.append [.out, .ports, .groups, .joins]) s t := by
  refine runOp_only (fun j => ?_)
  split
  · exact (finish_only _ _ _).sub
  · exact withMem_only (fun t => createGroup_only _ _)

theorem groupDestroy_only (n : Nat) (s : State) : ∃ t, exec (.groupDestroy n) s = .next t ∧ OnlyParts [.jobs, .groups, .joins] s t := by
  refine runOp_only (fun j => ?_)
  dsimp only
  split
  · exact .ite (.after (finish_only _ _ _) (destroyGrp_only _ _).sub) (.after (keepRunning_only _ _) (setGrp_only _ _ _).sub)
  · exact (finish_only _ _ _).sub

theorem groupWatchdogExpire_only (g : Fin 64) (s : State) :
    ∃ t, exec (.groupWatchdogExpire g) s = .next t ∧ OnlyParts (abortParts.append [.tileProgs, .joins]) s t := by
  refine ⟨_, rfl, ?_⟩
  split
  · exact .refl _ _
  · refine .ite (.refl _ _) ?_
    split
    · exact (failCreate_only _ _ _ _).sub
    · exact .ite (.refl _ _) (failRun_only _ _ _ _).sub
    · exact .refl _ _

theorem lagWindowEnd_only (w : Nat) (s : State) : ∃ t, exec (.lagWindowEnd w) s = .next t ∧ OnlyParts [.regs, .counts, .groups] s t := by
  have hput : ∀ l w' x v, OnlyParts [.regs, .counts, .groups] s
      (wcnt (wreg { s with ce := { s.ce with lag := l, window := w' } } rLaggard x) rLaggardWait v) := fun l w' x v =>
    .after (wcnt_only _ _ _) (.after (wreg_only _ _ _) (lagSet_only _ _ _).sub)
  refine runIf_only ?_
  dsimp only
  split
  · exact hput _ _ _ _
  · exact hput _ _ _ _

/-- A notice changes what passing it on and acting on it do. -/
theorem notice_only (pt : Nat) (origin : BitVec 12) (num : Word) (kind : Nat) (x : Notice) :
    OnlyParts abortParts s (takeCast s pt origin num (.notice kind x) (fun t => actNotice t kind x origin)) :=
  takeCast_only _ _ _ _ (fun _ => actNotice_only _ _ _ _)

theorem checkRun_only (s : State) (g : Nat) : OnlyParts abortParts s (checkRun s g) := by
  unfold checkRun
  split
  · exact .refl _ _
  split
  · exact .refl _ _
  dsimp only
  split
  · exact failRun_only _ _ _ _
  · exact .after (checkRoutes_only _ _) (setGrp_only _ _ _).sub

theorem startRun_only (s : State) (g : Nat) (x : Grp) (r : CollRun) : OnlyParts abortParts s (startRun s g x r) :=
  .after (checkRun_only _ _) (.trans (.after (keepRunning_only _ _) (setGrp_only _ _ _).sub)
    (.foldl (fun _ _ => (sendCe_only _ _ _ _ _ _).sub) _ _))

theorem endBroken_only (s : State) (n m : Nat) : OnlyParts [.jobs, .regs, .log] s (endBroken s n m) :=
  .after (collStain_only _ _) (finish_only _ _ _).sub

/-- What the operation of a group may change. -/
def collParts : List Part := abortParts ++ [.pegs]

theorem deliver_only (s : State) (g : Nat) (x : Grp) (r : CollRun) (c : Coll) (cs : List Contribution) :
    OnlyParts spinParts s (deliver s g x r c cs) := by
  have hsent : ∀ l : List (Nat × Chunk), OnlyParts spinParts s (l.foldl (fun u e => sendTo u x 2 e.1 e.2) s) := fun l =>
    .foldl (fun _ _ => (sendTo_only _ _ _ _ _).sub) _ _
  have hwrote : ∀ (u : State) (b b' b'' : Bool) bs f k, OnlyParts spinParts s u → OnlyParts spinParts s
      (addCnt (stainIf b (stainIf b' (if b'' then writeAt u x.p c.dst bs f else u) rCeStain 0) rCeStain 1) rCeSpecial k) :=
    fun u b b' b'' bs f k hu => .after (addCnt_only _ _ _) (.after (stainIf_only _ _ _ _) (.after (stainIf_only _ _ _ _)
      (.ite (hu.seq (writeAt_only _ _ _ _ _)) hu)))
  have hnoted := fun b b' b'' bs f k => hwrote _ b b' b'' bs f k (hsent (collMoves x c cs))
  exact .after (endRun_only _ _ _) (.ite (.after (addPeg_only _ _ _ _) (hnoted _ _ _ _ _ _)) (hnoted _ _ _ _ _ _))

theorem goColl_only (s : State) (j : Job) (srcs : List Contribution) : OnlyParts collParts s (goColl s j srcs) := by
  unfold goColl
  split
  · exact .refl _ _
  split
  · exact .refl _ _
  dsimp only
  refine .ite (pumpBarrier_only _ _).sub (.ite (.refl _ _) (withMemOr_only (fun c o => ?_) (fun t => (deliver_only _ _ _ _ _ _).sub)))
  exact .after (endRun_only _ _ _) (tierFail_only _ _ _ _ _).sub

theorem beginColl_only (s : State) (j : Job) (srcs : List Contribution) : OnlyParts collParts s (beginColl s j srcs) := by
  unfold beginColl
  dsimp only
  split
  · exact (finish_only _ _ _).sub
  · exact .refl _ _
  refine .ite (markWaits_only _ _).sub ?_
  split
  · exact (endBroken_only _ _ _).sub
  · exact withMem_only (fun t => .trans (.after (startRun_only _ _ _ _) (ranOn_only _ _ _ _ _).sub) (goColl_only _ _ _))

theorem runColl_only {c : Instr} {n op : Nat} {srcs : List Contribution} (h : exec c s = runColl s n op srcs) :
    ∃ t, exec c s = .next t ∧ OnlyParts collParts s t := by
  refine ⟨_, h, ?_⟩
  split
  · exact .refl _ _
  · exact .ite (.refl _ _) (.ite (beginColl_only _ _ _) (.ite (goColl_only _ _ _) (.refl _ _)))

/-! ### Spins -/

theorem addHold_only (s : State) (p b : Nat) : OnlyParts [.holds] s (addHold s p b) := setHolds_only _ _ _ _

theorem loopback_only (s : State) (p : Nat) (w : Window) (i : Nat) (cs : List Contribution) :
    OnlyParts byteParts s (loopback s p w i cs) := .after (putSlotHead_only _ _ _ _ _ _) (.foldl (fun _ _ => putSource_only _ _ _ _) _ _)

theorem beginSpin_only (s : State) (j : Job) (g : Nat) (x : Grp) (o : Obj) (r : Region) : OnlyParts collParts s (beginSpin s j g x o r) := by
  have hbytes : ∀ (l : Bool) a a' bs bs' f cs, OnlyParts collParts s (if l then loopback (putSource (writeAt s (part s j) a bs f) (part s j) a' bs')
      (part s j) (spinWindow j o r x) x.index cs else putSource (writeAt s (part s j) a bs f) (part s j) a' bs') := fun l a a' bs bs' f cs =>
    have hput : OnlyParts collParts s (putSource (writeAt s (part s j) a bs f) (part s j) a' bs') :=
      .after (putSource_only _ _ _ _) (writeAt_only _ _ _ _ _).sub
    .ite (hput.seq (loopback_only _ _ _ _ _)) hput
  have hstart : ∀ (d : Bool) u (pages : List Nat) k n y, OnlyParts collParts s u → OnlyParts collParts s (startRun (ranOn (addPeg (pages.foldl
      (fun t b => addHold t (part s j) b) (stainIf d u rCeStain 1)) (part s j) k 1) j.id 0x81 0 n) g x y) := fun d u pages k n y hu =>
    .after (startRun_only _ _ _ _) (.after (ranOn_only _ _ _ _ _) (.after (addPeg_only _ _ _ _) (.trans (.after (stainIf_only _ _ _ _) hu)
      (.foldl (fun _ _ => (addHold_only _ _ _).sub) _ _))))
  unfold beginSpin
  dsimp only
  split
  · exact hstart _ _ _ _ _ _ (hbytes _ _ _ _ _ _ _)
  · exact .after (pumpSpin_only _ _) (.trans (hstart _ _ _ _ _ _ (hbytes _ _ _ _ _ _ _))
      (.foldl (fun _ _ => .ite (.refl _ _) (sendChunk_only _ _ _ _ _ _ _).sub) _ _))

theorem spin_only (n : Nat) (s : State) : ∃ t, exec (.spin n) s = .next t ∧ OnlyParts collParts s t := by
  refine runOp_only (fun j => ?_)
  dsimp only
  split
  · exact (finish_only _ _ _).sub
  · refine .ite (markWaits_only _ _).sub ?_
    split
    · exact (endBroken_only _ _ _).sub
    · exact withMem_only (fun t => beginSpin_only _ _ _ _ _ _)
  · exact .refl _ _

theorem giveGrant_only (s : State) (g d step : Nat) : OnlyParts [.out, .counts, .ports, .groups] s (giveGrant s g d step) := by
  unfold giveGrant
  split
  · exact .refl _ _
  · exact .ite (.after (sendCe_only _ _ _ _ _ _) (setSpin_only _ _ _ _ _).sub) (.refl _ _)

theorem spinSlotGrant_only (x : GrantEnd) (dir : Fin 2) (step : Nat) (s : State) :
    ∃ t, exec (.spinSlotGrant x dir step) s = .next t ∧ OnlyParts landParts s t := by
  cases x with
  | give g => exact ⟨_, rfl, (giveGrant_only _ _ _ _).sub⟩
  | take pt fr h => exact ⟨_, rfl, arriveCe_only _ _ _ _⟩

end

/-- Settles O58: each command's frame is made of those of the operations that its meaning calls. -/
theorem framesOfLinks : Obligations.FramesOfLinks := by
  unfold Obligations.FramesOfLinks
  exact ⟨advertExpire_only,
    by
      rintro c n srcs s (rfl | rfl | rfl | rfl | rfl | rfl)
      all_goals exact frame_mono (runColl_only rfl),
    attest_only, fun pt sig s => authSignature_only pt sig s,
    by
      rintro c n s (rfl | rfl)
      exacts [frame_mono (runColl_only rfl), frame_mono (spin_only n s)],
    bootInputsFetched_only, bootLoadDone_only, bootStart_only, bringupDone_only,
    fun x s => frame_mono ⟨_, rfl, arriveCe_only s x.pt.val _ _⟩, fun pt fr h i sig s => frame_mono ⟨_, rfl, arriveCe_only s pt.val _ _⟩,
    creditReturn_only,
    by
      rintro c pt s (rfl | rfl | rfl)
      exacts [creditReturnTimer_only pt s, idleFrameTimer_only pt s, linkAckTimer_only pt s],
    by
      rintro c s (rfl | rfl)
      exacts [discoveryWindowClose_only s, joinTimeout_only s],
    by
      rintro c pt fr s (rfl | rfl | rfl | rfl)
      all_goals exact frame_mono (frame_only rfl),
    frameCrcFail_only, fun pt fr code s => frame_mono (frame_only rfl), go_only, groupCreate_only, groupDestroy_only,
    groupWatchdogExpire_only, hbmTrainingDone_only, hello_only,
    fun pt fr q g hash s => frame_mono ⟨_, rfl, arriveCe_only s pt.val _ _⟩, lagWindowEnd_only,
    by
      rintro c pt ln s (rfl | rfl | rfl)
      exacts [frame_mono (laneBerFail_only pt ln s), frame_mono (laneChangeNotice_only pt ln s), frame_mono (lossOfLight_only pt ln s)],
    by
      rintro c pt s (rfl | rfl | rfl | rfl)
      exacts [frame_mono (laneChangeDone_only pt s), frame_mono (portDisable_only pt s), frame_mono (portQuarantine_only pt s),
        frame_mono (portSilenceTimeout_only pt s)],
    laneLightReturn_only,
    by
      rintro c pt s (rfl | rfl | rfl)
      exacts [lightReceived_only pt s, portEnable_only pt s, trainingRetry_only pt s],
    linkAck_only, fun pt seq s => frame_mono (linkNak_only pt seq s),
    by
      rintro c pt o num x s (rfl | rfl | rfl)
      all_goals exact frame_mono ⟨_, rfl, notice_only _ _ _ _ _⟩,
    by
      rintro c p v s (rfl | rfl)
      all_goals exact frame_mono (runIf_only (partWrite_only _ _ _)),
    planLoad_only, fun pt s => frame_mono (portRelease_only pt s), remotePegAdd_only,
    fun pt fr gid epoch v s => frame_mono (frame_only rfl),
    by
      rintro c n s (rfl | rfl)
      all_goals exact runOp_only (fun j => remoteOp_only _ _ _),
    selftestDone_only, fun x dir step s => frame_mono (spinSlotGrant_only x dir step s), stitchLock_only, strapsDone_only,
    syncFrame_only, syncPairTimer_only, trainingComplete_only,
    by
      rintro c n s (rfl | rfl)
      exacts [windowClose_only n s, windowOpen_only n s]⟩

end Sys2Proof.Machine

namespace Sys2Proof.Machine

-- As above: proofs are elaborated one after another.
set_option Elab.async false

/-! ## What counts and port states leave as it is -/

section
variable {s t u : State}

/-- t is s but for its counts and the state of its ports. -/
def Moved (s t : State) : Prop := ∃ counts ports, t = { s with counts := counts, ol := { s.ol with ports := ports } }

theorem moved_modPort (s : State) (pt : Nat) (f : Port → Port) : Moved s (modPort s pt f) := ⟨_, _, rfl⟩

theorem moved_portCount (s : State) (pt k m : Nat) : Moved s (portCount s pt k m) := by
  unfold portCount count
  split
  · exact ⟨_, _, rfl⟩
  · exact ⟨_, _, rfl⟩

theorem moved_limitVcg (s : State) (pt : Nat) (fr : Frame) : Moved s (limitVcg s pt fr) := by
  unfold limitVcg
  dsimp only
  split
  · exact ⟨_, _, rfl⟩
  · exact moved_modPort _ _ _

theorem moved_freeBuffer (s : State) (e : Early) : Moved s (freeBuffer s e) := by
  unfold freeBuffer
  split
  · exact ⟨_, _, rfl⟩
  · exact moved_modPort _ _ _

namespace Moved
variable (h : Moved s t)
include h

theorem trans (k : Moved t u) : Moved s u := by
  obtain ⟨_, _, rfl⟩ := h
  obtain ⟨_, _, rfl⟩ := k
  exact ⟨_, _, rfl⟩

theorem only : OnlyParts [.counts, .ports] s t := fun p hp => by
  obtain ⟨_, _, rfl⟩ := h
  cases p <;> simp_all [Part.same]

theorem now : t.now = s.now := by obtain ⟨_, _, rfl⟩ := h; rfl

theorem ce : t.ce = s.ce := by obtain ⟨_, _, rfl⟩ := h; rfl

theorem jobs : t.hp.jobs = s.hp.jobs := by obtain ⟨_, _, rfl⟩ := h; rfl

theorem job? (n : Nat) : Machine.job? t n = Machine.job? s n := by obtain ⟨_, _, rfl⟩ := h; rfl

theorem ready : Machine.ready t = Machine.ready s := by obtain ⟨_, _, rfl⟩ := h; rfl

theorem moduleNo : Machine.moduleNo t = Machine.moduleNo s := by obtain ⟨_, _, rfl⟩ := h; rfl

theorem grpOf (g : Nat) : Machine.grpOf t g = Machine.grpOf s g := by obtain ⟨_, _, rfl⟩ := h; rfl

theorem grpAt (gid : BitVec 16) (epoch : Word) : Machine.grpAt t gid epoch = Machine.grpAt s gid epoch := by
  obtain ⟨_, _, rfl⟩ := h; rfl

theorem ceSlot (x : CeHead) : Machine.ceSlot t x = Machine.ceSlot s x := by obtain ⟨_, _, rfl⟩ := h; rfl

theorem spinAt (g : Nat) : Machine.spinAt t g = Machine.spinAt s g := by obtain ⟨_, _, rfl⟩ := h; rfl

theorem firstCode (fr : Frame) (x : CeHead) (k : Nat) : Machine.firstCode t fr x k = Machine.firstCode s fr x k := by
  obtain ⟨_, _, rfl⟩ := h; rfl

theorem chunkCode (fr : Frame) (x : CeHead) (ch : Chunk) : Machine.chunkCode t fr x ch = Machine.chunkCode s fr x ch := by
  obtain ⟨_, _, rfl⟩ := h; rfl

theorem grantCode (fr : Frame) (x : CeHead) (d k : Nat) : Machine.grantCode t fr x d k = Machine.grantCode s fr x d k := by
  obtain ⟨_, _, rfl⟩ := h; rfl

theorem pagesIn (p fuel va e : Nat) : Machine.pagesIn t p fuel va e = Machine.pagesIn s p fuel va e := by
  have hobj : ∀ a, objAt t p a = objAt s p a := fun a => by obtain ⟨_, _, rfl⟩ := h; rfl
  induction fuel generalizing va with
  | zero => rfl
  | succ fuel ih => simp only [Machine.pagesIn, hobj, ih]

theorem spanSays (n : Nat) (x : Span) : Machine.spanSays t n x = Machine.spanSays s n x := by
  have hpages := h.pagesIn x.place
  obtain ⟨_, _, rfl⟩ := h
  simp only [Machine.spanSays, hpages]
  rfl

/-- What the tiers say to accesses does not hang on counts or ports. -/
theorem tierSays (n : Nat) (xs : List Span) : Machine.tierSays t n xs = Machine.tierSays s n xs := by
  have hspan := h.spanSays n
  obtain ⟨_, _, rfl⟩ := h
  simp only [Machine.tierSays, hspan]
  rfl

theorem canAccess {n : Nat} {xs : List Span} (ha : CanAccess s n xs) : CanAccess t n xs := by
  obtain ⟨new, hnew⟩ := ha
  exact ⟨new, (h.tierSays n xs).trans hnew⟩

end Moved

/-! ## A frame of the collective engine that arrives -/

variable {pt : Nat} {fr : Frame} {b : CeBody}

/-- The frame as its port takes it. -/
def ceEarly (pt : Nat) (fr : Frame) (b : CeBody) : Early := ⟨pt, fr, 6, 0, 0, 0, 0, some b⟩

theorem deliverFrame_ceEarly (h : fr.dest.toNat = moduleNo s) : deliverFrame s pt (ceEarly pt fr b) = landCe s pt fr b := by
  simp [deliverFrame, ceEarly, h]

theorem Moved.staysHeld (h : Moved s t) (e : Early) : Machine.staysHeld t e = Machine.staysHeld s e := by
  obtain ⟨_, _, rfl⟩ := h; rfl

/-- A frame that neither a suspension nor a page holds lands once its buffer is free again. -/
theorem takeFrame_ceEarly (h : fr.dest.toNat = moduleNo s) (hheld : Machine.staysHeld s (ceEarly pt fr b) = false) :
    ∃ v, Moved s v ∧ takeFrame s (ceEarly pt fr b) = landCe v pt fr b := by
  have hfree := moved_freeBuffer s (ceEarly pt fr b)
  refine ⟨_, hfree, ?_⟩
  rw [takeFrame, hheld, if_neg Bool.false_ne_true]
  exact deliverFrame_ceEarly (h.trans hfree.moduleNo.symm)

/-- A frame that arrives in its turn (12 R388, R404) is taken at once, where it need not wait. -/
theorem arriveFrame_inTurn {e : Early} (ha : Arrives s e.pt e.fr) (hheld : Machine.staysHeld s e = false) (hwait : frameWaits s e.pt e = none) :
    ∃ v, Moved s v ∧ arriveFrame s e = takeFrame v e := by
  obtain ⟨hup, hseq, howed, hstalled, hpair, hearly, _⟩ := ha
  have hstate : portState s e.pt = 3 := by simpa [isUp] using hup
  have htook : ∀ f f' n, Moved s (modPort (limitVcg (portCount (modPort s e.pt f) e.pt 4 n) e.pt e.fr) (e.pt / 2 * 2) f') := fun f f' n =>
    (((moved_modPort _ _ _).trans (moved_portCount _ _ _ _)).trans (moved_limitVcg _ _ _)).trans (moved_modPort _ _ _)
  have hroom : ¬ vcBuffers.getD e.fr.vc.val 0 ≤ (portOf s e.pt).owed.getD e.fr.vc.val 0 := by omega
  obtain ⟨w, hw⟩ : ∃ w, arriveFrame s e = w := ⟨_, rfl⟩
  rw [hw]
  simp only [arriveFrame, hstate, hup, hseq, hstalled, hpair, hearly, inTurn, hheld, hwait, List.filter_nil, List.length_nil, Nat.add_zero,
    if_neg hroom, ne_eq, not_true_eq_false, if_false, Bool.not_true, Bool.not_false, Bool.false_eq_true, List.filter_cons_of_pos,
    List.filterMap_cons_none, List.filterMap_nil, List.isEmpty_nil, List.foldl_cons, List.foldl_nil, Nat.reduceEqDiff] at hw
  exact ⟨_, htook _ _ _, hw.symm⟩

/-- A frame that arrives in its turn, and need not wait, lands in a state that only its port and the counts tell from the one that it
came to. -/
theorem arriveCe_lands (ha : Arrives s pt fr) (hheld : Machine.staysHeld s (ceEarly pt fr b) = false)
    (hwait : frameWaits s pt (ceEarly pt fr b) = none) : ∃ v, Moved s v ∧ arriveCe s pt fr b = landCe v pt fr b := by
  by_cases hown : fr.src.toNat = moduleNo s ∧ fr.dest.toNat = moduleNo s
  · obtain ⟨v, hv, hland⟩ := takeFrame_ceEarly hown.2 hheld
    refine ⟨v, hv, ?_⟩
    rw [ceEarly] at *
    simp only [arriveCe, if_pos hown, hwait, Option.isSome_none, Bool.and_false, hland, Bool.false_eq_true, if_false]
  · obtain ⟨u, hu, hturn⟩ := arriveFrame_inTurn (e := ceEarly pt fr b) ha hheld hwait
    obtain ⟨_, _, _, _, _, _, hdest⟩ := ha
    obtain ⟨v, hv, hland⟩ := takeFrame_ceEarly (pt := pt) (b := b) (hdest.trans hu.moduleNo.symm) ((hu.staysHeld _).trans hheld)
    refine ⟨v, hu.trans hv, ?_⟩
    rw [arriveCe, if_neg hown]
    exact hturn.trans hland

/-- A frame of the collective engine but a chunk touches no page. -/
theorem frameWaits_ceEarly (h : ∀ x ch, b ≠ .chunk x ch) : frameWaits s pt (ceEarly pt fr b) = none := by
  have hspans : frameSpans s pt (ceEarly pt fr b) = (landJob pt, []) := by
    unfold frameSpans
    cases b <;> simp_all [ceEarly]
  rw [frameWaits, hspans]
  rfl

/-- A frame whose operation is not suspended is not held. -/
theorem staysHeld_ceEarly {x : CeHead} {g : Nat} {y : Grp} (hslot : Machine.ceSlot s x = some (g, y)) (hrun : Machine.suspended s y.p = false)
    (h : (∃ ch, b = .chunk x ch) ∨ ∃ d k, b = .grant x d k) : Machine.staysHeld s (ceEarly pt fr b) = false := by
  obtain ⟨ch, rfl⟩ | ⟨d, k, rfl⟩ := h
  · simp [Machine.staysHeld, ceEarly, hslot, hrun]
  · simp [Machine.staysHeld, ceEarly, hslot, hrun]

/-! ### The only group -/

section
variable {g : Nat} {x : Grp}

theorem grpWhere_single (hg : s.ce.groups = [(g, some x)]) (f : Grp → Bool) : grpWhere s f = if f x then some (g, x) else none := by
  simp only [grpWhere, hg, List.findSome?_cons, List.findSome?_nil, Option.bind_some]
  split <;> simp_all

theorem grpOf_single (hg : s.ce.groups = [(g, some x)]) (k : Nat) : Machine.grpOf s k = if k = g then some x else none := by
  simp only [Machine.grpOf, hg, tget, eq_comm]

theorem grpAt_single (hg : s.ce.groups = [(g, some x)]) : Machine.grpAt s x.gid x.epoch = some (g, x) := by
  rw [Machine.grpAt, grpWhere_single hg]
  simp

variable {h : CeHead}

theorem ceSlot_of_arrivesCe (ha : ArrivesCe s pt fr h g x) : Machine.ceSlot s h = some (g, x) := by
  obtain ⟨_, hg, hgid, hepoch, hindex, _⟩ := ha
  rw [Machine.ceSlot, grpWhere_single hg]
  simp [hgid, hepoch, hindex]

/-- A frame for the group of the module that its sender may send is not refused (R210, R211). -/
theorem ceCode_of_arrivesCe (ha : ArrivesCe s pt fr h g x) : ceCode s fr h = none := by
  have hslot := ceSlot_of_arrivesCe ha
  obtain ⟨_, _, _, _, _, hkey, hfrom, hpartner, _⟩ := ha
  rw [Machine.ceSlot] at hslot
  rw [ceCode, hslot]
  simp_all

theorem grpOf_of_arrivesCe (ha : ArrivesCe s pt fr h g x) : Machine.grpOf s g = some x := by
  obtain ⟨_, hg, _⟩ := ha
  rw [grpOf_single hg, if_pos rfl]

end

/-! ## What routes hang on -/

/-- The module, its plan, its ports and its time are the same in t as in s. -/
structure SameNet (s t : State) : Prop where
  boot : t.boot = s.boot
  now : t.now = s.now
  mod : Machine.moduleNo t = Machine.moduleNo s
  port : ∀ pt, portState t pt = portState s pt

theorem SameNet.trans (h : SameNet s t) (k : SameNet t u) : SameNet s u :=
  ⟨k.boot.trans h.boot, k.now.trans h.now, k.mod.trans h.mod, fun pt => (k.port pt).trans (h.port pt)⟩

theorem SameNet.of_regs {l : List Nat} {ps : List Part} (h : OtherRegs l s t) (hps : OnlyParts ps s t)
    (hl : ∀ o ∈ l, o ≠ rStraps ∧ ∀ pt, o ≠ rPort pt) (hp : Part.boot ∉ ps ∧ Part.now ∉ ps := by decide) : SameNet s t where
  boot := hps .boot hp.1
  now := hps .now hp.2
  mod := rfield_of_rreg (h rStraps fun hm => (hl _ hm).1 rfl) 16 12
  port := fun pt => rfield_of_rreg (h (rPort pt) fun hm => (hl _ hm).2 pt rfl) 29 3

theorem SameNet.of_only {ps : List Part} (h : OnlyParts ps s t) (hp : Part.boot ∉ ps ∧ Part.now ∉ ps ∧ Part.regs ∉ ps := by decide) :
    SameNet s t := .of_regs (.of_regs [] (h .regs hp.2.2)) h (by simp) ⟨hp.1, hp.2.1⟩

/-- Accesses change no register of a port. -/
theorem Accessed.sameNet (h : Accessed s u) : SameNet s u := .of_regs h.regs h.frame (fun o ho => by
  simp only [List.mem_cons, List.not_mem_nil, or_false] at ho
  obtain rfl | rfl := ho
  · exact ⟨by decide, fun pt hpt => by simp only [rTmStain, rPort] at hpt; omega⟩
  · exact ⟨by decide, fun pt hpt => by simp only [rTmStatus, rPort] at hpt; omega⟩)

namespace SameNet
variable (h : SameNet s t)
include h

theorem dims : Machine.dims t = Machine.dims s := by simp only [Machine.dims, planBytes, h.boot]

theorem dirFrom (a m : Nat) : Machine.dirFrom t a m = Machine.dirFrom s a m := by
  unfold Machine.dirFrom coords
  rw [h.dims]

theorem neighbour (a d : Nat) : Machine.neighbour t a d = Machine.neighbour s a d := by
  unfold Machine.neighbour moduleAt coords
  rw [h.dims]

theorem hopsFrom (fuel a m : Nat) : Machine.hopsFrom t fuel a m = Machine.hopsFrom s fuel a m := by
  induction fuel generalizing a with
  | zero => rfl
  | succ fuel ih => simp only [Machine.hopsFrom, h.dirFrom, h.neighbour, ih]

theorem hopDark : Machine.hopDark t = Machine.hopDark s := by
  funext x
  simp only [Machine.hopDark, hopUp, isUp, planEntry, planBytes, h.boot, h.now, h.mod, h.port]

/-- A route's hops are up where they were. -/
theorem reachable (m : Nat) : Machine.reachable t m = Machine.reachable s m := by
  rw [Machine.reachable, routeBreak, h.mod, h.hopDark, h.hopsFrom, Machine.reachable, routeBreak]

end SameNet

end
end Sys2Proof.Machine

namespace Sys2Proof.Machine

-- As above: proofs are elaborated one after another.
set_option Elab.async false

/-! ## O35: groups form, fail and end -/

section
variable {s t u : State} {g n id : Nat} {x : Grp} {j : Job} {ps : List Part}

theorem job?_id_eq (h : job? s n = some j) : j.id = n := by simpa using List.find?_some h

/-! ### The slots of the groups -/

@[simp] theorem grpOf_setGrp_same (s : State) (g : Nat) (y : Option Grp) : grpOf (setGrp s g y) g = y := tget_tset_same

theorem grpOf_setGrp_ne {k : Nat} (h : k ≠ g) (y : Option Grp) : grpOf (setGrp s g y) k = grpOf s k := tget_tset_ne h

theorem grpOf_setGrp (s : State) (g k : Nat) (y : Option Grp) : grpOf (setGrp s g y) k = if k = g then y else grpOf s k := by
  unfold grpOf setGrp
  exact tget_tset

theorem OnlyParts.grpOf (h : OnlyParts ps s t) (k : Nat) (hp : Part.groups ∉ ps := by decide) : Machine.grpOf t k = Machine.grpOf s k := by
  obtain ⟨hgroups, _⟩ := h .groups hp
  rw [Machine.grpOf, hgroups, Machine.grpOf]

theorem OnlyParts.joins (h : OnlyParts ps s t) (hp : Part.joins ∉ ps := by decide) : t.ce.joins = s.ce.joins := h .joins hp

theorem grpOf_goneSet (s : State) (l : List (BitVec 16 × Word)) (k : Nat) :
    Machine.grpOf { s with ce := { s.ce with gone := l } } k = Machine.grpOf s k := rfl

theorem grpOf_joinsSet (s : State) (l : List (BitVec 16 × Word × Nat × BitVec 128)) (k : Nat) :
    Machine.grpOf { s with ce := { s.ce with joins := l } } k = Machine.grpOf s k := rfl

theorem grpOf_freeGrp (h : Machine.grpOf s g = some x) (k : Nat) :
    Machine.grpOf (freeGrp s g) k = if k = g then none else Machine.grpOf s k := by
  have hset := grpOf_setGrp s g k none
  rw [freeGrp, h]
  dsimp only
  split
  · exact hset
  · exact (grpOf_joinsSet _ _ _).trans hset

theorem grpOf_destroyGrp (h : Machine.grpOf s g = some x) (k : Nat) :
    Machine.grpOf (destroyGrp s g) k = if k = g then none else Machine.grpOf s k := by
  rw [destroyGrp, h]
  dsimp only
  split
  · exact grpOf_freeGrp h k
  · exact (grpOf_goneSet _ _ _).trans (grpOf_freeGrp h k)

/-! ### Joins -/

/-- The last join completes a creation (R208). -/
theorem joinStep_of_joined (hg : Machine.grpOf s g = some x) (hj : x.joining = some id)
    (hall : ∀ m ∈ x.partners, (x.gid, x.epoch, m, x.hash) ∈ s.ce.joins)
    (hsame : ∀ e ∈ s.ce.joins, e.1 = x.gid → e.2.1 = x.epoch → e.2.2.1 ∈ x.partners → e.2.2.2 = x.hash) :
    joinStep s g = finish (setGrp s g (some { x with joined := x.partners, joining := none })) id (stDone, x.index) := by
  have hnone : x.partners.find? (fun m => (s.ce.joins.filter (fun e => e.1 == x.gid && e.2.1 == x.epoch &&
      x.partners.contains e.2.2.1)).any (fun e => e.2.2.1 == m && e.2.2.2 != x.hash)) = none := by
    simp only [List.find?_eq_none, List.any_eq_true, List.mem_filter, Bool.and_eq_true, beq_iff_eq, bne_iff_ne, List.contains_iff_mem]
    rintro m _ ⟨e, ⟨he, ⟨hgid, hepoch⟩, hmem⟩, _, hne⟩
    exact hne (hsame e he hgid hepoch hmem)
  have hjoined : x.partners.filter (fun m => (s.ce.joins.filter (fun e => e.1 == x.gid && e.2.1 == x.epoch &&
      x.partners.contains e.2.2.1)).any (fun e => e.2.2.1 == m)) = x.partners := by
    simp only [List.filter_eq_self, List.any_eq_true, List.mem_filter, Bool.and_eq_true, beq_iff_eq, List.contains_iff_mem]
    exact fun m hm => ⟨_, ⟨hall m hm, ⟨rfl, rfl⟩, hm⟩, rfl⟩
  simp only [joinStep, hg, hj, hnone, hjoined, if_true]

/-- A creation none of whose partners has joined waits (R208). -/
theorem joinStep_of_none (hg : Machine.grpOf s g = some x) (hj : x.joining = some id) (hx : x.joined = []) (hne : x.partners ≠ [])
    (hno : ∀ e ∈ s.ce.joins, e.1 ≠ x.gid ∨ e.2.1 ≠ x.epoch) : joinStep s g = setGrp s g (some x) := by
  have hcame : s.ce.joins.filter (fun e => e.1 == x.gid && e.2.1 == x.epoch && x.partners.contains e.2.2.1) = [] := by
    rw [List.filter_eq_nil_iff]
    intro e he
    obtain h | h := hno e he <;> simp [h]
  have hkept : { x with joining := some id, joined := [] } = x := by rw [← hj, ← hx]
  have hjoined : x.partners.filter (fun _ => false) = [] := by simp
  have hfind : x.partners.find? (fun _ => false) = none := by simp
  simp only [joinStep, hg, hj, hcame, List.any_nil, hfind, hjoined, hkept, if_neg hne.symm]

/-! ### GROUP_CREATE -/

theorem newGroup_of_accessed (h : Accessed s u) (j : Job) : newGroup u j = newGroup s j := by
  have hbytes : ∀ k a m, bytesAt u k a m = bytesAt s k a m := bytesAt_congr (h.frame .mem (by decide))
  have hnow : u.now = s.now := h.frame .now (by decide)
  simp only [newGroup, numAt, h.part, h.sameNet.mod, hbytes, hnow]

/-- The group of descriptor j in slot g, and j running. -/
def created (s : State) (g : Nat) (j : Job) : State :=
  let t := keepRunning (setGrp s g (some (newGroup s j))) j.id
  { t with ce := { t.ce with gone := t.ce.gone.filter (fun e => e != ((newGroup s j).gid, (newGroup s j).epoch)) } }

/-- The join frames of the group that descriptor j creates (R208). -/
def joinsSent (s : State) (x : Grp) : State :=
  x.partners.foldl (fun v m => sendCe v 0 7 (entryModule m) 0 (.join (Fin.ofNat 8 x.p) x.gid x.epoch x.hash)) s

theorem created_only (s : State) (g : Nat) (j : Job) : OnlyParts [.jobs, .groups] s (created s g j) :=
  .after (goneSet_only _ _) (.after (keepRunning_only _ _) (setGrp_only _ _ _).sub)

theorem jobs_created (s : State) (g : Nat) (j : Job) : (created s g j).hp.jobs = (keepRunning s j.id).hp.jobs := rfl

theorem grpOf_created (s : State) (g k : Nat) (j : Job) :
    Machine.grpOf (created s g j) k = if k = g then some (newGroup s j) else Machine.grpOf s k :=
  (grpOf_goneSet _ _ _).trans (grpOf_setGrp s g k _)

theorem joinsSent_only (s : State) (x : Grp) : OnlyParts [.out, .counts, .ports] s (joinsSent s x) :=
  .foldl (fun _ _ => sendCe_only _ _ _ _ _ _) _ _

theorem joinsSent_of_alone (h : x.partners = []) : joinsSent s x = s := by rw [joinsSent, h, List.foldl_nil]

/-- A creation that is not refused has its group in the first free slot, its descriptor running and its join frames sent (R208). -/
theorem createGroup_eq (hbad : badMembers s (newGroup s j) = false) (hfree : (List.range 64).find? (fun g => (Machine.grpOf s g).isNone) = some g)
    (hreach : ∀ m ∈ (newGroup s j).partners, reachable s (entryModule m) = true) :
    createGroup s j = joinStep (joinsSent (created s g j) (newGroup s j)) g := by
  have hall : (newGroup s j).partners.find? (fun m => !reachable s (entryModule m)) = none := by
    simpa only [List.find?_eq_none, Bool.not_eq_true', Bool.not_eq_false] using hreach
  simp only [createGroup, hbad, hfree, hall, Bool.false_eq_true, if_false]
  rfl

/-- What the creation of descriptor n leaves in its slot, and what it changes. -/
theorem groupCreate_creates (ho : opJob s n 0x0800 = some j) (he : createErr j = none)
    (ha : CanAccess s n [rd (part s j) (j.va 16) (2 * j.bits 24 0 13)]) (hbad : badMembers s (newGroup s j) = false)
    (hfree : (List.range 64).find? (fun g => (Machine.grpOf s g).isNone) = some g)
    (hreach : ∀ m ∈ (newGroup s j).partners, reachable s (entryModule m) = true) :
    ∃ v w, exec (.groupCreate n) s = .next (joinStep w g) ∧ (∃ k, job? w n = some k ∧ k.phase = .running) ∧ OtherJobs n s w ∧
      (∀ k, Machine.grpOf w k = if k = g then some (newGroup s j) else Machine.grpOf s k) ∧ w.ce.joins = s.ce.joins ∧
      OnlyParts (.groups :: tierParts) s v ∧ OnlyParts [.out, .counts, .ports] v w ∧ ((newGroup s j).partners = [] → w = v) := by
  obtain ⟨u, hu, hgo⟩ := withMem_of_canAccess ha
  have hnew := newGroup_of_accessed hu j
  obtain ⟨hj, _, _⟩ := opJob_some.mp ho
  obtain rfl := job?_id_eq hj
  have hjobs : u.hp.jobs = s.hp.jobs := hu.frame.jobs
  have hgroups : ∀ k, Machine.grpOf u k = Machine.grpOf s k := hu.frame.grpOf
  have heq : createGroup u j = joinStep (joinsSent (created u g j) (newGroup s j)) g := by
    rw [← hnew]
    refine createGroup_eq ?_ ?_ ?_
    · rw [hnew, badMembers, hu.sameNet.mod]
      exact hbad
    · simpa only [hgroups] using hfree
    · simpa only [hnew, hu.sameNet.reachable] using hreach
  have hsent := joinsSent_only (created u g j) (newGroup s j)
  have hmade := created_only u g j
  refine ⟨created u g j, _, ?_, ?_, ?_, fun k => ?_, ?_, ?_, hsent, joinsSent_of_alone⟩
  · show runOp s j.id 0x0800 _ = _
    rw [runOp_ready ho, he, ← heq]
    exact congrArg _ (hgo _)
  · have hrun : job? (keepRunning u j.id) j.id = some { j with phase := .running } :=
      job?_modJob (fun _ => rfl) ((job?_congr hjobs _).trans hj)
    exact ⟨_, (job?_congr (hsent.jobs.trans (jobs_created u g j)) _).trans hrun, rfl⟩
  · exact ((OtherJobs.of_jobs hjobs).trans otherJobs_keepRunning).trans (.of_jobs (hsent.jobs.trans (jobs_created u g j)))
  · rw [hsent.grpOf, grpOf_created, hnew, hgroups]
  · rw [hsent.joins, hmade.joins, hu.frame.joins]
  · exact .after hmade hu.frame.sub

/-- GROUP_CREATE of a list whose only member is this one (R208). -/
theorem groupCreate_alone (ho : opJob s n 0x0800 = some j) (he : createErr j = none)
    (ha : CanAccess s n [rd (part s j) (j.va 16) (2 * j.bits 24 0 13)]) (hbad : badMembers s (newGroup s j) = false)
    (hfree : (List.range 64).find? (fun g => (Machine.grpOf s g).isNone) = some g) (halone : (newGroup s j).partners = []) :
    ∃ t, exec (.groupCreate n) s = .next t ∧ Decided t n stDone (newGroup s j).index ∧ OtherJobs n s t ∧
      Machine.grpOf t g = some { newGroup s j with joining := none } ∧ (∀ k, k ≠ g → Machine.grpOf t k = Machine.grpOf s k) ∧
      OnlyParts (.groups :: tierParts) s t := by
  obtain ⟨v, w, hx, ⟨k, hk, hrun⟩, hother, hslots, hjoins, hv, _, hw⟩ := groupCreate_creates ho he ha hbad hfree (by simp [halone])
  obtain rfl := hw halone
  obtain ⟨hj, _, _⟩ := opJob_some.mp ho
  have hjoining : (newGroup s j).joining = some n := congrArg some (job?_id_eq hj)
  have hg := (hslots g).trans (if_pos rfl)
  have hstep := joinStep_of_joined hg hjoining (by simp [halone]) (by simp [halone])
  refine ⟨_, hx, ?_⟩
  rw [hstep, halone]
  refine ⟨decided_finish (j := k) hk _, hother.trans ?_, ?_, fun i hi => ?_, ?_⟩
  · exact otherJobs_finish _
  · exact grpOf_setGrp_same _ _ _
  · exact (grpOf_setGrp_ne hi _).trans ((hslots i).trans (if_neg hi))
  · exact .after (finish_only _ _ _) (.after (setGrp_only _ _ _) hv)

/-- GROUP_CREATE of a list with partners that have not joined yet (R208). -/
theorem groupCreate_waits (ho : opJob s n 0x0800 = some j) (he : createErr j = none)
    (ha : CanAccess s n [rd (part s j) (j.va 16) (2 * j.bits 24 0 13)]) (hbad : badMembers s (newGroup s j) = false)
    (hfree : (List.range 64).find? (fun g => (Machine.grpOf s g).isNone) = some g) (hpartners : (newGroup s j).partners ≠ [])
    (hreach : ∀ m ∈ (newGroup s j).partners, reachable s (entryModule m) = true)
    (hno : ∀ e ∈ s.ce.joins, e.1 ≠ (newGroup s j).gid ∨ e.2.1 ≠ (newGroup s j).epoch) :
    ∃ t, exec (.groupCreate n) s = .next t ∧ Runs t n ∧ OtherJobs n s t ∧ Machine.grpOf t g = some (newGroup s j) ∧
      (∀ k, k ≠ g → Machine.grpOf t k = Machine.grpOf s k) ∧ OnlyParts (tierParts.append [.groups, .out, .ports]) s t := by
  obtain ⟨v, w, hx, hruns, hother, hslots, hjoins, hv, hw, _⟩ := groupCreate_creates ho he ha hbad hfree hreach
  obtain ⟨hj, _, _⟩ := opJob_some.mp ho
  have hjoining : (newGroup s j).joining = some n := congrArg some (job?_id_eq hj)
  have hg := (hslots g).trans (if_pos rfl)
  have hstep := joinStep_of_none hg hjoining rfl hpartners (by rwa [hjoins])
  refine ⟨_, hx, ?_⟩
  rw [hstep]
  refine ⟨hruns, hother, grpOf_setGrp_same _ _ _, fun i hi => ?_, ?_⟩
  · exact (grpOf_setGrp_ne hi _).trans ((hslots i).trans (if_neg hi))
  · exact .after (setGrp_only _ _ _) (.after hw hv.sub)

/-! ### Join frames -/

/-- A join frame that arrives lands. -/
theorem joinFrame_lands {pt : Fin 16} {fr : Frame} {q : Fin 8} {gid : BitVec 16} {epoch : Word} {hash : BitVec 128}
    (ha : Arrives s pt.val fr) (hready : Machine.ready s = true) :
    ∃ v, Moved s v ∧ exec (.joinFrameReceive pt fr q ⟨gid, epoch⟩ hash) s =
      .next (landJoin v gid epoch (fr.src.toNat + 4096 * q.val) hash) := by
  obtain ⟨v, hv, hland⟩ := arriveCe_lands (fr := { fr with typ := 7 }) (b := .join q gid epoch hash) ha
    (by simp [staysHeld, ceEarly]) (frameWaits_ceEarly (by simp))
  refine ⟨v, hv, congrArg _ (hland.trans ?_)⟩
  rw [landCe, hv.ready, hready, if_pos rfl]

/-- The join frame is stashed, in the place of an earlier one of its sender (R208). -/
def joined (s : State) (gid : BitVec 16) (epoch : Word) (e : Nat) (hash : BitVec 128) : State :=
  { s with ce := { s.ce with joins := s.ce.joins.filter (fun f => !(f.1 == gid && f.2.1 == epoch && f.2.2.1 == e)) ++ [(gid, epoch, e, hash)] } }

/-- Every slot of the join's group takes its step. -/
def joinsTaken (s : State) (gid : BitVec 16) (epoch : Word) : State :=
  (List.range 64).foldl (fun u g => match Machine.grpOf u g with
    | some x => if x.gid = gid ∧ x.epoch = epoch then joinStep u g else u
    | none => u) s

theorem landJoin_eq {gid : BitVec 16} {epoch : Word} (h : ((Machine.grpAt s gid epoch).isNone && s.ce.gone.contains (gid, epoch)) = false)
    (e : Nat) (hash : BitVec 128) : landJoin s gid epoch e hash = joinsTaken (joined s gid epoch e hash) gid epoch := by
  unfold landJoin
  dsimp only
  rw [h]
  rfl

/-- A fold that leaves s as it is at every element leaves s. -/
theorem foldl_of_fixed {α : Type} {f : State → α → State} {l : List α} (h : ∀ a ∈ l, f s a = s) : l.foldl f s = s := by
  induction l with
  | nil => rfl
  | cons a l ih =>
    rw [List.foldl_cons, h a List.mem_cons_self]
    exact ih fun b hb => h b (List.mem_cons_of_mem a hb)

/-- A fold that acts at one element only takes that step. -/
theorem foldl_of_single {α : Type} {f : State → α → State} {l : List α} {a : α} (hnd : l.Nodup) (ha : a ∈ l) (hstep : f s a = t)
    (hs : ∀ b ∈ l, b ≠ a → f s b = s) (ht : ∀ b ∈ l, b ≠ a → f t b = t) : l.foldl f s = t := by
  obtain ⟨l₁, l₂, rfl⟩ := List.append_of_mem ha
  obtain ⟨_, hnd₂, hdisj⟩ := List.nodup_append.mp hnd
  have h₁ : ∀ b ∈ l₁, b ≠ a := fun b hb => hdisj b hb a List.mem_cons_self
  have h₂ : ∀ b ∈ l₂, b ≠ a := fun b hb h => (List.nodup_cons.mp hnd₂).1 (h ▸ hb)
  rw [List.foldl_append, foldl_of_fixed fun b hb => hs b (by simp [hb]) (h₁ b hb), List.foldl_cons, hstep]
  exact foldl_of_fixed fun b hb => ht b (by simp [hb]) (h₂ b hb)

theorem joinsTaken_of_none {gid : BitVec 16} {epoch : Word} (h : ∀ k, Machine.grpOf s k = none) : joinsTaken s gid epoch = s :=
  foldl_of_fixed fun k _ => by rw [h k]

theorem joinsTaken_of_single {gid : BitVec 16} {epoch : Word} (hg : g < 64) (hx : Machine.grpOf s g = some x) (hgid : x.gid = gid)
    (hepoch : x.epoch = epoch) (hs : ∀ k, k ≠ g → Machine.grpOf s k = none) (ht : ∀ k, k ≠ g → Machine.grpOf (joinStep s g) k = none) :
    joinsTaken s gid epoch = joinStep s g :=
  foldl_of_single List.nodup_range (List.mem_range.mpr hg) (by rw [hx]; exact if_pos ⟨hgid, hepoch⟩)
    (fun k _ hk => by rw [hs k hk]) (fun k _ hk => by rw [ht k hk])

/-- A join frame of a group that the module neither has nor has destroyed is kept (R208). -/
theorem joinFrame_kept {pt : Fin 16} {fr : Frame} {q : Fin 8} {gid : BitVec 16} {epoch : Word} {hash : BitVec 128}
    (ha : Arrives s pt.val fr) (hready : Machine.ready s = true) (hg : s.ce.groups = []) (hgone : s.ce.gone.contains (gid, epoch) = false) :
    ∃ t, exec (.joinFrameReceive pt fr q ⟨gid, epoch⟩ hash) s = .next t ∧ (gid, epoch, fr.src.toNat + 4096 * q.val, hash) ∈ t.ce.joins ∧
      (∀ e ∈ s.ce.joins, (e.1 ≠ gid ∨ e.2.1 ≠ epoch ∨ e.2.2.1 ≠ fr.src.toNat + 4096 * q.val) → e ∈ t.ce.joins) ∧
      OnlyParts [.joins, .ports, .counts] s t := by
  obtain ⟨v, hv, hx⟩ := joinFrame_lands (q := q) (gid := gid) (epoch := epoch) (hash := hash) ha hready
  have hce : v.ce = s.ce := hv.ce
  have hnone : ∀ k, Machine.grpOf (joined v gid epoch (fr.src.toNat + 4096 * q.val) hash) k = none := fun k => by
    rw [joined, grpOf_joinsSet, Machine.grpOf, hce, hg]
    rfl
  rw [landJoin_eq (by rw [hce, hgone, Bool.and_false]), joinsTaken_of_none hnone] at hx
  refine ⟨_, hx, ?_, fun e he hne => ?_, .after (joinsSet_only _ _) hv.only.sub⟩
  · simp [joined]
  · rw [joined, hce]
    refine List.mem_append_left _ (List.mem_filter.mpr ⟨he, ?_⟩)
    obtain h | h | h := hne <;> simp [h]

/-- The last join frame completes the creation (R208). -/
theorem joinFrame_completes {pt : Fin 16} {fr : Frame} {q : Fin 8} {gid : BitVec 16} {epoch : Word} {hash : BitVec 128}
    (ha : Arrives s pt.val fr) (hready : Machine.ready s = true) (hlt : g < 64) (hg : s.ce.groups = [(g, some x)]) (hgid : x.gid = gid)
    (hepoch : x.epoch = epoch) (hjoining : x.joining = some id) (hj : job? s id = some j)
    (hpartners : x.partners = [fr.src.toNat + 4096 * q.val]) (hhash : x.hash = hash) :
    ∃ t, exec (.joinFrameReceive pt fr q ⟨gid, epoch⟩ hash) s = .next t ∧ Decided t id stDone x.index ∧ OtherJobs id s t ∧
      Machine.grpOf t g = some { x with joined := x.partners, joining := none } ∧
      OnlyParts [.joins, .groups, .jobs, .ports, .counts] s t := by
  obtain ⟨v, hmoved, hx⟩ := joinFrame_lands (q := q) (gid := gid) (epoch := epoch) (hash := hash) ha hready
  have hkept : ∀ e ∈ (joined v gid epoch (fr.src.toNat + 4096 * q.val) hash).ce.joins, e.1 = x.gid → e.2.1 = x.epoch →
      e.2.2.1 ∈ x.partners → e.2.2.2 = x.hash := by
    intro e he h₁ h₂ h₃
    rw [hpartners, List.mem_singleton] at h₃
    rw [joined, List.mem_append, List.mem_filter, List.mem_singleton] at he
    obtain ⟨_, hne⟩ | rfl := he
    · simp_all
    · exact hhash.symm
  subst hgid hepoch hhash
  generalize he : fr.src.toNat + 4096 * q.val = e at *
  have hgrp : ∀ k, Machine.grpOf (joined v x.gid x.epoch e x.hash) k = if k = g then some x else none := fun k => by
    rw [joined, grpOf_joinsSet, hmoved.grpOf, grpOf_single hg]
  have hin : ∀ m ∈ x.partners, (x.gid, x.epoch, m, x.hash) ∈ (joined v x.gid x.epoch e x.hash).ce.joins := fun m hm => by
    rw [hpartners, List.mem_singleton] at hm
    simp [joined, hm]
  have hstep := joinStep_of_joined ((hgrp g).trans (if_pos rfl)) hjoining hin hkept
  have hothers : ∀ k, k ≠ g → Machine.grpOf (joinStep (joined v x.gid x.epoch e x.hash) g) k = none := fun k hk => by
    rw [hstep]
    exact (grpOf_setGrp_ne hk _).trans ((hgrp k).trans (if_neg hk))
  have hany : ((Machine.grpAt v x.gid x.epoch).isNone && v.ce.gone.contains (x.gid, x.epoch)) = false := by
    rw [hmoved.grpAt, grpAt_single hg]
    rfl
  rw [landJoin_eq hany, joinsTaken_of_single hlt ((hgrp g).trans (if_pos rfl)) rfl rfl (fun k hk => (hgrp k).trans (if_neg hk)) hothers,
    hstep] at hx
  refine ⟨_, hx, decided_finish ((hmoved.job? id).trans hj) _, ?_, grpOf_setGrp_same _ _ _, ?_⟩
  · exact (OtherJobs.of_jobs hmoved.jobs).trans (otherJobs_finish _)
  · exact .after (finish_only _ _ _) (.after (setGrp_only _ _ _) (.after (joinsSet_only _ _) hmoved.only.sub))

/-! ### The watchdog of a creation, and GROUP_DESTROY -/

/-- A creation whose watchdog runs out fails (R208). -/
theorem groupWatchdogExpire_fails {g : Fin 64} (hg : Machine.grpOf s g.val = some x) (hw : watchOut s x = true) (hjoining : x.joining = some id)
    (hj : job? s id = some j) :
    ∃ t d, exec (.groupWatchdogExpire g) s = .next t ∧ Decided t id stTimeout d ∧ OtherJobs id s t ∧ Machine.grpOf t g.val = none ∧
      bitOf (rreg t rCeStain).toNat 3 = true ∧ OnlyParts [.groups, .joins, .jobs, .regs, .log] s t := by
  have hfreed := freeGrp_only s g.val
  have hstain : ∀ v, collStain v stTimeout = setStain v rCeStain 3 := fun v => rfl
  have hjobs := hfreed.jobs
  generalize hd : entryModule ((x.partners.find? (fun m => !x.joined.contains m)).getD 0) = d
  have hx : exec (.groupWatchdogExpire g) s = .next (setStain (finish (freeGrp s g.val) id (stTimeout, d)) rCeStain 3) := by
    show execGroupWatchdogExpire g s = _
    rw [execGroupWatchdogExpire, hg]
    simp only [hw, hjoining, Bool.not_true, Bool.false_eq_true, if_false, hd, failCreate, hstain]
  have hstained := setStain_only (finish (freeGrp s g.val) id (stTimeout, d)) rCeStain 3
  refine ⟨_, d, hx, ?_, ?_, ?_, bitOf_setStain _ _ _ (by decide), ?_⟩
  · obtain ⟨k, hk, hdec⟩ := decided_finish ((job?_congr hjobs id).trans hj) (stTimeout, d)
    exact ⟨k, (job?_congr hstained.jobs id).trans hk, hdec⟩
  · exact ((OtherJobs.of_jobs hjobs).trans (otherJobs_finish _)).trans (.of_jobs hstained.jobs)
  · rw [hstained.grpOf, (finish_only _ _ _).grpOf, grpOf_freeGrp hg, if_pos rfl]
  · exact .after hstained (.after (finish_only _ _ _) hfreed.sub)

variable {y : Grp}

/-- GROUP_DESTROY without a running operation (R210). -/
theorem groupDestroy_frees (ho : opJob s n 0x0801 = some j) (he : destroyErr s j = none)
    (hn : grpNamed s (part s j) (j.fld 16 2) = some (g, y)) (hg : Machine.grpOf s g = some y) (hr : y.run = none) :
    ∃ t, exec (.groupDestroy n) s = .next t ∧ Decided t n stDone 0 ∧ OtherJobs n s t ∧ Machine.grpOf t g = none ∧
      (∀ k, k ≠ g → Machine.grpOf t k = Machine.grpOf s k) ∧ OnlyParts [.groups, .joins, .jobs] s t := by
  obtain ⟨hj, _, _⟩ := opJob_some.mp ho
  have hfreed := destroyGrp_only s g
  have hx : exec (.groupDestroy n) s = .next (finish (destroyGrp s g) n (stDone, 0)) := by
    show runOp s n 0x0801 _ = _
    rw [runOp_ready ho]
    simp only [he, hn, hr, Option.isNone_none, if_true]
  have hslots : ∀ k, Machine.grpOf (finish (destroyGrp s g) n (stDone, 0)) k = if k = g then none else Machine.grpOf s k := fun k => by
    rw [(finish_only _ _ _).grpOf, grpOf_destroyGrp hg]
  refine ⟨_, hx, decided_finish ((job?_congr hfreed.jobs n).trans hj) _, ?_, (hslots g).trans (if_pos rfl),
    fun k hk => (hslots k).trans (if_neg hk), .after (finish_only _ _ _) hfreed.sub⟩
  exact (OtherJobs.of_jobs hfreed.jobs).trans (otherJobs_finish _)

/-- GROUP_DESTROY of a group with a running operation (R210). -/
theorem groupDestroy_waits (ho : opJob s n 0x0801 = some j) (he : destroyErr s j = none)
    (hn : grpNamed s (part s j) (j.fld 16 2) = some (g, y)) (hr : y.run.isSome = true) :
    ∃ t, exec (.groupDestroy n) s = .next t ∧ Runs t n ∧ OtherJobs n s t ∧ Machine.grpOf t g = some { y with leaving := some n } ∧
      OnlyParts [.groups, .jobs] s t := by
  obtain ⟨hj, _, _⟩ := opJob_some.mp ho
  have hset := setGrp_only s g (some { y with leaving := some n })
  have hx : exec (.groupDestroy n) s = .next (keepRunning (setGrp s g (some { y with leaving := some n })) n) := by
    show runOp s n 0x0801 _ = _
    rw [runOp_ready ho]
    simp only [he, hn, Option.isNone_eq_false_iff.mpr hr, Bool.false_eq_true, if_false]
  refine ⟨_, hx, runs_keepRunning ((job?_congr hset.jobs n).trans hj), (OtherJobs.of_jobs hset.jobs).trans otherJobs_keepRunning, ?_,
    .after (keepRunning_only _ _) hset.sub⟩
  rw [(keepRunning_only _ _).grpOf, grpOf_setGrp_same]

end

/-- Settles O35: the row of each command on a group, by what it makes of the group's slot. That a join frame of an unknown
group is kept is the model's choice (notes/assumptions/139.md). -/
theorem groupsFormAndEnd : Obligations.GroupsFormAndEnd := by
  unfold Obligations.GroupsFormAndEnd
  exact ⟨fun n s j g ho he ha hbad hfree halone => groupCreate_alone ho he ha hbad hfree halone,
    fun n s j g ho he ha hbad hfree hpartners hreach hno => groupCreate_waits ho he ha hbad hfree hpartners hreach hno,
    fun pt fr gid epoch q hash s ha hready hg hgone => joinFrame_kept ha hready hg hgone,
    fun pt fr gid epoch q hash s g id x j ha hready hlt hg hgid hepoch hjoining hj hpartners hhash =>
      joinFrame_completes ha hready hlt hg hgid hepoch hjoining hj hpartners hhash,
    fun g s x id j hg hw hjoining hj => groupWatchdogExpire_fails hg hw hjoining hj,
    fun n s j g y ho he hn hg hr => groupDestroy_frees ho he hn hg hr,
    fun n s j g y ho he hn hr => groupDestroy_waits ho he hn hr⟩

end Sys2Proof.Machine

namespace Sys2Proof.Machine

-- As above: proofs are elaborated one after another.
set_option Elab.async false

/-! ## O36: collectives complete -/

section
variable {s t u : State} {g n op : Nat} {x : Grp} {r : CollRun} {j : Job} {srcs : List Contribution}

/-! ### The end of a group's operation -/

theorem grpWhere_some {f : Grp → Bool} (h : grpWhere s f = some (g, x)) : f x = true := by
  obtain ⟨e, _, he⟩ := List.exists_of_findSome?_eq_some h
  obtain ⟨y, _, hy⟩ := Option.bind_eq_some_iff.mp he
  split at hy
  · next hf =>
    cases hy
    exact hf
  · cases hy

/-- The operation whose descriptor was looked for. -/
theorem job_of_grpWhere (h : grpWhere s (fun x => x.run.any (fun r => r.job == n)) = some (g, x)) (hr : x.run = some r) : r.job = n := by
  have hany := grpWhere_some h
  simpa [hr] using hany

/-- Slot x once its running operation r has ended. -/
def Grp.ended (x : Grp) (r : CollRun) : Grp := { x with run := none, firsts := x.firsts.filter (fun f => f.2.1 != r.index) }

/-- What the end of an operation that is no Spin leaves. -/
structure RunEnded (g : Nat) (r : CollRun) (e : Ending) (s t : State) : Prop where
  decided : Decided t r.job e.1 e.2
  jobs : OtherJobs r.job s t
  slot : ∃ y, grpOf t g = some y ∧ y.run = none
  frame : OnlyParts [.groups, .jobs, .counts] s t

theorem endRun_ended (hg : grpOf s g = some x) (hr : x.run = some r) (hspin : r.spin = none) (hj : job? s r.job = some j) (e : Ending) :
    RunEnded g r e s (endRun s g e) := by
  have hend : endRun s g e = count (finish (setGrp s g (some (x.ended r))) r.job e) 1482 1 := by
    simp only [endRun, hg, hr, hspin]
    rfl
  have hset := setGrp_only s g (some (x.ended r))
  have hcount := count_only (finish (setGrp s g (some (x.ended r))) r.job e) 1482 1
  rw [hend]
  refine ⟨?_, ?_, ⟨x.ended r, ?_, rfl⟩, .after hcount (.after (finish_only _ _ _) hset.sub)⟩
  · obtain ⟨k, hk, hdec⟩ := decided_finish ((job?_congr hset.jobs _).trans hj) e
    exact ⟨k, (job?_congr hcount.jobs _).trans hk, hdec⟩
  · exact (OtherJobs.of_jobs hset.jobs).trans ((otherJobs_finish e).trans (.of_jobs hcount.jobs))
  · exact (hcount.grpOf g).trans (((finish_only _ _ _).grpOf g).trans (grpOf_setGrp_same _ _ _))

/-! ### Collectives with data -/

/-- The frames that the member sends for a collective (R228). -/
def movesSent (s : State) (x : Grp) (c : Coll) (cs : List Contribution) : State :=
  (collMoves x c cs).foldl (fun u e => sendTo u x 2 e.1 e.2) s

theorem movesSent_only (s : State) (x : Grp) (c : Coll) (cs : List Contribution) :
    OnlyParts [.out, .counts, .ports] s (movesSent s x c cs) := .foldl (fun _ _ => sendTo_only _ _ _ _ _) _ _

/-- What the result of a collective is written with, noted and signalled (R212, R227, R246). -/
def resultOut (s0 : State) (x : Grp) (r : CollRun) (c : Coll) (cs : List Contribution) : State :=
  let s := movesSent s0 x c cs
  let o := collOut c cs x.index
  let t1 := if r.len != 0 then writeAt s x.p c.dst o.bytes (fun i => o.soil.getD i false) else s
  let t2 := addCnt (stainIf (cs.any (dirtySource c)) (stainIf (r.len != 0 && o.sat) t1 rCeStain 0) rCeStain 1) rCeSpecial o.special
  if c.signal && r.len != 0 then addPeg t2 x.p c.peg (BitVec.ofNat 64 (cdiv r.len (2 ^ r.chunk) - r.signalled)) else t2

theorem deliver_eq (s : State) (g : Nat) (x : Grp) (r : CollRun) (c : Coll) (cs : List Contribution) :
    ∃ dirty detail, deliver s g x r c cs = endRun (resultOut s x r c cs) g (doneOf dirty detail) := ⟨_, _, rfl⟩

/-- The bytes of a result stand at its destination once its frames are sent; what follows them reaches no byte. -/
theorem resultOut_eq (s : State) (x : Grp) (r : CollRun) (c : Coll) (cs : List Contribution) :
    ∃ v, OnlyParts [.out, .counts, .ports] s v ∧ OnlyParts [.counts, .regs, .log, .pegs]
      (if r.len != 0 then writeAt v x.p c.dst (collOut c cs x.index).bytes (fun i => (collOut c cs x.index).soil.getD i false) else v)
      (resultOut s x r c cs) := by
  refine ⟨_, movesSent_only s x c cs, ?_⟩
  have hnoted : ∀ (b b' : Bool) v k, OnlyParts [.counts, .regs, .log, .pegs] v
      (addCnt (stainIf b (stainIf b' v rCeStain 0) rCeStain 1) rCeSpecial k) := fun b b' v k =>
    .after (addCnt_only _ _ _) (.after (stainIf_only _ _ _ _) (stainIf_only _ _ _ _).sub)
  exact .ite (.after (addPeg_only _ _ _ _) (hnoted _ _ _ _)) (hnoted _ _ _ _)

theorem resultOut_only (s : State) (x : Grp) (r : CollRun) (c : Coll) (cs : List Contribution) :
    OnlyParts [.out, .counts, .ports, .mem, .soil, .nans, .regs, .log, .pegs] s (resultOut s x r c cs) := by
  obtain ⟨v, hv, hout⟩ := resultOut_eq s x r c cs
  exact .after hout (.ite (.after (writeAt_only _ _ _ _ _) hv.sub) hv.sub)

theorem bytes_resultOut (c : Coll) (cs : List Contribution) (hlen : r.len ≠ 0) :
    bytesAt (resultOut s x r c cs) x.p c.dst (collOut c cs x.index).bytes.length = (collOut c cs x.index).bytes := by
  obtain ⟨v, hv, hout⟩ := resultOut_eq s x r c cs
  rw [if_pos (bne_iff_ne.mpr hlen)] at hout
  rw [bytesAt_congr (hout .mem (by decide))]
  exact bytesAt_writeAt _ _ _ _ _

theorem bytesOutside_resultOut (s : State) (x : Grp) (r : CollRun) (c : Coll) (cs : List Contribution) :
    BytesOutside (if r.len = 0 then [] else [wr x.p c.dst (collOut c cs x.index).bytes.length]) s (resultOut s x r c cs) := by
  obtain ⟨v, hv, hout⟩ := resultOut_eq s x r c cs
  refine (hv.bytesOutside _).trans (.trans ?_ (hout.bytesOutside _))
  by_cases hlen : r.len = 0
  · simp only [hlen, bne_self_eq_false, Bool.false_eq_true, if_false]
    exact (OnlyParts.refl [] v).bytesOutside _
  · rw [if_pos (bne_iff_ne.mpr hlen), if_neg hlen]
    exact bytesOutside_writeAt _ _ _ _ _

@[simp] theorem op_collOf (j : Job) (P : Nat) : (collOf j P).op = j.opcode := by
  unfold collOf
  dsimp only
  split
  · rfl
  · split <;> rfl

/-- The row of a collective whose operation runs goes on with it. -/
theorem runColl_running (hj : job? s n = some j) (hop : j.opcode = op) (hrun : j.phase = .running) (srcs : List Contribution) :
    runColl s n op srcs = .next (goColl s j srcs) := by
  simp [runColl, hj, hop, hrun]

/-- The rows of the collectives with data. -/
theorem exec_collective {c : List Contribution → Instr} (hc : (op, c) ∈ [(0x0803, Instr.allReduce n), (0x0804, Instr.reduce n),
      (0x0805, Instr.reduceScatter n), (0x0806, Instr.allGather n), (0x0807, Instr.broadcast n), (0x0808, Instr.seqReduce n)])
    (s : State) (srcs : List Contribution) : exec (c srcs) s = runColl s n op srcs ∧ op ≠ 0x0809 := by
  simp only [List.mem_cons, List.not_mem_nil, or_false] at hc
  obtain ⟨rfl, rfl⟩ | ⟨rfl, rfl⟩ | ⟨rfl, rfl⟩ | ⟨rfl, rfl⟩ | ⟨rfl, rfl⟩ | ⟨rfl, rfl⟩ := hc <;> exact ⟨rfl, by decide⟩

/-- A running collective with every member's contribution delivers its result (R209, R223, R227). -/
theorem goColl_delivers (hid : j.id = n) (hw : grpWhere s (fun x => x.run.any (fun r => r.job == n)) = some (g, x)) (hr : x.run = some r)
    (hop : j.opcode ≠ 0x0809) (hsus : suspended s x.p = false)
    (hall : allGiven (collOf j x.members.length) x.members.length (srcs.set x.index r.mine) = true)
    (ha : CanAccess s n (if r.len = 0 then [] else [wr x.p (collOf j x.members.length).dst (collOf j x.members.length).db])) :
    ∃ u, Accessed s u ∧ goColl s j srcs = deliver u g x r (collOf j x.members.length) (srcs.set x.index r.mine) := by
  obtain ⟨u, hu, hgo⟩ := withMemOr_of_canAccess ha
  subst hid
  refine ⟨u, hu, ?_⟩
  simp only [goColl, hw, hr, op_collOf, if_neg hop, hsus, hall, Bool.not_true, Bool.or_false, Bool.false_eq_true, if_false]
  exact hgo _ _

theorem completes_doneOf {dirty : Bool} {detail : Nat} (h : Decided t n (doneOf dirty detail).1 (doneOf dirty detail).2) : Completes t n := by
  cases dirty
  · exact ⟨detail, .inl h⟩
  · exact ⟨detail, .inr h⟩

/-- A running collective completes once every member's contribution is there (R209, R223, R226, R227, R246). -/
theorem collective_completes {c : List Contribution → Instr} (hc : (op, c) ∈ [(0x0803, Instr.allReduce n), (0x0804, Instr.reduce n),
      (0x0805, Instr.reduceScatter n), (0x0806, Instr.allGather n), (0x0807, Instr.broadcast n), (0x0808, Instr.seqReduce n)])
    (hj : job? s n = some j) (hop : j.opcode = op) (hphase : j.phase = .running)
    (hw : grpWhere s (fun x => x.run.any (fun r => r.job == n)) = some (g, x)) (hg : grpOf s g = some x) (hr : x.run = some r)
    (hspin : r.spin = none) (hdst : r.dst = (collOf j x.members.length).dst) (hsus : suspended s x.p = false)
    (hall : allGiven (collOf j x.members.length) x.members.length (srcs.set x.index r.mine) = true)
    (ha : CanAccess s n (if r.len = 0 then [] else [wr x.p r.dst (collOf j x.members.length).db])) :
    ∃ t y, exec (c srcs) s = .next t ∧ Completes t n ∧ OtherJobs n s t ∧ grpOf t g = some y ∧ y.run = none ∧
      (r.len ≠ 0 → bytesAt t x.p r.dst (collOut (collOf j x.members.length) (srcs.set x.index r.mine) x.index).bytes.length =
        (collOut (collOf j x.members.length) (srcs.set x.index r.mine) x.index).bytes) ∧
      BytesOutside (if r.len = 0 then [] else
        [wr x.p r.dst (collOut (collOf j x.members.length) (srcs.set x.index r.mine) x.index).bytes.length]) s t ∧
      OnlyParts (tierParts.append [.groups, .pegs, .out, .ports]) s t := by
  obtain ⟨hexec, hne⟩ := exec_collective hc s srcs
  rw [hdst] at ha ⊢
  obtain ⟨u, hu, hgo⟩ := goColl_delivers (job?_id_eq hj) hw hr (hop ▸ hne) hsus hall ha
  obtain ⟨dirty, detail, hdeliver⟩ := deliver_eq u g x r (collOf j x.members.length) (srcs.set x.index r.mine)
  have hout := resultOut_only u x r (collOf j x.members.length) (srcs.set x.index r.mine)
  have hjob := job_of_grpWhere hw hr
  subst hjob
  have hend := endRun_ended ((hout.grpOf g).trans ((hu.frame.grpOf g).trans hg)) hr hspin
    ((job?_congr hout.jobs _).trans ((job?_congr hu.jobs _).trans hj)) (doneOf dirty detail)
  obtain ⟨y, hy, hnone⟩ := hend.slot
  refine ⟨_, y, hexec.trans ((runColl_running hj hop hphase srcs).trans (congrArg _ (hgo.trans hdeliver))), completes_doneOf hend.decided, ?_,
    hy, hnone, fun hlen => ?_, ?_, ?_⟩
  · exact (OtherJobs.of_jobs hu.jobs).trans ((OtherJobs.of_jobs hout.jobs).trans hend.jobs)
  · rw [bytesAt_congr (hend.frame .mem (by decide))]
    exact bytes_resultOut _ _ hlen
  · exact (hu.frame.bytesOutside _).trans ((bytesOutside_resultOut _ _ _ _ _).trans (hend.frame.bytesOutside _))
  · exact .after hend.frame (.after hout hu.frame.sub)

/-! ### BARRIER -/

/-- Where the frames of every round have come, the rounds go on to their end (R223). -/
theorem barrierGo_stage {fuel : Nat} {rs : List (Nat × List Nat × List Nat)} (hrs : patternRounds x.members.length x.index = rs)
    (hall : rs.all (fun e => e.2.2.all (fun i => r.rounds.contains (i, e.1))) = true) (hstage : r.stage ≤ rs.length)
    (hfuel : rs.length < r.stage + fuel) : (barrierGo x fuel s r).2 = { r with stage := rs.length + 1 } := by
  induction fuel generalizing s r with
  | zero => omega
  | succ fuel ih =>
    have hgo : ∀ came : Bool, (r.stage ≠ 0 → came = true) → ¬ (r.stage ≠ 0 ∧ (!came) = true) := by
      rintro came hcame ⟨hne, hstop⟩
      simp [hcame hne] at hstop
    rw [barrierGo, hrs]
    refine (congrArg Prod.snd (if_neg (hgo _ fun hne => ?_))).trans ?_
    · have hlt : r.stage - 1 < rs.length := by omega
      have hround := List.all_eq_true.mp hall _ (List.getElem_mem hlt)
      simp only [List.getElem?_eq_getElem hlt, hround]
    · split
      · rfl
      · next e he =>
        obtain ⟨hlt, _⟩ := List.getElem?_eq_some_iff.mp he
        exact ih (r := { r with stage := r.stage + 1 }) hall hlt (by dsimp only; omega)

/-- Slot x with its BARRIER come to the last round. -/
def Grp.atLast (x : Grp) (r q : CollRun) (now : DWord) : Grp := { x with run := some q, watch := if q = r then x.watch else now }

/-- A running BARRIER ends once the frames of every round have come (R223). -/
theorem barrier_completes (hj : job? s n = some j) (hop : j.opcode = 0x0809) (hphase : j.phase = .running)
    (hw : grpWhere s (fun x => x.run.any (fun r => r.job == n)) = some (g, x)) (hg : grpOf s g = some x) (hr : x.run = some r)
    (hspin : r.spin = none) (hsus : suspended s x.p = false) (hstage : r.stage ≤ (patternRounds x.members.length x.index).length)
    (hall : (patternRounds x.members.length x.index).all (fun e => e.2.2.all (fun i => r.rounds.contains (i, e.1))) = true) :
    ∃ t y, exec (.barrier n) s = .next t ∧ Decided t n stDone 8 ∧ OtherJobs n s t ∧ grpOf t g = some y ∧ y.run = none ∧
      OnlyParts [.groups, .jobs, .counts, .out, .ports] s t := by
  have hjob := job_of_grpWhere hw hr
  subst hjob
  have hlast := barrierGo_stage (s := s) (fuel := (patternRounds x.members.length x.index).length + 1) rfl hall hstage (by omega)
  have hsent := barrierGo_only x ((patternRounds x.members.length x.index).length + 1) s r
  generalize hq : barrierGo x ((patternRounds x.members.length x.index).length + 1) s r = q at hlast hsent
  have hid : q.2.job = r.job := by rw [hlast]
  have hset := setGrp_only q.1 g (some (x.atLast r q.2 s.now))
  have hgo : goColl s j [] = endRun (setGrp q.1 g (some (x.atLast r q.2 s.now))) g (stDone, 8) := by
    have hstop : q.2.stage = (patternRounds x.members.length x.index).length + 1 := by rw [hlast]
    rw [← job?_id_eq hj] at hw
    simp only [goColl, hw, hr, op_collOf, hop, if_true, pumpBarrier, hg, hsus, Bool.false_eq_true, if_false, hq, hstop]
    rfl
  have hend := endRun_ended (x := x.atLast r q.2 s.now) (r := q.2) (j := j) (grpOf_setGrp_same q.1 g _) rfl (by rw [hlast]; exact hspin)
    ((job?_congr (hset.jobs.trans hsent.jobs) _).trans ((congrArg _ hid).trans hj)) (stDone, 8)
  obtain ⟨y, hy, hnone⟩ := hend.slot
  refine ⟨_, y, (runColl_running hj hop hphase []).trans (congrArg _ hgo), hid ▸ hend.decided, ?_, hy, hnone,
    .after hend.frame (.after hset hsent.sub)⟩
  exact (OtherJobs.of_jobs hsent.jobs).trans ((OtherJobs.of_jobs hset.jobs).trans (hid ▸ hend.jobs))

end

/-- Settles O36: a collective with data by its result's write and its operation's end, BARRIER by its rounds. That the
other members' contributions come whole with the row is the model's choice (notes/assumptions/51.md). -/
theorem collectivesComplete : Obligations.CollectivesComplete := by
  unfold Obligations.CollectivesComplete
  exact ⟨fun n op c srcs s j g x r hc hj hop hphase hw hg hr hspin hdst _ hsus hall ha =>
      collective_completes hc hj hop hphase hw hg hr hspin hdst hsus hall ha,
    fun n s j g x r hj hop hphase hw hg hr hspin hsus hstage hall => barrier_completes hj hop hphase hw hg hr hspin hsus hstage hall⟩

end Sys2Proof.Machine

namespace Sys2Proof.Machine

-- As above: proofs are elaborated one after another.
set_option Elab.async false

/-! ## O37: collectives begin -/

section
variable {s t u : State} {g n op : Nat} {x y : Grp} {r : CollRun} {j : Job} {f : Grp → Bool}

/-! ### Slots that are looked for -/

theorem mem_tset {α : Type} [DecidableEq α] {d : Nat → α} {l : Tab α} {k : Nat} {v : α} {e : Nat × α} (h : e ∈ tset d l k v) :
    e = (k, v) ∨ e ∈ l := by
  unfold tset at h
  split at h
  · exact .inr (mem_tdel.mp h).1
  · exact (mem_tput h).imp_right fun he => (mem_tdel.mp he).1

theorem grpWhere_eq_none : grpWhere s f = none ↔ ∀ e ∈ s.ce.groups, ∀ x, e.2 = some x → f x = false := by
  simp only [grpWhere, List.findSome?_eq_none_iff, Option.bind_eq_none_iff]
  refine forall₂_congr fun e _ => forall₂_congr fun x _ => ?_
  cases f x <;> simp

theorem grpWhere_mem (h : grpWhere s f = some (g, x)) : (g, some x) ∈ s.ce.groups := by
  obtain ⟨e, he, hx⟩ := List.exists_of_findSome?_eq_some h
  obtain ⟨y, hy, hgy⟩ := Option.bind_eq_some_iff.mp hx
  split at hgy
  · cases hgy
    rw [← hy]
    exact he
  · cases hgy

theorem mem_groups_setGrp {v : Option Grp} {e : Nat × Option Grp} (h : e ∈ (setGrp s g v).ce.groups) : e = (g, v) ∨ e ∈ s.ce.groups := by
  have hset : (setGrp s g v).ce.groups = tset (fun _ => none) s.ce.groups g v := rfl
  rw [hset] at h
  exact mem_tset h

/-! ### An operation begins in its group -/

/-- Slot g once its next operation r has begun in it (R209). -/
def begun (s : State) (x : Grp) (r : CollRun) : Grp := { x with next := x.next + 1, run := some r, watch := s.now }

/-- Descriptor r.job runs as the next operation of slot g, and its first frames are sent (R229). -/
def firstsSent (s : State) (g : Nat) (x : Grp) (r : CollRun) : State :=
  (partnerIdx x.members.length x.index).foldl (fun u i =>
    sendCe u (if r.spin.isSome then 1 else 2) 2 (x.module i) x.key (.first (x.head i) r.index r.sig))
    (keepRunning (setGrp s g (some (begun s x r))) r.job)

theorem firstsSent_sent (s : State) (g : Nat) (x : Grp) (r : CollRun) :
    OnlyParts [.out, .counts, .ports] (keepRunning (setGrp s g (some (begun s x r))) r.job) (firstsSent s g x r) :=
  .foldl (fun _ _ => sendCe_only _ _ _ _ _ _) _ _

theorem firstsSent_only (s : State) (g : Nat) (x : Grp) (r : CollRun) :
    OnlyParts [.jobs, .groups, .out, .counts, .ports] s (firstsSent s g x r) :=
  .after (firstsSent_sent s g x r) (.after (keepRunning_only _ _) (setGrp_only _ _ _).sub)

theorem grpOf_firstsSent (s : State) (g : Nat) (x : Grp) (r : CollRun) (k : Nat) :
    grpOf (firstsSent s g x r) k = if k = g then some (begun s x r) else grpOf s k :=
  ((firstsSent_sent s g x r).grpOf k).trans (((keepRunning_only _ _).grpOf k).trans (grpOf_setGrp s g k _))

theorem groups_firstsSent (s : State) (g : Nat) (x : Grp) (r : CollRun) :
    (firstsSent s g x r).ce.groups = (setGrp s g (some (begun s x r))).ce.groups := by
  obtain ⟨hgroups, _⟩ := firstsSent_sent s g x r .groups (by decide)
  exact hgroups

theorem jobs_firstsSent (s : State) (g : Nat) (x : Grp) (r : CollRun) :
    (firstsSent s g x r).hp.jobs = (keepRunning s r.job).hp.jobs := (firstsSent_sent s g x r).jobs

/-- A check of the routes of a running operation whose partners can all be reached changes nothing (R234). -/
theorem checkRoutes_reached (hg : grpOf s g = some x) (hreach : ∀ m ∈ x.partners, reachable s (entryModule m) = true) : checkRoutes s g = s := by
  have hall : x.partners.find? (fun m => !reachable s (entryModule m)) = none := by
    simpa only [List.find?_eq_none, Bool.not_eq_true', Bool.not_eq_false] using hreach
  simp only [checkRoutes, hg, hall, ite_self]

/-- An operation whose partners can be reached and have sent no first frame of it runs (R209, R229, R230). -/
theorem startRun_eq (hfirsts : x.firsts = []) (hheard : r.heard = []) (hreach : ∀ m ∈ x.partners, reachable s (entryModule m) = true) :
    startRun s g x r = setGrp (firstsSent s g x r) g (some (begun s x r)) := by
  have hslot : grpOf (firstsSent s g x r) g = some (begun s x r) := (grpOf_firstsSent s g x r g).trans (if_pos rfl)
  have hkept : { begun s x r with firsts := [], run := some { r with heard := [] } } = begun s x r := by
    rw [begun, ← hfirsts, ← hheard]
  have hnet : SameNet s (setGrp (firstsSent s g x r) g (some (begun s x r))) :=
    .of_only (.after (setGrp_only _ _ _) (firstsSent_only s g x r) : OnlyParts [.jobs, .groups, .out, .counts, .ports] s _)
  have hcheck : checkRun (firstsSent s g x r) g = checkRoutes (setGrp (firstsSent s g x r) g (some (begun s x r))) g := by
    have hnone : (begun s x r).firsts = [] := hfirsts
    have hrun : (begun s x r).run = some r := rfl
    simp only [checkRun, hslot, hrun, hnone, hheard, List.filter_nil, List.find?_nil, List.map_nil, List.append_nil, hkept]
  exact hcheck.trans (checkRoutes_reached (grpOf_setGrp_same _ _ _) fun m hm => (hnet.reachable _).trans (hreach m hm))

/-- What stands of s where an operation has begun to run in slot g. -/
structure Started (g : Nat) (z : Grp) (n : Nat) (s t : State) : Prop where
  runs : Runs t n
  jobs : OtherJobs n s t
  slot : grpOf t g = some z
  frame : OnlyParts [.jobs, .groups, .out, .counts, .ports] s t

theorem startRun_started (hfirsts : x.firsts = []) (hheard : r.heard = []) (hreach : ∀ m ∈ x.partners, reachable s (entryModule m) = true)
    (hj : job? s r.job = some j) : Started g (begun s x r) r.job s (startRun s g x r) := by
  have hjobs : (setGrp (firstsSent s g x r) g (some (begun s x r))).hp.jobs = (keepRunning s r.job).hp.jobs :=
    (setGrp_only _ _ _).jobs.trans (jobs_firstsSent s g x r)
  rw [startRun_eq hfirsts hheard hreach]
  refine ⟨?_, ?_, grpOf_setGrp_same _ _ _, .after (setGrp_only _ _ _) (firstsSent_only s g x r)⟩
  · obtain ⟨k, hk, hrun⟩ := runs_keepRunning hj
    exact ⟨k, (job?_congr hjobs _).trans hk, hrun⟩
  · exact (otherJobs_keepRunning (s := s)).trans (.of_jobs hjobs)

/-- No operation but the one that has begun runs for its descriptor. -/
theorem grpWhere_startRun {k : Nat} {z : Grp} (hfirsts : x.firsts = []) (hheard : r.heard = [])
    (hreach : ∀ m ∈ x.partners, reachable s (entryModule m) = true) (hno : grpWhere s f = none)
    (h : grpWhere (startRun s g x r) f = some (k, z)) : z = begun s x r := by
  rw [startRun_eq hfirsts hheard hreach] at h
  have hin : (k, some z) = (g, some (begun s x r)) ∨ (k, some z) ∈ s.ce.groups := by
    obtain he | he := mem_groups_setGrp (grpWhere_mem h)
    · exact .inl he
    · rw [groups_firstsSent] at he
      exact mem_groups_setGrp he
  obtain he | he := hin
  · cases he
    rfl
  · have hfalse := grpWhere_eq_none.mp hno _ he z rfl
    rw [grpWhere_some h] at hfalse
    cases hfalse

/-! ### A collective begins -/

/-- The operation that collective j begins in group y, its source read in t. -/
def collRun (t : State) (j : Job) (y : Grp) (c : Coll) (p : Nat) : CollRun :=
  ⟨j.id, y.next, signature y c.op c.rop c.root c.typ c.df c.count, [], ownSource t p c.src (c.srcBytes y.index), c.dst, c.dstBytes y.index,
    c.chunk, [], 0, 0, [], none⟩

/-- A running collective of more than one member waits while none has supplied anything. -/
theorem goColl_waits (hop : j.opcode ≠ 0x0809)
    (hw : ∀ k z, grpWhere s (fun x => x.run.any (fun r => r.job == j.id)) = some (k, z) → 2 ≤ z.members.length) : goColl s j [] = s := by
  unfold goColl
  split
  · rfl
  · next g x hx =>
    split
    · rfl
    · next r _ =>
      have hlen := hw g x hx
      have hgiven : allGiven (collOf j x.members.length) x.members.length ([].set x.index r.mine) = false := by
        rw [allGiven, List.set_nil, List.length_nil, beq_eq_false_iff_ne.mpr (by omega), Bool.false_and]
      simp only [op_collOf, if_neg hop, hgiven, Bool.not_false, Bool.or_true, if_true]

/-- The rows of the collectives with data, before any member has supplied anything. -/
theorem exec_collective_nil {c : Instr} (hc : (op, c) ∈ [(0x0803, Instr.allReduce n []), (0x0804, Instr.reduce n []),
      (0x0805, Instr.reduceScatter n []), (0x0806, Instr.allGather n []), (0x0807, Instr.broadcast n []), (0x0808, Instr.seqReduce n [])])
    (s : State) : exec c s = runColl s n op [] ∧ op ≠ 0x0809 := by
  simp only [List.mem_cons, List.not_mem_nil, or_false] at hc
  obtain ⟨rfl, rfl⟩ | ⟨rfl, rfl⟩ | ⟨rfl, rfl⟩ | ⟨rfl, rfl⟩ | ⟨rfl, rfl⟩ | ⟨rfl, rfl⟩ := hc <;> exact ⟨rfl, by decide⟩

/-- The spans that collective c of the member of index i reads and writes as it begins. -/
def collSpans (p : Nat) (c : Coll) (i : Nat) : List Span :=
  (if c.srcBytes i = 0 then [] else [rd p c.src (c.srcBytes i)]) ++ (if c.dstBytes i = 0 then [] else [wr p c.dst (c.dstBytes i)])

/-- A collective whose checks pass and whose turn it is begins once its spans are accessed (R209, R240). -/
theorem beginColl_eq (hn : grpNamed s (part s j) (j.fld 38 2) = some (g, y)) (he : collErr s j (some (g, y)) = none)
    (hturn : awaitsTurn s j (j.fld 38 2) y = false) (hbroken : y.broken = none) :
    beginColl s j [] = withMem s j.id (collSpans (part s j) (collOf j y.members.length) y.index) (fun t =>
      goColl (startRun (ranOn t j.id 0x81 0 ((collOf j y.members.length).srcBytes y.index + (collOf j y.members.length).dstBytes y.index)) g y
        (collRun t j y (collOf j y.members.length) (part s j))) j []) := by
  simp only [beginColl, hn, he, hturn, hbroken, Bool.false_eq_true, if_false]
  rfl

/-- A collective whose checks pass takes its group's next index and runs (R209, R229). -/
theorem collective_begins {c : Instr} (hc : (op, c) ∈ [(0x0803, Instr.allReduce n []), (0x0804, Instr.reduce n []),
      (0x0805, Instr.reduceScatter n []), (0x0806, Instr.allGather n []), (0x0807, Instr.broadcast n []), (0x0808, Instr.seqReduce n [])])
    (hj : job? s n = some j) (hop : j.opcode = op) (hphase : j.phase = .checked)
    (hn : grpNamed s (part s j) (j.fld 38 2) = some (g, y)) (he : collErr s j (some (g, y)) = none)
    (hturn : awaitsTurn s j (j.fld 38 2) y = false) (hbroken : y.broken = none) (hfirsts : y.firsts = []) (hmany : 2 ≤ y.members.length)
    (hno : grpWhere s (fun x => x.run.any (fun r => r.job == n)) = none) (hreach : ∀ m ∈ y.partners, reachable s (entryModule m) = true)
    (ha : CanAccess s n (collSpans (part s j) (collOf j y.members.length) y.index)) :
    ∃ t z r, exec c s = .next t ∧ Runs t n ∧ OtherJobs n s t ∧ grpOf t g = some z ∧ z.next = y.next + 1 ∧ z.run = some r ∧ r.job = n ∧
      r.index = y.next ∧ BytesOutside [] s t ∧ OnlyParts (tierParts.append [.groups, .out, .ports]) s t := by
  obtain ⟨hexec, hne⟩ := exec_collective_nil hc s
  obtain rfl := job?_id_eq hj
  obtain ⟨u, hu, hgo⟩ := withMem_of_canAccess ha
  generalize hmoved : (collOf j y.members.length).srcBytes y.index + (collOf j y.members.length).dstBytes y.index = moved
  have hran := ranOn_only u j.id 0x81 0 moved
  have hroutes : ∀ m ∈ y.partners, reachable (ranOn u j.id 0x81 0 moved) (entryModule m) = true := fun m hm =>
    ((SameNet.of_only hran).reachable _).trans ((hu.sameNet.reachable _).trans (hreach m hm))
  have hstart := startRun_started (s := ranOn u j.id 0x81 0 moved) (g := g) (r := collRun u j y (collOf j y.members.length) (part s j)) hfirsts rfl
    hroutes (job?_ranOn hj hu.jobs)
  have hnone : grpWhere (ranOn u j.id 0x81 0 moved) (fun x => x.run.any (fun r => r.job == j.id)) = none := by
    obtain ⟨hgroups, _⟩ := hu.frame .groups (by decide)
    rw [grpWhere] at hno ⊢
    rw [← hgroups] at hno
    exact hno
  have hwaits := goColl_waits (j := j) (s := startRun (ranOn u j.id 0x81 0 moved) g y (collRun u j y (collOf j y.members.length) (part s j)))
    (hop ▸ hne) fun k z hz => by
      rw [grpWhere_startRun hfirsts rfl hroutes hnone hz]
      exact hmany
  refine ⟨_, _, _, ?_, hstart.runs, (otherJobs_ran hu.jobs).trans hstart.jobs, hstart.slot, rfl, rfl, rfl, rfl, ?_, ?_⟩
  · rw [hexec, runColl, hj]
    simp only [hop, hphase, ne_eq, not_true_eq_false, if_false, if_true]
    rw [beginColl_eq hn he hturn hbroken, hgo, hmoved, hwaits]
  · exact (hu.frame.bytesOutside []).trans ((hran.bytesOutside []).trans (hstart.frame.bytesOutside []))
  · exact .after hstart.frame (.after hran hu.frame.sub)

/-! ### First frames -/

section
variable {pt : Fin 16} {fr : Frame} {h : CeHead} {index : Nat} {sig : Word}

/-- A first frame for the module's group lands, its window open (R211). -/
theorem firstFrame_lands (ha : ArrivesCe s pt.val fr h g x) (hbroken : x.broken = none)
    (hopen : (decide (index < x.next) && !x.run.any (fun r => r.index == index)) = false) :
    ∃ v, Moved s v ∧ exec (.collFirstFrame pt fr h index sig) s = .next (firstFrame v g x h.sender index sig) := by
  have hslot := ceSlot_of_arrivesCe ha
  have hcode : firstCode s { fr with typ := 2 } h index = none := by
    simp only [firstCode, hslot, hbroken, hopen, Option.isSome_none, Bool.or_false, Bool.false_eq_true, if_false]
    exact ceCode_of_arrivesCe ha
  obtain ⟨harrives, _⟩ := ha
  obtain ⟨v, hmoved, hland⟩ := arriveCe_lands (fr := { fr with typ := 2 }) (b := .first h index sig) harrives
    (by simp [staysHeld, ceEarly]) (frameWaits_ceEarly (by simp))
  refine ⟨v, hmoved, congrArg _ (hland.trans ?_)⟩
  simp only [landCe, hmoved.firstCode, hcode, hmoved.ceSlot, hslot]

/-- A first frame of the running operation whose signature agrees marks its sender as heard (R229, R230). -/
theorem collFirstFrame_heard (ha : ArrivesCe s pt.val fr h g x) (hbroken : x.broken = none) (hr : x.run = some r) (hindex : r.index = index)
    (hsig : r.sig = sig) :
    ∃ t z y, exec (.collFirstFrame pt fr h index sig) s = .next t ∧ grpOf t g = some z ∧ z.run = some y ∧ h.sender ∈ y.heard ∧
      y.job = r.job ∧ z.watch = s.now ∧ OnlyParts [.groups, .ports, .counts] s t := by
  obtain ⟨v, hv, hx⟩ := firstFrame_lands (sig := sig) (index := index) ha hbroken (by simp [hr, hindex])
  have hnow : v.now = s.now := hv.now
  simp only [firstFrame, hr, hindex, hsig, ne_eq, not_true_eq_false, if_true, if_false] at hx
  refine ⟨_, _, _, hx, grpOf_setGrp_same _ _ _, rfl, ?_, rfl, hnow, .after (setGrp_only _ _ _) hv.only.sub⟩
  dsimp only
  split
  · next hin => exact List.contains_iff_mem.mp hin
  · exact List.mem_append_right _ (List.mem_singleton_self _)

/-- A first frame of an operation to come is kept (R230). -/
theorem collFirstFrame_kept (ha : ArrivesCe s pt.val fr h g x) (hbroken : x.broken = none) (hr : x.run = none) (hnext : x.next ≤ index) :
    ∃ t, exec (.collFirstFrame pt fr h index sig) s = .next t ∧
      grpOf t g = some { x with firsts := x.firsts ++ [(h.sender, index, sig)] } ∧ OnlyParts [.groups, .ports, .counts] s t := by
  obtain ⟨v, hv, hx⟩ := firstFrame_lands (sig := sig) (index := index) ha hbroken (by simp [Nat.not_lt.mpr hnext])
  simp only [firstFrame, hr] at hx
  exact ⟨_, hx, by rw [grpOf_setGrp_same, hr], .after (setGrp_only _ _ _) hv.only.sub⟩

end

/-! ### Lag windows -/

/-- The end of a lag window latches the partner of the largest total (R231). -/
theorem lagWindowEnd_latches {w m v : Nat} (hready : ready s = true) (hw : s.ce.window ≤ w) (hend : (w + 1) * lagSpan s ≤ s.now.toNat)
    (hlag : laggard s w = some (m, v)) :
    ∃ t, exec (.lagWindowEnd w) s = .next t ∧ rreg t rLaggard = BitVec.ofNat 32 (2 ^ 31 + m) ∧ cnt t rLaggardWait = BitVec.ofNat 64 v ∧
      t.ce.window = w + 1 ∧ OtherRegs [rLaggard] s t ∧ OnlyParts [.regs, .counts, .groups] s t := by
  have hcleared := lagSet_only s (s.ce.lag.filter (fun e => decide (w < e.1))) (w + 1)
  have hx : exec (.lagWindowEnd w) s = .next (wcnt (wreg { s with ce := { s.ce with
      lag := s.ce.lag.filter (fun e => decide (w < e.1)), window := w + 1 } } rLaggard (BitVec.ofNat 32 (2 ^ 31 + m))) rLaggardWait
      (BitVec.ofNat 64 v)) := by
    show execLagWindowEnd w s = _
    simp only [execLagWindowEnd, hlag]
    exact runIf_of_true (by simp only [hready, hw, hend, decide_true, Bool.and_self])
  refine ⟨_, hx, rreg_wreg_same _ _ _, tget_tset_same, rfl, ?_, .after (wcnt_only _ _ _) (.after (wreg_only _ _ _) hcleared.sub)⟩
  exact (OtherRegs.of_only hcleared _).trans ((otherRegs_wreg _ _ _).trans (.of_only (wcnt_only _ _ _) _))

end

/-- Settles O37: a collective by the start of its run in its group, first frames by what they leave in the slot, and the lag window. That it
waits for contributions that come with the row is the model's choice (notes/assumptions/51.md). -/
theorem collectivesBegin : Obligations.CollectivesBegin := by
  unfold Obligations.CollectivesBegin
  exact ⟨fun n op c s j g y hc hj hop hphase hn _ _ he hturn hbroken hfirsts hmany hno hreach ha =>
      collective_begins hc hj hop hphase hn he hturn hbroken hfirsts hmany hno hreach ha,
    fun pt fr h index sig s g x r ha hbroken hr hindex hsig => collFirstFrame_heard ha hbroken hr hindex hsig,
    fun pt fr h index sig s g x ha hbroken hr hnext => collFirstFrame_kept ha hbroken hr hnext,
    fun s w m v hready hw hend hlag => lagWindowEnd_latches hready hw hend hlag⟩

end Sys2Proof.Machine

namespace Sys2Proof.Machine

-- As above: proofs are elaborated one after another.
set_option Elab.async false

/-! ## O38: Spins begin, chunks land, slots are granted -/

section
variable {s t u : State} {g n : Nat} {x : Grp} {r : CollRun} {y : SpinRun} {j : Job} {o : Obj} {rg : Region} {ps : List Part}

/-! ### A Spin that goes on -/

theorem spinAt_eq_some : spinAt s g = some (x, r, y) ↔ grpOf s g = some x ∧ x.run = some r ∧ r.spin = some y := by
  simp only [spinAt, Option.bind_eq_some_iff, Option.map_eq_some_iff]
  constructor
  · rintro ⟨x', hg, r', hr, y', hy, heq⟩
    cases heq
    exact ⟨hg, hr, hy⟩
  · rintro ⟨hg, hr, hy⟩
    exact ⟨x, hg, r, hr, y, hy, rfl⟩

theorem OnlyParts.spinAt (h : OnlyParts ps s t) (g : Nat) (hp : Part.groups ∉ ps := by decide) : Machine.spinAt t g = Machine.spinAt s g := by
  rw [Machine.spinAt, h.grpOf g hp, Machine.spinAt]

theorem spinAt_setSpin (s : State) (g : Nat) (x : Grp) (r : CollRun) (y : SpinRun) : Machine.spinAt (setSpin s g x r y) g =
    some ({ x with watch := s.now, run := some { r with spin := some y } }, { r with spin := some y }, y) :=
  spinAt_eq_some.mpr ⟨grpOf_setGrp_same _ _ _, rfl, rfl⟩

/-- Of the Spin of slot g, only what has been sent differs between s and t. -/
def Pumped (g : Nat) (s t : State) : Prop := ∀ x r y, Machine.spinAt s g = some (x, r, y) → ∃ z sent,
  Machine.spinAt t g = some (z, { r with spin := some { y with sent := sent } }, { y with sent := sent }) ∧ z.next = x.next

namespace Pumped

theorem of_same (h : Machine.spinAt t g = Machine.spinAt s g) : Pumped g s t := fun x r y hs => by
  obtain ⟨_, _, hy⟩ := spinAt_eq_some.mp hs
  have hr : { r with spin := some y } = r := by rw [← hy]
  exact ⟨x, y.sent, by rw [h, hs, hr], rfl⟩

theorem refl (g : Nat) (s : State) : Pumped g s s := of_same rfl

theorem trans (h : Pumped g s t) (k : Pumped g t u) : Pumped g s u := fun x r y hs => by
  obtain ⟨z, sent, ht, hz⟩ := h x r y hs
  obtain ⟨z', sent', hu, hz'⟩ := k z _ _ ht
  exact ⟨z', sent', hu, hz'.trans hz⟩

theorem foldl {α : Type} {f : State → α → State} (h : ∀ t a, Pumped g t (f t a)) (l : List α) (s : State) : Pumped g s (l.foldl f s) :=
  List.foldlRecOn l f (.refl g s) (fun t ht a _ => ht.trans (h t a))

end Pumped

theorem pumped_pumpOne (s : State) (g d : Nat) : Pumped g s (pumpOne s g d) := by
  unfold pumpOne
  split
  · exact .refl _ _
  · next x r y hs =>
    split
    · exact .refl _ _
    · intro x' r' y' hs'
      obtain ⟨rfl, rfl, rfl⟩ : x = x' ∧ r = r' ∧ y = y' := by simpa using hs.symm.trans hs'
      exact ⟨_, _, ((sendChunk_only _ _ _ _ _ _ _).spinAt g).trans (spinAt_setSpin s g x r _), rfl⟩

/-- A Spin that sends what it may only notes what it has sent (R218). -/
theorem pumped_pumpSpin (s : State) (g : Nat) : Pumped g s (pumpSpin s g) := by
  unfold pumpSpin
  split
  · exact .refl _ _
  · split
    · exact .refl _ _
    · exact .foldl (fun _ _ => .foldl (fun _ _ => pumped_pumpOne _ _ _) _ _) _ _

/-! ### SPIN -/

/-- The Spin that descriptor j begins, of region rg into object o. -/
def spinBegun (s : State) (j : Job) (x : Grp) (o : Obj) (rg : Region) : SpinRun :=
  let p := part s j
  let w := spinWindow j o rg x
  let peg (b : Nat) : Nat := j.fld b 2 % 2 ^ 12
  let arr := [peg 32, peg 34]
  let rel := [peg 38, peg 40]
  let cs := (List.range w.chunks).map (fun i => regionChunk s rg w.layer w.c i)
  { p := p, win := w, own := cs, arrPeg := arr, relPeg := rel, envPeg := peg 36, arr0 := arr.map (pegOf s p), rel0 := rel.map (pegOf s p)
    got := [[], []], signalled := [0, 0], granted := [0, 0], allowed := [2, 2], sent := [0, 0], envs := [x.index]
    soiled := (regionEnv s rg w.layer (2 * w.nh)).soil.any id || cs.any (fun c => c.soil.any id)
    pages := (pagesIn s p (w.span j.loopback / 4096 + 2) w.base (w.base + w.span j.loopback)).map (fun e => e.2.1) }

/-- Its operation in the group. -/
def spinRun (s : State) (j : Job) (x : Grp) (o : Obj) (rg : Region) : CollRun :=
  ⟨j.id, x.next, signature x 0x0802 0 0 (spinWindow j o rg x).kTag 0 (spinWindow j o rg x).nh, [], ⟨[], []⟩, 0, 0, 16, [], 0, 0, [],
    some (spinBegun s j x o rg)⟩

/-- The window of the Spin holds its header, the member's own envelopes and, with LOOPBACK, its own shard (R215, R219, R221). -/
def spinWindowed (s : State) (j : Job) (x : Grp) (o : Obj) (rg : Region) : State :=
  let y := spinBegun s j x o rg
  let s1 := putSource (writeAt s y.p y.win.base (windowHead y.win rg.geom) noSoil) y.p (y.win.envAt x.index 0 0)
    (regionEnv s rg y.win.layer (2 * y.win.nh))
  if j.loopback then loopback s1 y.p y.win x.index y.own else s1

/-- The pages of the window are held and the envelope peg counts the member's own envelopes (R219). -/
def spinHeld (s : State) (j : Job) (x : Grp) (o : Obj) (rg : Region) : State :=
  let y := spinBegun s j x o rg
  addPeg (y.pages.foldl (fun t b => addHold t y.p b) (stainIf y.soiled (spinWindowed s j x o rg) rCeStain 1)) y.p y.envPeg 1

/-- The state in which the Spin's operation starts. -/
def spinReady (s : State) (j : Job) (x : Grp) (o : Obj) (rg : Region) : State :=
  let y := spinBegun s j x o rg
  ranOn (spinHeld s j x o rg) j.id 0x81 0
    ((regionEnv s rg y.win.layer (2 * y.win.nh)).data.length + (y.own.map (fun c => c.data.length)).sum)

/-- The member's own envelopes leave in both directions (R219). -/
def envsSent (s t : State) (j : Job) (x : Grp) (o : Obj) (rg : Region) : State :=
  let w := spinWindow j o rg x
  ([0, 1] : List Nat).foldl (fun u d => if spinSteps x.members.length d = 0 then u else
    sendChunk u x d true 1 0 (regionEnv s rg w.layer (2 * w.nh))) t

/-- A Spin that has started sends its envelopes, then the chunks that it may. -/
theorem beginSpin_eq {e : Grp × CollRun × SpinRun}
    (hspin : Machine.spinAt (startRun (spinReady s j x o rg) g x (spinRun s j x o rg)) g = some e) :
    beginSpin s j g x o rg = pumpSpin (envsSent s (startRun (spinReady s j x o rg) g x (spinRun s j x o rg)) j x o rg) g := by
  unfold beginSpin
  dsimp only
  split
  · next hnone =>
    have hstart := hnone.symm.trans hspin
    cases hstart
  · rfl

theorem spinWindowed_only (s : State) (j : Job) (x : Grp) (o : Obj) (rg : Region) :
    OnlyParts [.mem, .soil, .nans] s (spinWindowed s j x o rg) :=
  have hput := (writeAt_only s _ _ _ _).trans (putSource_only _ _ _ _)
  .ite (hput.trans (loopback_only _ _ _ _ _)) hput

theorem holds_only (s : State) (p : Nat) (l : List Nat) : OnlyParts [.holds] s (l.foldl (fun t b => addHold t p b) s) :=
  .foldl (fun _ _ => addHold_only _ _ _) _ _

theorem spinHeld_only (s : State) (j : Job) (x : Grp) (o : Obj) (rg : Region) :
    OnlyParts [.mem, .soil, .nans, .regs, .log, .holds, .pegs] s (spinHeld s j x o rg) :=
  .after (addPeg_only _ _ _ _) (.after (holds_only _ _ _) (.after (stainIf_only _ _ _ _) (spinWindowed_only s j x o rg).sub))

theorem spinReady_only (s : State) (j : Job) (x : Grp) (o : Obj) (rg : Region) :
    OnlyParts [.mem, .soil, .nans, .regs, .log, .holds, .pegs, .jobs] s (spinReady s j x o rg) :=
  .after (ranOn_only _ _ _ _ _) (spinHeld_only s j x o rg).sub

theorem otherRegs_spinReady (s : State) (j : Job) (x : Grp) (o : Obj) (rg : Region) : OtherRegs [rCeStain] s (spinReady s j x o rg) :=
  have hstain : OtherRegs [rCeStain] (spinWindowed s j x o rg) (stainIf (spinBegun s j x o rg).soiled (spinWindowed s j x o rg) rCeStain 1) :=
    .ite (otherRegs_setStain _ _ _) (.refl _ _)
  have hrest : OnlyParts [.holds, .pegs, .jobs] (stainIf (spinBegun s j x o rg).soiled (spinWindowed s j x o rg) rCeStain 1)
      (spinReady s j x o rg) := .after (ranOn_only _ _ _ _ _) (.after (addPeg_only _ _ _ _) (holds_only _ _ _).sub)
  (OtherRegs.of_only (spinWindowed_only s j x o rg) _).trans (hstain.trans (.of_only hrest _))

/-- The beginning of a Spin changes no register of a port. -/
theorem sameNet_spinReady (s : State) (j : Job) (x : Grp) (o : Obj) (rg : Region) : SameNet s (spinReady s j x o rg) :=
  .of_regs (otherRegs_spinReady s j x o rg) (spinReady_only s j x o rg) (fun k hk => by
    obtain rfl := List.mem_singleton.mp hk
    exact ⟨by decide, fun pt hpt => by simp only [rCeStain, rPort] at hpt; omega⟩)

theorem pegOf_addPeg (s : State) (p i : Nat) (v : DWord) : pegOf (addPeg s p i v) p i = pegOf s p i + v := pegOf_setPeg_same _ _ _ _

theorem pegOf_spinReady (s : State) (j : Job) (x : Grp) (o : Obj) (rg : Region) :
    pegOf (spinReady s j x o rg) (part s j) (j.fld 36 2 % 2 ^ 12) = pegOf s (part s j) (j.fld 36 2 % 2 ^ 12) + 1 := by
  have hbefore : OnlyParts [.mem, .soil, .nans, .regs, .log, .holds] s ((spinBegun s j x o rg).pages.foldl
      (fun t b => addHold t (spinBegun s j x o rg).p b) (stainIf (spinBegun s j x o rg).soiled (spinWindowed s j x o rg) rCeStain 1)) :=
    .after (holds_only _ _ _) (.after (stainIf_only _ _ _ _) (spinWindowed_only s j x o rg).sub)
  have hlast : OnlyParts [.jobs] (spinHeld s j x o rg) (spinReady s j x o rg) := ranOn_only _ _ _ _ _
  rw [pegOf_congr (hlast .pegs (by decide)), ← pegOf_congr (hbefore .pegs (by decide))]
  exact pegOf_addPeg _ _ _ _

theorem envsSent_only (s t : State) (j : Job) (x : Grp) (o : Obj) (rg : Region) : OnlyParts [.out, .counts, .ports] t (envsSent s t j x o rg) :=
  .foldl (fun _ _ => .ite (.refl _ _) (sendChunk_only _ _ _ _ _ _ _)) _ _

/-- SPIN whose checks pass, in its turn, begins once its spans are accessed (R217). -/
theorem spin_begins_eq (ho : opJob s n 0x0802 = some j) (he : spinErr s j = none) (hobj : objNamed s (part s j) j.obj n = some o)
    (hrg : spinRegion s j = some rg) (hn : grpNamed s (part s j) (j.fld 28 2) = some (g, x)) (hturn : awaitsTurn s j (j.fld 28 2) x = false)
    (hbroken : x.broken = none) : exec (.spin n) s = .next (withMem s n (spinSpans s j o rg x) (fun t => beginSpin t j g x o rg)) := by
  show runOp s n 0x0802 _ = _
  rw [runOp_ready ho]
  simp only [he, hobj, hrg, hn, hturn, hbroken, Bool.false_eq_true, if_false]

/-- SPIN whose checks pass runs over its window and adds 1 to its envelope peg (R215, R217, R219). -/
theorem spin_begins (ho : opJob s n 0x0802 = some j) (he : spinErr s j = none) (hobj : objNamed s (part s j) j.obj n = some o)
    (hrg : spinRegion s j = some rg) (hn : grpNamed s (part s j) (j.fld 28 2) = some (g, x)) (hturn : awaitsTurn s j (j.fld 28 2) x = false)
    (hbroken : x.broken = none) (hfirsts : x.firsts = []) (hreach : ∀ m ∈ x.partners, reachable s (entryModule m) = true)
    (ha : CanAccess s n (spinSpans s j o rg x)) :
    ∃ t z c y, exec (.spin n) s = .next t ∧ Runs t n ∧ OtherJobs n s t ∧ grpOf t g = some z ∧ z.next = x.next + 1 ∧ z.run = some c ∧
      c.job = n ∧ c.spin = some y ∧ y.win = spinWindow j o rg x ∧
      pegOf t (part s j) (j.fld 36 2 % 2 ^ 12) = pegOf s (part s j) (j.fld 36 2 % 2 ^ 12) + 1 ∧
      OnlyParts (tierParts.append [.groups, .out, .ports, .pegs, .holds]) s t := by
  obtain ⟨hj, _, _⟩ := opJob_some.mp ho
  obtain rfl := job?_id_eq hj
  obtain ⟨u, hu, hgo⟩ := withMem_of_canAccess ha
  have hready := spinReady_only u j x o rg
  have hreadyJob : job? (spinReady u j x o rg) j.id = some { j with engine := 0x81, steps := 0, moved := _ } :=
    job?_ranOn hj ((spinHeld_only u j x o rg).jobs.trans hu.jobs)
  have hreadyJobs : OtherJobs j.id s (spinReady u j x o rg) := otherJobs_ran ((spinHeld_only u j x o rg).jobs.trans hu.jobs)
  have hstart := startRun_started (s := spinReady u j x o rg) (g := g) (r := spinRun u j x o rg) hfirsts rfl
    (fun m hm => ((sameNet_spinReady u j x o rg).reachable _).trans ((hu.sameNet.reachable _).trans (hreach m hm))) hreadyJob
  have hspin : Machine.spinAt (startRun (spinReady u j x o rg) g x (spinRun u j x o rg)) g =
      some (begun (spinReady u j x o rg) x (spinRun u j x o rg), spinRun u j x o rg, spinBegun u j x o rg) :=
    spinAt_eq_some.mpr ⟨hstart.slot, rfl, rfl⟩
  have hsent := envsSent_only u (startRun (spinReady u j x o rg) g x (spinRun u j x o rg)) j x o rg
  have hpump := pumpSpin_only (envsSent u (startRun (spinReady u j x o rg) g x (spinRun u j x o rg)) j x o rg) g
  have hafter : OnlyParts [.out, .counts, .ports, .groups] (startRun (spinReady u j x o rg) g x (spinRun u j x o rg))
      (pumpSpin (envsSent u (startRun (spinReady u j x o rg) g x (spinRun u j x o rg)) j x o rg) g) := .trans hsent.sub hpump
  obtain ⟨z, sent, hz, hnext⟩ := (Pumped.of_same (hsent.spinAt g)).trans (pumped_pumpSpin _ g) _ _ _ hspin
  obtain ⟨hzg, hzr, _⟩ := spinAt_eq_some.mp hz
  refine ⟨_, z, _, _, (spin_begins_eq ho he hobj hrg hn hturn hbroken).trans (congrArg _ ((hgo _).trans (beginSpin_eq hspin))), ?_, ?_, hzg,
    hnext, hzr, rfl, rfl, rfl, ?_, ?_⟩
  · obtain ⟨k, hk, hrun⟩ := hstart.runs
    exact ⟨k, (job?_congr hafter.jobs _).trans hk, hrun⟩
  · exact hreadyJobs.trans (hstart.jobs.trans (.of_jobs hafter.jobs))
  · have hpegs := pegOf_spinReady u j x o rg
    rw [hu.part, pegOf_congr (s := s) (hu.frame .pegs (by decide))] at hpegs
    rw [pegOf_congr (hafter .pegs (by decide)), pegOf_congr (hstart.frame .pegs (by decide)), hpegs]
  · exact .after hafter (.after hstart.frame (.after hready hu.frame.sub))

/-! ### Chunks -/

section
variable {pt : Fin 16} {fr : Frame} {h : CeHead} {ch : Chunk}

theorem chunkCode_of_collTakes (ha : ArrivesCe s pt.val fr h g x) (hr : x.run = some r) (hspin : r.spin = none)
    (ht : collTakes x r h.sender ch = true) : chunkCode s fr h ch = none := by
  simp only [chunkCode, ceCode_of_arrivesCe ha, ceSlot_of_arrivesCe ha, hr, hspin, ht, if_true]

theorem chunkCode_of_spinTakes (ha : ArrivesCe s pt.val fr h g x) (hr : x.run = some r) (hspin : r.spin = some y)
    (ht : spinTakes x y h.sender ch = true) : chunkCode s fr h ch = none := by
  simp only [chunkCode, ceCode_of_arrivesCe ha, ceSlot_of_arrivesCe ha, hr, hspin, ht, if_true]

/-- A chunk whose bytes can be accessed waits for no page. -/
theorem frameWaits_chunk (ha : ArrivesCe s pt.val fr h g x) (hr : x.run = some r) (hcode : chunkCode s fr h ch = none)
    (hacc : CanAccess s r.job [chunkSpan x r ch]) : frameWaits s pt.val (ceEarly pt.val fr (.chunk h ch)) = none := by
  obtain ⟨new, hnew⟩ := hacc
  have hspans : frameSpans s pt.val (ceEarly pt.val fr (.chunk h ch)) = (r.job, [chunkSpan x r ch]) := by
    have hslot := ceSlot_of_arrivesCe ha
    obtain ⟨⟨_, _, _, _, _, _, hdest⟩, _⟩ := ha
    simp [frameSpans, ceEarly, hdest, hcode, hslot, hr]
  simp only [frameWaits, hspans, hnew]

/-- A chunk that is not refused lands once its bytes are accessed (R211, R212). -/
theorem chunk_lands (ha : ArrivesCe s pt.val fr h g x) (hr : x.run = some r) (hcode : chunkCode s fr h ch = none)
    (hacc : CanAccess s r.job [chunkSpan x r ch]) :
    ∃ u, OnlyParts (accessParts ++ [.ports]) s u ∧ exec (.chunkArrival ⟨pt, fr, h, ch⟩) s = .next (landChunk u g x r h.sender ch) := by
  have hslot := ceSlot_of_arrivesCe ha
  have hwait := frameWaits_chunk (fr := { fr with typ := 2 }) ha hr hcode hacc
  have hcode' : chunkCode s { fr with typ := 2 } h ch = none := hcode
  obtain ⟨harrives, _, _, _, _, _, _, _, hrun⟩ := ha
  obtain ⟨v, hmoved, hland⟩ := arriveCe_lands (fr := { fr with typ := 2 }) (b := .chunk h ch) harrives
    (staysHeld_ceEarly hslot hrun (.inl ⟨ch, rfl⟩)) hwait
  obtain ⟨u, hu, hgo⟩ := withMemOr_of_canAccess (hmoved.canAccess hacc)
  refine ⟨u, .after hu.frame hmoved.only.sub, congrArg _ (hland.trans ?_)⟩
  simp only [landCe, hmoved.chunkCode, hcode', hmoved.ceSlot, hslot, hr]
  exact hgo _ _

theorem landed_only (s : State) (ch : Chunk) : OnlyParts [.regs, .log] s (stainIf (ch.soil.any id) s rCeStain 1) := stainIf_only _ _ _ _

/-- What a chunk stores stands in t, where nothing but the store reaches bytes. -/
theorem chunk_stored {v : State} {qs : List Part} {p a : Nat} (hv : OnlyParts ps u v)
    (ht : OnlyParts qs (putSource v p a ⟨ch.data, ch.soil⟩) t) (hp : Part.mem ∉ ps ∧ Part.mem ∉ qs := by decide) :
    bytesAt t p a ch.data.length = ch.data ∧ BytesOutside [wr p a ch.data.length] u t := by
  constructor
  · rw [bytesAt_congr (ht .mem hp.2)]
    exact bytesAt_writeAt _ _ _ _ _
  · exact (hv.bytesOutside _ hp.1).trans ((bytesOutside_writeAt _ _ _ _ _).trans (ht.bytesOutside _ hp.2))

/-- A chunk of a collective's destination stored at its place, and signalled with what goes before it (R212). -/
def resultTaken (s : State) (x : Grp) (r : CollRun) (ch : Chunk) (new peg : Nat) : State :=
  let t := putSource s x.p (r.dst + ch.index * 2 ^ r.chunk) ⟨ch.data, ch.soil⟩
  if new ≤ r.signalled then t else addPeg t x.p peg (BitVec.ofNat 64 (new - r.signalled))

theorem takeResult_eq (s : State) (g : Nat) (x : Grp) (r : CollRun) (ch : Chunk) : ∃ new peg, takeResult s g x r ch =
    setGrp (resultTaken s x r ch new peg) g (some { x with
      watch := s.now, run := some { r with chunks := r.chunks ++ [ch.index], signalled := new } }) :=
  ⟨_, _, rfl⟩

theorem resultTaken_from (s : State) (x : Grp) (r : CollRun) (ch : Chunk) (new peg : Nat) :
    OnlyParts [.pegs] (putSource s x.p (r.dst + ch.index * 2 ^ r.chunk) ⟨ch.data, ch.soil⟩) (resultTaken s x r ch new peg) :=
  .ite (.refl _ _) (addPeg_only _ _ _ _)

/-- A chunk of a collective's destination is stored at its place and noted (R212, R227). -/
theorem chunkArrival_result (ha : ArrivesCe s pt.val fr h g x) (hr : x.run = some r) (hspin : r.spin = none) (hdir : ch.dir.val = 2)
    (ht : collTakes x r h.sender ch = true) (hacc : CanAccess s r.job [chunkSpan x r ch]) :
    ∃ t z y, exec (.chunkArrival ⟨pt, fr, h, ch⟩) s = .next t ∧ bytesAt t x.p (r.dst + ch.index * 2 ^ r.chunk) ch.data.length = ch.data ∧
      BytesOutside [chunkSpan x r ch] s t ∧ grpOf t g = some z ∧ z.run = some y ∧ y.chunks = r.chunks ++ [ch.index] ∧
      OnlyParts (tierParts.append [.groups, .pegs, .ports]) s t := by
  obtain ⟨u, hu, hx⟩ := chunk_lands ha hr (chunkCode_of_collTakes ha hr hspin ht) hacc
  have hspan : chunkSpan x r ch = wr x.p (r.dst + ch.index * 2 ^ r.chunk) ch.data.length := by simp only [chunkSpan, hspin]
  have hstained := landed_only u ch
  generalize hv : stainIf (ch.soil.any id) u rCeStain 1 = v at hstained
  obtain ⟨new, peg, htake⟩ := takeResult_eq v g x r ch
  have hpegs := resultTaken_from v x r ch new peg
  have hland : landChunk u g x r h.sender ch = takeResult v g x r ch := by
    simp only [landChunk, hspin, hdir, hv, Nat.reduceEqDiff, if_false]
  have hset := setGrp_only (resultTaken v x r ch new peg) g
    (some { x with watch := v.now, run := some { r with chunks := r.chunks ++ [ch.index], signalled := new } })
  have hlast : OnlyParts [.pegs, .groups] _ _ := .after hset hpegs.sub
  obtain ⟨hbytes, hout⟩ := chunk_stored hstained hlast
  refine ⟨_, _, _, hx.trans (congrArg _ (hland.trans htake)), hbytes, ?_, grpOf_setGrp_same _ _ _, rfl, rfl, ?_⟩
  · rw [hspan]
    exact (hu.bytesOutside _).trans hout
  · exact .after hlast (.after (putSource_only _ _ _ _) (.after hstained hu.sub))

/-- The slot of a Spin that has been stored and goes on. -/
theorem spinAt_pumpSpin (h : Machine.spinAt s g = some (x, r, y)) :
    ∃ z c sent, Machine.spinAt (pumpSpin s g) g = some (z, c, { y with sent := sent }) := by
  obtain ⟨z, sent, hz, _⟩ := pumped_pumpSpin s g x r y h
  exact ⟨z, _, sent, hz⟩

/-- A shard's envelopes noted, and passed on where it goes further (R219). -/
def envNoted (s : State) (g : Nat) (x : Grp) (r : CollRun) (y : SpinRun) (ch : Chunk) : State :=
  let d := ch.dir.val
  let u := setSpin s g x r { y with envs := y.envs ++ [spinShard x.members.length x.index d ch.step], soiled := y.soiled || ch.soil.any id }
  if ch.step < spinSteps x.members.length d then sendChunk u x d true (ch.step + 1) 0 ⟨ch.data, ch.soil⟩ else u

theorem envNoted_only (s : State) (g : Nat) (x : Grp) (r : CollRun) (y : SpinRun) (ch : Chunk) :
    OnlyParts [.groups, .out, .counts, .ports] s (envNoted s g x r y ch) :=
  .ite (.after (sendChunk_only _ _ _ _ _ _ _) (setSpin_only _ _ _ _ _).sub) (setSpin_only _ _ _ _ _).sub

theorem spinAt_envNoted (s : State) (g : Nat) (x : Grp) (r : CollRun) (y : SpinRun) (ch : Chunk) :
    ∃ z c, Machine.spinAt (envNoted s g x r y ch) g = some (z, c, { y with
      envs := y.envs ++ [spinShard x.members.length x.index ch.dir.val ch.step], soiled := y.soiled || ch.soil.any id }) := by
  refine ⟨_, _, Eq.trans ?_ (spinAt_setSpin s g x r _)⟩
  unfold envNoted
  dsimp only
  split
  · exact (sendChunk_only _ _ _ _ _ _ _).spinAt g
  · rfl

/-- A shard's envelopes that a running Spin takes are stored, noted and counted (R219). -/
theorem chunkArrival_env (ha : ArrivesCe s pt.val fr h g x) (hr : x.run = some r) (hspin : r.spin = some y) (henv : ch.env = true)
    (ht : spinTakes x y h.sender ch = true) (hacc : CanAccess s r.job [chunkSpan x r ch]) :
    ∃ t z c w, exec (.chunkArrival ⟨pt, fr, h, ch⟩) s = .next t ∧ BytesOutside [chunkSpan x r ch] s t ∧
      bytesAt t (chunkSpan x r ch).place (chunkSpan x r ch).addr ch.data.length = ch.data ∧ grpOf t g = some z ∧ z.run = some c ∧
      c.spin = some w ∧ w.envs = y.envs ++ [spinShard x.members.length x.index ch.dir.val ch.step] ∧
      pegOf t y.p y.envPeg = pegOf s y.p y.envPeg + 1 ∧ OnlyParts (tierParts.append [.groups, .pegs, .out, .ports]) s t := by
  obtain ⟨u, hu, hx⟩ := chunk_lands ha hr (chunkCode_of_spinTakes ha hr hspin ht) hacc
  generalize haddr : y.win.envAt (spinShard x.members.length x.index ch.dir.val ch.step) 0 0 = a
  have hspan : chunkSpan x r ch = wr y.p a ch.data.length := by
    rw [← haddr]
    simp only [chunkSpan, hspin, henv, if_true]
  have hstained := landed_only u ch
  generalize hv : stainIf (ch.soil.any id) u rCeStain 1 = v at hstained
  have hput := putSource_only v y.p a ⟨ch.data, ch.soil⟩
  have hpeg := addPeg_only (putSource v y.p a ⟨ch.data, ch.soil⟩) y.p y.envPeg 1
  have hnoted := envNoted_only (addPeg (putSource v y.p a ⟨ch.data, ch.soil⟩) y.p y.envPeg 1) g x r y ch
  have hpump := pumpSpin_only (envNoted (addPeg (putSource v y.p a ⟨ch.data, ch.soil⟩) y.p y.envPeg 1) g x r y ch) g
  have hland : landChunk u g x r h.sender ch =
      pumpSpin (envNoted (addPeg (putSource v y.p a ⟨ch.data, ch.soil⟩) y.p y.envPeg 1) g x r y ch) g := by
    rw [← haddr]
    simp only [landChunk, hspin, henv, hv, if_true]
    rfl
  obtain ⟨_, _, hslot⟩ := spinAt_envNoted (addPeg (putSource v y.p a ⟨ch.data, ch.soil⟩) y.p y.envPeg 1) g x r y ch
  obtain ⟨z, c, sent, hz⟩ := spinAt_pumpSpin hslot
  obtain ⟨hzg, hzr, hzs⟩ := spinAt_eq_some.mp hz
  have hafter : OnlyParts [.groups, .out, .counts, .ports] (addPeg (putSource v y.p a ⟨ch.data, ch.soil⟩) y.p y.envPeg 1) _ :=
    hnoted.trans hpump.sub
  have hlast : OnlyParts [.groups, .out, .counts, .ports, .pegs] _ _ := .after hafter hpeg.sub
  obtain ⟨hbytes, hout⟩ := chunk_stored hstained hlast
  refine ⟨_, z, c, _, hx.trans (congrArg _ hland), ?_, ?_, hzg, hzr, hzs, rfl, ?_, ?_⟩
  · rw [hspan]
    exact (hu.bytesOutside _).trans hout
  · rw [hspan]
    exact hbytes
  · rw [pegOf_congr (hafter .pegs (by decide)), pegOf_addPeg, pegOf_congr (hput .pegs (by decide)), pegOf_congr (hstained .pegs (by decide)),
      pegOf_congr (hu .pegs (by decide))]
  · exact .after hlast (.after hput (.after hstained hu.sub))

/-- The state in which a Spin's chunk, stored and signalled, is noted (R212, R220). -/
def dataTaken (s : State) (x : Grp) (y : SpinRun) (ch : Chunk) : State :=
  let d := ch.dir.val
  let new := inOrder ((modAt y.got d (· ++ [(ch.step, ch.index)])).getD d []) y.win.chunks (spinSteps x.members.length d)
  let t := putSource s y.p (y.win.dataAt (spinSlot d ch.step) (ch.index * y.win.c) 0) ⟨ch.data, ch.soil⟩
  let t1 := ((List.range new).drop (y.signalled.getD d 0)).foldl (fun u q => putSlotHead u y.p y.win (spinSlot d (q / y.win.chunks + 1))
    (spinShard x.members.length x.index d (q / y.win.chunks + 1)) (q % y.win.chunks + 1)) t
  addPeg t1 y.p (y.arrPeg.getD d 0) (BitVec.ofNat 64 (new - y.signalled.getD d 0))

theorem dataTaken_only (s : State) (x : Grp) (y : SpinRun) (ch : Chunk) : OnlyParts [.mem, .soil, .nans, .pegs] s (dataTaken s x y ch) :=
  .after (addPeg_only _ _ _ _) (.after (.foldl (fun _ _ => putSlotHead_only _ _ _ _ _ _) _ _) (putSource_only _ _ _ _).sub)

theorem takeData_eq (s : State) (g : Nat) (x : Grp) (r : CollRun) (y : SpinRun) (ch : Chunk) : ∃ signalled soiled, takeData s g x r y ch =
    pumpSpin (setSpin (dataTaken s x y ch) g x r { y with
      got := modAt y.got ch.dir.val (· ++ [(ch.step, ch.index)]), signalled := signalled, soiled := soiled }) g := ⟨_, _, rfl⟩

/-- A chunk noted in its direction's list is found there. -/
theorem mem_modAt_append {α : Type} {l : List (List α)} {d : Nat} {a : α} (hd : d < l.length) : a ∈ (modAt l d (· ++ [a])).getD d [] := by
  simp [modAt, List.getD_eq_getElem?_getD, hd]

/-- A Spin's chunk is noted as arrived (R218, R220). -/
theorem chunkArrival_data (ha : ArrivesCe s pt.val fr h g x) (hr : x.run = some r) (hspin : r.spin = some y) (henv : ch.env = false)
    (ht : spinTakes x y h.sender ch = true) (hacc : CanAccess s r.job [chunkSpan x r ch]) (hdir : ch.dir.val < y.got.length) :
    ∃ t z c w, exec (.chunkArrival ⟨pt, fr, h, ch⟩) s = .next t ∧ grpOf t g = some z ∧ z.run = some c ∧ c.spin = some w ∧
      (ch.step, ch.index) ∈ w.got.getD ch.dir.val [] ∧ OnlyParts (tierParts.append [.groups, .pegs, .out, .ports]) s t := by
  obtain ⟨u, hu, hx⟩ := chunk_lands ha hr (chunkCode_of_spinTakes ha hr hspin ht) hacc
  have hstained := landed_only u ch
  generalize hv : stainIf (ch.soil.any id) u rCeStain 1 = v at hstained
  obtain ⟨signalled, soiled, htake⟩ := takeData_eq v g x r y ch
  have hland : landChunk u g x r h.sender ch = takeData v g x r y ch := by
    simp only [landChunk, hspin, henv, hv, Bool.false_eq_true, if_false]
  obtain ⟨z, c, sent, hz⟩ := spinAt_pumpSpin (spinAt_setSpin (dataTaken v x y ch) g x r { y with
    got := modAt y.got ch.dir.val (· ++ [(ch.step, ch.index)]), signalled := signalled, soiled := soiled })
  obtain ⟨hzg, hzr, hzs⟩ := spinAt_eq_some.mp hz
  refine ⟨_, z, c, _, hx.trans (congrArg _ (hland.trans htake)), hzg, hzr, hzs, mem_modAt_append hdir, ?_⟩
  exact .after (pumpSpin_only _ _) (.after (setSpin_only _ _ _ _ _) (.after (dataTaken_only _ _ _ _) (.after hstained hu.sub)))

/-! ### Grants -/

/-- The slot for a step given to the upstream neighbour, and noted (R220). -/
def grantGiven (s : State) (g : Nat) (x : Grp) (r : CollRun) (y : SpinRun) (d step : Nat) : State :=
  let i := upstream x.members.length x.index d
  sendCe (setSpin s g x r { y with granted := y.granted.set d (y.granted.getD d 0 + 1) }) 1 2 (x.module i) x.key
    (.grant (x.head i) (Fin.ofNat 2 d) step)

theorem grantGiven_only (s : State) (g : Nat) (x : Grp) (r : CollRun) (y : SpinRun) (d step : Nat) :
    OnlyParts [.groups, .out, .ports, .counts] s (grantGiven s g x r y d step) :=
  .after (sendCe_only _ _ _ _ _ _) (setSpin_only _ _ _ _ _).sub

theorem spinAt_grantGiven (s : State) (g : Nat) (x : Grp) (r : CollRun) (y : SpinRun) (d step : Nat) :
    Machine.spinAt (grantGiven s g x r y d step) g = Machine.spinAt (setSpin s g x r { y with
      granted := y.granted.set d (y.granted.getD d 0 + 1) }) g := (sendCe_only _ _ _ _ _ _).spinAt g

/-- A grant that is due is given and noted (R220). -/
theorem spinSlotGrant_given {g : Fin 64} {dir : Fin 2} (hs : Machine.spinAt s g.val = some (x, r, y))
    (hsteps : y.granted.getD dir.val 0 + 3 ≤ spinSteps x.members.length dir.val)
    (hfreed : (y.granted.getD dir.val 0 + 1) * y.win.chunks ≤ (pegOf s y.p (y.relPeg.getD dir.val 0) - y.rel0.getD dir.val 0).toNat)
    (hsent : (y.granted.getD dir.val 0 + 2) * y.win.chunks ≤ y.sent.getD dir.val 0)
    (hacked : unacked s x (fun ch => ch.dir.val == dir.val && !ch.env && ch.step == y.granted.getD dir.val 0 + 2) = false)
    (hrun : suspended s x.p = false) :
    ∃ t z c w, exec (.spinSlotGrant (.give g) dir (y.granted.getD dir.val 0 + 3)) s = .next t ∧ Machine.spinAt t g.val = some (z, c, w) ∧
      w.granted = y.granted.set dir.val (y.granted.getD dir.val 0 + 1) ∧ OnlyParts [.groups, .out, .ports, .counts] s t := by
  have hgive : giveGrant s g.val dir.val (y.granted.getD dir.val 0 + 3) =
      grantGiven s g.val x r y dir.val (y.granted.getD dir.val 0 + 3) := by
    unfold giveGrant
    rw [hs]
    refine if_pos ⟨rfl, hsteps, hfreed, ?_, by simp [hrun]⟩
    simp only [Bool.and_eq_true, decide_eq_true_eq, Bool.not_eq_true']
    exact ⟨hsent, hacked⟩
  exact ⟨_, _, _, _, congrArg Host.Outcome.next hgive, (spinAt_grantGiven _ _ _ _ _ _ _).trans (spinAt_setSpin _ _ _ _ _), rfl,
    grantGiven_only _ _ _ _ _ _ _⟩

/-- A grant that arrives allows one step more (R220). -/
theorem spinSlotGrant_taken {dir : Fin 2} (ha : ArrivesCe s pt.val fr h g x) (hr : x.run = some r) (hspin : r.spin = some y)
    (hfrom : h.sender = downstream x.members.length x.index dir.val) :
    ∃ t z c w, exec (.spinSlotGrant (.take pt fr h) dir (y.allowed.getD dir.val 0 + 1)) s = .next t ∧ Machine.spinAt t g = some (z, c, w) ∧
      w.allowed = modAt y.allowed dir.val (· + 1) ∧ OnlyParts [.groups, .out, .ports, .counts] s t := by
  have hslot := ceSlot_of_arrivesCe ha
  have hs : Machine.spinAt s g = some (x, r, y) := spinAt_eq_some.mpr ⟨grpOf_of_arrivesCe ha, hr, hspin⟩
  have hcode : grantCode s fr h dir.val (y.allowed.getD dir.val 0 + 1) = none := by
    simp only [grantCode, ceCode_of_arrivesCe ha, hslot, hs, hfrom, beq_self_eq_true, Bool.and_self, if_true]
  have hcode' : grantCode s { fr with typ := 2 } h dir.val (y.allowed.getD dir.val 0 + 1) = none := hcode
  obtain ⟨harrives, _, _, _, _, _, _, _, hrun⟩ := ha
  obtain ⟨v, hmoved, hland⟩ := arriveCe_lands (fr := { fr with typ := 2 }) (b := .grant h dir (y.allowed.getD dir.val 0 + 1)) harrives
    (staysHeld_ceEarly hslot hrun (.inr ⟨_, _, rfl⟩)) (frameWaits_ceEarly (by simp))
  have hgrant : landCe v pt.val { fr with typ := 2 } (.grant h dir (y.allowed.getD dir.val 0 + 1)) =
      pumpSpin (setSpin v g x r { y with allowed := modAt y.allowed dir.val (· + 1) }) g := by
    simp only [landCe, hmoved.grantCode, hcode', hmoved.ceSlot, hslot, landGrant, hmoved.spinAt, hs]
  obtain ⟨z, c, sent, hz⟩ := spinAt_pumpSpin (spinAt_setSpin v g x r { y with allowed := modAt y.allowed dir.val (· + 1) })
  exact ⟨_, z, c, _, congrArg Host.Outcome.next (hland.trans hgrant), hz, rfl,
    .after (pumpSpin_only _ _) (.after (setSpin_only _ _ _ _ _) hmoved.only.sub)⟩

end

end

/-- Settles O38: SPIN by the start of its run over its window, chunks by what they store and note, grants from both ends. That
a sent step counts as acknowledged by its first hop's link is the model's choice (notes/assumptions/38.md). -/
theorem spinsAndChunks : Obligations.SpinsAndChunks := by
  unfold Obligations.SpinsAndChunks
  exact ⟨fun n s j o r g x ho he hobj hrg hn _ _ hturn hbroken hfirsts hreach ha =>
      spin_begins ho he hobj hrg hn hturn hbroken hfirsts hreach ha,
    fun pt fr h ch s g x r ha hr hspin hdir ht hacc => chunkArrival_result ha hr hspin hdir ht hacc,
    fun pt fr h ch s g x r y ha hr hspin henv ht hacc => chunkArrival_env ha hr hspin henv ht hacc,
    fun pt fr h ch s g x r y ha hr hspin henv ht hacc hdir => chunkArrival_data ha hr hspin henv ht hacc hdir,
    fun g dir s x r y hs hsteps hfreed hsent hacked hrun => spinSlotGrant_given hs hsteps hfreed hsent hacked hrun,
    fun pt fr h dir s g x r y ha hr hspin hfrom => spinSlotGrant_taken ha hr hspin hfrom⟩

end Sys2Proof.Machine
